-- ==== Sys2Proof/Word.lean ====
section
/-! DEFINITION. The word types of the machine. -/

namespace Sys2Proof

/-- A general register (R52). -/
abbrev Word := BitVec 64

/-- A byte of memory (R5). -/
abbrev Byte := BitVec 8

/-- The number of one of x0 to x31 in an operand field (R43). -/
abbrev Reg := BitVec 5

end Sys2Proof
end

