-- ==== Sys2Proof/Syntax.lean ====
section
/-! DEFINITION. The syntax of the machine: operand types, the header of an instruction word (R43, R44), the causes
(R323), the flits the machine receives, and `Instr`, one constructor for each row of the opcode table. -/

namespace Sys2Proof

/-- Length of an instruction in words: LEN 00, 01, 10 (R43). -/
inductive Form where
  | w32 | w64 | w96
deriving DecidableEq, Repr, Inhabited

/-- The part every instruction shares: SW, GAP, the length, and the token clauses `wait` and `post` (R43, R44). -/
structure Hdr where
  sw   : Bool
  gap  : BitVec 2
  form : Form
  wq   : Option (BitVec 3)
  pq   : Option (BitVec 3)
deriving DecidableEq, Repr, Inhabited

/-- The four sequencer classes, in the order of their codes (R54). -/
inductive Cls where
  | L | C | S | K
deriving DecidableEq, Repr, Inhabited

/-- The format codes 0 to 14 (R20). -/
inductive Fmt where
  | fp32 | bf16 | fp16 | e4m3 | e5m2 | sx4 | sx6 | sx9 | mxf4 | mxf6a | mxf6b | mxf8a | mxf8b | i32 | i8
deriving DecidableEq, Repr, Inhabited

/-- The rounding codes 0 to 3 (R33). -/
inductive RMode where
  | rne | rz | ru | rd
deriving DecidableEq, Repr, Inhabited

/-- The scopes of a phase boundary, in the order of their codes (R196, R292). -/
inductive Scope where
  | strand | cluster | die | package | domain
deriving DecidableEq, Repr, Inhabited

/-- The two forms of PBR (R190): a word offset (64-bit form), or a register and a literal (96-bit form). -/
inductive PbrTarget where
  | rel (off : BitVec 16)
  | abs (a : Reg) (lit : BitVec 32)
deriving DecidableEq, Repr, Inhabited

/-- The offset of LDS (R118): IMM16 in the 64-bit form, the literal in the 96-bit form. -/
inductive LdsOff where
  | imm (off : BitVec 16)
  | lit (off : BitVec 32)
deriving DecidableEq, Repr, Inhabited

/-- The literal of a vector command with three regions (R200): count and the stride codes of D, A and B. -/
structure VecLit where
  count : BitVec 16
  sd : BitVec 5
  sa : BitVec 5
  sb : BitVec 5
deriving DecidableEq, Repr, Inhabited

/-- The literal of a vector command with a destination and one operand region. -/
structure VecLit2 where
  count : BitVec 16
  sd : BitVec 5
  sa : BitVec 5
deriving DecidableEq, Repr, Inhabited

/-- The literal of VRED and VAMX: count and the stride code of A. -/
structure VecLitA where
  count : BitVec 16
  sa : BitVec 5
deriving DecidableEq, Repr, Inhabited

/-- The literal of VFILL: count and the stride code of D. -/
structure VecLitD where
  count : BitVec 16
  sd : BitVec 5
deriving DecidableEq, Repr, Inhabited

/-- Bits [84:64] of MMA and MMAK (R227). -/
structure MmaLit where
  ntm1 : BitVec 6
  ktm1 : BitVec 6
  slot : BitVec 3
  mac0 : BitVec 6
deriving DecidableEq, Repr, Inhabited

/-- A strand: its die, cluster and slot (R55). -/
structure StrandRef where
  die : Nat
  cl : Nat
  slot : Nat
deriving DecidableEq, Repr, Inhabited

/-- A sequencer: its strand and its class. -/
structure SeqRef where
  die : Nat
  cl : Nat
  slot : Nat
  cls : Cls
deriving DecidableEq, Repr, Inhabited

/-- Who executes an instruction: a sequencer, or the hub of a die (R50). -/
inductive Agent where
  | seq (r : SeqRef)
  | hub (die : Nat)
deriving DecidableEq, Repr, Inhabited

/-- A reduction range: one of the 16 of a cluster's accumulator or of the 64 of a die's staging (R162). -/
inductive RangeRef where
  | acc (die cl n : Nat)
  | stg (die n : Nat)
deriving DecidableEq, Repr, Inhabited

/-- The cause codes (R323), in the order of their numbers 0x00 to 0x3C. -/
inductive Cause where
  | noCause | zeroWord | lenIllegal | majUnassigned | funcReserved | wrongSequencer | privileged | operandReserved
  | strideCode | formatIllegal | align | regionOverlap | branchUnprepared | tokenOverflow | tokenCount | wheelState
  | xlateMiss | xlatePerm | xlateClass | posmapMiss | addrRange | tidInvalid | tidBounds | scaleOverflow
  | tuplePattern | tupleParkFull | tupleRegionFull | accPoison | scheduleMiss | tagUnbound | segmentMissed | landSlot
  | fpInvalid | fpOverflow | fidMcheck | fidRaise | sramUncorr | sramCorr | remoteTimeout | remoteNack
  | linkRetired | laneLos | memberLost | collDegraded | qpOverflow | counterOverflow | syncLoss | watchdog
  | preempt | userTrap | breakpoint | singleStep | hostAbort | droopBudget | thermalLimit | permitConfig
  | firmwareAuth | segmentAuth | launchHeader | ctxRestore | replayInvalid
deriving DecidableEq, Repr, Inhabited

/-- A SEGHDR control flit (R74); `rsvZero` says that its reserved bytes are zero. -/
structure SegHdr where
  die : BitVec 8
  size : BitVec 8
  flags : BitVec 8
  tag : BitVec 32
  rot : BitVec 32
  stsc : BitVec 64
  rsvZero : Bool
deriving DecidableEq, Repr, Inhabited

/-- A data flit as it comes (R265): the member and the die of it that sent it, which number it, and its 528 bytes. -/
structure DataFlit where
  mid : Nat
  src : Nat
  bytes : List Byte
deriving DecidableEq, Repr, Inhabited

/-- What numbers a data flit of a member: the die that sent it, and its SEQ (R265; log entry 4). -/
structure FlitNo where
  src : Nat
  seq : BitVec 32
deriving DecidableEq, Repr, Inhabited

/-- A lane whose light is lost (R268): `seen` says that this package has lost it at its receiver, else its peer has signalled it. -/
structure LostLight where
  lane : Nat
  seen : Bool
deriving DecidableEq, Repr, Inhabited

/-- A membership proposal (R95): its proposer, its effective window and the derailleur entries as they shall stand. -/
structure Proposal where
  mid : Nat
  window : Nat
  entries : List (Nat × BitVec 32)
deriving DecidableEq, Repr, Inhabited

/-- A TSPREQ flit and the block bytes of its data flit (R135). `kind` is F: 0 TDEP, 1 TCPY, 2 TTAK, 3 TCNL. -/
structure TspReq where
  kind : BitVec 2
  nb : Bool
  cls : BitVec 16
  timeout : BitVec 16
  label : BitVec 16
  base : BitVec 48
  ctx : BitVec 4
  requester : BitVec 18
  req : BitVec 32
  block : List Byte
deriving DecidableEq, Repr, Inhabited

/-- A TSPRSP flit and, with DONE, the bytes of its data flit: the stamp and the tuple (R135). -/
structure TspRsp where
  parked : Bool
  completion : Bool
  req : BitVec 32
  status : BitVec 64
  block : List Byte
deriving DecidableEq, Repr, Inhabited

/-- The header of one unit of a remote write or of a remote contribution (R271, R283), whose `len` bytes come in data
flits: `red` names the requester of a contribution, `rcnt` the counter handle that the unit increments once performed (0 for none, R278). -/
structure WrUnit where
  req : Nat
  unit : Nat
  window : Nat
  ctx : BitVec 4
  dst : BitVec 64
  len : Nat
  red : Option (BitVec 18)
  acc : Bool
  bf16 : Bool
  rm : RMode
  last : Bool
  rcnt : BitVec 64
deriving DecidableEq, Repr, Inhabited

/-- One unit of a remote read (R288). -/
structure RdUnit where
  req : Nat
  unit : Nat
  window : Nat
  ctx : BitVec 4
  va : BitVec 48
  len : Nat
deriving DecidableEq, Repr, Inhabited

/-- A REDHDR flit (R283): the contributor, the pointer, the element count. -/
structure RedHdr where
  req : Nat
  requester : BitVec 18
  ctx : BitVec 4
  dst : BitVec 64
  acc : Bool
  count : BitVec 32
deriving DecidableEq, Repr, Inhabited

/-- A CNTADD flit (R291). -/
structure CntAdd where
  req : Nat
  window : Nat
  ctx : BitVec 4
  handle : BitVec 64
  addend : BitVec 32
deriving DecidableEq, Repr, Inhabited

/-- The registers that a REGISTER_WRITE reaches: a control register of a cluster or die (R54), a lane plan entry (R261),
a derailleur entry (R94), an event-queue register of a die (R357), the operating point of an island that the hub's power manager
sets, millivolts in [15:0] and megahertz in [47:32] (R347), or a BAR0 offset (R354). -/
inductive DevReg where
  | csr (die cl : Nat) (num : BitVec 12)
  | lanePlan (die lane : Nat)
  | derailleur (i : Nat)
  | eventQueue (die off : Nat)
  | island (die n : Nat)
  | bar0 (off : Nat)
deriving DecidableEq, Repr, Inhabited

/-- The operations and events of the ZC8, one constructor for each row of the opcode table.  An instruction row carries its
header and its operands; an event row carries what names the thing it happens to. -/
inductive Instr where
  -- ALU (R179, R180): xD from xA and xB.
  | add (h : Hdr) (d a b : Reg)
  | sub (h : Hdr) (d a b : Reg)
  | and (h : Hdr) (d a b : Reg)
  | or (h : Hdr) (d a b : Reg)
  | xor (h : Hdr) (d a b : Reg)
  | andn (h : Hdr) (d a b : Reg)
  | shl (h : Hdr) (d a b : Reg)
  | shr (h : Hdr) (d a b : Reg)
  | sra (h : Hdr) (d a b : Reg)
  | rol (h : Hdr) (d a b : Reg)
  | min (h : Hdr) (d a b : Reg)
  | max (h : Hdr) (d a b : Reg)
  | minu (h : Hdr) (d a b : Reg)
  | maxu (h : Hdr) (d a b : Reg)
  | mul (h : Hdr) (d a b : Reg)
  | mulh (h : Hdr) (d a b : Reg)
  | mulhu (h : Hdr) (d a b : Reg)
  | div (h : Hdr) (d a b : Reg)
  | divu (h : Hdr) (d a b : Reg)
  | rem (h : Hdr) (d a b : Reg)
  | remu (h : Hdr) (d a b : Reg)
  | clz (h : Hdr) (d a : Reg)
  | popc (h : Hdr) (d a : Reg)
  | abs (h : Hdr) (d a : Reg)
  -- ALUI (R181): xD from xA and the immediate.
  | addi (h : Hdr) (d a : Reg) (imm : BitVec 16)
  | andi (h : Hdr) (d a : Reg) (imm : BitVec 16)
  | ori (h : Hdr) (d a : Reg) (imm : BitVec 16)
  | xori (h : Hdr) (d a : Reg) (imm : BitVec 16)
  | shli (h : Hdr) (d a : Reg) (sh : BitVec 6)
  | shri (h : Hdr) (d a : Reg) (sh : BitVec 6)
  | srai (h : Hdr) (d a : Reg) (sh : BitVec 6)
  | roli (h : Hdr) (d a : Reg) (sh : BitVec 6)
  | mini (h : Hdr) (d a : Reg) (imm : BitVec 16)
  | maxi (h : Hdr) (d a : Reg) (imm : BitVec 16)
  | muli (h : Hdr) (d a : Reg) (imm : BitVec 16)
  -- LI (R182).
  | liz (h : Hdr) (d : Reg) (lit : BitVec 32)
  | lis (h : Hdr) (d : Reg) (lit : BitVec 32)
  | lih (h : Hdr) (d : Reg) (lit : BitVec 32)
  -- CMP (R183): pD from xA and xB.
  | eq (h : Hdr) (pd : BitVec 3) (a b : Reg)
  | ne (h : Hdr) (pd : BitVec 3) (a b : Reg)
  | lt (h : Hdr) (pd : BitVec 3) (a b : Reg)
  | ltu (h : Hdr) (pd : BitVec 3) (a b : Reg)
  | ge (h : Hdr) (pd : BitVec 3) (a b : Reg)
  | geu (h : Hdr) (pd : BitVec 3) (a b : Reg)
  -- CMPI (R183).
  | eqi (h : Hdr) (pd : BitVec 3) (a : Reg) (imm : BitVec 16)
  | nei (h : Hdr) (pd : BitVec 3) (a : Reg) (imm : BitVec 16)
  | lti (h : Hdr) (pd : BitVec 3) (a : Reg) (imm : BitVec 16)
  | ltui (h : Hdr) (pd : BitVec 3) (a : Reg) (imm : BitVec 16)
  | gei (h : Hdr) (pd : BitVec 3) (a : Reg) (imm : BitVec 16)
  | geui (h : Hdr) (pd : BitVec 3) (a : Reg) (imm : BitVec 16)
  -- PLOG (R184).
  | pand (h : Hdr) (pd pa pb : BitVec 3)
  | por (h : Hdr) (pd pa pb : BitVec 3)
  | pxor (h : Hdr) (pd pa pb : BitVec 3)
  | pnot (h : Hdr) (pd pa : BitVec 3)
  | pmov (h : Hdr) (pd pa : BitVec 3)
  -- SEL (R185); `pk` stands in F.
  | sel (h : Hdr) (pk : BitVec 3) (d a b : Reg)
  -- LD (R186, R187): local window only.
  | ldb (h : Hdr) (d a : Reg) (off : BitVec 16)
  | ldh (h : Hdr) (d a : Reg) (off : BitVec 16)
  | ldw (h : Hdr) (d a : Reg) (off : BitVec 16)
  | ldd (h : Hdr) (d a : Reg) (off : BitVec 16)
  | ldbs (h : Hdr) (d a : Reg) (off : BitVec 16)
  | ldhs (h : Hdr) (d a : Reg) (off : BitVec 16)
  | ldws (h : Hdr) (d a : Reg) (off : BitVec 16)
  -- ST (R186, R187).
  | stb (h : Hdr) (a b : Reg) (off : BitVec 16)
  | sth (h : Hdr) (a b : Reg) (off : BitVec 16)
  | stw (h : Hdr) (a b : Reg) (off : BitVec 16)
  | std (h : Hdr) (a b : Reg) (off : BitVec 16)
  -- FSC (R188): scalar FP32.
  | fadd (h : Hdr) (d a b : Reg) (rm : RMode)
  | fsub (h : Hdr) (d a b : Reg) (rm : RMode)
  | fmul (h : Hdr) (d a b : Reg) (rm : RMode)
  | ffma (h : Hdr) (d a b : Reg) (rm : RMode)
  | fmin (h : Hdr) (d a b : Reg)
  | fmax (h : Hdr) (d a b : Reg)
  | fabs (h : Hdr) (d a : Reg)
  | fneg (h : Hdr) (d a : Reg)
  | fcmpeq (h : Hdr) (d a b : Reg)
  | fcmplt (h : Hdr) (d a b : Reg)
  | fcmple (h : Hdr) (d a b : Reg)
  | fcvti (h : Hdr) (d a : Reg) (rm : RMode)
  | fcvtf (h : Hdr) (d a : Reg) (rm : RMode)
  -- FSF (R189): scalar functions.
  | exp2 (h : Hdr) (d a : Reg)
  | log2 (h : Hdr) (d a : Reg)
  | rcp (h : Hdr) (d a : Reg)
  | rsqrt (h : Hdr) (d a : Reg)
  | sqrt (h : Hdr) (d a : Reg)
  | tanh (h : Hdr) (d a : Reg)
  | sin (h : Hdr) (d a : Reg)
  | cos (h : Hdr) (d a : Reg)
  -- PBR (R190).
  | pbr (h : Hdr) (bd : BitVec 2) (tgt : PbrTarget)
  -- BR (R191).
  | brt (h : Hdr) (bd : BitVec 2) (pa : BitVec 3)
  | brf (h : Hdr) (bd : BitVec 2) (pa : BitVec 3)
  | bra (h : Hdr) (bd : BitVec 2)
  -- CALL, RET (R192).
  | call (h : Hdr) (bd : BitVec 2)
  | ret (h : Hdr)
  -- CTL (R193); `endI` is END.
  | endI (h : Hdr)
  | yield (h : Hdr)
  | nop (h : Hdr)
  | brk (h : Hdr)
  -- TOK (R194).
  | tkp (h : Hdr) (q : BitVec 3) (n : Reg)
  | tkw (h : Hdr) (q : BitVec 3) (n : Reg)
  | tkq (h : Hdr) (d : Reg) (q : BitVec 3)
  -- WHL (R195).
  | winit (h : Hdr) (w : BitVec 4) (base cfg : Reg)
  | wclm (h : Hdr) (d : Reg) (w : BitVec 4)
  | wpub (h : Hdr) (w : BitVec 4)
  | wwf (h : Hdr) (d : Reg) (w : BitVec 4)
  | wwe (h : Hdr) (d : Reg) (w : BitVec 4)
  | wrel (h : Hdr) (w : BitVec 4)
  -- ORD (R196, R197).
  | phase (h : Hdr) (scope : Scope)
  | fenceE (h : Hdr)
  -- TAG (R86 to R89).
  | tagb (h : Hdr) (bd : BitVec 2) (a b : Reg)
  | tagbClr (h : Hdr) (bd : BitVec 2)
  | wtag (h : Hdr) (d : Reg) (tmo : BitVec 16)
  | tagq (h : Hdr) (d a : Reg) (which : BitVec 2)
  -- TSP (R138 to R140); `nb` is `.n`.
  | tdep (h : Hdr) (nb : Bool) (d a b : Reg)
  | tcpy (h : Hdr) (nb : Bool) (d a b : Reg) (tmo label : BitVec 16)
  | ttak (h : Hdr) (nb : Bool) (d a b : Reg) (tmo label : BitVec 16)
  | tcnl (h : Hdr) (d a b : Reg)
  -- CPY (R149).
  | cpy (h : Hdr) (d a b : Reg)
  -- CPYT (R151).
  | cpyt (h : Hdr) (tn tm : BitVec 8) (d a b : Reg)
  -- GATH (R152).
  | gath (h : Hdr) (pos : Bool) (tn tm : BitVec 8) (d a b : Reg)
  -- SCAT (R152).
  | scat (h : Hdr) (pos : Bool) (tn tm : BitVec 8) (d a b : Reg)
  -- CPYX (R156); `tr` is `.t`.
  | cpyx (h : Hdr) (sr sat : Bool) (rm : RMode) (pos app tr : Bool) (tn tm : BitVec 8) (d a b : Reg)
  -- CPYR (R165).
  | cpyr (h : Hdr) (acc : Bool) (rm : RMode) (fmt : Fmt) (d a b : Reg)
  -- LAND (R90); `cnt` is count - 1.
  | land (h : Hdr) (fmt : Fmt) (d a b : Reg) (mac : BitVec 6) (slot cnt : BitVec 3)
  -- FWD (R93).
  | fwd (h : Hdr) (reinj audit : Bool) (d a b : Reg) (size : BitVec 7)
  -- LDS (R118).
  | lds (h : Hdr) (sz : BitVec 2) (sg : Bool) (d a : Reg) (off : LdsOff)
  -- VBIN (R209).
  | vadd (h : Hdr) (fmt : Fmt) (rm : RMode) (sat : Bool) (d a b : Reg) (v : VecLit)
  | vsub (h : Hdr) (fmt : Fmt) (rm : RMode) (sat : Bool) (d a b : Reg) (v : VecLit)
  | vmul (h : Hdr) (fmt : Fmt) (rm : RMode) (sat : Bool) (d a b : Reg) (v : VecLit)
  | vmin (h : Hdr) (fmt : Fmt) (rm : RMode) (sat : Bool) (d a b : Reg) (v : VecLit)
  | vmax (h : Hdr) (fmt : Fmt) (rm : RMode) (sat : Bool) (d a b : Reg) (v : VecLit)
  | vand (h : Hdr) (fmt : Fmt) (rm : RMode) (sat : Bool) (d a b : Reg) (v : VecLit)
  | vor (h : Hdr) (fmt : Fmt) (rm : RMode) (sat : Bool) (d a b : Reg) (v : VecLit)
  | vxor (h : Hdr) (fmt : Fmt) (rm : RMode) (sat : Bool) (d a b : Reg) (v : VecLit)
  | vshl (h : Hdr) (fmt : Fmt) (rm : RMode) (sat : Bool) (d a b : Reg) (v : VecLit)
  | vshr (h : Hdr) (fmt : Fmt) (rm : RMode) (sat : Bool) (d a b : Reg) (v : VecLit)
  -- VTER (R210).
  | vfma (h : Hdr) (fmt : Fmt) (rm : RMode) (sat : Bool) (d a b : Reg) (v : VecLit)
  | vfms (h : Hdr) (fmt : Fmt) (rm : RMode) (sat : Bool) (d a b : Reg) (v : VecLit)
  -- VUN (R211).
  | vabs (h : Hdr) (fmt : Fmt) (rm : RMode) (sat : Bool) (d a : Reg) (v : VecLit2)
  | vneg (h : Hdr) (fmt : Fmt) (rm : RMode) (sat : Bool) (d a : Reg) (v : VecLit2)
  | vcvt (h : Hdr) (fmt dfmt : Fmt) (rm : RMode) (sat sr : Bool) (d a : Reg) (v : VecLit2)
  | vmov (h : Hdr) (fmt : Fmt) (d a : Reg) (v : VecLit2)
  -- VSF (R212).
  | vexp2 (h : Hdr) (fmt : Fmt) (rm : RMode) (sat : Bool) (d a : Reg) (v : VecLit2)
  | vlog2 (h : Hdr) (fmt : Fmt) (rm : RMode) (sat : Bool) (d a : Reg) (v : VecLit2)
  | vrcp (h : Hdr) (fmt : Fmt) (rm : RMode) (sat : Bool) (d a : Reg) (v : VecLit2)
  | vrsq (h : Hdr) (fmt : Fmt) (rm : RMode) (sat : Bool) (d a : Reg) (v : VecLit2)
  | vtanh (h : Hdr) (fmt : Fmt) (rm : RMode) (sat : Bool) (d a : Reg) (v : VecLit2)
  | vsilu (h : Hdr) (fmt : Fmt) (rm : RMode) (sat : Bool) (d a : Reg) (v : VecLit2)
  -- VCMP (R213).
  | vceq (h : Hdr) (fmt : Fmt) (d a b : Reg) (v : VecLit)
  | vclt (h : Hdr) (fmt : Fmt) (d a b : Reg) (v : VecLit)
  | vcle (h : Hdr) (fmt : Fmt) (d a b : Reg) (v : VecLit)
  -- VSEL (R214).
  | vsel (h : Hdr) (fmt : Fmt) (moff : BitVec 15) (d a b : Reg) (v : VecLit)
  -- VRED (R220).
  | vrsum (h : Hdr) (fmt : Fmt) (rm : RMode) (z : BitVec 2) (a : Reg) (v : VecLitA)
  | vrmax (h : Hdr) (fmt : Fmt) (rm : RMode) (z : BitVec 2) (a : Reg) (v : VecLitA)
  | vrmin (h : Hdr) (fmt : Fmt) (rm : RMode) (z : BitVec 2) (a : Reg) (v : VecLitA)
  -- VSCAN (R215).
  | vpsum (h : Hdr) (fmt : Fmt) (rm : RMode) (sat : Bool) (d a : Reg) (v : VecLit2)
  -- VAMX (R218).
  | vamx (h : Hdr) (fmt : Fmt) (tid : BitVec 8) (a : Reg) (v : VecLitA)
  -- VFILL (R216).
  | vfill (h : Hdr) (fmt : Fmt) (d a : Reg) (v : VecLitD)
  -- VPERM (R217).
  | vperm (h : Hdr) (fmt : Fmt) (d a b : Reg) (v : VecLit)
  -- ZMOV (R221).
  | zget (h : Hdr) (d : Reg) (z : BitVec 2)
  | zset (h : Hdr) (z : BitVec 2) (a : Reg)
  | zclr (h : Hdr) (z : BitVec 2)
  -- MMA, MMAK (R227); `zr` is `.z`.
  | mma (h : Hdr) (lst zr : Bool) (rm : RMode) (tA tB : BitVec 8) (a b : Reg) (ml : MmaLit)
  | mmak (h : Hdr) (lst zr : Bool) (rm : RMode) (tA tB : BitVec 8) (d a b : Reg) (ml : MmaLit) (off : BitVec 11)
  -- ACLR (R234), ADRN (R235).
  | aclr (h : Hdr) (a b : Reg)
  | adrn (h : Hdr) (sr sat : Bool) (rm : RMode) (clr tr : Bool) (tn : BitVec 8) (d a b : Reg) (lda : BitVec 17)
  -- ATN (R238).
  | atq (h : Hdr) (tq : BitVec 8) (d a : Reg)
  | ats (h : Hdr) (tk tv : BitVec 8) (a b : Reg)
  | atf (h : Hdr) (u : Bool) (a b : Reg)
  -- AAT (R242); `stg` is `.stg`.
  | aadd (h : Hdr) (stg : Bool) (a b : Reg)
  | aaddf (h : Hdr) (stg : Bool) (rm : RMode) (a b : Reg)
  | awr (h : Hdr) (stg : Bool) (a b : Reg)
  | aaddx (h : Hdr) (stg : Bool) (d a b : Reg)
  | aaddfx (h : Hdr) (stg : Bool) (rm : RMode) (d a b : Reg)
  | awrx (h : Hdr) (stg : Bool) (d a b : Reg)
  -- FDL (R257).
  | setfid (h : Hdr) (f : BitVec 2)
  | fcrd (h : Hdr) (d : Reg) (which : BitVec 2)
  | fcclr (h : Hdr) (d : Reg)
  -- RWR, RRD, RWRR (R287).
  | rwr (h : Hdr) (d a b : Reg)
  | rrd (h : Hdr) (d a b : Reg)
  | rwrr (h : Hdr) (acc : Bool) (rm : RMode) (fmt : Fmt) (d a b : Reg)
  -- QPOST (R289).
  | qpost (h : Hdr) (nb : Bool) (d a : Reg) (qp : BitVec 6)
  -- CNT (R291).
  | carm (h : Hdr) (a b : Reg)
  | cadd (h : Hdr) (a b : Reg)
  | cwait (h : Hdr) (d a b : Reg) (tmo : BitVec 16)
  | crd (h : Hdr) (d a : Reg)
  -- QSLOT (R290).
  | qslot (h : Hdr) (acc clr : Bool) (a b : Reg)
  -- The system instructions (R338), and LNCH (R320).
  | csrr (h : Hdr) (d : Reg) (csr : BitVec 12)
  | csrw (h : Hdr) (csr : BitVec 12) (a : Reg)
  | trap (h : Hdr) (n : BitVec 5) (m : BitVec 16)
  | eret (h : Hdr) (d : Reg)
  | tld (h : Hdr) (d b : Reg) (idx : Option (BitVec 12))
  | tlk (h : Hdr) (a : Reg) (l : Bool)
  | tinv (h : Hdr) (d a : Reg) (mode : BitVec 2)
  | pmld (h : Hdr) (d a b : Reg) (way : Option (BitVec 2))
  | rply (h : Hdr) (a : Reg)
  | ctxs (h : Hdr) (rel : Bool) (d a b : Reg)
  | ctxl (h : Hdr) (d a b : Reg)
  | tsr (h : Hdr) (d : Reg)
  | lnch (h : Hdr) (nb : Bool) (d a : Reg) (lq : BitVec 6)
  | idle (h : Hdr) (d : Reg)
  -- The event rows: what an engine, a home slice, a link, the launch unit, firmware or the host does in one
  -- whole step. They have no encoding.
  | fixedLatencyLanding (g : Agent)
  | waitSatisfied (g : Agent)
  | ldsComplete (g : Agent)
  | copyUnit (g : Agent)
  | vectorUnit (g : Agent)
  | mmaUnit (g : Agent)
  | fidRailSwitchDone (die cl : Nat)
  | mmakTargetChoice (g : Agent)
  | mmakStartTime (g : Agent)
  | drainUnit (g : Agent)
  | aclrUnit (g : Agent)
  | attentionPerform (g : Agent)
  | landTile (g : Agent)
  | aatPerformed (g : Agent)
  | cpyrAdd (g : Agent)
  | roundTimeout (rr : RangeRef)
  | workEntryFire (die qp : Nat)
  | workEntryComplete (die qp : Nat)
  | remoteUnitDeadline (die : Nat) (req : Nat)
  | remoteUnitUnreached (req : Nat)
  | tupleTakeService (die slice : Nat)
  | tupleDepositService (die slice : Nat)
  | tupleCancelService (die slice : Nat)
  | tupleParkExpire (die slice : Nat)
  | tupleComplete (req : Nat)
  | tupleRemoteTimeout (req : Nat)
  | tupleResend (req : Nat)
  | strandStop (r : StrandRef) (c : Cause)
  | watchdog (r : StrandRef)
  | queueAgeing (q : Nat)
  | teamStart (team : Nat)
  | teamRetire (team : Nat)
  | permitRefill (die cl : Nat)
  | memberLost (mid : Nat)
  | stripeSendStart (die : Nat)
  | dwellExpire (die fslot : Nat)
  | lostStandin (tag : BitVec 32)
  | laneTrainDone (die lane : Nat)
  | bktDecay (die lane : Nat)
  | laneRetuneDone (die lane : Nat)
  | wtagTimeout (g : Agent)
  | cwaitTimeout (g : Agent)
  | mailboxUnknownCmd (cmd : BitVec 8)
  | notAnInstruction (c : Cause)
  -- What comes from outside, or is made without a value.
  | preemptRequest (launch team : Nat)
  | launchPass
  | windowBoundary
  | dataFlit (die lane : Nat) (fl : DataFlit)
  | ack (die lane : Nat) (flit : FlitNo)
  | nak (die lane : Nat) (flit : FlitNo)
  | train (die lane : Nat)
  | laneLos (die : Nat) (light : LostLight)
  | lightReturn (die lane : Nat)
  | sync (mid : Nat) (t2 : BitVec 64)
  | follow (mid : Nat) (t1 : BitVec 64)
  | dreq (mid : Nat) (t4 : BitVec 64)
  | drsp (mid : Nat) (t4 : BitVec 64)
  | seghdr (die : Nat) (hd : SegHdr)
  | freefr (die count : Nat)
  | propose (pr : Proposal)
  | accept (mid window : Nat)
  | reject (mid window : Nat)
  | commit (mid window : Nat)
  | tspreq (mid : Nat) (rq : TspReq)
  | tsprsp (mid : Nat) (rs : TspRsp)
  | wrhdr (mid die : Nat) (wr : WrUnit)
  | wrack (req unit : Nat)
  | wrnack (req unit : Nat) (status : BitVec 64)
  | rdreq (mid die : Nat) (rd : RdUnit)
  | redhdr (mid die : Nat) (rh : RedHdr)
  | redgo (req : Nat)
  | cntadd (mid die : Nat) (ca : CntAdd)
  | droopDetect (die cl : Nat) (cycles : Nat)
  | thermalLimit (die island : Nat)
  | thermalRecover (die island : Nat)
  | logicRailSwitch (die cl : Nat)
  | scrubRead (pa : Nat)
  | coldReset
  | finjWrite (die cl : Nat) (v : BitVec 32)
  | fidthrWrite (die cl : Nat) (v : BitVec 16)
  | lfsrseedWrite (die cl : Nat) (v : BitVec 32)
  | permitWrite (die cl : Nat) (v : BitVec 64)
  | registerWrite (dr : DevReg) (v : BitVec 64)
  | hostBar2Write (pa : Nat) (data : List (BitVec 8))
  | hostBar2Read (pa len : Nat)
  | submit
  | abort
  | region
  | pubkey
  | model
  | attest
  | contextCreate
  | contextDestroy
  | pages
  | posmap
  | lqcfg
  | assign
  | assignRelease
  | unlistedControlFlit (die lane : Nat) (flit : List Byte)
  | trimRailPark (die island : Nat) (parked : Bool)
deriving DecidableEq, Repr, Inhabited

end Sys2Proof
end

