-- ==== Sys2Proof/Config.lean ====
section
/-! DEFINITION. What a device fixes and the spec leaves open: values with no body, of which nothing can be proved. -/

namespace Sys2Proof.Config

/-- The rates of each cluster's FIDRATE and the VTRIM of each island, fused at test (R248; log entry 8). -/
opaque fidRate : Nat → BitVec 48
opaque vtrim : Nat → Nat

/-- Serial, firmware version and digests of the boot stages 0 to 3 (R354, R358; log entry 8). -/
opaque serial : Nat → Byte
opaque fwVersion : BitVec 32
opaque stageDigest : Nat → List Byte

/-- Whether the firmware's signature checks at a boot, by the number of the boot (R358; log entry 10). -/
opaque firmwareGood : Nat → Bool

/-- SHA3-512, and ML-DSA-87 verification and signing (R98, R358 to R360; log entry 10). -/
opaque sha3 : List Byte → List Byte
opaque mldsaVerify : List Byte → List Byte → List Byte → Bool
opaque mldsaSign : List Byte → List Byte
opaque identityKey : List Byte

/-- The output of the trimmed slices, before it is cut to the bound of R247, for a free value and a group
(log entry 9). -/
opaque trimError : Nat → Int

/-- Whether a member can hold the TSC bound, and the steering of TSC (R270; log entry 11). -/
opaque syncHeld : Nat → Bool
opaque steer : Nat → Nat

/-- Whether a segment rested at a dead member, for a free value (R97; log entry 14). -/
opaque restedAt : Nat → Bool

/-- The cadence table that a change of membership puts into force, for a free value: ARROFF, DEPOFF and DWELL of a tag, TROT and
ROTBASE (R95; log entry 96). -/
opaque newCadence : Nat → Nat → BitVec 96
opaque newTrot : Nat → BitVec 64
opaque newRotBase : Nat → BitVec 64

/-- The digest of a segment, by its tag, that a member holds which has not verified the segment's manifest itself (R98; log
entry 14). -/
opaque segDigest : Nat → List Byte

/-- The address that an event record gives of a word outside the slab, for the number of the word (R103; log entry 37). -/
opaque softPlace : Nat → BitVec 64

/-- A fresh value for whatever the spec leaves undefined after a step (log entry 14). -/
opaque freeValue : Nat → BitVec 64

end Sys2Proof.Config
end

