-- ==== Sys2Proof/WellFormed.lean ====
section
/-! DEFINITION. Which terms of `Instr` stand for an instruction that has an encoding: the length the major permits (R48),
token clauses only where there is a second word (R44), and no reserved value in a field (R45, and each instruction's own
table).  An event row is checked for the ranges of the numbers that name its place. -/

namespace Sys2Proof

/-- A 32-bit instruction has no second word, so no token clause (R44). -/
def Hdr.clauses (h : Hdr) : Bool := h.form != .w32 || (h.wq == none && h.pq == none)

/-- Families of 32-bit and 64-bit form (R48). -/
def Hdr.f3264 (h : Hdr) : Bool := h.form != .w96 && h.clauses
/-- Families of 64-bit and 96-bit form (R48). -/
def Hdr.f6496 (h : Hdr) : Bool := h.form != .w32
/-- Families of 64-bit form only (R48). -/
def Hdr.f64 (h : Hdr) : Bool := h.form == .w64
/-- Families of 96-bit form only (R48). -/
def Hdr.f96 (h : Hdr) : Bool := h.form == .w96
/-- ERET, 32-bit only (R48). -/
def Hdr.f32 (h : Hdr) : Bool := h.form == .w32 && h.clauses
/-- An operand that stands in the literal must read as zero in the 64-bit form. -/
def Hdr.litOk (h : Hdr) (zero : Bool) : Bool := h.form == .w96 || zero

def PbrTarget.formOk (t : PbrTarget) (f : Form) : Bool :=
  match t with
  | .rel _ => f == .w64
  | .abs _ _ => f == .w96

def LdsOff.formOk (t : LdsOff) (f : Form) : Bool :=
  match t with
  | .imm _ => f == .w64
  | .lit _ => f == .w96

/-- In a vector instruction of integer format M[5:4] must be zero (R206). -/
def Fmt.rmOk (f : Fmt) (rm : RMode) : Bool := (f != .i32 && f != .i8) || rm == .rne

/-- The control registers that exist (R54). -/
def csrKnown (n : BitVec 12) : Bool :=
  n.toNat ∈ [0x000, 0x001, 0x002, 0x003, 0x008, 0x010, 0x011, 0x012, 0x018, 0x019, 0x01A, 0x020, 0x021, 0x022, 0x023,
    0x024, 0x025, 0x030, 0x031, 0x032, 0x038, 0x040, 0x041]

/-- Dies 0 to 7, clusters 0 to 53 (R11). -/
def clOk (die cl : Nat) : Bool := decide (die < 8 ∧ cl < 54)
def StrandRef.ok (r : StrandRef) : Bool := clOk r.die r.cl && decide (r.slot < 4)
def Agent.ok : Agent → Bool
  | .seq r => clOk r.die r.cl && decide (r.slot < 4)
  | .hub d => decide (d < 8)

/-- The header of an instruction row; an event row has none. -/
def Instr.hdr? : Instr → Option Hdr
  | .add h _ _ _ => some h
  | .sub h _ _ _ => some h
  | .and h _ _ _ => some h
  | .or h _ _ _ => some h
  | .xor h _ _ _ => some h
  | .andn h _ _ _ => some h
  | .shl h _ _ _ => some h
  | .shr h _ _ _ => some h
  | .sra h _ _ _ => some h
  | .rol h _ _ _ => some h
  | .min h _ _ _ => some h
  | .max h _ _ _ => some h
  | .minu h _ _ _ => some h
  | .maxu h _ _ _ => some h
  | .mul h _ _ _ => some h
  | .mulh h _ _ _ => some h
  | .mulhu h _ _ _ => some h
  | .div h _ _ _ => some h
  | .divu h _ _ _ => some h
  | .rem h _ _ _ => some h
  | .remu h _ _ _ => some h
  | .clz h _ _ => some h
  | .popc h _ _ => some h
  | .abs h _ _ => some h
  | .addi h _ _ _ => some h
  | .andi h _ _ _ => some h
  | .ori h _ _ _ => some h
  | .xori h _ _ _ => some h
  | .shli h _ _ _ => some h
  | .shri h _ _ _ => some h
  | .srai h _ _ _ => some h
  | .roli h _ _ _ => some h
  | .mini h _ _ _ => some h
  | .maxi h _ _ _ => some h
  | .muli h _ _ _ => some h
  | .liz h _ _ => some h
  | .lis h _ _ => some h
  | .lih h _ _ => some h
  | .eq h _ _ _ => some h
  | .ne h _ _ _ => some h
  | .lt h _ _ _ => some h
  | .ltu h _ _ _ => some h
  | .ge h _ _ _ => some h
  | .geu h _ _ _ => some h
  | .eqi h _ _ _ => some h
  | .nei h _ _ _ => some h
  | .lti h _ _ _ => some h
  | .ltui h _ _ _ => some h
  | .gei h _ _ _ => some h
  | .geui h _ _ _ => some h
  | .pand h _ _ _ => some h
  | .por h _ _ _ => some h
  | .pxor h _ _ _ => some h
  | .pnot h _ _ => some h
  | .pmov h _ _ => some h
  | .sel h _ _ _ _ => some h
  | .ldb h _ _ _ => some h
  | .ldh h _ _ _ => some h
  | .ldw h _ _ _ => some h
  | .ldd h _ _ _ => some h
  | .ldbs h _ _ _ => some h
  | .ldhs h _ _ _ => some h
  | .ldws h _ _ _ => some h
  | .stb h _ _ _ => some h
  | .sth h _ _ _ => some h
  | .stw h _ _ _ => some h
  | .std h _ _ _ => some h
  | .fadd h _ _ _ _ => some h
  | .fsub h _ _ _ _ => some h
  | .fmul h _ _ _ _ => some h
  | .ffma h _ _ _ _ => some h
  | .fmin h _ _ _ => some h
  | .fmax h _ _ _ => some h
  | .fabs h _ _ => some h
  | .fneg h _ _ => some h
  | .fcmpeq h _ _ _ => some h
  | .fcmplt h _ _ _ => some h
  | .fcmple h _ _ _ => some h
  | .fcvti h _ _ _ => some h
  | .fcvtf h _ _ _ => some h
  | .exp2 h _ _ => some h
  | .log2 h _ _ => some h
  | .rcp h _ _ => some h
  | .rsqrt h _ _ => some h
  | .sqrt h _ _ => some h
  | .tanh h _ _ => some h
  | .sin h _ _ => some h
  | .cos h _ _ => some h
  | .pbr h _ _ => some h
  | .brt h _ _ => some h
  | .brf h _ _ => some h
  | .bra h _ => some h
  | .call h _ => some h
  | .ret h => some h
  | .endI h => some h
  | .yield h => some h
  | .nop h => some h
  | .brk h => some h
  | .tkp h _ _ => some h
  | .tkw h _ _ => some h
  | .tkq h _ _ => some h
  | .winit h _ _ _ => some h
  | .wclm h _ _ => some h
  | .wpub h _ => some h
  | .wwf h _ _ => some h
  | .wwe h _ _ => some h
  | .wrel h _ => some h
  | .phase h _ => some h
  | .fenceE h => some h
  | .tagb h _ _ _ => some h
  | .tagbClr h _ => some h
  | .wtag h _ _ => some h
  | .tagq h _ _ _ => some h
  | .tdep h _ _ _ _ => some h
  | .tcpy h _ _ _ _ _ _ => some h
  | .ttak h _ _ _ _ _ _ => some h
  | .tcnl h _ _ _ => some h
  | .cpy h _ _ _ => some h
  | .cpyt h _ _ _ _ _ => some h
  | .gath h _ _ _ _ _ _ => some h
  | .scat h _ _ _ _ _ _ => some h
  | .cpyx h _ _ _ _ _ _ _ _ _ _ _ => some h
  | .cpyr h _ _ _ _ _ _ => some h
  | .land h _ _ _ _ _ _ _ => some h
  | .fwd h _ _ _ _ _ _ => some h
  | .lds h _ _ _ _ _ => some h
  | .vadd h _ _ _ _ _ _ _ => some h
  | .vsub h _ _ _ _ _ _ _ => some h
  | .vmul h _ _ _ _ _ _ _ => some h
  | .vmin h _ _ _ _ _ _ _ => some h
  | .vmax h _ _ _ _ _ _ _ => some h
  | .vand h _ _ _ _ _ _ _ => some h
  | .vor h _ _ _ _ _ _ _ => some h
  | .vxor h _ _ _ _ _ _ _ => some h
  | .vshl h _ _ _ _ _ _ _ => some h
  | .vshr h _ _ _ _ _ _ _ => some h
  | .vfma h _ _ _ _ _ _ _ => some h
  | .vfms h _ _ _ _ _ _ _ => some h
  | .vabs h _ _ _ _ _ _ => some h
  | .vneg h _ _ _ _ _ _ => some h
  | .vcvt h _ _ _ _ _ _ _ _ => some h
  | .vmov h _ _ _ _ => some h
  | .vexp2 h _ _ _ _ _ _ => some h
  | .vlog2 h _ _ _ _ _ _ => some h
  | .vrcp h _ _ _ _ _ _ => some h
  | .vrsq h _ _ _ _ _ _ => some h
  | .vtanh h _ _ _ _ _ _ => some h
  | .vsilu h _ _ _ _ _ _ => some h
  | .vceq h _ _ _ _ _ => some h
  | .vclt h _ _ _ _ _ => some h
  | .vcle h _ _ _ _ _ => some h
  | .vsel h _ _ _ _ _ _ => some h
  | .vrsum h _ _ _ _ _ => some h
  | .vrmax h _ _ _ _ _ => some h
  | .vrmin h _ _ _ _ _ => some h
  | .vpsum h _ _ _ _ _ _ => some h
  | .vamx h _ _ _ _ => some h
  | .vfill h _ _ _ _ => some h
  | .vperm h _ _ _ _ _ => some h
  | .zget h _ _ => some h
  | .zset h _ _ => some h
  | .zclr h _ => some h
  | .mma h _ _ _ _ _ _ _ _ => some h
  | .mmak h _ _ _ _ _ _ _ _ _ _ => some h
  | .aclr h _ _ => some h
  | .adrn h _ _ _ _ _ _ _ _ _ _ => some h
  | .atq h _ _ _ => some h
  | .ats h _ _ _ _ => some h
  | .atf h _ _ _ => some h
  | .aadd h _ _ _ => some h
  | .aaddf h _ _ _ _ => some h
  | .awr h _ _ _ => some h
  | .aaddx h _ _ _ _ => some h
  | .aaddfx h _ _ _ _ _ => some h
  | .awrx h _ _ _ _ => some h
  | .setfid h _ => some h
  | .fcrd h _ _ => some h
  | .fcclr h _ => some h
  | .rwr h _ _ _ => some h
  | .rrd h _ _ _ => some h
  | .rwrr h _ _ _ _ _ _ => some h
  | .qpost h _ _ _ _ => some h
  | .carm h _ _ => some h
  | .cadd h _ _ => some h
  | .cwait h _ _ _ _ => some h
  | .crd h _ _ => some h
  | .qslot h _ _ _ _ => some h
  | .csrr h _ _ => some h
  | .csrw h _ _ => some h
  | .trap h _ _ => some h
  | .eret h _ => some h
  | .tld h _ _ _ => some h
  | .tlk h _ _ => some h
  | .tinv h _ _ _ => some h
  | .pmld h _ _ _ _ => some h
  | .rply h _ => some h
  | .ctxs h _ _ _ _ => some h
  | .ctxl h _ _ _ => some h
  | .tsr h _ => some h
  | .lnch h _ _ _ _ => some h
  | .idle h _ => some h
  | .fixedLatencyLanding _ => none
  | .waitSatisfied _ => none
  | .ldsComplete _ => none
  | .copyUnit _ => none
  | .vectorUnit _ => none
  | .mmaUnit _ => none
  | .fidRailSwitchDone _ _ => none
  | .mmakTargetChoice _ => none
  | .mmakStartTime _ => none
  | .drainUnit _ => none
  | .aclrUnit _ => none
  | .attentionPerform _ => none
  | .landTile _ => none
  | .aatPerformed _ => none
  | .cpyrAdd _ => none
  | .roundTimeout _ => none
  | .workEntryFire _ _ => none
  | .workEntryComplete _ _ => none
  | .remoteUnitDeadline _ _ => none
  | .remoteUnitUnreached _ => none
  | .tupleTakeService _ _ => none
  | .tupleDepositService _ _ => none
  | .tupleCancelService _ _ => none
  | .tupleParkExpire _ _ => none
  | .tupleComplete _ => none
  | .tupleRemoteTimeout _ => none
  | .tupleResend _ => none
  | .strandStop _ _ => none
  | .preemptRequest _ _ => none
  | .watchdog _ => none
  | .launchPass => none
  | .queueAgeing _ => none
  | .teamStart _ => none
  | .teamRetire _ => none
  | .permitRefill _ _ => none
  | .windowBoundary => none
  | .memberLost _ => none
  | .dataFlit _ _ _ => none
  | .stripeSendStart _ => none
  | .dwellExpire _ _ => none
  | .lostStandin _ => none
  | .ack _ _ _ => none
  | .nak _ _ _ => none
  | .train _ _ => none
  | .laneTrainDone _ _ => none
  | .bktDecay _ _ => none
  | .laneLos _ _ => none
  | .lightReturn _ _ => none
  | .sync _ _ => none
  | .follow _ _ => none
  | .dreq _ _ => none
  | .drsp _ _ => none
  | .seghdr _ _ => none
  | .freefr _ _ => none
  | .propose _ => none
  | .accept _ _ => none
  | .reject _ _ => none
  | .commit _ _ => none
  | .tspreq _ _ => none
  | .tsprsp _ _ => none
  | .wrhdr _ _ _ => none
  | .wrack _ _ => none
  | .wrnack _ _ _ => none
  | .rdreq _ _ _ => none
  | .redhdr _ _ _ => none
  | .redgo _ => none
  | .cntadd _ _ _ => none
  | .droopDetect _ _ _ => none
  | .thermalLimit _ _ => none
  | .thermalRecover _ _ => none
  | .logicRailSwitch _ _ => none
  | .scrubRead _ => none
  | .coldReset => none
  | .finjWrite _ _ _ => none
  | .fidthrWrite _ _ _ => none
  | .lfsrseedWrite _ _ _ => none
  | .permitWrite _ _ _ => none
  | .registerWrite _ _ => none
  | .hostBar2Write _ _ => none
  | .hostBar2Read _ _ => none
  | .submit => none
  | .abort => none
  | .region => none
  | .pubkey => none
  | .model => none
  | .attest => none
  | .contextCreate => none
  | .contextDestroy => none
  | .pages => none
  | .posmap => none
  | .lqcfg => none
  | .assign => none
  | .assignRelease => none
  | .mailboxUnknownCmd _ => none
  | .notAnInstruction _ => none
  | .wtagTimeout _ => none
  | .cwaitTimeout _ => none
  | .unlistedControlFlit _ _ _ => none
  | .laneRetuneDone _ _ => none
  | .trimRailPark _ _ _ => none

/-- Well-formed: the length and the clauses are permitted and no field holds a reserved value. -/
def Instr.wf : Instr → Bool
  | .add h _ _ _ => h.f3264
  | .sub h _ _ _ => h.f3264
  | .and h _ _ _ => h.f3264
  | .or h _ _ _ => h.f3264
  | .xor h _ _ _ => h.f3264
  | .andn h _ _ _ => h.f3264
  | .shl h _ _ _ => h.f3264
  | .shr h _ _ _ => h.f3264
  | .sra h _ _ _ => h.f3264
  | .rol h _ _ _ => h.f3264
  | .min h _ _ _ => h.f3264
  | .max h _ _ _ => h.f3264
  | .minu h _ _ _ => h.f3264
  | .maxu h _ _ _ => h.f3264
  | .mul h _ _ _ => h.f3264
  | .mulh h _ _ _ => h.f3264
  | .mulhu h _ _ _ => h.f3264
  | .div h _ _ _ => h.f3264
  | .divu h _ _ _ => h.f3264
  | .rem h _ _ _ => h.f3264
  | .remu h _ _ _ => h.f3264
  | .clz h _ _ => h.f3264
  | .popc h _ _ => h.f3264
  | .abs h _ _ => h.f3264
  | .addi h _ _ _ => h.f64
  | .andi h _ _ _ => h.f64
  | .ori h _ _ _ => h.f64
  | .xori h _ _ _ => h.f64
  | .shli h _ _ _ => h.f64
  | .shri h _ _ _ => h.f64
  | .srai h _ _ _ => h.f64
  | .roli h _ _ _ => h.f64
  | .mini h _ _ _ => h.f64
  | .maxi h _ _ _ => h.f64
  | .muli h _ _ _ => h.f64
  | .liz h _ _ => h.f96
  | .lis h _ _ => h.f96
  | .lih h _ _ => h.f96
  | .eq h _ _ _ => h.f3264
  | .ne h _ _ _ => h.f3264
  | .lt h _ _ _ => h.f3264
  | .ltu h _ _ _ => h.f3264
  | .ge h _ _ _ => h.f3264
  | .geu h _ _ _ => h.f3264
  | .eqi h _ _ _ => h.f64
  | .nei h _ _ _ => h.f64
  | .lti h _ _ _ => h.f64
  | .ltui h _ _ _ => h.f64
  | .gei h _ _ _ => h.f64
  | .geui h _ _ _ => h.f64
  | .pand h _ _ _ => h.f3264
  | .por h _ _ _ => h.f3264
  | .pxor h _ _ _ => h.f3264
  | .pnot h _ _ => h.f3264
  | .pmov h _ _ => h.f3264
  | .sel h _ _ _ _ => h.f3264
  | .ldb h _ _ _ => h.f64
  | .ldh h _ _ _ => h.f64
  | .ldw h _ _ _ => h.f64
  | .ldd h _ _ _ => h.f64
  | .ldbs h _ _ _ => h.f64
  | .ldhs h _ _ _ => h.f64
  | .ldws h _ _ _ => h.f64
  | .stb h _ _ _ => h.f64
  | .sth h _ _ _ => h.f64
  | .stw h _ _ _ => h.f64
  | .std h _ _ _ => h.f64
  | .fadd h _ _ _ rm => h.f3264 && (h.form != .w32 || rm == .rne)
  | .fsub h _ _ _ rm => h.f3264 && (h.form != .w32 || rm == .rne)
  | .fmul h _ _ _ rm => h.f3264 && (h.form != .w32 || rm == .rne)
  | .ffma h _ _ _ rm => h.f3264 && (h.form != .w32 || rm == .rne)
  | .fmin h _ _ _ => h.f3264
  | .fmax h _ _ _ => h.f3264
  | .fabs h _ _ => h.f3264
  | .fneg h _ _ => h.f3264
  | .fcmpeq h _ _ _ => h.f3264
  | .fcmplt h _ _ _ => h.f3264
  | .fcmple h _ _ _ => h.f3264
  | .fcvti h _ _ rm => h.f3264 && (h.form != .w32 || rm == .rne)
  | .fcvtf h _ _ rm => h.f3264 && (h.form != .w32 || rm == .rne)
  | .exp2 h _ _ => h.f3264
  | .log2 h _ _ => h.f3264
  | .rcp h _ _ => h.f3264
  | .rsqrt h _ _ => h.f3264
  | .sqrt h _ _ => h.f3264
  | .tanh h _ _ => h.f3264
  | .sin h _ _ => h.f3264
  | .cos h _ _ => h.f3264
  | .pbr h _ tgt => h.f6496 && tgt.formOk h.form
  | .brt h _ _ => h.f3264
  | .brf h _ _ => h.f3264
  | .bra h _ => h.f3264
  | .call h _ => h.f3264
  | .ret h => h.f3264
  | .endI h => h.f3264
  | .yield h => h.f3264
  | .nop h => h.f3264
  | .brk h => h.f3264
  | .tkp h _ n => h.f3264 && n != 0
  | .tkw h _ n => h.f3264 && n != 0
  | .tkq h _ _ => h.f3264
  | .winit h _ _ _ => h.f3264
  | .wclm h _ _ => h.f3264
  | .wpub h _ => h.f3264
  | .wwf h _ _ => h.f3264
  | .wwe h _ _ => h.f3264
  | .wrel h _ => h.f3264
  | .phase h _ => h.f3264
  | .fenceE h => h.f3264
  | .tagb h _ _ _ => h.f6496
  | .tagbClr h _ => h.f6496
  | .wtag h _ _ => h.f6496
  | .tagq h _ _ _ => h.f6496
  | .tdep h _ _ _ _ => h.f6496
  | .tcpy h _ _ _ _ _ label => h.f6496 && h.litOk (label == 0)
  | .ttak h _ _ _ _ _ label => h.f6496 && h.litOk (label == 0)
  | .tcnl h _ _ _ => h.f6496
  | .cpy h _ _ _ => h.f6496
  | .cpyt h _ _ _ _ _ => h.f6496
  | .gath h _ _ _ _ _ _ => h.f6496
  | .scat h _ _ _ _ _ _ => h.f6496
  | .cpyx h _ _ _ _ _ _ _ _ _ _ _ => h.f6496
  | .cpyr h _ _ _ _ _ _ => h.f6496
  | .land h _ _ _ _ _ _ _ => h.f6496
  | .fwd h _ _ _ _ _ size => h.f6496 && decide (1 ≤ size.toNat ∧ size.toNat ≤ 64)
  | .lds h sz sg _ _ off => h.f6496 && !(sz == 3 && sg) && off.formOk h.form
  | .vadd h fmt rm _ _ _ _ _ => h.f96 && fmt.rmOk rm
  | .vsub h fmt rm _ _ _ _ _ => h.f96 && fmt.rmOk rm
  | .vmul h fmt rm _ _ _ _ _ => h.f96 && fmt.rmOk rm
  | .vmin h fmt rm _ _ _ _ _ => h.f96 && fmt.rmOk rm
  | .vmax h fmt rm _ _ _ _ _ => h.f96 && fmt.rmOk rm
  | .vand h fmt rm _ _ _ _ _ => h.f96 && fmt.rmOk rm
  | .vor h fmt rm _ _ _ _ _ => h.f96 && fmt.rmOk rm
  | .vxor h fmt rm _ _ _ _ _ => h.f96 && fmt.rmOk rm
  | .vshl h fmt rm _ _ _ _ _ => h.f96 && fmt.rmOk rm
  | .vshr h fmt rm _ _ _ _ _ => h.f96 && fmt.rmOk rm
  | .vfma h fmt rm _ _ _ _ _ => h.f96 && fmt.rmOk rm
  | .vfms h fmt rm _ _ _ _ _ => h.f96 && fmt.rmOk rm
  | .vabs h fmt rm _ _ _ _ => h.f96 && fmt.rmOk rm
  | .vneg h fmt rm _ _ _ _ => h.f96 && fmt.rmOk rm
  | .vcvt h _ _ _ _ _ _ _ _ => h.f96
  | .vmov h _ _ _ _ => h.f96
  | .vexp2 h fmt rm _ _ _ _ => h.f96 && fmt.rmOk rm
  | .vlog2 h fmt rm _ _ _ _ => h.f96 && fmt.rmOk rm
  | .vrcp h fmt rm _ _ _ _ => h.f96 && fmt.rmOk rm
  | .vrsq h fmt rm _ _ _ _ => h.f96 && fmt.rmOk rm
  | .vtanh h fmt rm _ _ _ _ => h.f96 && fmt.rmOk rm
  | .vsilu h fmt rm _ _ _ _ => h.f96 && fmt.rmOk rm
  | .vceq h _ _ _ _ _ => h.f96
  | .vclt h _ _ _ _ _ => h.f96
  | .vcle h _ _ _ _ _ => h.f96
  | .vsel h _ _ _ _ _ _ => h.f96
  | .vrsum h _ _ _ _ _ => h.f96
  | .vrmax h _ _ _ _ _ => h.f96
  | .vrmin h _ _ _ _ _ => h.f96
  | .vpsum h fmt rm _ _ _ _ => h.f96 && fmt.rmOk rm
  | .vamx h _ _ _ _ => h.f96
  | .vfill h _ _ _ _ => h.f96
  | .vperm h _ _ _ _ _ => h.f96
  | .zget h _ _ => h.f3264
  | .zset h _ _ => h.f3264
  | .zclr h _ => h.f3264
  | .mma h _ _ _ _ _ _ _ ml => h.f6496 && h.litOk (ml == ⟨0, 0, 0, 0⟩)
  | .mmak h _ _ _ _ _ _ _ _ ml off => h.f6496 && h.litOk (ml == ⟨0, 0, 0, 0⟩ && off == 0)
  | .aclr h _ _ => h.f6496
  | .adrn h _ _ _ _ _ _ _ _ _ lda => h.f6496 && h.litOk (lda == 0)
  | .atq h _ _ _ => h.f6496
  | .ats h _ _ _ _ => h.f6496
  | .atf h _ _ _ => h.f6496
  | .aadd h _ _ _ => h.f6496
  | .aaddf h _ _ _ _ => h.f6496
  | .awr h _ _ _ => h.f6496
  | .aaddx h _ _ _ _ => h.f6496
  | .aaddfx h _ _ _ _ _ => h.f6496
  | .awrx h _ _ _ _ => h.f6496
  | .setfid h _ => h.f3264
  | .fcrd h _ which => h.f3264 && which != 3
  | .fcclr h _ => h.f3264
  | .rwr h _ _ _ => h.f6496
  | .rrd h _ _ _ => h.f6496
  | .rwrr h _ _ _ _ _ _ => h.f6496
  | .qpost h _ _ _ _ => h.f6496
  | .carm h _ _ => h.f6496
  | .cadd h _ _ => h.f6496
  | .cwait h _ _ _ _ => h.f6496
  | .crd h _ _ => h.f6496
  | .qslot h _ _ _ _ => h.f6496
  | .csrr h _ csr => h.f64 && csrKnown csr
  | .csrw h csr _ => h.f64 && csrKnown csr
  | .trap h _ m => h.f3264 && h.pq == none && (h.form != .w32 || m == 0)
  | .eret h _ => h.f32
  | .tld h _ _ idx => h.f6496 && idx.isSome == (h.form == .w96)
  | .tlk h _ _ => h.f64
  | .tinv h _ _ _ => h.f64
  | .pmld h _ _ _ way => h.f6496 && way.isSome == (h.form == .w96)
  | .rply h _ => h.f3264
  | .ctxs h _ _ _ _ => h.f6496
  | .ctxl h _ _ _ => h.f6496
  | .tsr h _ => h.f3264
  | .lnch h _ _ _ _ => h.f6496
  | .idle h _ => h.f3264
  | .fixedLatencyLanding g => g.ok
  | .waitSatisfied g => g.ok
  | .ldsComplete g => g.ok
  | .copyUnit g => g.ok
  | .vectorUnit g => g.ok
  | .mmaUnit g => g.ok
  | .fidRailSwitchDone die cl => clOk die cl
  | .mmakTargetChoice g => g.ok
  | .mmakStartTime g => g.ok
  | .drainUnit g => g.ok
  | .aclrUnit g => g.ok
  | .attentionPerform g => g.ok
  | .landTile g => g.ok
  | .aatPerformed g => g.ok
  | .cpyrAdd g => g.ok
  | .roundTimeout _ => true
  | .workEntryFire die _ => decide (die < 8)
  | .workEntryComplete die _ => decide (die < 8)
  | .remoteUnitDeadline die _ => decide (die < 8)
  | .remoteUnitUnreached _ => true
  | .tupleTakeService die slice => decide (die < 8) && decide (slice < 64)
  | .tupleDepositService die slice => decide (die < 8) && decide (slice < 64)
  | .tupleCancelService die slice => decide (die < 8) && decide (slice < 64)
  | .tupleParkExpire die slice => decide (die < 8) && decide (slice < 64)
  | .tupleComplete _ => true
  | .tupleRemoteTimeout _ => true
  | .tupleResend _ => true
  | .strandStop r _ => r.ok
  | .preemptRequest _ _ => true
  | .watchdog r => r.ok
  | .launchPass => true
  | .queueAgeing _ => true
  | .teamStart _ => true
  | .teamRetire _ => true
  | .permitRefill die cl => clOk die cl
  | .windowBoundary => true
  | .memberLost mid => decide (mid < 32)
  | .dataFlit die lane fl =>
    decide (die < 8) && decide (lane < 256) && decide (fl.mid < 32) && decide (fl.src < 8) && fl.bytes.length == 528
  | .stripeSendStart die => decide (die < 8)
  | .dwellExpire die _ => decide (die < 8)
  | .lostStandin _ => true
  | .ack die lane f => decide (die < 8) && decide (lane < 256) && decide (f.src < 8)
  | .nak die lane f => decide (die < 8) && decide (lane < 256) && decide (f.src < 8)
  | .train die lane => decide (die < 8) && decide (lane < 256)
  | .laneTrainDone die lane => decide (die < 8) && decide (lane < 256)
  | .bktDecay die lane => decide (die < 8) && decide (lane < 256)
  | .laneLos die l => decide (die < 8) && decide (l.lane < 256)
  | .lightReturn die lane => decide (die < 8) && decide (lane < 256)
  | .sync mid _ => decide (mid < 32)
  | .follow mid _ => decide (mid < 32)
  | .dreq mid _ => decide (mid < 32)
  | .drsp mid _ => decide (mid < 32)
  | .seghdr die _ => decide (die < 8)
  | .freefr die _ => decide (die < 8)
  | .propose _ => true
  | .accept mid _ => decide (mid < 32)
  | .reject mid _ => decide (mid < 32)
  | .commit mid _ => decide (mid < 32)
  | .tspreq mid _ => decide (mid < 32)
  | .tsprsp mid _ => decide (mid < 32)
  | .wrhdr mid die _ => decide (die < 8) && decide (mid < 32)
  | .wrack _ _ => true
  | .wrnack _ _ _ => true
  | .rdreq mid die _ => decide (die < 8) && decide (mid < 32)
  | .redhdr mid die _ => decide (die < 8) && decide (mid < 32)
  | .redgo _ => true
  | .cntadd mid die _ => decide (die < 8) && decide (mid < 32)
  | .droopDetect die cl _ => clOk die cl
  | .thermalLimit die island => decide (die < 8) && decide (island < 3)
  | .thermalRecover die island => decide (die < 8) && decide (island < 3)
  | .logicRailSwitch die cl => clOk die cl
  | .scrubRead _ => true
  | .coldReset => true
  | .finjWrite die cl _ => clOk die cl
  | .fidthrWrite die cl _ => clOk die cl
  | .lfsrseedWrite die cl _ => clOk die cl
  | .permitWrite die cl _ => clOk die cl
  | .registerWrite _ _ => true
  | .hostBar2Write _ _ => true
  | .hostBar2Read _ _ => true
  | .submit => true
  | .abort => true
  | .region => true
  | .pubkey => true
  | .model => true
  | .attest => true
  | .contextCreate => true
  | .contextDestroy => true
  | .pages => true
  | .posmap => true
  | .lqcfg => true
  | .assign => true
  | .assignRelease => true
  | .mailboxUnknownCmd _ => true
  | .notAnInstruction _ => true
  | .wtagTimeout g => g.ok
  | .cwaitTimeout g => g.ok
  | .unlistedControlFlit die lane _ => decide (die < 8) && decide (lane < 256)
  | .laneRetuneDone die lane => decide (die < 8) && decide (lane < 256)
  | .trimRailPark die island _ => decide (die < 8) && decide (island < 3)

end Sys2Proof
end

