-- ==== Sys2Proof/Decode.lean ====
section
/-! DEFINITION. From bytes to instructions and back: the fields of the three words (R43, R44), the placement of the operands
of every instruction (R86 to R338, each chapter's encoding table), the checks of R47 that look at the words alone, and who
may execute what (R50). -/

namespace Sys2Proof

/-- The fields of an instruction's words, literal included, before they are read as operands. -/
structure Raw where
  h   : Hdr
  maj : BitVec 7
  f   : BitVec 5
  b   : BitVec 5
  a   : BitVec 5
  d   : BitVec 5
  imm : BitVec 16
  m   : BitVec 8
  lit : BitVec 32
deriving DecidableEq, Repr

def raw (h : Hdr) (maj : BitVec 7) (f b a d : BitVec 5) (imm : BitVec 16) (m : BitVec 8) (lit : BitVec 32) : Raw :=
  ⟨h, maj, f, b, a, d, imm, m, lit⟩

/-- Format codes (R20). -/
def Fmt.code : Fmt → BitVec 4
  | .fp32 => 0 | .bf16 => 1 | .fp16 => 2 | .e4m3 => 3 | .e5m2 => 4 | .sx4 => 5 | .sx6 => 6 | .sx9 => 7
  | .mxf4 => 8 | .mxf6a => 9 | .mxf6b => 10 | .mxf8a => 11 | .mxf8b => 12 | .i32 => 13 | .i8 => 14

/-- Code 15 is reserved (R20). -/
def Fmt.ofCode (c : BitVec 4) : Option Fmt :=
  match c.toNat with
  | 0 => some .fp32 | 1 => some .bf16 | 2 => some .fp16 | 3 => some .e4m3 | 4 => some .e5m2 | 5 => some .sx4
  | 6 => some .sx6 | 7 => some .sx9 | 8 => some .mxf4 | 9 => some .mxf6a | 10 => some .mxf6b | 11 => some .mxf8a
  | 12 => some .mxf8b | 13 => some .i32 | 14 => some .i8 | _ => none

/-- VCVT's destination code stands in five bits; 15 to 31 are reserved (R201). -/
def Fmt.ofCode5 (c : BitVec 5) : Option Fmt := if c.toNat < 16 then Fmt.ofCode (c.setWidth 4) else none

/-- Rounding codes (R33). -/
def RMode.code : RMode → BitVec 2
  | .rne => 0 | .rz => 1 | .ru => 2 | .rd => 3

def RMode.ofCode (c : BitVec 2) : RMode :=
  match c.toNat with
  | 0 => .rne | 1 => .rz | 2 => .ru | _ => .rd

/-- Scope codes (R196). -/
def Scope.code : Scope → BitVec 5
  | .strand => 0 | .cluster => 1 | .die => 2 | .package => 3 | .domain => 4

/-- Codes 5 to 31 are reserved (R196). -/
def Scope.ofCode (c : BitVec 5) : Option Scope :=
  match c.toNat with
  | 0 => some .strand | 1 => some .cluster | 2 => some .die | 3 => some .package | 4 => some .domain | _ => none

/-- Cause codes (R323): the constructors stand in the order of the codes. -/
def Cause.code (c : Cause) : BitVec 6 := BitVec.ofNat 6 c.ctorIdx

/-- Class codes (R54). -/
def Cls.code : Cls → Nat
  | .L => 0 | .C => 1 | .S => 2 | .K => 3

def Cls.ofCode : Nat → Cls
  | 0 => .L | 1 => .C | 2 => .S | _ => .K

/-- The modifier byte M: [7], [6], the rounding code [5:4] and the low four bits (R44, R67). -/
def mByte (b7 b6 : Bool) (rm : RMode) (lo : BitVec 4) : BitVec 8 :=
  BitVec.ofBool b7 ++ BitVec.ofBool b6 ++ rm.code ++ lo
def lo4 (m3 m2 : Bool) (lo : BitVec 2) : BitVec 4 := BitVec.ofBool m3 ++ BitVec.ofBool m2 ++ lo
def lo4b (m3 m2 m1 m0 : Bool) : BitVec 4 := lo4 m3 m2 (BitVec.ofBool m1 ++ BitVec.ofBool m0)
/-- IMM16 that names two TIDs, or one with a zero (R151, R227). -/
def immT (hi lo : BitVec 8) : BitVec 16 := hi ++ lo
/-- IMM16 of LAND (R90). -/
def landImm (cnt slot : BitVec 3) (mac : BitVec 6) : BitVec 16 := 0#4 ++ cnt ++ slot ++ mac
/-- The literal of a vector command (R200). -/
def vecLit (sb sa sd : BitVec 5) (count : BitVec 16) : BitVec 32 := 0#1 ++ sb ++ sa ++ sd ++ count
/-- The literal of MMA and MMAK (R227). -/
def mmaLit (off : BitVec 11) (l : MmaLit) : BitVec 32 := off ++ l.ntm1 ++ l.ktm1 ++ l.slot ++ l.mac0

def PbrTarget.reg : PbrTarget → BitVec 5
  | .rel _ => 0 | .abs a _ => a
def PbrTarget.imm : PbrTarget → BitVec 16
  | .rel o => o | .abs _ _ => 0
def PbrTarget.lit : PbrTarget → BitVec 32
  | .rel _ => 0 | .abs _ l => l
def LdsOff.imm16 : LdsOff → BitVec 16
  | .imm o => o | .lit _ => 0
def LdsOff.lit32 : LdsOff → BitVec 32
  | .imm _ => 0 | .lit l => l

/-- Where each instruction places its operands: every field it does not use holds zero (R45).  An event row has no words. -/
def Instr.toRaw : Instr → Option Raw
  | .add h d a b => some (raw h 0x1 0 b a d 0 0 0)
  | .sub h d a b => some (raw h 0x1 1 b a d 0 0 0)
  | .and h d a b => some (raw h 0x1 2 b a d 0 0 0)
  | .or h d a b => some (raw h 0x1 3 b a d 0 0 0)
  | .xor h d a b => some (raw h 0x1 4 b a d 0 0 0)
  | .andn h d a b => some (raw h 0x1 5 b a d 0 0 0)
  | .shl h d a b => some (raw h 0x1 6 b a d 0 0 0)
  | .shr h d a b => some (raw h 0x1 7 b a d 0 0 0)
  | .sra h d a b => some (raw h 0x1 8 b a d 0 0 0)
  | .rol h d a b => some (raw h 0x1 9 b a d 0 0 0)
  | .min h d a b => some (raw h 0x1 10 b a d 0 0 0)
  | .max h d a b => some (raw h 0x1 11 b a d 0 0 0)
  | .minu h d a b => some (raw h 0x1 12 b a d 0 0 0)
  | .maxu h d a b => some (raw h 0x1 13 b a d 0 0 0)
  | .mul h d a b => some (raw h 0x1 14 b a d 0 0 0)
  | .mulh h d a b => some (raw h 0x1 15 b a d 0 0 0)
  | .mulhu h d a b => some (raw h 0x1 16 b a d 0 0 0)
  | .div h d a b => some (raw h 0x1 17 b a d 0 0 0)
  | .divu h d a b => some (raw h 0x1 18 b a d 0 0 0)
  | .rem h d a b => some (raw h 0x1 19 b a d 0 0 0)
  | .remu h d a b => some (raw h 0x1 20 b a d 0 0 0)
  | .clz h d a => some (raw h 0x1 21 0 a d 0 0 0)
  | .popc h d a => some (raw h 0x1 22 0 a d 0 0 0)
  | .abs h d a => some (raw h 0x1 23 0 a d 0 0 0)
  | .addi h d a imm => some (raw h 0x2 0 0 a d imm 0 0)
  | .andi h d a imm => some (raw h 0x2 1 0 a d imm 0 0)
  | .ori h d a imm => some (raw h 0x2 2 0 a d imm 0 0)
  | .xori h d a imm => some (raw h 0x2 3 0 a d imm 0 0)
  | .shli h d a sh => some (raw h 0x2 4 0 a d (sh.setWidth 16) 0 0)
  | .shri h d a sh => some (raw h 0x2 5 0 a d (sh.setWidth 16) 0 0)
  | .srai h d a sh => some (raw h 0x2 6 0 a d (sh.setWidth 16) 0 0)
  | .roli h d a sh => some (raw h 0x2 7 0 a d (sh.setWidth 16) 0 0)
  | .mini h d a imm => some (raw h 0x2 8 0 a d imm 0 0)
  | .maxi h d a imm => some (raw h 0x2 9 0 a d imm 0 0)
  | .muli h d a imm => some (raw h 0x2 10 0 a d imm 0 0)
  | .liz h d lit => some (raw h 0x3 0 0 0 d 0 0 lit)
  | .lis h d lit => some (raw h 0x3 1 0 0 d 0 0 lit)
  | .lih h d lit => some (raw h 0x3 2 0 0 d 0 0 lit)
  | .eq h pd a b => some (raw h 0x4 0 b a (pd.setWidth 5) 0 0 0)
  | .ne h pd a b => some (raw h 0x4 1 b a (pd.setWidth 5) 0 0 0)
  | .lt h pd a b => some (raw h 0x4 2 b a (pd.setWidth 5) 0 0 0)
  | .ltu h pd a b => some (raw h 0x4 3 b a (pd.setWidth 5) 0 0 0)
  | .ge h pd a b => some (raw h 0x4 4 b a (pd.setWidth 5) 0 0 0)
  | .geu h pd a b => some (raw h 0x4 5 b a (pd.setWidth 5) 0 0 0)
  | .eqi h pd a imm => some (raw h 0x5 0 0 a (pd.setWidth 5) imm 0 0)
  | .nei h pd a imm => some (raw h 0x5 1 0 a (pd.setWidth 5) imm 0 0)
  | .lti h pd a imm => some (raw h 0x5 2 0 a (pd.setWidth 5) imm 0 0)
  | .ltui h pd a imm => some (raw h 0x5 3 0 a (pd.setWidth 5) imm 0 0)
  | .gei h pd a imm => some (raw h 0x5 4 0 a (pd.setWidth 5) imm 0 0)
  | .geui h pd a imm => some (raw h 0x5 5 0 a (pd.setWidth 5) imm 0 0)
  | .pand h pd pa pb => some (raw h 0x6 0 (pb.setWidth 5) (pa.setWidth 5) (pd.setWidth 5) 0 0 0)
  | .por h pd pa pb => some (raw h 0x6 1 (pb.setWidth 5) (pa.setWidth 5) (pd.setWidth 5) 0 0 0)
  | .pxor h pd pa pb => some (raw h 0x6 2 (pb.setWidth 5) (pa.setWidth 5) (pd.setWidth 5) 0 0 0)
  | .pnot h pd pa => some (raw h 0x6 3 0 (pa.setWidth 5) (pd.setWidth 5) 0 0 0)
  | .pmov h pd pa => some (raw h 0x6 4 0 (pa.setWidth 5) (pd.setWidth 5) 0 0 0)
  | .sel h pk d a b => some (raw h 0x7 (pk.setWidth 5) b a d 0 0 0)
  | .ldb h d a off => some (raw h 0x8 0 0 a d off 0 0)
  | .ldh h d a off => some (raw h 0x8 1 0 a d off 0 0)
  | .ldw h d a off => some (raw h 0x8 2 0 a d off 0 0)
  | .ldd h d a off => some (raw h 0x8 3 0 a d off 0 0)
  | .ldbs h d a off => some (raw h 0x8 4 0 a d off 0 0)
  | .ldhs h d a off => some (raw h 0x8 5 0 a d off 0 0)
  | .ldws h d a off => some (raw h 0x8 6 0 a d off 0 0)
  | .stb h a b off => some (raw h 0x9 0 b a 0 off 0 0)
  | .sth h a b off => some (raw h 0x9 1 b a 0 off 0 0)
  | .stw h a b off => some (raw h 0x9 2 b a 0 off 0 0)
  | .std h a b off => some (raw h 0x9 3 b a 0 off 0 0)
  | .fadd h d a b rm => some (raw h 0xa 0 b a d 0 (mByte false false rm (lo4b false false false false)) 0)
  | .fsub h d a b rm => some (raw h 0xa 1 b a d 0 (mByte false false rm (lo4b false false false false)) 0)
  | .fmul h d a b rm => some (raw h 0xa 2 b a d 0 (mByte false false rm (lo4b false false false false)) 0)
  | .ffma h d a b rm => some (raw h 0xa 3 b a d 0 (mByte false false rm (lo4b false false false false)) 0)
  | .fmin h d a b => some (raw h 0xa 4 b a d 0 0 0)
  | .fmax h d a b => some (raw h 0xa 5 b a d 0 0 0)
  | .fabs h d a => some (raw h 0xa 6 0 a d 0 0 0)
  | .fneg h d a => some (raw h 0xa 7 0 a d 0 0 0)
  | .fcmpeq h d a b => some (raw h 0xa 8 b a d 0 0 0)
  | .fcmplt h d a b => some (raw h 0xa 9 b a d 0 0 0)
  | .fcmple h d a b => some (raw h 0xa 10 b a d 0 0 0)
  | .fcvti h d a rm => some (raw h 0xa 11 0 a d 0 (mByte false false rm (lo4b false false false false)) 0)
  | .fcvtf h d a rm => some (raw h 0xa 12 0 a d 0 (mByte false false rm (lo4b false false false false)) 0)
  | .exp2 h d a => some (raw h 0xb 0 0 a d 0 0 0)
  | .log2 h d a => some (raw h 0xb 1 0 a d 0 0 0)
  | .rcp h d a => some (raw h 0xb 2 0 a d 0 0 0)
  | .rsqrt h d a => some (raw h 0xb 3 0 a d 0 0 0)
  | .sqrt h d a => some (raw h 0xb 4 0 a d 0 0 0)
  | .tanh h d a => some (raw h 0xb 5 0 a d 0 0 0)
  | .sin h d a => some (raw h 0xb 6 0 a d 0 0 0)
  | .cos h d a => some (raw h 0xb 7 0 a d 0 0 0)
  | .pbr h bd tgt => some (raw h 0x10 0 0 tgt.reg (bd.setWidth 5) tgt.imm 0 tgt.lit)
  | .brt h bd pa => some (raw h 0x11 0 0 (pa.setWidth 5) (bd.setWidth 5) 0 0 0)
  | .brf h bd pa => some (raw h 0x11 1 0 (pa.setWidth 5) (bd.setWidth 5) 0 0 0)
  | .bra h bd => some (raw h 0x11 2 0 0 (bd.setWidth 5) 0 0 0)
  | .call h bd => some (raw h 0x12 0 0 0 (bd.setWidth 5) 0 0 0)
  | .ret h => some (raw h 0x12 1 0 0 0 0 0 0)
  | .endI h => some (raw h 0x13 0 0 0 0 0 0 0)
  | .yield h => some (raw h 0x13 1 0 0 0 0 0 0)
  | .nop h => some (raw h 0x13 2 0 0 0 0 0 0)
  | .brk h => some (raw h 0x13 3 0 0 0 0 0 0)
  | .tkp h q n => some (raw h 0x14 0 n 0 (q.setWidth 5) 0 0 0)
  | .tkw h q n => some (raw h 0x14 1 n 0 (q.setWidth 5) 0 0 0)
  | .tkq h d q => some (raw h 0x14 2 0 (q.setWidth 5) d 0 0 0)
  | .winit h w base cfg => some (raw h 0x15 0 base (w.setWidth 5) cfg 0 0 0)
  | .wclm h d w => some (raw h 0x15 1 0 (w.setWidth 5) d 0 0 0)
  | .wpub h w => some (raw h 0x15 2 0 (w.setWidth 5) 0 0 0 0)
  | .wwf h d w => some (raw h 0x15 3 0 (w.setWidth 5) d 0 0 0)
  | .wwe h d w => some (raw h 0x15 4 0 (w.setWidth 5) d 0 0 0)
  | .wrel h w => some (raw h 0x15 5 0 (w.setWidth 5) 0 0 0 0)
  | .phase h scope => some (raw h 0x16 0 0 scope.code 0 0 0 0)
  | .fenceE h => some (raw h 0x16 1 0 0 0 0 0 0)
  | .tagb h bd a b => some (raw h 0x17 0 b a (bd.setWidth 5) 0 0 0)
  | .tagbClr h bd => some (raw h 0x17 0 0 0 (bd.setWidth 5) 0 (mByte false false .rne (lo4b false false false true)) 0)
  | .wtag h d tmo => some (raw h 0x17 1 0 0 d tmo 0 0)
  | .tagq h d a which => some (raw h 0x17 2 0 a d (which.setWidth 16) 0 0)
  | .tdep h nb d a b => some (raw h 0x18 0 b a d 0 (mByte false false .rne (lo4b false false false nb)) 0)
  | .tcpy h nb d a b tmo label => some (raw h 0x18 1 b a d tmo (mByte false false .rne (lo4b false false false nb)) (label.setWidth 32))
  | .ttak h nb d a b tmo label => some (raw h 0x18 2 b a d tmo (mByte false false .rne (lo4b false false false nb)) (label.setWidth 32))
  | .tcnl h d a b => some (raw h 0x18 3 b a d 0 0 0)
  | .cpy h d a b => some (raw h 0x20 0 b a d 0 0 0)
  | .cpyt h tn tm d a b => some (raw h 0x21 0 b a d (immT tm tn) 0 0)
  | .gath h pos tn tm d a b => some (raw h 0x22 0 b a d (immT tm tn) (mByte false false .rne (lo4b false pos false false)) 0)
  | .scat h pos tn tm d a b => some (raw h 0x23 0 b a d (immT tm tn) (mByte false false .rne (lo4b false pos false false)) 0)
  | .cpyx h sr sat rm pos app tr tn tm d a b => some (raw h 0x24 0 b a d (immT tm tn) (mByte sr sat rm (lo4b false pos app tr)) 0)
  | .cpyr h acc rm fmt d a b => some (raw h 0x25 0 b a d 0 (mByte acc false rm fmt.code) 0)
  | .land h fmt d a b mac slot cnt => some (raw h 0x26 0 b a d (landImm cnt slot mac) (mByte false false .rne fmt.code) 0)
  | .fwd h reinj audit d a b size => some (raw h 0x27 0 b a d (size.setWidth 16) (mByte false false .rne (lo4b false false audit reinj)) 0)
  | .lds h sz sg d a off => some (raw h 0x28 0 0 a d off.imm16 (mByte false false .rne (lo4 false sg sz)) off.lit32)
  | .vadd h fmt rm sat d a b v => some (raw h 0x30 0 b a d 0 (mByte false sat rm fmt.code) (vecLit v.sb v.sa v.sd v.count))
  | .vsub h fmt rm sat d a b v => some (raw h 0x30 1 b a d 0 (mByte false sat rm fmt.code) (vecLit v.sb v.sa v.sd v.count))
  | .vmul h fmt rm sat d a b v => some (raw h 0x30 2 b a d 0 (mByte false sat rm fmt.code) (vecLit v.sb v.sa v.sd v.count))
  | .vmin h fmt rm sat d a b v => some (raw h 0x30 3 b a d 0 (mByte false sat rm fmt.code) (vecLit v.sb v.sa v.sd v.count))
  | .vmax h fmt rm sat d a b v => some (raw h 0x30 4 b a d 0 (mByte false sat rm fmt.code) (vecLit v.sb v.sa v.sd v.count))
  | .vand h fmt rm sat d a b v => some (raw h 0x30 5 b a d 0 (mByte false sat rm fmt.code) (vecLit v.sb v.sa v.sd v.count))
  | .vor h fmt rm sat d a b v => some (raw h 0x30 6 b a d 0 (mByte false sat rm fmt.code) (vecLit v.sb v.sa v.sd v.count))
  | .vxor h fmt rm sat d a b v => some (raw h 0x30 7 b a d 0 (mByte false sat rm fmt.code) (vecLit v.sb v.sa v.sd v.count))
  | .vshl h fmt rm sat d a b v => some (raw h 0x30 8 b a d 0 (mByte false sat rm fmt.code) (vecLit v.sb v.sa v.sd v.count))
  | .vshr h fmt rm sat d a b v => some (raw h 0x30 9 b a d 0 (mByte false sat rm fmt.code) (vecLit v.sb v.sa v.sd v.count))
  | .vfma h fmt rm sat d a b v => some (raw h 0x31 0 b a d 0 (mByte false sat rm fmt.code) (vecLit v.sb v.sa v.sd v.count))
  | .vfms h fmt rm sat d a b v => some (raw h 0x31 1 b a d 0 (mByte false sat rm fmt.code) (vecLit v.sb v.sa v.sd v.count))
  | .vabs h fmt rm sat d a v => some (raw h 0x32 0 0 a d 0 (mByte false sat rm fmt.code) (vecLit 0 v.sa v.sd v.count))
  | .vneg h fmt rm sat d a v => some (raw h 0x32 1 0 a d 0 (mByte false sat rm fmt.code) (vecLit 0 v.sa v.sd v.count))
  | .vcvt h fmt dfmt rm sat sr d a v => some (raw h 0x32 2 0 a d 0 (mByte sr sat rm fmt.code) (vecLit (dfmt.code.setWidth 5) v.sa v.sd v.count))
  | .vmov h fmt d a v => some (raw h 0x32 3 0 a d 0 (mByte false false .rne fmt.code) (vecLit 0 v.sa v.sd v.count))
  | .vexp2 h fmt rm sat d a v => some (raw h 0x33 0 0 a d 0 (mByte false sat rm fmt.code) (vecLit 0 v.sa v.sd v.count))
  | .vlog2 h fmt rm sat d a v => some (raw h 0x33 1 0 a d 0 (mByte false sat rm fmt.code) (vecLit 0 v.sa v.sd v.count))
  | .vrcp h fmt rm sat d a v => some (raw h 0x33 2 0 a d 0 (mByte false sat rm fmt.code) (vecLit 0 v.sa v.sd v.count))
  | .vrsq h fmt rm sat d a v => some (raw h 0x33 3 0 a d 0 (mByte false sat rm fmt.code) (vecLit 0 v.sa v.sd v.count))
  | .vtanh h fmt rm sat d a v => some (raw h 0x33 4 0 a d 0 (mByte false sat rm fmt.code) (vecLit 0 v.sa v.sd v.count))
  | .vsilu h fmt rm sat d a v => some (raw h 0x33 5 0 a d 0 (mByte false sat rm fmt.code) (vecLit 0 v.sa v.sd v.count))
  | .vceq h fmt d a b v => some (raw h 0x34 0 b a d 0 (mByte false false .rne fmt.code) (vecLit v.sb v.sa v.sd v.count))
  | .vclt h fmt d a b v => some (raw h 0x34 1 b a d 0 (mByte false false .rne fmt.code) (vecLit v.sb v.sa v.sd v.count))
  | .vcle h fmt d a b v => some (raw h 0x34 2 b a d 0 (mByte false false .rne fmt.code) (vecLit v.sb v.sa v.sd v.count))
  | .vsel h fmt moff d a b v => some (raw h 0x35 0 b a d (moff.setWidth 16) (mByte false false .rne fmt.code) (vecLit v.sb v.sa v.sd v.count))
  | .vrsum h fmt rm z a v => some (raw h 0x36 0 0 a (z.setWidth 5) 0 (mByte false false rm fmt.code) (vecLit 0 v.sa 0 v.count))
  | .vrmax h fmt rm z a v => some (raw h 0x36 1 0 a (z.setWidth 5) 0 (mByte false false rm fmt.code) (vecLit 0 v.sa 0 v.count))
  | .vrmin h fmt rm z a v => some (raw h 0x36 2 0 a (z.setWidth 5) 0 (mByte false false rm fmt.code) (vecLit 0 v.sa 0 v.count))
  | .vpsum h fmt rm sat d a v => some (raw h 0x37 0 0 a d 0 (mByte false sat rm fmt.code) (vecLit 0 v.sa v.sd v.count))
  | .vamx h fmt tid a v => some (raw h 0x38 0 0 a 0 (immT 0 tid) (mByte false false .rne fmt.code) (vecLit 0 v.sa 0 v.count))
  | .vfill h fmt d a v => some (raw h 0x39 0 0 a d 0 (mByte false false .rne fmt.code) (vecLit 0 0 v.sd v.count))
  | .vperm h fmt d a b v => some (raw h 0x3a 0 b a d 0 (mByte false false .rne fmt.code) (vecLit v.sb v.sa v.sd v.count))
  | .zget h d z => some (raw h 0x3b 0 0 (z.setWidth 5) d 0 0 0)
  | .zset h z a => some (raw h 0x3b 1 0 a (z.setWidth 5) 0 0 0)
  | .zclr h z => some (raw h 0x3b 2 0 0 (z.setWidth 5) 0 0 0)
  | .mma h lst zr rm tA tB a b ml => some (raw h 0x40 0 b a 0 (immT tB tA) (mByte false false rm (lo4b false false lst zr)) (mmaLit 0 ml))
  | .mmak h lst zr rm tA tB d a b ml off => some (raw h 0x40 1 b a d (immT tB tA) (mByte false false rm (lo4b false false lst zr)) (mmaLit off ml))
  | .aclr h a b => some (raw h 0x41 0 b a 0 0 0 0)
  | .adrn h sr sat rm clr tr tn d a b lda => some (raw h 0x41 1 b a d (immT 0 tn) (mByte sr sat rm (lo4b clr false false tr)) (lda.setWidth 32))
  | .atq h tq d a => some (raw h 0x42 0 0 a d (immT 0 tq) 0 0)
  | .ats h tk tv a b => some (raw h 0x42 1 b a 0 (immT tv tk) 0 0)
  | .atf h u a b => some (raw h 0x42 2 b a 0 0 (mByte false false .rne (lo4b false false false u)) 0)
  | .aadd h stg a b => some (raw h 0x43 0 b a 0 0 (mByte false false .rne (lo4b false false false stg)) 0)
  | .aaddf h stg rm a b => some (raw h 0x43 1 b a 0 0 (mByte false false rm (lo4b false false false stg)) 0)
  | .awr h stg a b => some (raw h 0x43 2 b a 0 0 (mByte false false .rne (lo4b false false false stg)) 0)
  | .aaddx h stg d a b => some (raw h 0x43 3 b a d 0 (mByte false false .rne (lo4b false false false stg)) 0)
  | .aaddfx h stg rm d a b => some (raw h 0x43 4 b a d 0 (mByte false false rm (lo4b false false false stg)) 0)
  | .awrx h stg d a b => some (raw h 0x43 5 b a d 0 (mByte false false .rne (lo4b false false false stg)) 0)
  | .setfid h f => some (raw h 0x50 0 0 (f.setWidth 5) 0 0 0 0)
  | .fcrd h d which => some (raw h 0x50 1 0 (which.setWidth 5) d 0 0 0)
  | .fcclr h d => some (raw h 0x50 2 0 0 d 0 0 0)
  | .rwr h d a b => some (raw h 0x60 0 b a d 0 0 0)
  | .rrd h d a b => some (raw h 0x61 0 b a d 0 0 0)
  | .rwrr h acc rm fmt d a b => some (raw h 0x62 0 b a d 0 (mByte acc false rm fmt.code) 0)
  | .qpost h nb d a qp => some (raw h 0x63 0 0 a d (qp.setWidth 16) (mByte false false .rne (lo4b false false false nb)) 0)
  | .carm h a b => some (raw h 0x64 0 b a 0 0 0 0)
  | .cadd h a b => some (raw h 0x64 1 b a 0 0 0 0)
  | .cwait h d a b tmo => some (raw h 0x64 2 b a d tmo 0 0)
  | .crd h d a => some (raw h 0x64 3 0 a d 0 0 0)
  | .qslot h acc clr a b => some (raw h 0x65 0 b a 0 0 (mByte acc clr .rne (lo4b false false false false)) 0)
  | .csrr h d csr => some (raw h 0x70 0 0 0 d (csr.setWidth 16) 0 0)
  | .csrw h csr a => some (raw h 0x71 0 0 a 0 (csr.setWidth 16) 0 0)
  | .trap h n m => some (raw h 0x72 n 0 0 0 m 0 0)
  | .eret h d => some (raw h 0x73 0 0 0 d 0 0 0)
  | .tld h d b idx => some (raw h 0x74 0 b 0 d 0 0 ((idx.getD 0).setWidth 32))
  | .tlk h a l => some (raw h 0x75 0 0 a 0 ((BitVec.ofBool l).setWidth 16) 0 0)
  | .tinv h d a mode => some (raw h 0x76 0 0 a d (mode.setWidth 16) 0 0)
  | .pmld h d a b way => some (raw h 0x77 0 b a d 0 0 ((way.getD 0).setWidth 32))
  | .rply h a => some (raw h 0x78 0 0 a 0 0 0 0)
  | .ctxs h rel d a b => some (raw h 0x79 0 b a d 0 (mByte false false .rne (lo4b false false false rel)) 0)
  | .ctxl h d a b => some (raw h 0x7a 0 b a d 0 0 0)
  | .tsr h d => some (raw h 0x7b 0 0 0 d 0 0 0)
  | .lnch h nb d a lq => some (raw h 0x7c 0 0 a d (lq.setWidth 16) (mByte false false .rne (lo4b false false false nb)) 0)
  | .idle h d => some (raw h 0x7d 0 0 0 d 0 0 0)
  | .fixedLatencyLanding _ => none
  | .waitSatisfied _ => none
  | .ldsComplete _ => none
  | .copyUnit _ => none
  | .vectorUnit _ => none
  | .mmaUnit _ => none
  | .fidRailSwitchDone _ _ => none
  | .mmakTargetChoice _ => none
  | .mmakStartTime _ => none
  | .drainUnit _ => none
  | .aclrUnit _ => none
  | .attentionPerform _ => none
  | .landTile _ => none
  | .aatPerformed _ => none
  | .cpyrAdd _ => none
  | .roundTimeout _ => none
  | .workEntryFire _ _ => none
  | .workEntryComplete _ _ => none
  | .remoteUnitDeadline _ _ => none
  | .remoteUnitUnreached _ => none
  | .tupleTakeService _ _ => none
  | .tupleDepositService _ _ => none
  | .tupleCancelService _ _ => none
  | .tupleParkExpire _ _ => none
  | .tupleComplete _ => none
  | .tupleRemoteTimeout _ => none
  | .tupleResend _ => none
  | .strandStop _ _ => none
  | .preemptRequest _ _ => none
  | .watchdog _ => none
  | .launchPass => none
  | .queueAgeing _ => none
  | .teamStart _ => none
  | .teamRetire _ => none
  | .permitRefill _ _ => none
  | .windowBoundary => none
  | .memberLost _ => none
  | .dataFlit _ _ _ => none
  | .stripeSendStart _ => none
  | .dwellExpire _ _ => none
  | .lostStandin _ => none
  | .ack _ _ _ => none
  | .nak _ _ _ => none
  | .train _ _ => none
  | .laneTrainDone _ _ => none
  | .bktDecay _ _ => none
  | .laneLos _ _ => none
  | .lightReturn _ _ => none
  | .sync _ _ => none
  | .follow _ _ => none
  | .dreq _ _ => none
  | .drsp _ _ => none
  | .seghdr _ _ => none
  | .freefr _ _ => none
  | .propose _ => none
  | .accept _ _ => none
  | .reject _ _ => none
  | .commit _ _ => none
  | .tspreq _ _ => none
  | .tsprsp _ _ => none
  | .wrhdr _ _ _ => none
  | .wrack _ _ => none
  | .wrnack _ _ _ => none
  | .rdreq _ _ _ => none
  | .redhdr _ _ _ => none
  | .redgo _ => none
  | .cntadd _ _ _ => none
  | .droopDetect _ _ _ => none
  | .thermalLimit _ _ => none
  | .thermalRecover _ _ => none
  | .logicRailSwitch _ _ => none
  | .scrubRead _ => none
  | .coldReset => none
  | .finjWrite _ _ _ => none
  | .fidthrWrite _ _ _ => none
  | .lfsrseedWrite _ _ _ => none
  | .permitWrite _ _ _ => none
  | .registerWrite _ _ => none
  | .hostBar2Write _ _ => none
  | .hostBar2Read _ _ => none
  | .submit => none
  | .abort => none
  | .region => none
  | .pubkey => none
  | .model => none
  | .attest => none
  | .contextCreate => none
  | .contextDestroy => none
  | .pages => none
  | .posmap => none
  | .lqcfg => none
  | .assign => none
  | .assignRelease => none
  | .mailboxUnknownCmd _ => none
  | .notAnInstruction _ => none
  | .wtagTimeout _ => none
  | .cwaitTimeout _ => none
  | .unlistedControlFlit _ _ _ => none
  | .laneRetuneDone _ _ => none
  | .trimRailPark _ _ _ => none

namespace Raw
def rm (r : Raw) : RMode := RMode.ofCode (r.m.extractLsb' 4 2)
def vec3 (r : Raw) : VecLit :=
  ⟨r.lit.setWidth 16, r.lit.extractLsb' 16 5, r.lit.extractLsb' 21 5, r.lit.extractLsb' 26 5⟩
def vec2 (r : Raw) : VecLit2 := ⟨r.lit.setWidth 16, r.lit.extractLsb' 16 5, r.lit.extractLsb' 21 5⟩
def vecA (r : Raw) : VecLitA := ⟨r.lit.setWidth 16, r.lit.extractLsb' 21 5⟩
def vecD (r : Raw) : VecLitD := ⟨r.lit.setWidth 16, r.lit.extractLsb' 16 5⟩
def mma (r : Raw) : MmaLit :=
  ⟨r.lit.extractLsb' 15 6, r.lit.extractLsb' 9 6, r.lit.extractLsb' 6 3, r.lit.setWidth 6⟩
def pbr (r : Raw) : PbrTarget := if r.h.form = .w96 then .abs r.a r.lit else .rel r.imm
def ldsOff (r : Raw) : LdsOff := if r.h.form = .w96 then .lit r.lit else .imm r.imm
def idx (r : Raw) : Option (BitVec 12) := if r.h.form = .w96 then some (r.lit.setWidth 12) else none
def way (r : Raw) : Option (BitVec 2) := if r.h.form = .w96 then some (r.lit.setWidth 2) else none

/-- The instruction whose major and function the fields name, its operands read from their places; bits that it does not
use are not looked at here (see `decode`). -/
def candidate (r : Raw) : Option Instr :=
  match r.maj.toNat with
  | 0x1 =>
    match r.f.toNat with
    | 0 => some (.add r.h r.d r.a r.b)
    | 1 => some (.sub r.h r.d r.a r.b)
    | 2 => some (.and r.h r.d r.a r.b)
    | 3 => some (.or r.h r.d r.a r.b)
    | 4 => some (.xor r.h r.d r.a r.b)
    | 5 => some (.andn r.h r.d r.a r.b)
    | 6 => some (.shl r.h r.d r.a r.b)
    | 7 => some (.shr r.h r.d r.a r.b)
    | 8 => some (.sra r.h r.d r.a r.b)
    | 9 => some (.rol r.h r.d r.a r.b)
    | 10 => some (.min r.h r.d r.a r.b)
    | 11 => some (.max r.h r.d r.a r.b)
    | 12 => some (.minu r.h r.d r.a r.b)
    | 13 => some (.maxu r.h r.d r.a r.b)
    | 14 => some (.mul r.h r.d r.a r.b)
    | 15 => some (.mulh r.h r.d r.a r.b)
    | 16 => some (.mulhu r.h r.d r.a r.b)
    | 17 => some (.div r.h r.d r.a r.b)
    | 18 => some (.divu r.h r.d r.a r.b)
    | 19 => some (.rem r.h r.d r.a r.b)
    | 20 => some (.remu r.h r.d r.a r.b)
    | 21 => some (.clz r.h r.d r.a)
    | 22 => some (.popc r.h r.d r.a)
    | 23 => some (.abs r.h r.d r.a)
    | _ => none
  | 0x2 =>
    match r.f.toNat with
    | 0 => some (.addi r.h r.d r.a r.imm)
    | 1 => some (.andi r.h r.d r.a r.imm)
    | 2 => some (.ori r.h r.d r.a r.imm)
    | 3 => some (.xori r.h r.d r.a r.imm)
    | 4 => some (.shli r.h r.d r.a (r.imm.setWidth 6))
    | 5 => some (.shri r.h r.d r.a (r.imm.setWidth 6))
    | 6 => some (.srai r.h r.d r.a (r.imm.setWidth 6))
    | 7 => some (.roli r.h r.d r.a (r.imm.setWidth 6))
    | 8 => some (.mini r.h r.d r.a r.imm)
    | 9 => some (.maxi r.h r.d r.a r.imm)
    | 10 => some (.muli r.h r.d r.a r.imm)
    | _ => none
  | 0x3 =>
    match r.f.toNat with
    | 0 => some (.liz r.h r.d r.lit)
    | 1 => some (.lis r.h r.d r.lit)
    | 2 => some (.lih r.h r.d r.lit)
    | _ => none
  | 0x4 =>
    match r.f.toNat with
    | 0 => some (.eq r.h (r.d.setWidth 3) r.a r.b)
    | 1 => some (.ne r.h (r.d.setWidth 3) r.a r.b)
    | 2 => some (.lt r.h (r.d.setWidth 3) r.a r.b)
    | 3 => some (.ltu r.h (r.d.setWidth 3) r.a r.b)
    | 4 => some (.ge r.h (r.d.setWidth 3) r.a r.b)
    | 5 => some (.geu r.h (r.d.setWidth 3) r.a r.b)
    | _ => none
  | 0x5 =>
    match r.f.toNat with
    | 0 => some (.eqi r.h (r.d.setWidth 3) r.a r.imm)
    | 1 => some (.nei r.h (r.d.setWidth 3) r.a r.imm)
    | 2 => some (.lti r.h (r.d.setWidth 3) r.a r.imm)
    | 3 => some (.ltui r.h (r.d.setWidth 3) r.a r.imm)
    | 4 => some (.gei r.h (r.d.setWidth 3) r.a r.imm)
    | 5 => some (.geui r.h (r.d.setWidth 3) r.a r.imm)
    | _ => none
  | 0x6 =>
    match r.f.toNat with
    | 0 => some (.pand r.h (r.d.setWidth 3) (r.a.setWidth 3) (r.b.setWidth 3))
    | 1 => some (.por r.h (r.d.setWidth 3) (r.a.setWidth 3) (r.b.setWidth 3))
    | 2 => some (.pxor r.h (r.d.setWidth 3) (r.a.setWidth 3) (r.b.setWidth 3))
    | 3 => some (.pnot r.h (r.d.setWidth 3) (r.a.setWidth 3))
    | 4 => some (.pmov r.h (r.d.setWidth 3) (r.a.setWidth 3))
    | _ => none
  | 0x7 => some (.sel r.h (r.f.setWidth 3) r.d r.a r.b)
  | 0x8 =>
    match r.f.toNat with
    | 0 => some (.ldb r.h r.d r.a r.imm)
    | 1 => some (.ldh r.h r.d r.a r.imm)
    | 2 => some (.ldw r.h r.d r.a r.imm)
    | 3 => some (.ldd r.h r.d r.a r.imm)
    | 4 => some (.ldbs r.h r.d r.a r.imm)
    | 5 => some (.ldhs r.h r.d r.a r.imm)
    | 6 => some (.ldws r.h r.d r.a r.imm)
    | _ => none
  | 0x9 =>
    match r.f.toNat with
    | 0 => some (.stb r.h r.a r.b r.imm)
    | 1 => some (.sth r.h r.a r.b r.imm)
    | 2 => some (.stw r.h r.a r.b r.imm)
    | 3 => some (.std r.h r.a r.b r.imm)
    | _ => none
  | 0xa =>
    match r.f.toNat with
    | 0 => some (.fadd r.h r.d r.a r.b r.rm)
    | 1 => some (.fsub r.h r.d r.a r.b r.rm)
    | 2 => some (.fmul r.h r.d r.a r.b r.rm)
    | 3 => some (.ffma r.h r.d r.a r.b r.rm)
    | 4 => some (.fmin r.h r.d r.a r.b)
    | 5 => some (.fmax r.h r.d r.a r.b)
    | 6 => some (.fabs r.h r.d r.a)
    | 7 => some (.fneg r.h r.d r.a)
    | 8 => some (.fcmpeq r.h r.d r.a r.b)
    | 9 => some (.fcmplt r.h r.d r.a r.b)
    | 10 => some (.fcmple r.h r.d r.a r.b)
    | 11 => some (.fcvti r.h r.d r.a r.rm)
    | 12 => some (.fcvtf r.h r.d r.a r.rm)
    | _ => none
  | 0xb =>
    match r.f.toNat with
    | 0 => some (.exp2 r.h r.d r.a)
    | 1 => some (.log2 r.h r.d r.a)
    | 2 => some (.rcp r.h r.d r.a)
    | 3 => some (.rsqrt r.h r.d r.a)
    | 4 => some (.sqrt r.h r.d r.a)
    | 5 => some (.tanh r.h r.d r.a)
    | 6 => some (.sin r.h r.d r.a)
    | 7 => some (.cos r.h r.d r.a)
    | _ => none
  | 0x10 => some (.pbr r.h (r.d.setWidth 2) r.pbr)
  | 0x11 =>
    match r.f.toNat with
    | 0 => some (.brt r.h (r.d.setWidth 2) (r.a.setWidth 3))
    | 1 => some (.brf r.h (r.d.setWidth 2) (r.a.setWidth 3))
    | 2 => some (.bra r.h (r.d.setWidth 2))
    | _ => none
  | 0x12 =>
    match r.f.toNat with
    | 0 => some (.call r.h (r.d.setWidth 2))
    | 1 => some (.ret r.h)
    | _ => none
  | 0x13 =>
    match r.f.toNat with
    | 0 => some (.endI r.h)
    | 1 => some (.yield r.h)
    | 2 => some (.nop r.h)
    | 3 => some (.brk r.h)
    | _ => none
  | 0x14 =>
    match r.f.toNat with
    | 0 => some (.tkp r.h (r.d.setWidth 3) r.b)
    | 1 => some (.tkw r.h (r.d.setWidth 3) r.b)
    | 2 => some (.tkq r.h r.d (r.a.setWidth 3))
    | _ => none
  | 0x15 =>
    match r.f.toNat with
    | 0 => some (.winit r.h (r.a.setWidth 4) r.b r.d)
    | 1 => some (.wclm r.h r.d (r.a.setWidth 4))
    | 2 => some (.wpub r.h (r.a.setWidth 4))
    | 3 => some (.wwf r.h r.d (r.a.setWidth 4))
    | 4 => some (.wwe r.h r.d (r.a.setWidth 4))
    | 5 => some (.wrel r.h (r.a.setWidth 4))
    | _ => none
  | 0x16 =>
    match r.f.toNat with
    | 0 => (Scope.ofCode r.a).bind fun scope => some (.phase r.h scope)
    | 1 => some (.fenceE r.h)
    | _ => none
  | 0x17 =>
    match r.f.toNat with
    | 0 => if r.m.getLsbD 0 then some (.tagbClr r.h (r.d.setWidth 2)) else some (.tagb r.h (r.d.setWidth 2) r.a r.b)
    | 1 => some (.wtag r.h r.d r.imm)
    | 2 => some (.tagq r.h r.d r.a (r.imm.setWidth 2))
    | _ => none
  | 0x18 =>
    match r.f.toNat with
    | 0 => some (.tdep r.h (r.m.getLsbD 0) r.d r.a r.b)
    | 1 => some (.tcpy r.h (r.m.getLsbD 0) r.d r.a r.b r.imm (r.lit.setWidth 16))
    | 2 => some (.ttak r.h (r.m.getLsbD 0) r.d r.a r.b r.imm (r.lit.setWidth 16))
    | 3 => some (.tcnl r.h r.d r.a r.b)
    | _ => none
  | 0x20 => some (.cpy r.h r.d r.a r.b)
  | 0x21 => some (.cpyt r.h (r.imm.setWidth 8) (r.imm.extractLsb' 8 8) r.d r.a r.b)
  | 0x22 => some (.gath r.h (r.m.getLsbD 2) (r.imm.setWidth 8) (r.imm.extractLsb' 8 8) r.d r.a r.b)
  | 0x23 => some (.scat r.h (r.m.getLsbD 2) (r.imm.setWidth 8) (r.imm.extractLsb' 8 8) r.d r.a r.b)
  | 0x24 => some (.cpyx r.h (r.m.getLsbD 7) (r.m.getLsbD 6) r.rm (r.m.getLsbD 2) (r.m.getLsbD 1) (r.m.getLsbD 0) (r.imm.setWidth 8) (r.imm.extractLsb' 8 8) r.d r.a r.b)
  | 0x25 => (Fmt.ofCode (r.m.setWidth 4)).bind fun fmt => some (.cpyr r.h (r.m.getLsbD 7) r.rm fmt r.d r.a r.b)
  | 0x26 => (Fmt.ofCode (r.m.setWidth 4)).bind fun fmt => some (.land r.h fmt r.d r.a r.b (r.imm.setWidth 6) (r.imm.extractLsb' 6 3) (r.imm.extractLsb' 9 3))
  | 0x27 => some (.fwd r.h (r.m.getLsbD 0) (r.m.getLsbD 1) r.d r.a r.b (r.imm.setWidth 7))
  | 0x28 => some (.lds r.h (r.m.setWidth 2) (r.m.getLsbD 2) r.d r.a r.ldsOff)
  | 0x30 =>
    match r.f.toNat with
    | 0 => (Fmt.ofCode (r.m.setWidth 4)).bind fun fmt => some (.vadd r.h fmt r.rm (r.m.getLsbD 6) r.d r.a r.b r.vec3)
    | 1 => (Fmt.ofCode (r.m.setWidth 4)).bind fun fmt => some (.vsub r.h fmt r.rm (r.m.getLsbD 6) r.d r.a r.b r.vec3)
    | 2 => (Fmt.ofCode (r.m.setWidth 4)).bind fun fmt => some (.vmul r.h fmt r.rm (r.m.getLsbD 6) r.d r.a r.b r.vec3)
    | 3 => (Fmt.ofCode (r.m.setWidth 4)).bind fun fmt => some (.vmin r.h fmt r.rm (r.m.getLsbD 6) r.d r.a r.b r.vec3)
    | 4 => (Fmt.ofCode (r.m.setWidth 4)).bind fun fmt => some (.vmax r.h fmt r.rm (r.m.getLsbD 6) r.d r.a r.b r.vec3)
    | 5 => (Fmt.ofCode (r.m.setWidth 4)).bind fun fmt => some (.vand r.h fmt r.rm (r.m.getLsbD 6) r.d r.a r.b r.vec3)
    | 6 => (Fmt.ofCode (r.m.setWidth 4)).bind fun fmt => some (.vor r.h fmt r.rm (r.m.getLsbD 6) r.d r.a r.b r.vec3)
    | 7 => (Fmt.ofCode (r.m.setWidth 4)).bind fun fmt => some (.vxor r.h fmt r.rm (r.m.getLsbD 6) r.d r.a r.b r.vec3)
    | 8 => (Fmt.ofCode (r.m.setWidth 4)).bind fun fmt => some (.vshl r.h fmt r.rm (r.m.getLsbD 6) r.d r.a r.b r.vec3)
    | 9 => (Fmt.ofCode (r.m.setWidth 4)).bind fun fmt => some (.vshr r.h fmt r.rm (r.m.getLsbD 6) r.d r.a r.b r.vec3)
    | _ => none
  | 0x31 =>
    match r.f.toNat with
    | 0 => (Fmt.ofCode (r.m.setWidth 4)).bind fun fmt => some (.vfma r.h fmt r.rm (r.m.getLsbD 6) r.d r.a r.b r.vec3)
    | 1 => (Fmt.ofCode (r.m.setWidth 4)).bind fun fmt => some (.vfms r.h fmt r.rm (r.m.getLsbD 6) r.d r.a r.b r.vec3)
    | _ => none
  | 0x32 =>
    match r.f.toNat with
    | 0 => (Fmt.ofCode (r.m.setWidth 4)).bind fun fmt => some (.vabs r.h fmt r.rm (r.m.getLsbD 6) r.d r.a r.vec2)
    | 1 => (Fmt.ofCode (r.m.setWidth 4)).bind fun fmt => some (.vneg r.h fmt r.rm (r.m.getLsbD 6) r.d r.a r.vec2)
    | 2 => (Fmt.ofCode (r.m.setWidth 4)).bind fun fmt => (Fmt.ofCode5 (r.lit.extractLsb' 26 5)).bind fun dfmt => some (.vcvt r.h fmt dfmt r.rm (r.m.getLsbD 6) (r.m.getLsbD 7) r.d r.a r.vec2)
    | 3 => (Fmt.ofCode (r.m.setWidth 4)).bind fun fmt => some (.vmov r.h fmt r.d r.a r.vec2)
    | _ => none
  | 0x33 =>
    match r.f.toNat with
    | 0 => (Fmt.ofCode (r.m.setWidth 4)).bind fun fmt => some (.vexp2 r.h fmt r.rm (r.m.getLsbD 6) r.d r.a r.vec2)
    | 1 => (Fmt.ofCode (r.m.setWidth 4)).bind fun fmt => some (.vlog2 r.h fmt r.rm (r.m.getLsbD 6) r.d r.a r.vec2)
    | 2 => (Fmt.ofCode (r.m.setWidth 4)).bind fun fmt => some (.vrcp r.h fmt r.rm (r.m.getLsbD 6) r.d r.a r.vec2)
    | 3 => (Fmt.ofCode (r.m.setWidth 4)).bind fun fmt => some (.vrsq r.h fmt r.rm (r.m.getLsbD 6) r.d r.a r.vec2)
    | 4 => (Fmt.ofCode (r.m.setWidth 4)).bind fun fmt => some (.vtanh r.h fmt r.rm (r.m.getLsbD 6) r.d r.a r.vec2)
    | 5 => (Fmt.ofCode (r.m.setWidth 4)).bind fun fmt => some (.vsilu r.h fmt r.rm (r.m.getLsbD 6) r.d r.a r.vec2)
    | _ => none
  | 0x34 =>
    match r.f.toNat with
    | 0 => (Fmt.ofCode (r.m.setWidth 4)).bind fun fmt => some (.vceq r.h fmt r.d r.a r.b r.vec3)
    | 1 => (Fmt.ofCode (r.m.setWidth 4)).bind fun fmt => some (.vclt r.h fmt r.d r.a r.b r.vec3)
    | 2 => (Fmt.ofCode (r.m.setWidth 4)).bind fun fmt => some (.vcle r.h fmt r.d r.a r.b r.vec3)
    | _ => none
  | 0x35 => (Fmt.ofCode (r.m.setWidth 4)).bind fun fmt => some (.vsel r.h fmt (r.imm.setWidth 15) r.d r.a r.b r.vec3)
  | 0x36 =>
    match r.f.toNat with
    | 0 => (Fmt.ofCode (r.m.setWidth 4)).bind fun fmt => some (.vrsum r.h fmt r.rm (r.d.setWidth 2) r.a r.vecA)
    | 1 => (Fmt.ofCode (r.m.setWidth 4)).bind fun fmt => some (.vrmax r.h fmt r.rm (r.d.setWidth 2) r.a r.vecA)
    | 2 => (Fmt.ofCode (r.m.setWidth 4)).bind fun fmt => some (.vrmin r.h fmt r.rm (r.d.setWidth 2) r.a r.vecA)
    | _ => none
  | 0x37 => (Fmt.ofCode (r.m.setWidth 4)).bind fun fmt => some (.vpsum r.h fmt r.rm (r.m.getLsbD 6) r.d r.a r.vec2)
  | 0x38 => (Fmt.ofCode (r.m.setWidth 4)).bind fun fmt => some (.vamx r.h fmt (r.imm.setWidth 8) r.a r.vecA)
  | 0x39 => (Fmt.ofCode (r.m.setWidth 4)).bind fun fmt => some (.vfill r.h fmt r.d r.a r.vecD)
  | 0x3a => (Fmt.ofCode (r.m.setWidth 4)).bind fun fmt => some (.vperm r.h fmt r.d r.a r.b r.vec3)
  | 0x3b =>
    match r.f.toNat with
    | 0 => some (.zget r.h r.d (r.a.setWidth 2))
    | 1 => some (.zset r.h (r.d.setWidth 2) r.a)
    | 2 => some (.zclr r.h (r.d.setWidth 2))
    | _ => none
  | 0x40 =>
    match r.f.toNat with
    | 0 => some (.mma r.h (r.m.getLsbD 1) (r.m.getLsbD 0) r.rm (r.imm.setWidth 8) (r.imm.extractLsb' 8 8) r.a r.b r.mma)
    | 1 => some (.mmak r.h (r.m.getLsbD 1) (r.m.getLsbD 0) r.rm (r.imm.setWidth 8) (r.imm.extractLsb' 8 8) r.d r.a r.b r.mma (r.lit.extractLsb' 21 11))
    | _ => none
  | 0x41 =>
    match r.f.toNat with
    | 0 => some (.aclr r.h r.a r.b)
    | 1 => some (.adrn r.h (r.m.getLsbD 7) (r.m.getLsbD 6) r.rm (r.m.getLsbD 3) (r.m.getLsbD 0) (r.imm.setWidth 8) r.d r.a r.b (r.lit.setWidth 17))
    | _ => none
  | 0x42 =>
    match r.f.toNat with
    | 0 => some (.atq r.h (r.imm.setWidth 8) r.d r.a)
    | 1 => some (.ats r.h (r.imm.setWidth 8) (r.imm.extractLsb' 8 8) r.a r.b)
    | 2 => some (.atf r.h (r.m.getLsbD 0) r.a r.b)
    | _ => none
  | 0x43 =>
    match r.f.toNat with
    | 0 => some (.aadd r.h (r.m.getLsbD 0) r.a r.b)
    | 1 => some (.aaddf r.h (r.m.getLsbD 0) r.rm r.a r.b)
    | 2 => some (.awr r.h (r.m.getLsbD 0) r.a r.b)
    | 3 => some (.aaddx r.h (r.m.getLsbD 0) r.d r.a r.b)
    | 4 => some (.aaddfx r.h (r.m.getLsbD 0) r.rm r.d r.a r.b)
    | 5 => some (.awrx r.h (r.m.getLsbD 0) r.d r.a r.b)
    | _ => none
  | 0x50 =>
    match r.f.toNat with
    | 0 => some (.setfid r.h (r.a.setWidth 2))
    | 1 => some (.fcrd r.h r.d (r.a.setWidth 2))
    | 2 => some (.fcclr r.h r.d)
    | _ => none
  | 0x60 => some (.rwr r.h r.d r.a r.b)
  | 0x61 => some (.rrd r.h r.d r.a r.b)
  | 0x62 => (Fmt.ofCode (r.m.setWidth 4)).bind fun fmt => some (.rwrr r.h (r.m.getLsbD 7) r.rm fmt r.d r.a r.b)
  | 0x63 => some (.qpost r.h (r.m.getLsbD 0) r.d r.a (r.imm.setWidth 6))
  | 0x64 =>
    match r.f.toNat with
    | 0 => some (.carm r.h r.a r.b)
    | 1 => some (.cadd r.h r.a r.b)
    | 2 => some (.cwait r.h r.d r.a r.b r.imm)
    | 3 => some (.crd r.h r.d r.a)
    | _ => none
  | 0x65 => some (.qslot r.h (r.m.getLsbD 7) (r.m.getLsbD 6) r.a r.b)
  | 0x70 => some (.csrr r.h r.d (r.imm.setWidth 12))
  | 0x71 => some (.csrw r.h (r.imm.setWidth 12) r.a)
  | 0x72 => some (.trap r.h r.f r.imm)
  | 0x73 => some (.eret r.h r.d)
  | 0x74 => some (.tld r.h r.d r.b r.idx)
  | 0x75 => some (.tlk r.h r.a (r.imm.getLsbD 0))
  | 0x76 => some (.tinv r.h r.d r.a (r.imm.setWidth 2))
  | 0x77 => some (.pmld r.h r.d r.a r.b r.way)
  | 0x78 => some (.rply r.h r.a)
  | 0x79 => some (.ctxs r.h (r.m.getLsbD 0) r.d r.a r.b)
  | 0x7a => some (.ctxl r.h r.d r.a r.b)
  | 0x7b => some (.tsr r.h r.d)
  | 0x7c => some (.lnch r.h (r.m.getLsbD 0) r.d r.a (r.imm.setWidth 6))
  | 0x7d => some (.idle r.h r.d)
  | _ => none

end Raw

/-- LEN (R43). -/
def Form.code : Form → BitVec 2
  | .w32 => 0 | .w64 => 1 | .w96 => 2

/-- Length in words. -/
def Form.words : Form → Nat
  | .w32 => 1 | .w64 => 2 | .w96 => 3

/-- LEN = 11 is not an instruction (R43). -/
def Form.ofCode (c : BitVec 2) : Option Form :=
  match c.toNat with
  | 0 => some .w32 | 1 => some .w64 | 2 => some .w96 | _ => none

/-- A queue number and its valid bit: [3] V, [2:0] Q (R44). -/
def clauseBits : Option (BitVec 3) → BitVec 4
  | none => 0 | some q => 1#1 ++ q

def clauseOf (b : BitVec 4) : Option (BitVec 3) := if b.getLsbD 3 then some (b.setWidth 3) else none

/-- The first word (R43). -/
def Raw.word0 (r : Raw) : BitVec 32 :=
  r.f ++ r.b ++ r.a ++ r.d ++ r.maj ++ BitVec.ofBool r.h.sw ++ r.h.gap ++ r.h.form.code

/-- The second word (R44). -/
def Raw.word1 (r : Raw) : BitVec 32 := r.imm ++ r.m ++ clauseBits r.h.pq ++ clauseBits r.h.wq

/-- The words of an instruction's fields, first word first. -/
def Raw.words (r : Raw) : List (BitVec 32) :=
  match r.h.form with
  | .w32 => [r.word0]
  | .w64 => [r.word0, r.word1]
  | .w96 => [r.word0, r.word1, r.lit]

/-- The fields of the words of an instruction of length `fm`. -/
def Raw.ofWords (fm : Form) (w0 w1 w2 : BitVec 32) : Raw :=
  let w1 := if fm = .w32 then 0 else w1
  let w2 := if fm = .w96 then w2 else 0
  { h := { sw := w0.getLsbD 4, gap := w0.extractLsb' 2 2, form := fm,
           wq := clauseOf (w1.setWidth 4), pq := clauseOf (w1.extractLsb' 4 4) },
    maj := w0.extractLsb' 5 7, f := w0.extractLsb' 27 5, b := w0.extractLsb' 22 5, a := w0.extractLsb' 17 5,
    d := w0.extractLsb' 12 5, imm := w1.extractLsb' 16 16, m := w1.extractLsb' 8 8, lit := w2 }

/-- The words of an instruction; an event row has none. -/
def encode (i : Instr) : List (BitVec 32) :=
  match i.toRaw with
  | some r => r.words
  | none => []

/-- Lengths that a major permits, and how many F values it assigns (R48); none for an unassigned major (R49). -/
def majorOf (maj : BitVec 7) : Option ((Hdr → Bool) × Nat) :=
  match maj.toNat with
  | 0x1 => some (Hdr.f3264, 24)
  | 0x2 => some (Hdr.f64, 11)
  | 0x3 => some (Hdr.f96, 3)
  | 0x4 => some (Hdr.f3264, 6)
  | 0x5 => some (Hdr.f64, 6)
  | 0x6 => some (Hdr.f3264, 5)
  | 0x7 => some (Hdr.f3264, 32)
  | 0x8 => some (Hdr.f64, 7)
  | 0x9 => some (Hdr.f64, 4)
  | 0xa => some (Hdr.f3264, 13)
  | 0xb => some (Hdr.f3264, 8)
  | 0x10 => some (Hdr.f6496, 1)
  | 0x11 => some (Hdr.f3264, 3)
  | 0x12 => some (Hdr.f3264, 2)
  | 0x13 => some (Hdr.f3264, 4)
  | 0x14 => some (Hdr.f3264, 3)
  | 0x15 => some (Hdr.f3264, 6)
  | 0x16 => some (Hdr.f3264, 2)
  | 0x17 => some (Hdr.f6496, 3)
  | 0x18 => some (Hdr.f6496, 4)
  | 0x20 => some (Hdr.f6496, 1)
  | 0x21 => some (Hdr.f6496, 1)
  | 0x22 => some (Hdr.f6496, 1)
  | 0x23 => some (Hdr.f6496, 1)
  | 0x24 => some (Hdr.f6496, 1)
  | 0x25 => some (Hdr.f6496, 1)
  | 0x26 => some (Hdr.f6496, 1)
  | 0x27 => some (Hdr.f6496, 1)
  | 0x28 => some (Hdr.f6496, 1)
  | 0x30 => some (Hdr.f96, 10)
  | 0x31 => some (Hdr.f96, 2)
  | 0x32 => some (Hdr.f96, 4)
  | 0x33 => some (Hdr.f96, 6)
  | 0x34 => some (Hdr.f96, 3)
  | 0x35 => some (Hdr.f96, 1)
  | 0x36 => some (Hdr.f96, 3)
  | 0x37 => some (Hdr.f96, 1)
  | 0x38 => some (Hdr.f96, 1)
  | 0x39 => some (Hdr.f96, 1)
  | 0x3a => some (Hdr.f96, 1)
  | 0x3b => some (Hdr.f3264, 3)
  | 0x40 => some (Hdr.f6496, 2)
  | 0x41 => some (Hdr.f6496, 2)
  | 0x42 => some (Hdr.f6496, 3)
  | 0x43 => some (Hdr.f6496, 6)
  | 0x50 => some (Hdr.f3264, 3)
  | 0x60 => some (Hdr.f6496, 1)
  | 0x61 => some (Hdr.f6496, 1)
  | 0x62 => some (Hdr.f6496, 1)
  | 0x63 => some (Hdr.f6496, 1)
  | 0x64 => some (Hdr.f6496, 4)
  | 0x65 => some (Hdr.f6496, 1)
  | 0x70 => some (Hdr.f64, 1)
  | 0x71 => some (Hdr.f64, 1)
  | 0x72 => some (Hdr.f3264, 32)
  | 0x73 => some (Hdr.f32, 1)
  | 0x74 => some (Hdr.f6496, 1)
  | 0x75 => some (Hdr.f64, 1)
  | 0x76 => some (Hdr.f64, 1)
  | 0x77 => some (Hdr.f6496, 1)
  | 0x78 => some (Hdr.f3264, 1)
  | 0x79 => some (Hdr.f6496, 1)
  | 0x7a => some (Hdr.f6496, 1)
  | 0x7b => some (Hdr.f3264, 1)
  | 0x7c => some (Hdr.f6496, 1)
  | 0x7d => some (Hdr.f3264, 1)
  | _ => none

/-- What a sequencer finds at its program counter.  `reserved` is check 10 of R47 and stands behind checks 8 and 9, which
look at who executes the family `maj`, `f`, and for CSRR and CSRW at the register that `imm` names (R51). -/
inductive Decoded where
  | ok (i : Instr)
  | bad (c : Cause)
  | reserved (maj : BitVec 7) (f : BitVec 5) (imm : BitVec 16)
deriving DecidableEq, Repr

/-- Checks 2 to 5, 7 and 10 of R47, in that order, on up to three words.  Check 10 asks that the words be exactly those of
a well-formed instruction, so every bit a family does not use is zero and no field is reserved (R45). -/
def decodeWords (w0 w1 w2 : BitVec 32) : Decoded :=
  if w0 = 0 then .bad .zeroWord
  else match Form.ofCode (w0.setWidth 2) with
  | none => .bad .lenIllegal
  | some fm =>
    match majorOf (w0.extractLsb' 5 7) with
    | none => .bad .majUnassigned
    | some (permits, nf) =>
      if !permits { sw := false, gap := 0, form := fm, wq := none, pq := none } then .bad .lenIllegal
      else
        let r := Raw.ofWords fm w0 w1 w2
        if nf ≤ r.f.toNat then .bad .funcReserved
        else match r.candidate with
        | none => .reserved r.maj r.f r.imm
        | some i =>
          if encode i = ([w0, w1, w2].take fm.words) ∧ i.wf then .ok i else .reserved r.maj r.f r.imm

/-- The length in words that the first word names, 1 where it is not an instruction (R43, R47 check 6). -/
def lengthOf (w0 : BitVec 32) : Nat := ((Form.ofCode (w0.setWidth 2)).map Form.words).getD 1

/-- A little-endian word of four bytes (R5). -/
def leWord (bs : List Byte) : BitVec 32 :=
  (bs.getD 3 0) ++ (bs.getD 2 0) ++ (bs.getD 1 0) ++ (bs.getD 0 0)

/-- The decoder on bytes, total: missing bytes read as zero. -/
def decodeBytes (bs : List Byte) : Decoded :=
  decodeWords (leWord bs) (leWord (bs.drop 4)) (leWord (bs.drop 8))

/-- The little-endian bytes of a word (R5). -/
def wordBytes (w : BitVec 32) : List Byte :=
  [w.setWidth 8, w.extractLsb' 8 8, w.extractLsb' 16 8, w.extractLsb' 24 8]

/-- The bytes of an instruction as the hardware stores it. -/
def encodeBytes (i : Instr) : List Byte := (encode i).flatMap wordBytes

/-- The twelve bytes of an instruction whose bits are `w`, of which `nbits` are given. -/
def tableBytes (nbits w : Nat) : List Byte :=
  let v : BitVec 96 := BitVec.ofNat 96 (w % 2 ^ nbits)
  [v.setWidth 32, v.extractLsb' 32 32, v.extractLsb' 64 32].flatMap wordBytes

/-- The instruction the decoder reads from a word of the opcode table. -/
def decodeTableWord (nbits w : Nat) : Option Instr :=
  match decodeBytes (tableBytes nbits w) with
  | .ok i => some i
  | _ => none

/-- What R50 answers for an agent and a family. -/
inductive Access where
  | yes | priv | wrong
deriving DecidableEq, Repr

/-- The matrix of R50 for a sequencer class. -/
def accessSeq (maj f : Nat) (c : Cls) : Access :=
  let lk := if c = .L ∨ c = .K then Access.yes else .wrong
  let sk := if c = .S ∨ c = .K then Access.yes else .wrong
  let ck := if c = .C ∨ c = .K then Access.yes else .wrong
  let k := if c = .K then Access.yes else .wrong
  let cc := if c = .C then Access.yes else .wrong
  if maj ≤ 0x16 then .yes
  else if maj = 0x17 then (if f = 2 then .yes else k)
  else if maj = 0x18 then lk
  else if maj = 0x20 ∨ maj = 0x21 ∨ maj = 0x24 then (if c = .C then .wrong else .yes)
  else if maj = 0x22 ∨ maj = 0x26 ∨ maj = 0x28 then lk
  else if maj = 0x23 ∨ maj = 0x25 then sk
  else if maj = 0x27 then .priv
  else if 0x30 ≤ maj ∧ maj ≤ 0x42 then cc
  else if maj = 0x43 ∨ maj = 0x50 then ck
  else if 0x60 ≤ maj ∧ maj ≤ 0x65 then sk
  else if maj = 0x70 ∨ maj = 0x71 ∨ maj = 0x72 ∨ maj = 0x7B then .yes
  else if maj = 0x7C then k
  else .priv

/-- A register of Access HUB, which CSRR and CSRW of a sequencer may not name (R51, R54). -/
def hubCsr (n : BitVec 16) : Bool := n.toNat ∈ [0x010, 0x018, 0x019, 0x01A, 0x024, 0x040, 0x041]

/-- What checks 8 and 9 of R47 answer for a sequencer class. -/
def mayExecute (maj f : Nat) (imm : BitVec 16) (c : Cls) : Access :=
  if (maj = 0x70 ∨ maj = 0x71) ∧ hubCsr imm then .priv else accessSeq maj f c

/-- The column of R50 for a hub: a blank is WRONG_SEQUENCER. -/
def accessHub (maj : Nat) : Access :=
  if maj ≤ 0x13 ∨ maj = 0x16 ∨ maj = 0x27 ∨ 0x70 ≤ maj then .yes else .wrong

end Sys2Proof
end

