-- ==== Sys2Proof/Machine/Num.lean ====
section
/-! DEFINITION. Exact numbers and the one rounding of the machine (R31, R33, R34, R71). -/

namespace Sys2Proof.Machine

/-- An exact magnitude, `num / den`; every function here keeps `den` above 0. -/
structure Q where
  num : Nat
  den : Nat
deriving DecidableEq, Repr, Inhabited

/-- An exact value: NaN, a signed infinity, `mix` (a sum whose terms cancel, whose zero takes its sign from the
rounding mode, R71), or a sign and a magnitude. -/
inductive ExtNum where
  | nan
  | inf (neg : Bool)
  | mix
  | fin (neg : Bool) (q : Q)
deriving DecidableEq, Repr, Inhabited

/-- How a value is rounded: in a mode of R33, or stochastically with an LFSR word (R34). -/
inductive Rnd where
  | det (m : RMode)
  | stoch (w : BitVec 32)
deriving DecidableEq, Repr, Inhabited

namespace Q

def ofNat (n : Nat) : Q := ⟨n, 1⟩

/-- `q × 2^e`. -/
def scale2 (q : Q) (e : Int) : Q :=
  match e with
  | .ofNat k => ⟨q.num <<< k, q.den⟩
  | .negSucc k => ⟨q.num, q.den <<< (k + 1)⟩

def le (a b : Q) : Bool := a.num * b.den ≤ b.num * a.den

def lt (a b : Q) : Bool := a.num * b.den < b.num * a.den

def mul (a b : Q) : Q := ⟨a.num * b.num, a.den * b.den⟩

/-- `a / b` for `b` other than 0. -/
def div (a b : Q) : Q := ⟨a.num * b.den, a.den * b.num⟩

/-- The two numerators over a common denominator. -/
def common (a b : Q) : Nat × Nat × Nat :=
  if a.den = b.den then (a.num, b.num, a.den)
  else if b.den % a.den = 0 then (a.num * (b.den / a.den), b.num, b.den)
  else if a.den % b.den = 0 then (a.num, b.num * (a.den / b.den), a.den)
  else (a.num * b.den, b.num * a.den, a.den * b.den)

def add (a b : Q) : Q :=
  let (x, y, d) := common a b
  ⟨x + y, d⟩

/-- `a - b` for `b ≤ a`. -/
def sub (a b : Q) : Q :=
  let (x, y, d) := common a b
  ⟨x - y, d⟩

/-- `floor (log2 q)` for `q` above 0. -/
def floorLog2 (q : Q) : Int :=
  let d : Int := (Nat.log2 q.num : Int) - (Nat.log2 q.den : Int)
  if ((ofNat 1).scale2 d).le q then d else d - 1

/-- `ceil (log2 q)` for `q` above 0. -/
def ceilLog2 (q : Q) : Int :=
  let d := floorLog2 q
  if q.le ((ofNat 1).scale2 d) then d else d + 1

end Q

/-- Whether the magnitude `… + rem/den` (`0 < rem < den`) is rounded away from zero; `odd` is the parity of the
magnitude below it (R33, R34: below zero the greater neighbour is the lesser magnitude). -/
def Rnd.away (r : Rnd) (neg odd : Bool) (rem den : Nat) : Bool :=
  match r with
  | .det .rne => den < 2 * rem || (2 * rem == den && odd)
  | .det .rz => false
  | .det .ru => !neg
  | .det .rd => neg
  | .stoch w =>
    if neg then !((w.toNat >>> 8) < ((den - rem) <<< 24) / den)
    else (w.toNat >>> 8) < (rem <<< 24) / den

/-- `q / 2^e` rounded to an integer magnitude. -/
def Q.roundAt (q : Q) (r : Rnd) (neg : Bool) (e : Int) : Nat :=
  let p := q.scale2 (-e)
  let n := p.num / p.den
  let rem := p.num % p.den
  if rem = 0 then n else if r.away neg (n % 2 == 1) rem p.den then n + 1 else n

namespace ExtNum

def zero : ExtNum := .fin false ⟨0, 1⟩
def one : ExtNum := .fin false ⟨1, 1⟩

def isNaN : ExtNum → Bool
  | .nan => true
  | _ => false

def isInf : ExtNum → Bool
  | .inf _ => true
  | _ => false

def isFin : ExtNum → Bool
  | .mix => true
  | .fin _ _ => true
  | _ => false

def isZero : ExtNum → Bool
  | .mix => true
  | .fin _ q => q.num == 0
  | _ => false

def sign : ExtNum → Bool
  | .inf s => s
  | .fin s _ => s
  | _ => false

def neg : ExtNum → ExtNum
  | .inf s => .inf !s
  | .fin s q => .fin (!s) q
  | x => x

def abs : ExtNum → ExtNum
  | .inf _ => .inf false
  | .fin _ q => .fin false q
  | x => x

def ofInt (i : Int) : ExtNum := .fin (i < 0) ⟨i.natAbs, 1⟩

/-- The exact sum; infinities of opposite sign give NaN (R32), and cancelling terms the zero `mix` (R71). -/
def add : ExtNum → ExtNum → ExtNum
  | .nan, _ => .nan
  | _, .nan => .nan
  | .inf s, .inf t => if s = t then .inf s else .nan
  | .inf s, _ => .inf s
  | _, .inf t => .inf t
  | .mix, .mix => .mix
  | .mix, .fin t b => if b.num = 0 then .mix else .fin t b
  | .fin s a, .mix => if a.num = 0 then .mix else .fin s a
  | .fin s a, .fin t b =>
    if s = t then .fin s (a.add b)
    else if a.num = 0 then (if b.num = 0 then .mix else .fin t b)
    else if b.num = 0 then .fin s a
    else if b.lt a then .fin s (a.sub b)
    else if a.lt b then .fin t (b.sub a)
    else .mix

def sub (a b : ExtNum) : ExtNum := a.add b.neg

/-- The exact product; 0 × ∞ is NaN (R32), and a zero product has the exclusive OR of the signs (R71). -/
def mul : ExtNum → ExtNum → ExtNum
  | .nan, _ => .nan
  | _, .nan => .nan
  | .inf s, .inf t => .inf (s != t)
  | .inf s, .fin t b => if b.num = 0 then .nan else .inf (s != t)
  | .fin s a, .inf t => if a.num = 0 then .nan else .inf (s != t)
  | .inf _, .mix => .nan
  | .mix, .inf _ => .nan
  | .mix, _ => .mix
  | _, .mix => .mix
  | .fin s a, .fin t b => .fin (s != t) (a.mul b)

/-- The exact quotient by a positive finite scale (R36). -/
def divScale : ExtNum → Q → ExtNum
  | .fin s a, d => .fin s (a.div d)
  | x, _ => x

def sum : List ExtNum → ExtNum
  | [] => zero
  | [x] => x
  | x :: xs => x.add (sum xs)

/-- `a < b` of two numbers; false when either is NaN. -/
def lt : ExtNum → ExtNum → Bool
  | .nan, _ => false
  | _, .nan => false
  | .inf s, .inf t => s && !t
  | .inf s, _ => s
  | _, .inf t => !t
  | .mix, .mix => false
  | .mix, .fin t b => !t && b.num != 0
  | .fin s a, .mix => s && a.num != 0
  | .fin false a, .fin false b => a.lt b
  | .fin true a, .fin true b => b.lt a
  | .fin true a, .fin false b => a.num != 0 || b.num != 0
  | .fin false _, .fin true _ => false

/-- `a = b` as numbers, with -0.0 = +0.0; false when either is NaN. -/
def eq (a b : ExtNum) : Bool := !a.isNaN && !b.isNaN && !a.lt b && !b.lt a

/-- The lesser and the greater: NaN if either is NaN; -0.0 counts below +0.0 (R188, R209). -/
def least (a b : ExtNum) : ExtNum :=
  if a.isNaN || b.isNaN then .nan
  else if a.lt b then a
  else if b.lt a then b
  else if a.sign then a else b

def greatest (a b : ExtNum) : ExtNum :=
  if a.isNaN || b.isNaN then .nan
  else if a.lt b then b
  else if b.lt a then a
  else if a.sign then b else a

/-- A finite value rounded to an integer; 0 for the rest. -/
def roundInt (r : Rnd) : ExtNum → Int
  | .fin s q =>
    let n : Int := q.roundAt r s 0
    if s then -n else n
  | _ => 0

end ExtNum

/-- The sign of a zero result (R71): `mix` is -0.0 in RD and +0.0 otherwise. -/
def Rnd.mixSign : Rnd → Bool
  | .det .rd => true
  | _ => false

end Sys2Proof.Machine
end

