-- ==== Sys2Proof/Machine/Fmt.lean ====
section
/-! DEFINITION. The number formats to the bit (R20 to R29): minifloats, integers, SX and MX blocks, appends (R42). -/

namespace Sys2Proof.Machine

/-- The parameters of a minifloat (R24, R28): exponent bits, bias, mantissa bits, whether the top exponent holds
infinities and NaNs, the greatest finite code without its sign, and the canonical NaN without its sign. -/
structure MFmt where
  eb : Nat
  bias : Int
  mb : Nat
  hasInf : Bool
  maxCode : Nat
  nan : Option Nat
deriving DecidableEq, Repr, Inhabited

def mfFp32 : MFmt := ⟨8, 127, 23, true, 0x7F7FFFFF, some 0x7FC00000⟩
def mfBf16 : MFmt := ⟨8, 127, 7, true, 0x7F7F, some 0x7FC0⟩
def mfFp16 : MFmt := ⟨5, 15, 10, true, 0x7BFF, some 0x7E00⟩
def mfE4m3 : MFmt := ⟨4, 7, 3, false, 0x7E, some 0x7F⟩
def mfE5m2 : MFmt := ⟨5, 15, 2, true, 0x7B, some 0x7E⟩
def mfE2m1 : MFmt := ⟨2, 1, 1, false, 0x7, none⟩
def mfE2m3 : MFmt := ⟨2, 1, 3, false, 0x1F, none⟩
def mfE3m2 : MFmt := ⟨3, 3, 2, false, 0x1F, none⟩

/-- What encoding a value gave: its bits, whether a finite value overflowed to an infinity, and whether saturation
clamped it (R36, R41). -/
structure Enc where
  bits : Nat
  beyond : Bool
  clamp : Bool
deriving DecidableEq, Repr, Inhabited

namespace MFmt

def width (f : MFmt) : Nat := 1 + f.eb + f.mb

/-- The value of an encoding (R24). -/
def decode (f : MFmt) (bits : Nat) : ExtNum :=
  let s := bits.testBit (f.eb + f.mb)
  let mag := bits % 2 ^ (f.eb + f.mb)
  let e := mag >>> f.mb
  let m := mag % 2 ^ f.mb
  if f.hasInf && e == 2 ^ f.eb - 1 then (if m = 0 then .inf s else .nan)
  else if !f.hasInf && f.nan == some mag then .nan
  else if e = 0 then .fin s ((Q.ofNat m).scale2 (1 - f.bias - f.mb))
  else .fin s ((Q.ofNat (2 ^ f.mb + m)).scale2 (e - f.bias - f.mb))

def signed (f : MFmt) (s : Bool) (mag : Nat) : Nat := if s then 2 ^ (f.eb + f.mb) + mag else mag

/-- The code, without its sign, of a non-zero magnitude rounded as if the exponent had no upper bound. -/
def roundCode (f : MFmt) (r : Rnd) (s : Bool) (q : Q) : Nat :=
  let e := max q.floorLog2 (1 - f.bias)
  let n := q.roundAt r s (e - f.mb)
  ((e + f.bias - 1).toNat <<< f.mb) + n

/-- The greatest finite magnitude. -/
def maxMag (f : MFmt) : Q :=
  match f.decode f.maxCode with
  | .fin _ q => q
  | _ => Q.ofNat 0

/-- Whether an overflow in this rounding gives an infinity (R31); stochastic overflow follows RNE (R34). -/
def toInf (r : Rnd) (s : Bool) : Bool :=
  match r with
  | .det .rne => true
  | .det .rz => false
  | .det .ru => !s
  | .det .rd => s
  | .stoch _ => true

/-- A value rounded once into the format (R33, R34, R36), with saturation if `sat`. -/
def encode (f : MFmt) (r : Rnd) (sat : Bool) : ExtNum → Enc
  | .nan => ⟨f.nan.getD 0, false, false⟩
  | .inf s =>
    if f.hasInf && !sat then ⟨f.signed s ((2 ^ f.eb - 1) <<< f.mb), false, false⟩
    else ⟨f.signed s f.maxCode, false, true⟩
  | .mix => ⟨f.signed r.mixSign 0, false, false⟩
  | .fin s q =>
    if q.num = 0 then ⟨f.signed s 0, false, false⟩
    else
      let r' := match r with
        | .stoch w => if f.maxMag.lt q then Rnd.det .rne else .stoch w
        | .det m => .det m
      let c := f.roundCode r' s q
      if c ≤ f.maxCode then ⟨f.signed s c, false, false⟩
      else if !f.hasInf then ⟨f.signed s f.maxCode, false, true⟩
      else if toInf r' s then
        (if sat then ⟨f.signed s f.maxCode, false, true⟩
         else ⟨f.signed s ((2 ^ f.eb - 1) <<< f.mb), true, false⟩)
      else ⟨f.signed s f.maxCode, false, false⟩

end MFmt

/-- RoundFP32 of R71. -/
def roundFP32 (r : Rnd) (x : ExtNum) : BitVec 32 := BitVec.ofNat 32 (mfFp32.encode r false x).bits

def fp32 (b : BitVec 32) : ExtNum := mfFp32.decode b.toNat

def fpNaN : BitVec 32 := 0x7FC00000#32

/-- The value of a two's-complement integer of `w` bits (R27). -/
def intDecode (w bits : Nat) : Int :=
  if bits.testBit (w - 1) then (bits % 2 ^ w : Nat) - (2 ^ w : Nat) else (bits % 2 ^ w : Nat)

/-- An integer clamped to `w` bits (R27); true if it was out of range. -/
def intClamp (w : Nat) (v : Int) : Int × Bool :=
  let hi : Int := (2 ^ (w - 1) : Nat) - 1
  let lo : Int := -(2 ^ (w - 1) : Nat)
  if v < lo then (lo, true) else if hi < v then (hi, true) else (v, false)

def intBits (w : Nat) (v : Int) : Nat := (v % (2 ^ w : Nat)).toNat

/-- Conversion to an integer: rounds, saturates, NaN gives 0; each saturation or NaN counts (R27). -/
def intEncode (w : Nat) (r : Rnd) : ExtNum → Enc
  | .nan => ⟨0, false, true⟩
  | .inf s => ⟨intBits w (if s then -(2 ^ (w - 1) : Nat) else (2 ^ (w - 1) : Nat) - 1), false, true⟩
  | x =>
    let (v, c) := intClamp w (x.roundInt r)
    ⟨intBits w v, false, c⟩

end Sys2Proof.Machine

namespace Sys2Proof.Fmt

open Sys2Proof.Machine

/-- The minifloat of a format without blocks. -/
def mf? : Fmt → Option MFmt
  | .fp32 => some mfFp32
  | .bf16 => some mfBf16
  | .fp16 => some mfFp16
  | .e4m3 => some mfE4m3
  | .e5m2 => some mfE5m2
  | _ => none

/-- The element minifloat of an MX format (R25). -/
def mx? : Fmt → Option MFmt
  | .mxf4 => some mfE2m1
  | .mxf6a => some mfE2m3
  | .mxf6b => some mfE3m2
  | .mxf8a => some mfE4m3
  | .mxf8b => some mfE5m2
  | _ => none

/-- EMAX of R26. -/
def emax : Fmt → Int
  | .mxf6b => 4
  | .mxf8a => 8
  | .mxf8b => 15
  | _ => 2

/-- The magnitude bits W of an SX format (R21). -/
def sxW? : Fmt → Option Nat
  | .sx4 => some 2
  | .sx6 => some 4
  | .sx9 => some 7
  | _ => none

def isInt : Fmt → Bool
  | .i32 => true
  | .i8 => true
  | _ => false

def isSx (f : Fmt) : Bool := f.sxW?.isSome
def isMx (f : Fmt) : Bool := f.mx?.isSome
def blocked (f : Fmt) : Bool := f.isSx || f.isMx

/-- Elements to a block (R20). -/
def blockLen (f : Fmt) : Nat := if f.isSx then 16 else if f.isMx then 32 else 1

/-- Elements to the unit that is stored whole: an SX block, an MX group, an element (R25). -/
def groupLen (f : Fmt) : Nat := if f.isSx then 16 else if f.isMx then 256 else 1

/-- Bytes of an element without blocks, of an SX block, of an MX group (R21, R25). -/
def groupBytes : Fmt → Nat
  | .fp32 => 4
  | .bf16 => 2
  | .fp16 => 2
  | .e4m3 => 1
  | .e5m2 => 1
  | .sx4 => 8
  | .sx6 => 12
  | .sx9 => 18
  | .mxf4 => 136
  | .mxf6a => 200
  | .mxf6b => 200
  | .mxf8a => 264
  | .mxf8b => 264
  | .i32 => 4
  | .i8 => 1

/-- Bytes of an element of a format without blocks. -/
def size (f : Fmt) : Nat := f.groupBytes

/-- Alignment in bytes (R20). -/
def align : Fmt → Nat
  | .fp32 => 4
  | .bf16 => 2
  | .fp16 => 2
  | .e4m3 => 1
  | .e5m2 => 1
  | .sx4 => 8
  | .sx6 => 4
  | .sx9 => 2
  | .i32 => 4
  | .i8 => 1
  | _ => 8

/-- Bits of an element's field, without its block. -/
def elemBits : Fmt → Nat
  | .fp32 => 32
  | .bf16 => 16
  | .fp16 => 16
  | .e4m3 => 8
  | .e5m2 => 8
  | .sx4 => 3
  | .sx6 => 5
  | .sx9 => 8
  | .mxf4 => 4
  | .mxf6a => 6
  | .mxf6b => 6
  | .mxf8a => 8
  | .mxf8b => 8
  | .i32 => 32
  | .i8 => 8

/-- The value of an encoding of a format without blocks. -/
def decode (f : Fmt) (bits : Nat) : ExtNum :=
  match f.mf? with
  | some m => m.decode bits
  | none => ExtNum.ofInt (intDecode f.elemBits bits)

/-- A value rounded once into a format without blocks (R27, R36). -/
def encode (f : Fmt) (r : Rnd) (sat : Bool) (x : ExtNum) : Enc :=
  match f.mf? with
  | some m => m.encode r sat x
  | none => intEncode f.elemBits r x

/-- The canonical NaN (R28). -/
def nanBits (f : Fmt) : Nat := (f.mf?.bind (·.nan)).getD 0

end Sys2Proof.Fmt

namespace Sys2Proof.Machine

/-- An SX block in parts (R21): E, U, and the elements as sign and magnitude. -/
structure SxBlock where
  e : Nat
  u : Nat
  els : List (Bool × Nat)
deriving DecidableEq, Repr, Inhabited

def mmaxOf (w : Nat) : Nat := 2 ^ w - 1

/-- The fields of a block of `16 + 16 (w + 1)` bits (R21). -/
def sxUnpack (w blk : Nat) : SxBlock :=
  ⟨blk % 256, blk / 256 % 256,
   (List.range 16).map fun i =>
     let x := blk >>> (16 + (w + 1) * i) % 2 ^ (w + 1)
     (x.testBit w, x % 2 ^ w)⟩

def sxPackEls (w : Nat) : List (Bool × Nat) → Nat
  | [] => 0
  | (s, m) :: r => (if s then 2 ^ w + m else m) + (sxPackEls w r <<< (w + 1))

def sxPack (w : Nat) (b : SxBlock) : Nat := b.e + b.u <<< 8 + sxPackEls w b.els <<< 16

def SxBlock.uAt (b : SxBlock) (i : Nat) : Nat := if b.u.testBit (i / 2) then 1 else 0

/-- The value of element `i` (R22). -/
def SxBlock.value (b : SxBlock) (i : Nat) : ExtNum :=
  if b.e = 255 then .nan
  else
    let (s, m) := b.els.getD i (false, 0)
    .fin s ((Q.ofNat m).scale2 ((b.e : Int) - 127 - b.uAt i))

/-- A block that is NaN as a whole (R23). -/
def sxNaN : SxBlock := ⟨255, 0, List.replicate 16 (false, 0)⟩

/-- The greatest finite magnitude of a list, and whether one is NaN. -/
def maxFinite : List ExtNum → Q
  | [] => Q.ofNat 0
  | .fin _ q :: r => let m := maxFinite r; if m.lt q then q else m
  | _ :: r => maxFinite r

/-- Whether `|x| ≤ MMAX × 2^e`; an infinity exceeds every bound. -/
def sxFits (w : Nat) (x : ExtNum) (e : Int) : Bool :=
  match x with
  | .fin _ q => q.le ((Q.ofNat (mmaxOf w)).scale2 e)
  | .mix => true
  | _ => false

/-- The least E whose range holds a finite magnitude above 0; above 254 when none does. -/
def sxLeastE (w : Nat) (a : Q) : Nat := ((a.div (Q.ofNat (mmaxOf w))).ceilLog2 + 127).toNat

/-- The micro-exponents of R23 for values `xs` at the exponent `e`. -/
def sxMicro (w e : Nat) : List ExtNum → Nat
  | x :: y :: r =>
    (if sxFits w x ((e : Int) - 128) && sxFits w y ((e : Int) - 128) then 1 else 0) + 2 * sxMicro w e r
  | _ => 0

/-- One element of R23 at E and u: its sign, its magnitude, and whether it was clamped. -/
def sxElem (w e u : Nat) (r : Rnd) : ExtNum → (Bool × Nat) × Bool
  | .fin s q =>
    let n := q.roundAt r s ((e : Int) - 127 - u)
    if mmaxOf w < n then ((s, mmaxOf w), true) else ((s, n), false)
  | .inf s => ((s, mmaxOf w), true)
  | _ => ((false, 0), false)

def sxElems (w e u i : Nat) : List (ExtNum × Rnd) → List (Bool × Nat) × Nat
  | [] => ([], 0)
  | (x, r) :: rest =>
    let (el, c) := sxElem w e (if u.testBit (i / 2) then 1 else 0) r x
    let (els, n) := sxElems w e u (i + 1) rest
    (el :: els, if c then n + 1 else n)

/-- The encoding of 16 values, already divided by the tensor scale, with the rounding of each; and the saturation
count (R23). -/
def sxEncode (w : Nat) (xs : List (ExtNum × Rnd)) : SxBlock × Nat :=
  let vs := xs.map Prod.fst
  if vs.any ExtNum.isNaN then (sxNaN, 0)
  else
    let a := maxFinite vs
    let e := if a.num = 0 then 0 else min (sxLeastE w a) 254
    let u := sxMicro w e vs
    let (els, n) := sxElems w e u 0 xs
    (⟨e, u, els⟩, n)

/-- An MX block in parts (R25): the scale X and the element codes. -/
structure MxBlock where
  x : Nat
  els : List Nat
deriving DecidableEq, Repr, Inhabited

/-- The value of an element (R25). -/
def mxValue (m : MFmt) (x code : Nat) : ExtNum :=
  if x = 255 then .nan
  else match m.decode code with
    | .fin s q => .fin s (q.scale2 ((x : Int) - 127))
    | v => v

/-- An element of an MX block; it never encodes an infinity, and whatever rounds above its maximum is clamped (R26). -/
def mxElem (m : MFmt) (x : Nat) (r : Rnd) (v : ExtNum) : Nat × Bool :=
  let v' := match v with
    | .fin s q => .fin s (q.scale2 (127 - (x : Int)))
    | v => v
  let c := { m with hasInf := false }.encode r true v'
  (c.bits, c.clamp)

def mxElems (m : MFmt) (x : Nat) : List (ExtNum × Rnd) → List Nat × Nat
  | [] => ([], 0)
  | (v, r) :: rest =>
    let (c, k) := mxElem m x r v
    let (cs, n) := mxElems m x rest
    (c :: cs, if k then n + 1 else n)

/-- The encoding of 32 values, already divided by the tensor scale, and the saturation count (R26). -/
def mxEncode (m : MFmt) (emax : Int) (xs : List (ExtNum × Rnd)) : MxBlock × Nat :=
  let vs := xs.map Prod.fst
  if vs.any ExtNum.isNaN then (⟨255, xs.map fun _ => 0⟩, 0)
  else
    let a := maxFinite vs
    let x := if a.num = 0 then 0 else min (a.floorLog2 - emax + 127).toNat 254
    let (els, n) := mxElems m x xs
    (⟨x, els⟩, n)

/-- Elements packed little-endian, `w` bits each. -/
def packBits (w : Nat) : List Nat → Nat
  | [] => 0
  | c :: r => c % 2 ^ w + packBits w r <<< w

def unpackBits (w n bits : Nat) : List Nat := (List.range n).map fun i => (bits >>> (w * i)) % 2 ^ w

/-- Bytes of a number, little-endian, and back (R5). -/
def natBytes : Nat → Nat → List Byte
  | 0, _ => []
  | n + 1, v => BitVec.ofNat 8 v :: natBytes n (v / 256)

def bytesNat : List Byte → Nat
  | [] => 0
  | b :: r => b.toNat + 256 * bytesNat r

/-- What an append did to a block (R42): the block, the counts to add, and whether SCALE_OVERFLOW is raised. -/
structure AppendRes where
  blk : Nat
  sat : Nat
  rebase : Nat
  beyond : Bool
deriving DecidableEq, Repr, Inhabited

/-- Pair `i / 2` set to u = 0, its other element re-rounded RNE (R42). -/
def SxBlock.dropMicro (b : SxBlock) (i : Nat) : SxBlock :=
  let p := if i % 2 = 0 then i + 1 else i - 1
  let (s, m) := b.els.getD p (false, 0)
  let m' := (⟨m, 2⟩ : Q).roundAt (.det .rne) s 0
  ⟨b.e, b.u - 2 ^ (i / 2), b.els.set p (s, m')⟩

/-- The clamp of R42 at the block's E: the signed MMAX with u = 0; a u that was 1 counts as a rebase. -/
def SxBlock.clampAt (w : Nat) (b : SxBlock) (i : Nat) (s : Bool) : SxBlock × Nat :=
  if b.uAt i = 1 then
    let b' := b.dropMicro i
    (⟨b'.e, b'.u, b'.els.set i (s, mmaxOf w)⟩, 1)
  else (⟨b.e, b.u, b.els.set i (s, mmaxOf w)⟩, 0)

/-- The block re-encoded at E `e`: every element but `i` rounded RNE, element `i` in the command's rounding, the
micro-exponents by R23 (R42). -/
def SxBlock.rebase (w : Nat) (b : SxBlock) (e i : Nat) (x : ExtNum) (r : Rnd) : SxBlock :=
  let vs := (List.range 16).map fun k => if k = i then x else b.value k
  let u := sxMicro w e vs
  ⟨e, u, (sxElems w e u 0 (vs.zipIdx.map fun (v, k) => (v, if k = i then r else .det .rne))).1⟩

/-- One value appended at element `i` of a partly filled SX block (R42); `sat` is the tensor's APP.  Elements after
it are written as zero (R159).  A clamp at 254 of a block that is there already clears its pair's u and counts that too; a block
raised to 254 has its micro-exponents recomputed, and counts the raise alone (log entry 26). -/
def sxAppend (w blk i : Nat) (x : ExtNum) (r : Rnd) (sat : Bool) : AppendRes :=
  let b := sxUnpack w blk
  if b.e = 255 then ⟨blk, 0, 0, false⟩
  else if x.isNaN then ⟨sxPack w sxNaN, 0, 0, false⟩
  else
  let b : SxBlock := ⟨b.e, b.u, b.els.take i ++ List.replicate (16 - i) (false, 0)⟩
  if sxFits w x ((b.e : Int) - 127 - b.uAt i) then
    ⟨sxPack w ⟨b.e, b.u, b.els.set i (sxElem w b.e (b.uAt i) r x).1⟩, 0, 0, false⟩
  else if sxFits w x ((b.e : Int) - 127) then
    let b' := b.dropMicro i
    ⟨sxPack w ⟨b'.e, b'.u, b'.els.set i (sxElem w b'.e 0 r x).1⟩, 0, 1, false⟩
  else if sat then
    let (b', n) := b.clampAt w i x.sign
    ⟨sxPack w b', 1, n, true⟩
  else
    let e := match x with
      | .fin _ q => sxLeastE w q
      | _ => 255
    if e ≤ 254 then ⟨sxPack w (b.rebase w e i x r), 0, 1, false⟩
    else if b.e = 254 then
      let (b', n) := b.clampAt w i x.sign
      ⟨sxPack w b', 1, 1 + n, true⟩
    else ⟨sxPack w (b.rebase w 254 i (.inf x.sign) r), 1, 1, true⟩

/-- Whether a magnitude is at most the element maximum × 2^(X - 127) (R42). -/
def mxFits (m : MFmt) (v : ExtNum) (x : Nat) : Bool :=
  match v with
  | .fin _ q => q.le (m.maxMag.scale2 ((x : Int) - 127))
  | .mix => true
  | _ => false

/-- The elements of a block re-rounded RNE from the scale `x` to the scale `x'` (R42). -/
def MxBlock.rescale (m : MFmt) (b : MxBlock) (x' : Nat) : MxBlock :=
  ⟨x', b.els.map fun c => (mxElem m x' (.det .rne) (mxValue m b.x c)).1⟩

/-- One value appended at element `i` of a partly filled MX block (R42); the counts as in `AppendRes`. -/
def mxAppend (m : MFmt) (b : MxBlock) (i : Nat) (v : ExtNum) (r : Rnd) (sat : Bool) : MxBlock × AppendRes :=
  if b.x = 255 then (b, ⟨0, 0, 0, false⟩)
  else if v.isNaN then (⟨255, b.els.map fun _ => 0⟩, ⟨0, 0, 0, false⟩)
  else
  let b : MxBlock := ⟨b.x, b.els.take i ++ List.replicate (32 - i) 0⟩
  let put (b : MxBlock) (v : ExtNum) : MxBlock := ⟨b.x, b.els.set i (mxElem m b.x r v).1⟩
  if mxFits m v b.x then (put b v, ⟨0, 0, 0, false⟩)
  else if sat then (put b (.inf v.sign), ⟨0, 1, 0, true⟩)
  else
    let x := match v with
      | .fin _ q => ((q.div m.maxMag).ceilLog2 + 127).toNat
      | _ => 255
    if x ≤ 254 then (put (b.rescale m x) v, ⟨0, 0, 1, false⟩)
    else (put (b.rescale m 254) (.inf v.sign), ⟨0, 1, 1, true⟩)

end Sys2Proof.Machine
end

