-- ==== Sys2Proof/Machine/Fsf.lean ====
section
/-! DEFINITION. The special functions of FSF and VSF, correctly rounded to FP32 (R189, R212).

An irrational value is enclosed between two fixed-point numbers of `p` fraction bits; when both ends round to the same
bits, those are the bits of the value.  Otherwise the enclosure is formed again with more bits (log entry 13). -/

namespace Sys2Proof.Machine

/-- The enclosure of a real at `p` fraction bits: `lo ≤ v * 2^p ≤ hi`. -/
structure Encl where
  lo : Int
  hi : Int
deriving DecidableEq, Repr, Inhabited

/-- Integer square root, by `n` binary digits from the top; `r` is the root so far. -/
def isqrtGo (v : Nat) : Nat → Nat → Nat
  | 0, r => r
  | n + 1, r =>
    let c := r + 1 <<< n
    if c * c ≤ v then isqrtGo v n c else isqrtGo v n r

def isqrt (v : Nat) : Nat := isqrtGo v (Nat.log2 v / 2 + 1) 0

/-- A fraction that rounds to FP32 as the root of `q` does: the root itself if it is a multiple of 2^-160, else the
middle of the interval between multiples that holds it, which no rounding boundary of FP32 cuts. -/
def sqrtQ (q : Q) : Q :=
  let v := (q.num <<< 320) / q.den
  let t := isqrt v
  if t * t * q.den = q.num <<< 320 then (Q.ofNat t).scale2 (-160)
  else (Q.ofNat (2 * t + 1)).scale2 (-161)

/-- `sum of floor (2^p / (k * 2^k))` for `k` from 1 to `n`. -/
def ln2Go (p : Nat) : Nat → Nat
  | 0 => 0
  | n + 1 => (1 <<< p) / ((n + 1) <<< (n + 1)) + ln2Go p n

/-- ln 2. -/
def ln2E (p : Nat) : Encl :=
  let l := ln2Go p (p + 8)
  ⟨l, l + p + 10⟩

/-- Alternating series of atan (1/n): the terms of `k` steps; each floor adds an error below 1. -/
def atanGo (n2 : Nat) : Nat → Nat → Nat → Bool → Int
  | 0, _, _, _ => 0
  | f + 1, t, k, pos =>
    let x : Int := (t / (2 * k + 1) : Nat)
    (if pos then x else -x) + atanGo n2 f (t / n2) (k + 1) (!pos)

/-- atan (1/n) times 2^p, and the error bound in units of 2^-p. -/
def atanInv (p n : Nat) : Encl :=
  let m := p / 4 + 8
  let a := atanGo (n * n) m ((1 <<< p) / n) 0 true
  ⟨a - 2 * m - 2, a + 2 * m + 2⟩

/-- π by Machin's formula. -/
def piE (p : Nat) : Encl :=
  let a := atanInv p 5
  let b := atanInv p 239
  ⟨16 * a.lo - 4 * b.hi, 16 * a.hi - 4 * b.lo⟩

def ceilDiv (a b : Nat) : Nat := (a + b - 1) / b

/-- The Taylor series of exp on `0 ≤ y ≤ 1`: lower and upper sums of `f` terms from the term `k`. -/
def expGo (p ylo yhi : Nat) : Nat → Nat → Nat → Nat → Nat × Nat
  | 0, tl, th, _ => (tl, 2 * th + 2)
  | f + 1, tl, th, k =>
    let (a, b) := expGo p ylo yhi f ((tl * ylo) / (k <<< p)) (ceilDiv (th * yhi) (k <<< p)) (k + 1)
    (tl + a, th + b)

/-- exp of an enclosed argument between 0 and 1. -/
def expE (p : Nat) (y : Encl) : Encl :=
  let (a, b) := expGo p y.lo.toNat y.hi.toNat (p / 4 + 16) (1 <<< p) (1 <<< p) 1
  ⟨a, b⟩

/-- The fixed-point enclosure of a magnitude. -/
def Q.encl (q : Q) (p : Nat) : Encl :=
  let v := q.num <<< p
  ⟨(v / q.den : Nat), (ceilDiv v q.den : Nat)⟩

/-- `exp y = 2^n × e` for a magnitude `y`: the exponent `n` and the enclosure of `e`. -/
def expQ (p : Nat) (y : Q) : Nat × Encl :=
  let l := ln2E p
  let v := y.encl p
  let n := v.lo.toNat / l.hi.toNat
  (n, expE p ⟨v.lo - n * l.hi, v.hi - n * l.lo⟩)

/-- A signed fixed-point number as a number. -/
def fixNum (i : Int) (p : Nat) (e : Int) : ExtNum := .fin (i < 0) ((⟨i.natAbs, 1 <<< p⟩ : Q).scale2 e)

/-- The bits if both ends of an enclosure round to the same FP32 value. -/
def agree (a b : ExtNum) : Option (BitVec 32) :=
  let x := roundFP32 (.det .rne) a
  let y := roundFP32 (.det .rne) b
  if x = y then some x else none

/-- The first enclosure whose ends agree, with 96, 192, 384 and 768 bits. -/
def ziv (f : Nat → ExtNum × ExtNum) : BitVec 32 :=
  let try1 (p : Nat) := agree (f p).1 (f p).2
  match try1 96 with
  | some b => b
  | none =>
    match try1 192 with
    | some b => b
    | none =>
      match try1 384 with
      | some b => b
      | none => roundFP32 (.det .rne) (f 768).1

/-- 2^x for a finite x. -/
def exp2Fin (s : Bool) (q : Q) : BitVec 32 :=
  let fl := q.num / q.den
  let rem := q.num % q.den
  if rem = 0 then
    let n : Int := if s then -(fl : Int) else fl
    if n ≥ 128 then 0x7F800000#32
    else if n ≤ -150 then 0#32
    else roundFP32 (.det .rne) (.fin false ((Q.ofNat 1).scale2 n))
  else if fl ≥ 150 then (if s then 0#32 else 0x7F800000#32)
  else
    let n : Int := if s then -(fl : Int) - 1 else fl
    let f : Q := if s then ⟨q.den - rem, q.den⟩ else ⟨rem, q.den⟩
    ziv fun p =>
      let l := ln2E p
      let v := f.encl p
      let e := expE p ⟨(v.lo * l.lo) >>> p, ((v.hi * l.hi) >>> p) + 1⟩
      (fixNum e.lo p n, fixNum e.hi p n)

/-- The series of atanh on `0 ≤ s ≤ 1/4`. -/
def atanhGo (p s2lo s2hi : Nat) : Nat → Nat → Nat → Nat → Nat × Nat
  | 0, _, th, _ => (0, 2 * th + 2)
  | f + 1, tl, th, k =>
    let (a, b) := atanhGo p s2lo s2hi f ((tl * s2lo) >>> p) (((th * s2hi) >>> p) + 1) (k + 1)
    (tl / (2 * k + 1) + a, ceilDiv th (2 * k + 1) + b)

def atanhE (p : Nat) (s : Q) : Encl :=
  let v := s.encl p
  let w := (s.mul s).encl p
  let (a, b) := atanhGo p w.lo.toNat w.hi.toNat (p / 4 + 16) v.lo.toNat v.hi.toNat 0
  ⟨a, b⟩

/-- log2 of a magnitude above 0. -/
def log2Q (q : Q) : BitVec 32 :=
  let e0 := q.floorLog2
  let m0 := q.scale2 (-e0)
  if m0.num = m0.den then roundFP32 (.det .rne) (ExtNum.ofInt e0)
  else
    let big := 2 * m0.num > 3 * m0.den
    let e := if big then e0 + 1 else e0
    let m : Q := if big then m0.scale2 (-1) else m0
    let below := m.num < m.den
    let s : Q := ⟨if below then m.den - m.num else m.num - m.den, m.num + m.den⟩
    ziv fun p =>
      let l := ln2E p
      let a := atanhE p s
      let lo : Int := (2 * a.lo <<< p) / l.hi
      let hi : Int := (2 * a.hi <<< p) / l.lo + 1
      let base : Int := e <<< p
      if below then (fixNum (base - hi) p 0, fixNum (base - lo) p 0)
      else (fixNum (base + lo) p 0, fixNum (base + hi) p 0)

/-- tanh of a magnitude: below 2^-13, x - x^3/3 rounds to x; from 10 on, the value rounds to 1. -/
def tanhQ (q : Q) : BitVec 32 :=
  if q.lt ((Q.ofNat 1).scale2 (-13)) then roundFP32 (.det .rne) (.fin false q)
  else if (Q.ofNat 10).le q then 0x3F800000#32
  else ziv fun p =>
    let (n, e) := expQ p (q.scale2 1)
    let one := 1 <<< p
    let lo := e.lo.toNat <<< n
    let hi := e.hi.toNat <<< n
    (.fin false ⟨lo - one, lo + one⟩, .fin false ⟨hi - one, hi + one⟩)

/-- The alternating series of sin (from the term x, k = 1) and cos (from the term 1, k = 0) on `0 ≤ r ≤ 1`. -/
def trigGo (p r2lo r2hi : Nat) : Nat → Nat → Nat → Nat → Bool → Int × Int
  | 0, _, th, _, _ => (-(2 * th + 2 : Nat), (2 * th + 2 : Nat))
  | f + 1, tl, th, k, pos =>
    let d := (k + 1) * (k + 2)
    let (a, b) := trigGo p r2lo r2hi f ((tl * r2lo) / (d <<< p)) (ceilDiv (th * r2hi) (d <<< p)) (k + 2) (!pos)
    if pos then ((tl : Int) + a, (th : Int) + b) else (-(th : Int) + a, -(tl : Int) + b)

def trigE (p : Nat) (cos : Bool) (r : Encl) : Encl :=
  let l := r.lo.toNat
  let h := r.hi.toNat
  let r2l := (l * l) >>> p
  let r2h := ((h * h) >>> p) + 1
  let (a, b) :=
    if cos then trigGo p r2l r2h (p / 8 + 12) (1 <<< p) (1 <<< p) 0 true
    else trigGo p r2l r2h (p / 8 + 12) l h 1 true
  ⟨a, b⟩

/-- sin or cos of a magnitude of 2^-13 or more: the multiple of π/2 nearest it is taken away with 140 bits to
spare, and the quadrant chooses the function and the sign. -/
def trigQ (cos : Bool) (q : Q) : BitVec 32 :=
  ziv fun p =>
    let g := p + 140
    let h := piE g
    let half := h.lo / 2
    let v := q.encl g
    let k := (2 * v.lo + half) / (2 * half)
    -- an enclosure of q - k π/2 at g bits
    let lo : Int := (2 * v.lo - k * h.hi) / 2
    let hi : Int := (2 * v.hi - k * h.lo) / 2 + 1
    let neg := lo < 0
    let r : Encl := if neg then ⟨-hi, -lo⟩ else ⟨lo, hi⟩
    let r' : Encl := ⟨r.lo >>> (140 : Nat), (r.hi >>> (140 : Nat)) + 1⟩
    let quad := (k % 4).toNat
    let useCos := cos != (quad % 2 == 1)
    let e := trigE p useCos r'
    let flip := if cos then (if quad = 0 then false else if quad = 1 then !neg else if quad = 2 then true else neg)
      else (if quad = 0 then neg else if quad = 1 then false else if quad = 2 then !neg else true)
    if flip then (fixNum (-e.hi) p 0, fixNum (-e.lo) p 0) else (fixNum e.lo p 0, fixNum e.hi p 0)

/-- x / (1 + e^-x): from 40 on the value rounds to x, and at -128 and below to -0.0. -/
def siluFin (s : Bool) (q : Q) : BitVec 32 :=
  if q.num = 0 then roundFP32 (.det .rne) (.fin s q)
  else if s then
    if (Q.ofNat 128).le q then 0x80000000#32
    else ziv fun p =>
      let (n, e) := expQ p q
      let one := 1 <<< p
      (.fin true (q.mul ⟨one, one + e.hi.toNat <<< n⟩), .fin true (q.mul ⟨one, one + e.lo.toNat <<< n⟩))
  else if (Q.ofNat 40).le q then roundFP32 (.det .rne) (.fin false q)
  else ziv fun p =>
    let (n, e) := expQ p q
    let one := 1 <<< p
    let lo := e.lo.toNat <<< n
    let hi := e.hi.toNat <<< n
    (.fin false (q.mul ⟨lo, one + lo⟩), .fin false (q.mul ⟨hi, one + hi⟩))

def fpZero (s : Bool) : BitVec 32 := if s then 0x80000000#32 else 0#32
def fpInf (s : Bool) : BitVec 32 := if s then 0xFF800000#32 else 0x7F800000#32

/-- EXP2 of R189. -/
def fExp2 : ExtNum → BitVec 32
  | .nan => fpNaN
  | .inf s => if s then 0#32 else fpInf false
  | .mix => 0x3F800000#32
  | .fin s q => exp2Fin s q

/-- LOG2 of R189. -/
def fLog2 : ExtNum → BitVec 32
  | .nan => fpNaN
  | .inf s => if s then fpNaN else fpInf false
  | .mix => fpInf true
  | .fin s q => if q.num = 0 then fpInf true else if s then fpNaN else log2Q q

/-- RCP of R189. -/
def fRcp : ExtNum → BitVec 32
  | .nan => fpNaN
  | .inf s => fpZero s
  | .mix => fpInf false
  | .fin s q => if q.num = 0 then fpInf s else roundFP32 (.det .rne) (.fin s ⟨q.den, q.num⟩)

/-- RSQRT of R189. -/
def fRsqrt : ExtNum → BitVec 32
  | .nan => fpNaN
  | .inf s => if s then fpNaN else 0#32
  | .mix => fpInf false
  | .fin s q =>
    if q.num = 0 then fpInf s else if s then fpNaN else roundFP32 (.det .rne) (.fin false (sqrtQ ⟨q.den, q.num⟩))

/-- SQRT of R189. -/
def fSqrt : ExtNum → BitVec 32
  | .nan => fpNaN
  | .inf s => if s then fpNaN else fpInf false
  | .mix => 0#32
  | .fin s q =>
    if q.num = 0 then fpZero s else if s then fpNaN else roundFP32 (.det .rne) (.fin false (sqrtQ q))

def withSign (s : Bool) (b : BitVec 32) : BitVec 32 := if s then b ^^^ 0x80000000#32 else b

/-- TANH of R189. -/
def fTanh : ExtNum → BitVec 32
  | .nan => fpNaN
  | .inf s => withSign s 0x3F800000#32
  | .mix => 0#32
  | .fin s q => withSign s (tanhQ q)

/-- SIN of R189: below 2^-13, x - x^3/6 rounds to x. -/
def fSin : ExtNum → BitVec 32
  | .nan => fpNaN
  | .inf _ => fpNaN
  | .mix => 0#32
  | .fin s q =>
    if q.lt ((Q.ofNat 1).scale2 (-13)) then roundFP32 (.det .rne) (.fin s q) else withSign s (trigQ false q)

/-- COS of R189: below 2^-13, 1 - x^2/2 rounds to 1. -/
def fCos : ExtNum → BitVec 32
  | .nan => fpNaN
  | .inf _ => fpNaN
  | .mix => 0x3F800000#32
  | .fin _ q => if q.lt ((Q.ofNat 1).scale2 (-13)) then 0x3F800000#32 else trigQ true q

/-- The function of VSILU (R212). -/
def fSilu : ExtNum → BitVec 32
  | .nan => fpNaN
  | .inf s => if s then 0x80000000#32 else fpInf false
  | .mix => 0#32
  | .fin s q => siluFin s q

end Sys2Proof.Machine
end

