-- ==== Sys2Proof/Machine/Tbl.lean ====
section
/-! DEFINITION. Sparse tables: lists of (key, value) in rising key order, with what an unlisted key reads as. -/

namespace Sys2Proof.Machine

/-- A table by key.  `get d` reads `d` at a key that is not listed. -/
abbrev Tbl (α : Type) := List (Nat × α)

namespace Tbl

variable {α : Type}

def get (d : α) : Tbl α → Nat → α
  | [], _ => d
  | (j, v) :: r, k => if j = k then v else get d r k

def get? : Tbl α → Nat → Option α
  | [], _ => none
  | (j, v) :: r, k => if j = k then some v else get? r k

/-- The entries but those of key `k`. -/
def erase (t : Tbl α) (k : Nat) : Tbl α := t.filter fun p => p.1 != k

/-- An entry put before the first greater key. -/
def insert (k : Nat) (v : α) : Tbl α → Tbl α
  | [] => [(k, v)]
  | (j, w) :: r => if k < j then (k, v) :: (j, w) :: r else (j, w) :: insert k v r

/-- Key `k` listed with `v`. -/
def put (t : Tbl α) (k : Nat) (v : α) : Tbl α := insert k v (erase t k)

/-- Key `k` reads as `v`; an entry equal to the default is not listed. -/
def set [DecidableEq α] (d : α) (t : Tbl α) (k : Nat) (v : α) : Tbl α :=
  if v = d then erase t k else insert k v (erase t k)

/-- Rising keys, and no entry equal to the default. -/
def wf [DecidableEq α] (d : α) : Tbl α → Bool
  | [] => true
  | [(_, v)] => v != d
  | (j, v) :: (k, w) :: r => v != d && decide (j < k) && wf d ((k, w) :: r)

/-- The cells of a run of values from key `k` that differ from the default. -/
def cells [DecidableEq α] (d : α) : Nat → List α → Tbl α
  | _, [] => []
  | k, v :: r => if v = d then cells d (k + 1) r else (k, v) :: cells d (k + 1) r

/-- A run of values written from key `k`. -/
def writeRun [DecidableEq α] (d : α) (t : Tbl α) (k : Nat) (vs : List α) : Tbl α :=
  t.filter (fun p => decide (p.1 < k)) ++ cells d k vs ++ t.filter (fun p => decide (k + vs.length ≤ p.1))

/-- The values of `n` keys from `k`. -/
def readRun (d : α) (t : Tbl α) (k n : Nat) : List α :=
  let near := t.filter fun p => decide (k ≤ p.1) && decide (p.1 < k + n)
  (List.range n).map fun i => get d near (k + i)

end Tbl

end Sys2Proof.Machine
end

