-- ==== Sys2Proof/Machine/State.lean ====
section
/-! DEFINITION. The state of one package, and the reasons a step stops. -/

namespace Sys2Proof.Machine

/-- Why a step stops with a fault. -/
inductive Fault where
  /-- Raised by the hub of `die` for a word that is no instruction, or that R47, R50 and R51 forbid a hub as it stands (its
  class, a reserved field, a clause): R323 to R327 give causes an entry for strands alone (log entry 6). Safe: the model stops. -/
  | hubTrap (die : Nat) (c : Cause)
  /-- Raised when a hub's program counter, a physical address, lies outside the slab, where there is no memory (R101).  Safe: the
  model stops. -/
  | hubAddress (die pa : Nat)
deriving DecidableEq, Repr

/-- Why a step has no meaning. -/
inductive Refusal where
  /-- Raised by an arm of `exec` whose instruction has no meaning yet. Safe: the model stops. -/
  | notModelled (mnemonic : String)
deriving DecidableEq, Repr

/-- The point of a trap (R323); the codes of TCAUSE.POINT are 0 to 3 in this order (R327). -/
inductive Point where
  | i | u | d | a
deriving DecidableEq, Repr, Inhabited

/-- A branch-target register (R52). -/
structure BReg where
  target : BitVec 48 := 0
  prep : Bool := false
deriving DecidableEq, Repr, Inhabited

/-- Where a fixed-latency result lands (R60). -/
inductive Dest where
  | none
  | x (r : Reg)
  | p (r : BitVec 3)
  | b (r : BitVec 2)
  | z (r : BitVec 2)
  | fid
  | tag (n : BitVec 2) (on : Bool)
  | csr (n : BitVec 12)
deriving DecidableEq, Repr, Inhabited

/-- What a landing does with its value: writes it, or combines a VRED's T with the latch (R220). -/
inductive LandOp where
  | set | vsum (rm : RMode) | vmax | vmin
deriving DecidableEq, Repr, Inhabited

/-- A fixed-latency operation in flight, with what a replay entry keeps of it (R60 to R62, R330): it lands in the step
in which `rem` falls to 0, and not before TSC `ready` in interlocked mode (R331); `no` is its place in the program order of its
sequencer (R61, R63). -/
structure Flight where
  addr : BitVec 48
  word : BitVec 32
  mod : BitVec 8
  rem : Nat
  op1 : Word
  op2 : Word
  op3 : Word
  dest : Dest
  op : LandOp := .set
  val : Word
  ready : Nat := 0
  post : Option (BitVec 3)
  no : Nat := 0
deriving DecidableEq, Repr, Inhabited

/-- Why a sequencer waits (R59).  Up to `range` the instruction at the program counter has not issued, and is executed when
the wait is over.  From `arrival` on it has issued and holds its sequencer until its end is there (R57); `held` is ended by
the step of the agent that performs the instruction. -/
inductive Wait where
  | queue
  | tokens
  | permit
  | room
  | wheel
  | range
  | arrival (deadline : Option Nat)
  | counter (deadline : Option Nat)
  | fence
  | matrix
  | launch
  | idle
  | held
deriving DecidableEq, Repr, Inhabited

/-- A translation that a long command keeps (R110): virtual page, and the entry's word. -/
structure Kept where
  vpn : Nat
  entry : BitVec 64
deriving DecidableEq, Repr, Inhabited

/-- A fragment of a reduction slot claim: slot and round (R163, R335). -/
structure Claim where
  slot : Nat
  round : BitVec 16
deriving DecidableEq, Repr, Inhabited

/-- What a remote command waits for. -/
inductive Remote where
  | idle
  | askedGo
  | granted
  | sent (unit window : Nat)
deriving DecidableEq, Repr, Inhabited

/-- An engine command issued and not completed (R141, R199, R225, R288; the record of R335), or the instruction in which a
sequencer is held: `head` the TSC at which an MMAK came to the head of its queue (R232) or the deadline of a hold, `recheck` that
a resumed command checks its tile slots again (R223), `sent` the windows in which units `pix`, `pix` + 1 and so on were sent (R271, R288), `no` its place in program order (R63), `data` the header that a held LNCH
has read (R306). -/
structure Cmd where
  ins : Instr
  seqNo : Nat
  addr : BitVec 48
  xd : Word
  xa : Word
  xb : Word
  pix : Nat := 0
  fid : BitVec 2 := 0
  lfsr : BitVec 32 := 0
  claim : Option Claim := none
  target : Option (BitVec 32) := none
  begun : Bool := false
  head : Option Nat := none
  recheck : Bool := false
  tiles : List (BitVec 32 × BitVec 32) := []
  tids : List (BitVec 512) := []
  kept : List Kept := []
  since : Nat := 0
  req : Nat := 0
  remote : Remote := .idle
  sent : List Nat := []
  no : Nat := 0
  data : List Byte := []
deriving DecidableEq, Repr, Inhabited

/-- An LDS in flight (R119). -/
structure LdsReq where
  addr : BitVec 48
  d : Reg
  va : BitVec 48
  pa : Nat
  size : Nat
  sg : Bool
  post : Option (BitVec 3)
  no : Nat := 0
deriving DecidableEq, Repr, Inhabited

/-- A tuple request of a sequencer, from issue to completion (R126, R133, R335): `captA`, `captB` are X[A] and X[B] as
read at issue, `done` the status word and the output bytes that a completion has brought, `heard` that its home has answered since
it was sent last (R135), `stopping` that its cancellation is on its way, because its strand stops (R136). -/
structure TupOut where
  req : Nat
  ins : Instr
  addr : BitVec 48
  cls : BitVec 16
  captA : Word
  captB : Word
  accepted : Bool
  resent : Bool := false
  resendAt : Option Nat := none
  remote : Option Nat := none
  since : Nat := 0
  done : Option (BitVec 64 × List Byte) := none
  no : Nat := 0
  heard : Bool := false
  stopping : Bool := false
deriving DecidableEq, Repr, Inhabited

/-- A cancelled tuple request that a stopped sequencer sends again (R136, R335). -/
structure Cancelled where
  ins : Instr
  captA : Word
  captB : Word
deriving DecidableEq, Repr, Inhabited

/-- A sequencer (R52, R54, R59 to R63, R317): `held` is the instruction that it waits in, with its operands as read at issue
and its deadline (R88, R243, R291); `popped` a token popped for an instruction that has not issued; `pre` the tokens that the
pops of this cycle have taken for the instruction it is about to issue (R169); `phase` the TSC of its last phase boundary at die
scope or wider (R115) and `acq` that of its last other acquire (R171, R297); `stepDone` says that it has issued its one
instruction under STEP and is held by it (R325); `no` counts the instructions issued, and `wrote` holds of each x register the cycle and
the `no` of the last result that came to it (R63). -/
structure Seq where
  pc : BitVec 48 := 0
  live : Bool := false
  ended : Bool := false
  x : Tbl Word := []
  p : BitVec 8 := 1
  b : Tbl BReg := []
  gap : Nat := 0
  wait : Option Wait := none
  held : Option Cmd := none
  popped : Option (BitVec 3) := none
  pre : List (BitVec 3 × Nat) := []
  flights : List Flight := []
  pix : BitVec 32 := 0
  phase : Nat := 0
  acq : Nat := 0
  lds : List LdsReq := []
  copyQ : List Cmd := []
  vecQ : List Cmd := []
  matQ : List Cmd := []
  collQ : List Cmd := []
  landQ : List Cmd := []
  tup : List TupOut := []
  cancelled : List Cancelled := []
  step : Bool := false
  sw : Bool := false
  stepDone : Bool := false
  no : Nat := 0
  wrote : Tbl (Nat × Nat) := []
deriving DecidableEq, Repr, Inhabited

/-- An arrival record (R84); `standIn` marks a record of R373. -/
structure Arrival where
  tag : BitVec 32
  rot : BitVec 32
  tsc : Word
  standIn : Bool
deriving DecidableEq, Repr, Inhabited

/-- A tag binding (R87). -/
structure Binding where
  value : BitVec 32 := 0
  mask : BitVec 32 := 0
  active : Bool := false
deriving DecidableEq, Repr, Inhabited

/-- What a stop reports (R326, R327): `tsc` is when its cause arose, `at_` when the strand had stopped. -/
structure StopInfo where
  cause : Cause
  point : Point
  cls : Cls
  tepc : BitVec 48
  pix : BitVec 32
  detail : BitVec 64
  tsc : Nat
  at_ : Nat := 0
deriving DecidableEq, Repr, Inhabited

/-- Whether a strand runs, ends what must end before it stops, or is stopped with its report (R326). -/
inductive Stop where
  | running
  | stopping (info : StopInfo)
  | stopped (info : StopInfo)
deriving DecidableEq, Repr, Inhabited

/-- A strand (R52, R54, R84, R169, R170): `qStart` holds the counts when the cycle began, `qFree` what the pops of the
cycle have left of them. -/
structure Strand where
  team : Nat := 0
  idx : Nat := 0
  q : Tbl Nat := []
  qFree : Tbl Nat := []
  qStart : Tbl Nat := []
  wid : Word := 0
  launchId : BitVec 32 := 0
  cmask : BitVec 64 := 0
  fid : BitVec 2 := 0
  arrTag : BitVec 32 := 0
  arrRot : BitVec 32 := 0
  arrTsc : Word := 0
  binds : Tbl Binding := []
  tagged : Bool := false
  arrivals : List Arrival := []
  arrOvf : Bool := false
  stop : Stop := .running
  preempt : Bool := false
  lastStep : Nat := 0
deriving DecidableEq, Repr, Inhabited

/-- A team placed in a cluster (R313 to R316). -/
structure Team where
  launch : BitVec 32
  index : Nat
  die : Nat
  cl : Nat
  slots : List Nat
  ctx : BitVec 4
  spadBase : Nat
  spb : Nat
  tidBase : Nat
  ntid : Nat
  wheels : List (Nat × Nat)
  pipe : Bool
  started : Bool
deriving DecidableEq, Repr, Inhabited

/-- A launch that the package holds, with its 192 header bytes as read at submission (R306, R311): `committed` that it has
taken its tuple, `since` the TSC of its dispatch, `ask` the request by which it asks another member for it, `ending` the cause of its termination. -/
structure Launch where
  ctx : BitVec 4
  queue : Nat
  hdr : List Byte
  committed : Bool := false
  dispatched : Bool := false
  nteams : Nat := 0
  placed : Nat := 0
  retired : Nat := 0
  resident : Bool := false
  since : Nat := 0
  tids : List Byte := []
  wheels : List Byte := []
  ending : Option Cause := none
  ask : Option Nat := none
deriving DecidableEq, Repr, Inhabited

/-- A launch queue: its entry of R308 without LEVEL and COUNT, its launches, its level and its ageing: the TSC since which its
head has been ready, and the counts that had passed before (R309). -/
structure LQueue where
  cfg : BitVec 64 := 0
  ids : List (BitVec 32) := []
  level : Nat := 0
  aged : Nat := 0
  readySince : Option Nat := none
deriving DecidableEq, Repr, Inhabited

/-- A tile slot: its state (R223) and its tile image (R91). -/
structure Tile where
  v : Bool := false
  fmt : Fmt := .fp32
  tag : BitVec 32 := 0
  rot : BitVec 32 := 0
  img : List Byte := []
deriving DecidableEq, Repr, Inhabited

/-- The attention pipe (R237): `q` holds exact values. -/
structure Pipe where
  rows : Nat := 0
  dq : Nat := 0
  dv : Nat := 0
  q : Tbl ExtNum := []
  sc : BitVec 32 := 0
  m : Tbl (BitVec 32) := []
  l : Tbl (BitVec 32) := []
  o : Tbl (BitVec 32) := []
deriving DecidableEq, Repr, Inhabited

/-- Who contributes to a reduction range. -/
inductive Contributor where
  | seq (r : SeqRef) (seqNo : Nat)
  | entry (die qp pos : Nat)
  | member (mid req : Nat)
deriving DecidableEq, Repr, Inhabited

/-- A contribution that has reached its range (R163, R283): its elements, the range's slot and round once it has one. -/
structure Contrib where
  who : Contributor
  rq : BitVec 18
  count : Nat
  claim : Option Claim := none
  go : Bool := false
  begun : Bool := false
deriving DecidableEq, Repr, Inhabited

/-- A reduction range: header, slot words, control word (R162, R282), its contributions, the TSC at which its round's
timer began, whether it has run out, and the contributors of its last completed round. -/
structure Range where
  v : Bool := false
  base : BitVec 32 := 0
  len : BitVec 32 := 0
  round : BitVec 16 := 0
  filled : BitVec 32 := 0
  nslot : BitVec 5 := 0
  slots : Tbl (BitVec 18) := []
  miss : BitVec 32 := 0
  tmd : Bool := false
  tmo : BitVec 8 := 0
  cv : Bool := false
  cntr : BitVec 8 := 0
  contribs : List Contrib := []
  started : Option Nat := none
  expired : Bool := false
  lastRound : BitVec 32 := 0
deriving DecidableEq, Repr, Inhabited

/-- A cluster (R11, R54, R105, R173, R219, R222, R233, R237, R250 to R256, R317, R352):
`wheels0` holds the wheels as the cycle began (R175); `lag` counts the cycles in which its clock stood still, which CCNT
does not count (R337); `badSpad` and `badTid` hold the byte offsets of the words with an uncorrectable error, `badAcc` the
accumulator words in one (R103), `railFor` the strand slot and the FID of the unit for which the matrix engine waits (R250). -/
structure Cluster where
  spad : Tbl Byte := []
  acc : Tbl (BitVec 32) := []
  poison : Tbl Bool := []
  tid : Tbl (BitVec 512) := []
  wheels : Tbl (BitVec 64) := []
  wheels0 : Tbl (BitVec 64) := []
  z : Tbl (BitVec 32) := []
  tiles : Tbl Tile := []
  pipe : Pipe := default
  ranges : Tbl Range := []
  lfsr : BitVec 32 := 1
  fidErr : BitVec 32 := 0
  fidChk : BitVec 48 := 0
  fidThr : BitVec 16 := 0
  finj : BitVec 32 := 0
  finjLeft : Nat := 0
  wcnt : BitVec 16 := 0
  raised : Bool := false
  fidRecords : Nat := 0
  lastFid : BitVec 2 := 0
  switching : Nat := 0
  railFor : Option (Nat × BitVec 2) := none
  permit : BitVec 64 := 0x4040404040404040
  permits : Tbl Nat := []
  coolRates : Option (BitVec 64) := none
  lag : Nat := 0
  clockStop : Nat := 0
  logicLow : Bool := false
  droop : Nat := 0
  droopLost : Nat := 0
  refilled : Nat := 0
  last : Tbl Nat := []
  run : Tbl Nat := []
  badSpad : List Nat := []
  badAcc : List Nat := []
  badTid : List Nat := []
deriving DecidableEq, Repr, Inhabited

/-- A line of the remote line cache (R114, R115): line address, fill TSC, bytes, and whether its parity is wrong (R103).  A die
lists its lines most recently used first. -/
structure CacheLine where
  line : Nat
  filled : Nat
  data : List Byte
  bad : Bool := false
deriving DecidableEq, Repr, Inhabited

/-- A tuple region: its region-table entry without COUNT (R120). -/
structure Region where
  v : Bool := false
  cap : BitVec 32 := 0
  ctx : BitVec 4 := 0
  vpn : BitVec 27 := 0
  npg : BitVec 9 := 0
  count : Nat := 0
deriving DecidableEq, Repr, Inhabited

/-- A stored tuple: its region, its stamp (R125) and its 64 bytes. -/
structure Stored where
  rid : Nat
  tsc : Word
  seq : BitVec 32
  tuple : List Byte
  home : Nat
deriving DecidableEq, Repr, Inhabited

/-- Who sent a tuple request: a sequencer of this package, or another member. -/
inductive Requester where
  | seq (r : SeqRef)
  | member (mid : Nat) (rq : BitVec 18)
deriving DecidableEq, Repr, Inhabited

/-- A tuple request at a home slice (R127 to R130): `kind` is F of its instruction. -/
structure TupReq where
  kind : BitVec 2
  nb : Bool
  cls : BitVec 16
  timeout : BitVec 16
  label : BitVec 16
  base : BitVec 48
  ctx : BitVec 4
  who : Requester
  req : Nat
  block : List Byte
  came : Nat
  deadline : Option Nat := none
deriving DecidableEq, Repr, Inhabited

/-- A home slice: deposit count, requests in service order, parked requests in service order, stored tuples in stamp
order (R125 to R130), its corrected errors, and the deposit numbers of the tuples that hold an uncorrectable word
(R103). -/
structure Slice where
  seq : BitVec 32 := 0
  queue : List TupReq := []
  parked : List TupReq := []
  stored : List Stored := []
  corrected : Nat := 0
  corrWindow : Option Nat := none
  badTuples : List (BitVec 32) := []
deriving DecidableEq, Repr, Inhabited

/-- A counter (R274) and the context it is assigned to. -/
structure Counter where
  value : BitVec 32 := 0
  ovf : Bool := false
  ctx : Option (BitVec 4) := none
deriving DecidableEq, Repr, Inhabited

/-- The place of a source byte run: slab runs, or runs of bytes of the staging memories of dies (R107, R278). -/
inductive Src where
  | slab (runs : List (Nat × Nat))
  | stg (runs : List (Nat × Nat × Nat))
deriving DecidableEq, Repr, Inhabited

/-- A posted work entry (R277): position, image, context, whether its counter has armed it (R276), whether it has fired, the place of
its source as translated then (R278), and the progress of its data. -/
structure WorkEntry where
  pos : Nat
  image : List Byte
  ctx : BitVec 4
  armed : Bool := false
  fired : Bool := false
  unit : Nat := 0
  req : Nat := 0
  remote : Remote := .idle
  stat : Option Nat := none
  claim : Option Claim := none
  outcome : Option (BitVec 64) := none
  source : Option Src := none
deriving DecidableEq, Repr, Inhabited

/-- A queue pair (R276, R289). -/
structure QPair where
  ctx : Option (BitVec 4) := none
  posted : Nat := 0
  entries : List WorkEntry := []
deriving DecidableEq, Repr, Inhabited

/-- A data flit sent and not acknowledged: its SEQ, its failed replays, its window, its payload, the die that numbers it (R265 to
R267; log entry 4). -/
structure SentFlit where
  seq : BitVec 32
  fails : Nat
  window : Nat
  payload : List Byte
  src : Nat := 0
deriving DecidableEq, Repr, Inhabited

/-- A lane: its lane plan entry (R261), the flits it holds unacknowledged, the TSC at which its training ends and the one at which
its retuning does, the TSC from which BKT's next fall counts, and the failed checks received (R264). -/
structure Lane where
  use : BitVec 2 := 0
  ch : BitVec 5 := 0
  ret : Bool := false
  los : Bool := false
  trn : Bool := false
  bkt : Nat := 0
  unacked : List SentFlit := []
  retune : Bool := false
  busy : Nat := 0
  tuned : Nat := 0
  bktAt : Nat := 0
  failed : Nat := 0
deriving DecidableEq, Repr, Inhabited

/-- What the next payload bytes of a peer are for: a unit of a write whose header has come (R271), or a unit of a read, of `len`
bytes, that its home has acknowledged, or the refusal of a read, which follows them (R288). -/
inductive Expect where
  | write (die : Nat) (w : WrUnit)
  | read (req unit len : Nat)
  | refused (req : Nat) (status : BitVec 64)
deriving DecidableEq, Repr, Inhabited

/-- The data flits between a die of this package and a peer, on its data lanes or on the chain (R265, R266; log entry 4): received in order up
to `next`, the flits received early, the SEQ of the next flit to send, the turn of the lanes, the payloads that wait for
a lane, the bytes received and not consumed, and what they are for. -/
structure Link where
  next : BitVec 32 := 0
  early : List (BitVec 32 × List Byte) := []
  send : BitVec 32 := 0
  turn : Nat := 0
  pending : List SentFlit := []
  inbox : List Byte := []
  expect : List Expect := []
deriving DecidableEq, Repr, Inhabited

/-- The states of a chain frame (R77). -/
inductive FrameSt where
  | free | fill | full | sent
deriving DecidableEq, Repr, Inhabited

/-- A chain frame (R75 to R79, R82): `slot` is its freewheel slot, `got` the flits written, `arrived` its arrival TSC,
`sent` the flits sent once sending has begun, `lastSeq` the SEQ of its last flit. -/
structure Frame where
  st : FrameSt := .free
  tag : BitVec 32 := 0
  rot : BitVec 32 := 0
  size : Nat := 0
  flags : BitVec 8 := 0
  slot : Option Nat := none
  got : Nat := 0
  arrived : Nat := 0
  sending : Bool := false
  sent : Nat := 0
  lastSeq : Option (BitVec 32) := none
deriving DecidableEq, Repr, Inhabited

/-- A stripe that a SEGHDR has announced (R74): its freewheel slot, whether it is discarded, the flits that have come, whether
NREG was above 0 at the first SEGHDR of the rotation (R81); `stale` that its sender has been bypassed before its end, `again` that
it is being sent a second time (R97; log entry 86). -/
structure Incoming where
  hdr : SegHdr
  slot : Option Nat := none
  drop : Bool := false
  got : Nat := 0
  reg : Bool := true
  stale : Bool := false
  again : Bool := false
deriving DecidableEq, Repr, Inhabited

/-- A stripe queued by FWD (R93): its place in the slab, its header values, its status register, whether firmware injects it
(R97, R98). -/
structure FwdJob where
  pa : Nat
  tag : BitVec 32
  rot : BitVec 32
  size : Nat
  flags : BitVec 8
  d : Reg
  lastSeq : Option (BitVec 32) := none
  own : Bool := false
deriving DecidableEq, Repr, Inhabited

/-- The registers of the hub that describe a trap, and CSEL (R54, R327, R352). -/
structure HubRegs where
  tcause : BitVec 64 := 0
  tepc : BitVec 64 := 0
  tframe : BitVec 64 := 0
  csel : BitVec 8 := 0
deriving DecidableEq, Repr, Inhabited

/-- The hub core of a die: registers, stopped strands in the order of R326, what IDLE waits for. -/
structure Hub where
  regs : HubRegs := {}
  held : Option StrandRef := none
  trapQ : List StrandRef := []
  mail : Bool := false
  event : Bool := false
deriving DecidableEq, Repr, Inhabited

/-- The event-queue registers of a die (R357) and the sequence number of its records (R336). -/
structure EventQ where
  base : BitVec 64 := 0
  size : BitVec 8 := 0
  tail : BitVec 32 := 0
  head : BitVec 32 := 0
  drops : BitVec 32 := 0
  seq : BitVec 64 := 0
deriving DecidableEq, Repr, Inhabited

/-- A die (R11, R75, R101, R108, R112, R114, R120, R261, R274, R276, R327, R357); the entries of its tables and the staging
words with an uncorrectable error (R103); `looked` is TSC in the last cycle and `span` the counts that TSC has gone on since, which
are more than one where the device has steered it (R270). -/
structure Die where
  tsc : Nat := 0
  looked : Nat := 0
  span : Nat := 1
  tm : Tbl (BitVec 64) := []
  tmNext : Nat := 0
  pm : Tbl (BitVec 128) := []
  pmNext : Tbl Nat := []
  cache : List CacheLine := []
  regions : Tbl Region := []
  slices : Tbl Slice := []
  counters : Tbl Counter := []
  qps : Tbl QPair := []
  stg : Tbl (BitVec 32) := []
  ranges : Tbl Range := []
  lanes : Tbl Lane := []
  links : Tbl Link := []
  frames : Tbl Frame := []
  nextRecv : Nat := 0
  nextSend : Nat := 0
  incoming : List Incoming := []
  credits : Nat := 0
  lastArr : Tbl (BitVec 32 × Nat) := []
  standIn : Tbl (BitVec 32 × Nat) := []
  fwd : List FwdJob := []
  hub : Hub := {}
  events : EventQ := {}
  badTm : List Nat := []
  badPm : List Nat := []
  badRegions : List Nat := []
  badStg : List Nat := []
deriving DecidableEq, Repr, Inhabited

/-- An island: whether its trim rail is parked, whether it is hot, and its operating point in millivolts and megahertz (R249,
R347, R351; log entry 95). -/
structure Island where
  parked : Bool := true
  hot : Bool := false
  millivolt : Nat := 750
  megahertz : Nat := 600
deriving DecidableEq, Repr, Inhabited

/-- An address context (R356): whether it is live, its page list, and its token-page lists by request. -/
structure Context where
  live : Bool := false
  pages : Option (Nat × Nat) := none
  tokens : Tbl (Nat × Nat) := []
deriving DecidableEq, Repr, Inhabited

/-- A cadence entry (R80): beside its fields `missRot` the rotation that its missed flag is of, `hdrRot` the rotation of its
last SEGHDR and `hdrReg` whether NREG was above 0 at the first one of it (R81), `seen` whether the tag has arrived, `reinj` whether
the origin has injected it again since it was lost (R97). -/
structure Cadence where
  tag : BitVec 32
  arroff : BitVec 32
  depoff : BitVec 32
  dwell : BitVec 32
  nreg : BitVec 16
  valid : Bool
  missed : Bool
  lost : Bool
  audit : Bool
  size : BitVec 8
  lastRot : BitVec 32
  lastTsc : Word
  missRot : BitVec 32 := 0
  hdrRot : Option (BitVec 32) := none
  hdrReg : Bool := false
  seen : Bool := false
  reinj : Bool := false
deriving DecidableEq, Repr, Inhabited

/-- A freewheel slot that is held (R76, R83): its tag and rotation, whether a landing has started, the dies on which its
dwell limit has expired, and the dies that have received a stripe of it. -/
structure FSlot where
  tag : BitVec 32
  rot : BitVec 32
  started : Bool := false
  expired : List Nat := []
  dies : List Nat := []
deriving DecidableEq, Repr, Inhabited

/-- The membership changes of R95 to R97: what this member proposed, with the members that have accepted; what it
accepted; what is committed; and when it noticed a death. -/
structure Membership where
  own : Option Proposal := none
  accepts : List Nat := []
  held : List Proposal := []
  committed : List Proposal := []
  dead : List Nat := []
deriving DecidableEq, Repr, Inhabited

/-- The audit of a segment that is arriving: its tag and rotation, the stripes that have come whole (R98). -/
structure Audit where
  tag : BitVec 32
  rot : BitVec 32
  stripes : Tbl (List Byte) := []
deriving DecidableEq, Repr, Inhabited

/-- The domain's chain as one member sees it (R76, R80, R94); `cadence`, `trot` and `rotBase` are the cadence table, which lies in
CTL memory (log entry 7); `sinceAudit` the segments that have arrived since the last audited one (R98); with the tags of cadence entries and the indices of derailleur
entries that hold an uncorrectable error (R103). -/
structure Chain where
  self : Nat := 0
  derail : Tbl (BitVec 32) := []
  cadence : List Cadence := []
  trot : Nat := 0
  rotBase : Nat := 0
  slots : Tbl (Option FSlot) := []
  member : Membership := {}
  audit : Option Audit := none
  sinceAudit : Nat := 63
  ringBase : Nat := 0
  ringFrames : Nat := 0
  frameBytes : Nat := 0
  badTags : List (BitVec 32) := []
  badDerail : List Nat := []
deriving DecidableEq, Repr, Inhabited

/-- How far the boot of R358 has come: not begun, done, or stopped at an unsigned firmware. -/
inductive Boot where
  | cold | running | failed
deriving DecidableEq, Repr, Inhabited

/-- A model that MODEL has verified: the segment size in MiB, the segments, where its image and its manifest lie in the slab
(R360). -/
structure Model where
  size : Nat
  count : Nat
  image : Nat
  manifest : Nat
deriving DecidableEq, Repr, Inhabited

/-- The mailbox and what the chief hub keeps of its commands (R354, R355, R358, R360). -/
structure Mailbox where
  request : Tbl Byte := []
  response : Tbl Byte := []
  doorbell : BitVec 64 := 0
  stopped : Nat := 0
  keys : Tbl (List Byte) := []
  models : Tbl Model := []
  meas : Tbl (List Byte) := []
  boot : Boot := .cold
  boots : Nat := 0
  authPending : Bool := false
  debugger : Bool := false
deriving DecidableEq, Repr, Inhabited

/-- The launch unit (R310, R321). -/
structure Sched where
  queues : Tbl LQueue := []
  launches : Tbl Launch := []
  teams : Tbl Team := []
  nextId : BitVec 32 := 1
  nextTeam : Nat := 1
  lastAt : Tbl Nat := []
  partials : List (BitVec 32) := []
deriving DecidableEq, Repr, Inhabited

/-- What leaves the package: flits, writes to host memory, interrupt vectors, answers to host reads. -/
inductive Out where
  | ack (die lane src : Nat) (seq : BitVec 32)
  | nak (die lane src : Nat) (seq : BitVec 32)
  | train (die lane : Nat)
  | losSignal (die lane : Nat)
  | sync (mid : Nat) (t : Nat)
  | follow (mid : Nat) (t : Nat)
  | dreq (mid : Nat) (t : Nat)
  | drsp (mid : Nat) (t : Nat)
  | seghdr (mid : Nat) (h : SegHdr)
  | data (mid die lane : Nat) (flit : List Byte)
  | freefr (mid die count : Nat)
  | propose (p : Proposal)
  | accept (mid window : Nat)
  | reject (mid window : Nat)
  | commit (window : Nat)
  | tspreq (mid : Nat) (r : TspReq)
  | tsprsp (mid : Nat) (r : TspRsp)
  | wr (mid : Nat) (w : WrUnit)
  | wrack (mid req unit : Nat)
  | wrnack (mid req unit : Nat) (status : BitVec 64)
  | rdreq (mid : Nat) (r : RdUnit)
  | redhdr (mid : Nat) (r : RedHdr)
  | redgo (mid req : Nat)
  | cntadd (mid : Nat) (c : CntAdd)
  | hostWrite (addr : BitVec 64) (data : List Byte)
  | vector (n : Nat)
  | hostRead (pa : Nat) (data : List Byte) (poisoned : Bool)
deriving DecidableEq, Repr, Inhabited

/-- What the device keeps of a stopped strand beside its frame, which has no field for it (log entry 15): by class the tokens
that its operations in flight still push, with their places in program order (R63, R330), its engine commands in issue order
with their kept translations, their captured TID entries and their place among the commands of the package (R39, R110, R332),
the instructions that it has issued; and which of its arrival records are stand-ins (R373). -/
structure Beside where
  wid : Word
  launchId : BitVec 32
  flights : Tbl (List (Option (BitVec 3) × Nat)) := []
  cmds : Tbl (List Cmd) := []
  nos : Tbl Nat := []
  standIns : List Bool := []
deriving DecidableEq, Repr, Inhabited

/-- One turn of the package: an event, the choice of what a cluster issues in this cycle (R317), the issue turn of a sequencer
with the RUN that it then has, the turn of a hub, the patrol scrubber at a word (R103). -/
inductive Turn where
  | event (i : Instr)
  | cluster (die cl : Nat)
  | issue (r : SeqRef) (run : Nat)
  | hub (die : Nat)
  | scrub (pa : Nat)
deriving DecidableEq, Repr, Inhabited

/-- A unit of a read that its command has given up, whose bytes may still come to a die from a member (R288). -/
structure LateRead where
  die : Nat
  mid : Nat
  req : Nat
  unit : Nat
  len : Nat
deriving DecidableEq, Repr, Inhabited

/-- The state of the package.  `cur` is the agent whose instruction `exec` performs; `agenda` the turns left of this
cycle; `inputs` what reaches the package from outside, in order; `outbox` what it sent, oldest first; `free` counts the
free values used (log entry 14); `cycles` the cycles since reset; `refused` the remote commands (member, number) of which no later unit is performed
(R271); `lateReads` the units of reads that nothing waits for any more; `bad` and `weak` the slab words with an uncorrectable and a correctable error; `frameBase` is where in each die's slab the 64 KiB frame areas begin (R328, log
entry 7), `cadenceBase` where the cadence table lies (R80, log entry 7); `beside` what is kept of stopped strands beside their frames (log entry 15). -/
structure State where
  cur : Agent := .hub 0
  agenda : List Turn := []
  inputs : List Instr := []
  seqs : Tbl Seq := []
  strands : Tbl Strand := []
  clusters : Tbl Cluster := []
  dies : Tbl Die := []
  islands : Tbl Island := []
  mem : List Host.Cell := []
  sched : Sched := {}
  ctxs : Tbl Context := []
  chain : Chain := {}
  mailbox : Mailbox := {}
  frameBase : Nat := 0x7F280000
  cadenceBase : Nat := 0x7F000000
  nextReq : Nat := 1
  nextCmd : Nat := 1
  bad : List Nat := []
  weak : List Nat := []
  refused : List (Nat × Nat) := []
  lateReads : List LateRead := []
  beside : List Beside := []
  outbox : List Out := []
  free : Nat := 0
  cycles : Nat := 0
deriving DecidableEq, Repr

/-- The package right after a cold reset: every field at its default above; nothing boots or runs before the first
step. -/
def State.reset : State := {}

end Sys2Proof.Machine
end

