-- ==== Sys2Proof/Machine/Operands.lean ====
section
/-! DEFINITION. What the fixed-latency families compute from their operands (R179 to R189), one function for each
family, and what a replay entry lands (R330). -/

namespace Sys2Proof.Machine

/-- The minors of the ALU family (R179, R180), in the order of their F codes. -/
inductive AluOp where
  | add | sub | and | or | xor | andn | shl | shr | sra | rol | min | max | minu | maxu | mul | mulh | mulhu | div
  | divu | rem | remu | clz | popc | abs
deriving DecidableEq, Repr

def AluOp.all : List AluOp :=
  [.add, .sub, .and, .or, .xor, .andn, .shl, .shr, .sra, .rol, .min, .max, .minu, .maxu, .mul, .mulh, .mulhu, .div,
   .divu, .rem, .remu, .clz, .popc, .abs]

/-- Leading zero bits; 64 for 0 (R179). -/
def clz64 (a : Word) : Word := if a = 0 then 64 else BitVec.ofNat 64 (63 - Nat.log2 a.toNat)

/-- Number of one bits of the low `n` bits. -/
def popCount (a : Word) : Nat → Nat
  | 0 => 0
  | n + 1 => (if a.getLsbD n then 1 else 0) + popCount a n

/-- The result of an ALU minor (R179); division by zero gives all ones, or A for a remainder (R180). -/
def AluOp.eval (op : AluOp) (a b : Word) : Word :=
  let n := b.toNat % 64
  match op with
  | .add => a + b
  | .sub => a - b
  | .and => a &&& b
  | .or => a ||| b
  | .xor => a ^^^ b
  | .andn => a &&& ~~~b
  | .shl => a <<< n
  | .shr => a >>> n
  | .sra => a.sshiftRight n
  | .rol => a.rotateLeft n
  | .min => if a.slt b then a else b
  | .max => if a.slt b then b else a
  | .minu => if a.ult b then a else b
  | .maxu => if a.ult b then b else a
  | .mul => a * b
  | .mulh => BitVec.ofInt 64 ((a.toInt * b.toInt) / 2 ^ 64)
  | .mulhu => BitVec.ofNat 64 ((a.toNat * b.toNat) / 2 ^ 64)
  | .div => if b = 0 then BitVec.allOnes 64 else a.sdiv b
  | .divu => if b = 0 then BitVec.allOnes 64 else a.udiv b
  | .rem => if b = 0 then a else a.srem b
  | .remu => if b = 0 then a else a.umod b
  | .clz => clz64 a
  | .popc => BitVec.ofNat 64 (popCount a 64)
  | .abs => if a.slt 0 then -a else a

/-- Latency of an ALU minor (R60). -/
def AluOp.latency : AluOp → Nat
  | .mul => 3 | .mulh => 3 | .mulhu => 3
  | .div => 18 | .divu => 18 | .rem => 18 | .remu => 18
  | _ => 1

/-- The minors of ALUI as minors of ALU (R181), in the order of their F codes. -/
def aluiOps : List AluOp := [.add, .and, .or, .xor, .shl, .shr, .sra, .rol, .min, .max, .mul]

/-- LIZ, LIS, LIH (R182): `f` is the minor, `old` is X[D]. -/
def liValue (f : Nat) (lit : BitVec 32) (old : Word) : Word :=
  match f with
  | 0 => lit.setWidth 64
  | 1 => lit.signExtend 64
  | _ => lit ++ old.setWidth 32

/-- The minors of FSC (R188), in the order of their F codes. -/
inductive FscOp where
  | fadd | fsub | fmul | ffma | fmin | fmax | fabs | fneg | fcmpeq | fcmplt | fcmple | fcvti | fcvtf
deriving DecidableEq, Repr

def FscOp.all : List FscOp :=
  [.fadd, .fsub, .fmul, .ffma, .fmin, .fmax, .fabs, .fneg, .fcmpeq, .fcmplt, .fcmple, .fcvti, .fcvtf]

/-- The FP32 value in bits [31:0] of a register (R188). -/
def fpReg (v : Word) : ExtNum := fp32 (v.setWidth 32)

def fpWord (b : BitVec 32) : Word := b.setWidth 64

def boolWord (b : Bool) : Word := if b then 1 else 0

/-- The result of an FSC minor (R188); `c` is X[D], the addend of FFMA. -/
def FscOp.eval (op : FscOp) (rm : RMode) (a b c : Word) : Word :=
  let x := fpReg a
  let y := fpReg b
  let r := Rnd.det rm
  match op with
  | .fadd => fpWord (roundFP32 r (x.add y))
  | .fsub => fpWord (roundFP32 r (x.sub y))
  | .fmul => fpWord (roundFP32 r (x.mul y))
  | .ffma => fpWord (roundFP32 r ((x.mul y).add (fpReg c)))
  | .fmin => fpWord (roundFP32 (.det .rne) (x.least y))
  | .fmax => fpWord (roundFP32 (.det .rne) (x.greatest y))
  | .fabs => fpWord (if x.isNaN then fpNaN else a.setWidth 32 &&& 0x7FFFFFFF#32)
  | .fneg => fpWord (if x.isNaN then fpNaN else a.setWidth 32 ^^^ 0x80000000#32)
  | .fcmpeq => boolWord (x.eq y)
  | .fcmplt => boolWord (x.lt y)
  | .fcmple => boolWord (!x.isNaN && !y.isNaN && !y.lt x)
  | .fcvti => BitVec.ofNat 64 (intEncode 64 r x).bits
  | .fcvtf => fpWord (roundFP32 r (ExtNum.ofInt a.toInt))

/-- The minors of FSF (R189), in the order of their F codes. -/
inductive FsfOp where
  | exp2 | log2 | rcp | rsqrt | sqrt | tanh | sin | cos
deriving DecidableEq, Repr

def FsfOp.all : List FsfOp := [.exp2, .log2, .rcp, .rsqrt, .sqrt, .tanh, .sin, .cos]

/-- The function of an FSF minor on an FP32 value (R189). -/
def FsfOp.fn : FsfOp → ExtNum → BitVec 32
  | .exp2 => fExp2
  | .log2 => fLog2
  | .rcp => fRcp
  | .rsqrt => fRsqrt
  | .sqrt => fSqrt
  | .tanh => fTanh
  | .sin => fSin
  | .cos => fCos

def FsfOp.eval (op : FsfOp) (a : Word) : Word := fpWord (op.fn (fpReg a))

/-- What lands of a replay entry, and the latency of its operation (R330, R331): `none` if the word names no
fixed-latency operation. -/
structure Landing where
  dest : Dest
  op : LandOp := .set
  val : Word
  latency : Nat
deriving DecidableEq, Repr

end Sys2Proof.Machine
end

