-- ==== Sys2Proof/Machine/Flags.lean ====
section
/-! DEFINITION. Predicates: the relations of CMP and CMPI (R183) and the functions of PLOG (R184), and what the words of
a replay entry land (R330). -/

namespace Sys2Proof.Machine

/-- The relations of CMP and CMPI, in the order of their F codes (R183). -/
inductive Rel where
  | eq | ne | lt | ltu | ge | geu
deriving DecidableEq, Repr

def Rel.all : List Rel := [.eq, .ne, .lt, .ltu, .ge, .geu]

def Rel.eval (op : Rel) (a b : Word) : Bool :=
  match op with
  | .eq => a == b
  | .ne => a != b
  | .lt => a.slt b
  | .ltu => a.ult b
  | .ge => !a.slt b
  | .geu => !a.ult b

/-- The functions of PLOG, in the order of their F codes (R184). -/
inductive PLog where
  | pand | por | pxor | pnot | pmov
deriving DecidableEq, Repr

def PLog.all : List PLog := [.pand, .por, .pxor, .pnot, .pmov]

def PLog.eval (op : PLog) (a b : Bool) : Bool :=
  match op with
  | .pand => a && b
  | .por => a || b
  | .pxor => a != b
  | .pnot => !a
  | .pmov => a

/-- Lanes of a vector format: 256 for 32 bits, 512 for 16, 1,024 for 8 (R60, R202). -/
def lanesOf (f : Fmt) : Nat := if f.size = 4 then 256 else if f.size = 2 then 512 else 1024

/-- What a replay entry lands, from its first word, its M byte and its captured operands (R330): the operands stand in
the order of the assembly form, a literal or immediate in place of the second; a value already formed stands first. -/
def replayLanding (word : BitVec 32) (mod : BitVec 8) (o1 o2 o3 : Word) : Option Landing :=
  let maj := (word.extractLsb' 5 7).toNat
  let f := (word.extractLsb' 27 5).toNat
  let d : BitVec 5 := word.extractLsb' 12 5
  let rm := RMode.ofCode (mod.extractLsb' 4 2)
  let xd (v : Word) (l : Nat) : Option Landing := some ⟨.x d, .set, v, l⟩
  let pd (v : Bool) : Option Landing := some ⟨.p (d.setWidth 3), .set, boolWord v, 1⟩
  match maj with
  | 0x01 => AluOp.all[f]?.bind fun op => xd (op.eval o1 o2) op.latency
  | 0x02 => aluiOps[f]?.bind fun op => xd (op.eval o1 o2) op.latency
  | 0x03 => if f < 3 then xd (liValue f (o2.setWidth 32) o3) 1 else none
  | 0x04 => Rel.all[f]?.bind fun op => pd (op.eval o1 o2)
  | 0x05 => Rel.all[f]?.bind fun op => pd (op.eval o1 o2)
  | 0x06 => PLog.all[f]?.bind fun op => pd (op.eval (o1 != 0) (o2 != 0))
  | 0x07 => if f < 8 then xd (if o1 != 0 then o2 else o3) 1 else none
  | 0x08 => if f < 7 then xd o1 3 else none
  | 0x0A => FscOp.all[f]?.bind fun op => xd (op.eval rm o1 o2 o3) 4
  | 0x0B => FsfOp.all[f]?.bind fun op => xd (op.eval o1) 12
  | 0x10 => some ⟨.b (d.setWidth 2), .set, o1, 2⟩
  | 0x12 => if f = 0 then some ⟨.x 31, .set, o1, 1⟩ else none
  | 0x14 => if f = 2 then xd o1 1 else none
  | 0x15 => if f = 1 ∨ f = 3 ∨ f = 4 then xd o1 1 else none
  | 0x17 => if f = 0 then some ⟨.tag (d.setWidth 2) (!mod.getLsbD 0), .set, (o2.setWidth 32) ++ (o1.setWidth 32), 1⟩
            else none
  | 0x36 =>
    if f < 3 then
      some ⟨.z (d.setWidth 2), (if f = 0 then .vsum rm else if f = 1 then .vmax else .vmin), o1, 264⟩
    else none
  | 0x3B =>
    if f = 0 then xd o1 1 else if f = 1 then some ⟨.z (d.setWidth 2), .set, o1, 1⟩
    else if f = 2 then some ⟨.z (d.setWidth 2), .set, 0, 1⟩ else none
  | 0x50 => if f = 0 then some ⟨.fid, .set, o1, 1⟩ else none
  | 0x70 => xd o1 1
  | 0x71 => some ⟨.csr (o2.setWidth 12), .set, o1, 1⟩
  | 0x7B => xd o1 1
  | _ => none

end Sys2Proof.Machine
end

