-- ==== Sys2Proof/Machine/Ops.lean ====
section
/-! DEFINITION. The named operations of the machine: access to the parts of the state, memory, translation, tokens,
event records, and taking a trap and returning from it. -/

namespace Sys2Proof.Machine

/-- What a meaning answers. -/
abbrev Res := Host.Outcome State Fault Refusal

/-! ### The parts of the state by key -/

def clKey (die cl : Nat) : Nat := die * 64 + cl
def stKey (r : StrandRef) : Nat := clKey r.die r.cl * 4 + r.slot
def seqKey (r : SeqRef) : Nat := (clKey r.die r.cl * 4 + r.slot) * 4 + r.cls.code
def hubKey (die : Nat) : Nat := 16384 + die

def strandOf (r : SeqRef) : StrandRef := ⟨r.die, r.cl, r.slot⟩
def seqOf (r : StrandRef) (c : Cls) : SeqRef := ⟨r.die, r.cl, r.slot, c⟩

def allCls : List Cls := [.L, .C, .S, .K]

def agentKey : Agent → Nat
  | .seq r => seqKey r
  | .hub d => hubKey d

def agentDie : Agent → Nat
  | .seq r => r.die
  | .hub d => d

def State.seqAt (s : State) (k : Nat) : Seq := Tbl.get {} s.seqs k
def State.setSeqAt (s : State) (k : Nat) (q : Seq) : State := { s with seqs := Tbl.put s.seqs k q }
def State.modSeqAt (s : State) (k : Nat) (f : Seq → Seq) : State := s.setSeqAt k (f (s.seqAt k))

def State.seq (s : State) (r : SeqRef) : Seq := s.seqAt (seqKey r)
def State.modSeq (s : State) (r : SeqRef) (f : Seq → Seq) : State := s.modSeqAt (seqKey r) f

def State.strandAt (s : State) (k : Nat) : Strand := Tbl.get {} s.strands k
def State.setStrandAt (s : State) (k : Nat) (t : Strand) : State := { s with strands := Tbl.put s.strands k t }
def State.strand (s : State) (r : StrandRef) : Strand := s.strandAt (stKey r)
def State.modStrand (s : State) (r : StrandRef) (f : Strand → Strand) : State :=
  s.setStrandAt (stKey r) (f (s.strand r))

def State.cluster (s : State) (die cl : Nat) : Cluster := Tbl.get {} s.clusters (clKey die cl)
def State.setCluster (s : State) (die cl : Nat) (c : Cluster) : State :=
  { s with clusters := Tbl.put s.clusters (clKey die cl) c }
def State.modCluster (s : State) (die cl : Nat) (f : Cluster → Cluster) : State :=
  s.setCluster die cl (f (s.cluster die cl))

def State.die (s : State) (d : Nat) : Die := Tbl.get {} s.dies d
def State.setDie (s : State) (d : Nat) (v : Die) : State := { s with dies := Tbl.put s.dies d v }
def State.modDie (s : State) (d : Nat) (f : Die → Die) : State := s.setDie d (f (s.die d))

def State.modSched (s : State) (f : Sched → Sched) : State := { s with sched := f s.sched }
def State.modChain (s : State) (f : Chain → Chain) : State := { s with chain := f s.chain }
def State.modMail (s : State) (f : Mailbox → Mailbox) : State := { s with mailbox := f s.mailbox }

def State.send (s : State) (o : Out) : State := { s with outbox := s.outbox ++ [o] }

def State.launch? (s : State) (id : BitVec 32) : Option Launch := Tbl.get? s.sched.launches id.toNat
def State.setLaunch (s : State) (id : BitVec 32) (l : Launch) : State :=
  s.modSched fun c => { c with launches := Tbl.put c.launches id.toNat l }

/-- The team of a strand slot, if one is placed there. -/
def State.team? (s : State) (r : StrandRef) : Option Team := Tbl.get? s.sched.teams (s.strand r).team

/-- The address context of a strand (R104). -/
def State.ctxOf (s : State) (r : StrandRef) : BitVec 4 := ((s.team? r).map (·.ctx)).getD 0

def State.tsc (s : State) (die : Nat) : Nat := (s.die die).tsc

/-- The number of the window (R10, R271). -/
def windowOf (tsc : Nat) : Nat := tsc / 4096

/-- Whether TSC has passed a multiple of `n` in this cycle, in which it may have been steered (R10, R270). -/
def Die.crossed (d : Die) (n : Nat) : Bool := d.tsc / n != (d.tsc - d.span) / n

/-- Turns put in front of the agenda: what must come about before anything else. -/
def State.soon (s : State) (ts : List Instr) : State := { s with agenda := ts.map Turn.event ++ s.agenda }

/-! ### Registers -/

def Seq.getX (q : Seq) (r : Reg) : Word := if r = 0 then 0 else Tbl.get 0 q.x r.toNat

/-- A write of an x register; x0 discards it (R53). -/
def Seq.setX (q : Seq) (r : Reg) (v : Word) : Seq := if r = 0 then q else { q with x := Tbl.set 0 q.x r.toNat v }

/-- A result of the instruction `no` that comes to an x register in cycle `now`: where that of a later instruction has come in
the same cycle, that one remains (R61, R63). -/
def Seq.putX (q : Seq) (r : Reg) (v : Word) (no now : Nat) : Seq :=
  let w := Tbl.get (0, 0) q.wrote r.toNat
  if w.1 = now ∧ no < w.2 then q else { q.setX r v with wrote := Tbl.set (0, 0) q.wrote r.toNat (now, no) }

def Seq.getP (q : Seq) (r : BitVec 3) : Bool := r == 0 || q.p.getLsbD r.toNat

/-- A write of a predicate; p0 discards it (R53). -/
def Seq.setP (q : Seq) (r : BitVec 3) (v : Bool) : Seq :=
  if r = 0 then q
  else { q with p := if v then q.p ||| (1#8 <<< r.toNat) else q.p &&& ~~~(1#8 <<< r.toNat) }

def Seq.getB (q : Seq) (r : BitVec 2) : BReg := Tbl.get {} q.b r.toNat
def Seq.setB (q : Seq) (r : BitVec 2) (v : BReg) : Seq := { q with b := Tbl.set {} q.b r.toNat v }

/-! ### Bits -/

def sext16 (v : BitVec 16) : Word := v.signExtend 64
def zext32 (v : BitVec 32) : Word := v.setWidth 64
def low32 (v : Word) : BitVec 32 := v.setWidth 32

/-- Bits `[lo + w - 1 : lo]` of a word as a number. -/
def field (v : Word) (lo w : Nat) : Nat := (v.toNat >>> lo) % 2 ^ w

/-! ### The slab -/

/-- Bytes of the slab (R101). -/
def slabSize : Nat := 0x400000000

/-- What a slab byte that nothing has written reads as (log entry 2). -/
def memDefault : Byte := 0

def State.readMem (s : State) (pa n : Nat) : List Byte := Tbl.readRun memDefault s.mem pa n

/-- Words of 8 bytes that a write of `n` bytes at `pa` does not wholly replace (R103). -/
def unwritten (pa n : Nat) (ws : List Nat) : List Nat := ws.filter fun w => !(decide (pa ≤ w) && decide (w + 8 ≤ pa + n))

def State.writeMem (s : State) (pa : Nat) (bs : List Byte) : State :=
  { s with
    mem := Tbl.writeRun memDefault s.mem pa bs
    bad := unwritten pa bs.length s.bad
    weak := unwritten pa bs.length s.weak }

/-- The first damaged word of a list that a run of bytes touches (R103). -/
def wordHit (ws : List Nat) (o n : Nat) : Option Nat := ws.find? fun w => decide (w < o + n) && decide (o < w + 8)

/-- A run of scratchpad bytes written. -/
def Cluster.putSpad (c : Cluster) (o : Nat) (bs : List Byte) : Cluster :=
  { c with spad := Tbl.writeRun 0 c.spad o bs, badSpad := unwritten o bs.length c.badSpad }

/-- The first of `n` 32-bit words from `lo` on whose 64-bit word is damaged, from a list of 32-bit words (R103). -/
def pairHit (ws : List Nat) (lo n : Nat) : Option Nat :=
  if n = 0 then none else ws.find? fun w => decide (lo / 2 ≤ w / 2) && decide (w / 2 ≤ (lo + n - 1) / 2)

/-- The memories that a damaged word may lie in, the slab apart (R103). -/
inductive SoftMem where
  | spad | acc | tid | stg | tm | pm | region | cadence | derail | tuple
deriving DecidableEq, Repr

def SoftMem.code : SoftMem → Nat
  | .spad => 0 | .acc => 1 | .tid => 2 | .stg => 3 | .tm => 4 | .pm => 5 | .region => 6 | .cadence => 7 | .derail => 8
  | .tuple => 9

/-- The detail of SRAM_UNCORR for a word outside the slab (log entry 37). -/
def softDetail (m : SoftMem) (die cl n : Nat) : Word :=
  Config.softPlace (((m.code * 8 + die) * 64 + cl) * 2 ^ 32 + n)

def State.memByte (s : State) (pa : Nat) : Byte := Tbl.get memDefault s.mem pa

/-- The canonical form of memory. -/
def Memory.wf (m : List Host.Cell) : Bool := Tbl.wf memDefault m

/-- Little-endian bytes as a word (R5). -/
def leNat (bs : List Byte) : Nat := bytesNat bs
def le64 (bs : List Byte) : Word := BitVec.ofNat 64 (bytesNat bs)
def bytes64 (v : Word) : List Byte := natBytes 8 v.toNat
def bytes32 (v : BitVec 32) : List Byte := natBytes 4 v.toNat

/-- `n` bytes of a list from offset `o`, as a number. -/
def nat (bs : List Byte) (o n : Nat) : Nat := bytesNat ((bs.drop o).take n)

def zeros (n : Nat) : List Byte := List.replicate n 0

/-- The bytes of a list padded with zero bytes, or cut, to `n`. -/
def padTo (n : Nat) (bs : List Byte) : List Byte := (bs ++ zeros (n - bs.length)).take n

/-! ### Event records (R336, R357) -/

/-- The fields of an event record that its cause gives; `tsc` is when it arose, where that is not now (R336). -/
structure EvRec where
  cause : Cause
  tsc : Option Nat := none
  cl : Option Nat := none
  slot : Option Nat := none
  launch : BitVec 32 := 0xFFFFFFFF
  detail : Word := 0
  detail2 : Word := 0
  tepc : Word := 0
  pix : BitVec 32 := 0
  point : Nat := 0
  seqc : Nat := 0
deriving DecidableEq, Repr

def Point.code : Point → Nat
  | .i => 0 | .u => 1 | .d => 2 | .a => 3

def EvRec.bytes (e : EvRec) (tsc die : Nat) (seq : BitVec 64) : List Byte :=
  natBytes 8 tsc ++ natBytes 1 e.cause.code.toNat ++ natBytes 1 die ++ natBytes 1 (e.cl.getD 0xFF)
    ++ natBytes 1 (e.slot.getD 0xFF) ++ bytes32 e.launch ++ bytes64 e.detail ++ bytes64 e.detail2 ++ bytes64 e.tepc
    ++ bytes32 e.pix ++ natBytes 1 e.point ++ natBytes 1 e.seqc ++ zeros 2 ++ bytes64 seq ++ zeros 8

/-- A record at TAIL of the die's event queue, or dropped when the ring is full; the sequence number advances in
either case (R357). -/
def State.post (s : State) (die : Nat) (e : EvRec) : State :=
  let d := s.die die
  let q := d.events
  let n := 2 ^ q.size.toNat
  let rec64 := e.bytes (e.tsc.getD d.tsc) die q.seq
  let hub := { d.hub with event := true }
  if (q.tail.toNat + 1) % n = q.head.toNat % n then
    s.setDie die { d with hub := hub, events := { q with drops := q.drops + 1, seq := q.seq + 1 } }
  else
    let s' := s.setDie die
      { d with hub := hub, events := { q with tail := BitVec.ofNat 32 ((q.tail.toNat + 1) % n), seq := q.seq + 1 } }
    (s'.send (.hostWrite (q.base + BitVec.ofNat 64 (64 * q.tail.toNat)) rec64)).send (.vector die)

/-! ### Translation (R104 to R111, R315) -/

/-- A place that a virtual address names: in the cluster's own memories, or in the slab through a page of a class. -/
inductive Place where
  | spad (off : Nat)
  | acc (off : Nat)
  | tid (off : Nat)
  | slab (pa cls : Nat) (r w x : Bool)
deriving DecidableEq, Repr

def windowBase : Nat := 0xFF0000000000

/-- The place of a local-window offset for a team, whose extent and TID run relocate it (R105, R315): `none` where
nothing is assigned. -/
def windowPlace (t : Team) (off : Nat) : Option Place :=
  if off < 0x200000 then (if off < t.spb then some (.spad (t.spadBase + off)) else none)
  else if off < 0x280000 then some (.acc (off - 0x200000))
  else if 0x300000 ≤ off ∧ off < 0x304000 then
    (if off - 0x300000 < 64 * t.ntid then some (.tid (64 * t.tidBase + (off - 0x300000))) else none)
  else none

/-- The first matching entry of a translation memory: the lowest index (R109). -/
def tmLookup (tm : Tbl (BitVec 64)) (ctx : BitVec 4) (vpn : Nat) : Option (BitVec 64) :=
  (tm.find? fun p => p.2.getLsbD 12 && field p.2 33 4 == ctx.toNat && field p.2 37 27 == vpn).map (·.2)

/-- The entries of a translation memory that hold no uncorrectable error: the others count as invalid (R103). -/
def Die.goodTm (d : Die) : Tbl (BitVec 64) := d.tm.filter fun p => !d.badTm.contains p.1

/-- The first damaged entry that would have matched (R103). -/
def Die.softTm (d : Die) (ctx : BitVec 4) (vpn : Nat) : Option Nat :=
  (d.tm.find? fun p => d.badTm.contains p.1 && p.2.getLsbD 12 && field p.2 33 4 == ctx.toNat && field p.2 37 27 == vpn).map
    (·.1)

/-- The SRAM_UNCORR record of a translation that a damaged entry made miss (R103). -/
def State.missRecord (s : State) (die : Nat) (ctx : BitVec 4) (vpn : Nat) : State :=
  match (s.die die).softTm ctx vpn with
  | some n => s.post die { cause := .sramUncorr, detail := softDetail .tm die 0 n }
  | none => s

/-! ### The position map (R112, R113, R154) -/

/-- The set of a key (R112). -/
def posSet (ctx req tpg : Nat) : Nat := (tpg % 4096) ^^^ (req % 4096) ^^^ (req / 4096 % 256 * 16) ^^^ (ctx * 256 % 4096)

/-- A position-map entry of `set * 4 + way` that matches a key. -/
def posMatch (e : BitVec 128) (ctx req tpg : Nat) : Bool :=
  e.getLsbD 59 && (e.extractLsb' 108 20).toNat == req && (e.extractLsb' 92 16).toNat == tpg
    && (e.extractLsb' 88 4).toNat == ctx

/-- The lowest way of the key's set that matches, among those damaged or not. -/
def Die.posFind (d : Die) (soft : Bool) (ctx req tpg : Nat) : Option Nat :=
  (List.range 4).find? fun w =>
    posMatch (Tbl.get 0 d.pm (posSet ctx req tpg * 4 + w)) ctx req tpg
      && d.badPm.contains (posSet ctx req tpg * 4 + w) == soft

/-- The way that holds a key (R112). -/
def Die.posWay (d : Die) (ctx req tpg : Nat) : Option Nat := d.posFind false ctx req tpg

/-- The SRAM_UNCORR record of a lookup that a damaged entry made miss (R103). -/
def State.posRecord (s : State) (die : Nat) (ctx req tpg : Nat) : State :=
  match (s.die die).posFind true ctx req tpg with
  | some w => s.post die { cause := .sramUncorr, detail := softDetail .pm die 0 (posSet ctx req tpg * 4 + w) }
  | none => s

/-- The record of a miss that a damaged entry caused, for the cause raised and its detail (R103). -/
def State.softMiss (s : State) (die : Nat) (ctx : BitVec 4) (c : Cause) (detail : Word) : State :=
  match c with
  | .xlateMiss => s.missRecord die ctx detail.toNat
  | .posmapMiss => s.posRecord die ctx.toNat (detail.toNat / 65536) (detail.toNat % 65536)
  | _ => s

def entryClass (e : BitVec 64) : Nat := field e 17 3

def entryPlace (e : BitVec 64) (off : Nat) : Place :=
  .slab (field e 20 13 * 0x200000 + off) (entryClass e) (e.getLsbD 16) (e.getLsbD 15) (e.getLsbD 14)

/-- The page that a virtual address of a context names on a die. -/
def State.page (s : State) (die : Nat) (ctx : BitVec 4) (va : Nat) : Except Cause Place :=
  match tmLookup (s.die die).goodTm ctx (va / 0x200000) with
  | some e => .ok (entryPlace e (va % 0x200000))
  | none => .error .xlateMiss

/-- The kinds of access of R107. -/
inductive AccKind where
  | fetch | read | write | deposit | copyTuple | take | cancel | reduce | clear | stageRead | remote
deriving DecidableEq, Repr

/-- Whether a class permits an access, and the permissions it needs (R, W, X) (R107). -/
def AccKind.classOk (k : AccKind) (cls : Nat) : Bool :=
  match k with
  | .fetch | .read | .write => cls == 0
  | .deposit | .copyTuple | .take | .cancel => cls == 1
  | .reduce | .clear | .stageRead => cls == 3
  | .remote => cls == 0

def AccKind.permOk (k : AccKind) (r w x : Bool) : Bool :=
  match k with
  | .fetch => x
  | .read | .copyTuple | .stageRead => r
  | .write | .deposit | .take | .clear | .remote => w
  | .cancel => true
  | .reduce => r && w

/-- Class, then permission (R110). -/
def checkPlace (k : AccKind) : Place → Except Cause Nat
  | .slab pa cls r w x =>
    if !k.classOk cls then .error .xlateClass else if !k.permOk r w x then .error .xlatePerm else .ok pa
  | _ => .error .xlateClass

/-- The place that an address names for a strand of team `t` (R104, R105, R110, R315): ADDR_RANGE, ALIGN, XLATE_MISS in
that order.  Without a team no local window is in reach. -/
def State.place (s : State) (die : Nat) (ctx : BitVec 4) (t : Option Team) (va : Word) (al : Nat) :
    Except Cause Place :=
  if va.toNat ≥ 2 ^ 48 then .error .addrRange
  else if va.toNat ≥ windowBase then
    match t.bind fun t => windowPlace t (va.toNat - windowBase) with
    | none => .error (if t.isSome then .addrRange else .xlateClass)
    | some p => if va.toNat % al ≠ 0 then .error .align else .ok p
  else if va.toNat % al ≠ 0 then .error .align
  else s.page die ctx va.toNat

/-- Translate of R71: the slab address of an access of the given kind (R110). -/
def State.translate (s : State) (r : StrandRef) (va : Word) (al : Nat) (k : AccKind) : Except Cause Nat :=
  (s.place r.die (s.ctxOf r) (s.team? r) va al).bind (checkPlace k)

/-! ### Tokens (R57, R58, R169) -/

def Strand.count (t : Strand) (q : BitVec 3) : Nat := Tbl.get 0 t.q q.toNat

/-- Tokens that were there when the cycle began and that nothing has popped since (R169). -/
def Strand.free (t : Strand) (q : BitVec 3) : Nat := min (Tbl.get 0 t.qFree q.toNat) (t.count q)

def Strand.pop (t : Strand) (q : BitVec 3) (n : Nat) : Strand :=
  { t with q := Tbl.set 0 t.q q.toNat (t.count q - n), qFree := Tbl.set 0 t.qFree q.toNat (t.free q - n) }

/-- Tokens of a queue that the pops of this cycle have taken for an instruction that is about to issue (R169). -/
def Seq.preOf (q : Seq) (k : BitVec 3) : Nat := ((q.pre.filter fun p => p.1 == k).map (·.2)).sum

/-- Tokens that a sequencer may pop now (R169). -/
def State.tokens (s : State) (r : SeqRef) (q : BitVec 3) : Nat := (s.strand (strandOf r)).free q + (s.seq r).preOf q

def Strand.push (t : Strand) (q : BitVec 3) (n : Nat) : Strand :=
  { t with q := Tbl.set 0 t.q q.toNat (t.count q + n) }

/-- The launch header byte that binds a queue (R305): its producer and consumer if it is bound. -/
def State.binding (s : State) (r : StrandRef) (q : BitVec 3) : Option (Cls × Cls) :=
  match (s.team? r).bind fun t => s.launch? t.launch with
  | none => none
  | some l =>
    let b := nat l.hdr (16 + q.toNat) 1
    if b < 128 then none else some (Cls.ofCode (b / 4 % 4), Cls.ofCode (b % 4))

def State.isConsumer (s : State) (r : SeqRef) (q : BitVec 3) : Bool :=
  match s.binding (strandOf r) q with
  | some (_, c) => c == r.cls
  | none => false

def State.isProducer (s : State) (r : SeqRef) (q : BitVec 3) : Bool :=
  match s.binding (strandOf r) q with
  | some (p, _) => p == r.cls
  | none => false

/-! ### Raising a cause (R326, R327) -/

/-- The words and the M byte of an instruction, for a replay entry or a command record. -/
def wordOf (i : Instr) (n : Nat) : BitVec 32 := (encode i).getD n 0
def modOf (i : Instr) : BitVec 8 := (wordOf i 1).extractLsb' 8 8

def Seq.cmds (q : Seq) : List Cmd := q.copyQ ++ q.vecQ ++ q.matQ ++ q.collQ ++ q.landQ

/-- Whether something of a strand must end before it stops (R136, R326): an instruction that holds its sequencer, a tuple request
at another member that is not cancelled yet, or remote units that have been sent. -/
def Seq.unsettled (q : Seq) : Bool :=
  q.wait == some .held || (q.tup.any fun t => t.remote.isSome && t.done.isNone) ||
  q.collQ.any fun c => !c.sent.isEmpty

def State.unsettled (s : State) (st : StrandRef) : Bool :=
  allCls.any fun c => (s.seq (seqOf st c)).unsettled

/-! ### The remote line cache (R114 to R116) -/

/-- A line put first in a die's cache; of the sixteen ways of its set, the line used least recently leaves (R114). -/
def cachePut (cache : List CacheLine) (l : CacheLine) : List CacheLine :=
  let rest := cache.filter fun c => c.line != l.line
  let same := rest.filter fun c => c.line % 2048 == l.line % 2048
  match same[15]? with
  | some old => l :: rest.filter fun c => c.line != old.line
  | none => l :: rest

/-- The bytes of a line with those that a write to `pa` covers replaced. -/
def mergeLine (line pa : Nat) (bs data : List Byte) : List Byte :=
  data.zipIdx.map fun (b, i) =>
    let a := line * 256 + i
    if pa ≤ a ∧ a < pa + bs.length then bs.getD (a - pa) b else b

/-- A write from a die: performed at the home, and merged into the die's own cache (R116). -/
def State.writeSlab (s : State) (die pa : Nat) (bs : List Byte) : State :=
  let s' := s.writeMem pa bs
  if pa / 0x80000000 = die then s'
  else s'.modDie die fun d =>
    { d with cache := d.cache.map fun c => { c with data := mergeLine c.line pa bs c.data } }

/-- The slice of a physical address (R101). -/
def sliceOf (pa : Nat) : Nat := pa / 256 % 64

/-- A corrected error at a word: counted at its slice, posted once in a window for the slice (R103). -/
def State.noteCorrected (s : State) (w : Nat) : State :=
  let die := w / 0x80000000
  let d := s.die die
  let sl := Tbl.get {} d.slices (sliceOf w)
  let now := windowOf d.tsc
  let s1 := s.setDie die
    { d with slices := Tbl.put d.slices (sliceOf w) { sl with corrected := sl.corrected + 1, corrWindow := some now } }
  if sl.corrWindow = some now then s1 else s1.post die { cause := .sramCorr, detail := BitVec.ofNat 64 w }

/-- One correctable word read: written back and counted (R103). -/
def State.correct (s : State) (w : Nat) : State := { s with weak := s.weak.filter (· != w) }.noteCorrected w

/-- The correctable words of a run of slab bytes that is read (R103). -/
def State.corrected (s : State) (pa n : Nat) : State :=
  (s.weak.filter fun w => decide (w < pa + n) && decide (pa < w + 8)).foldl State.correct s

/-- The 256 bytes of a line homed on another die, for a reader whose last boundary was at `since`: a hit only if the line was
filled after it and its parity is right, else the home is read and the line filled again (R103, R115). -/
def State.readLine (s : State) (die since line : Nat) : State × List Byte :=
  let d := s.die die
  let fill (s : State) : State × List Byte :=
    let data := s.readMem (line * 256) 256
    (s.modDie die fun d => { d with cache := cachePut d.cache ⟨line, d.tsc, data, false⟩ }, data)
  match d.cache.find? fun c => c.line == line && decide (since < c.filled) with
  | some c => if c.bad then fill (s.noteCorrected (line * 256)) else (s.setDie die { d with cache := cachePut d.cache c }, c.data)
  | none => fill s

/-- The bytes of `n` lines from `line`. -/
def State.readLines (s : State) (die since line : Nat) : Nat → State × List Byte
  | 0 => (s, [])
  | n + 1 =>
    let (s1, a) := s.readLine die since line
    let (s2, b) := s1.readLines die since (line + 1) n
    (s2, a ++ b)

/-- The lines of a run of bytes leave a die's cache, so that a read of them is of their homes at one moment (R293). -/
def State.dropLines (s : State) (die pa n : Nat) : State :=
  s.modDie die fun d => { d with cache := d.cache.filter fun c => decide (c.line * 256 + 256 ≤ pa) || decide (pa + n ≤ c.line * 256) }

/-- `n` bytes of a PLAIN line at `pa`, read from a die: through its cache when the home is another die (R114). -/
def State.readSlab (s : State) (die since pa n : Nat) : State × List Byte :=
  if pa / 0x80000000 = die ∨ n = 0 then (s, s.readMem pa n)
  else
    let first := pa / 256
    let (s', bs) := s.readLines die since first ((pa + n - 1) / 256 - first + 1)
    (s', (bs.drop (pa % 256)).take n)

/-- Whether an uncorrectable word lies in a run of slab bytes (R103). -/
def State.badAt (s : State) (pa n : Nat) : Option Nat :=
  s.bad.find? fun w => decide (w < pa + n) && decide (pa < w + 8)

/-! ### Stopping a strand (R326 to R331, R335, R336) -/

/-- A number put into a record at an offset. -/
def putAt (o : Nat) (v bs : List Byte) : List Byte := bs.take o ++ v ++ bs.drop (o + v.length)

def putNat (o n v : Nat) (bs : List Byte) : List Byte := putAt o (natBytes n v) bs

/-- Numbers of `n` bytes each, one after another. -/
def packNats (n : Nat) (vs : List Nat) : List Byte := vs.flatMap (natBytes n)

def regList : List Reg := (List.range 32).map (BitVec.ofNat 5)

/-- A replay entry (R330): REM counts from the next step. -/
def Flight.bytes (f : Flight) : List Byte :=
  bytes32 f.word ++ natBytes 2 (f.rem - 1) ++ [1] ++ natBytes 1 f.mod.toNat ++ bytes64 f.op1 ++ bytes64 f.op2
    ++ bytes64 f.op3

/-- A cancelled tuple request in a sequencer record (R335). -/
def Cancelled.bytes (c : Cancelled) : List Byte :=
  padTo 16 ((encode c.ins).flatMap wordBytes) ++ bytes64 c.captA ++ bytes64 c.captB

def BReg.word (b : BReg) : Nat := b.target.toNat + (if b.prep then 2 ^ 63 else 0)

/-- A sequencer record (R335). -/
def Seq.record (q : Seq) : List Byte :=
  natBytes 8 q.pc.toNat
    ++ natBytes 1 ((if q.ended then 1 else 0) + (if q.step then 2 else 0)) ++ natBytes 1 q.p.toNat
    ++ natBytes 1 q.gap ++ natBytes 1 q.flights.length ++ natBytes 4 q.pix.toNat
    ++ packNats 8 ((List.range 4).map fun n => (q.getB (BitVec.ofNat 2 n)).word)
    ++ packNats 8 (regList.map fun r => (q.getX r).toNat)
    ++ padTo 256 (q.flights.flatMap Flight.bytes) ++ padTo 256 (q.cancelled.flatMap Cancelled.bytes)
    ++ natBytes 1 q.cancelled.length ++ zeros 207

def locOf (r : StrandRef) : Nat := r.die * 65536 + r.cl * 256 + r.slot

/-- FIDCTL of a strand (R250). -/
def fidctl (t : Strand) (c : Cluster) : Nat :=
  c.wcnt.toNat * 256 + (if c.raised then 128 else 0) + (if c.raised then 0 else t.fid.toNat * 4) + t.fid.toNat

/-- The first 1,024 bytes of a strand record (R335). -/
def Strand.record (t : Strand) (c : Cluster) (r : StrandRef) (cause : Cause) : List Byte :=
  bytes64 t.wid ++ bytes64 t.cmask ++ natBytes 4 (fidctl t c) ++ bytes32 t.arrTag ++ bytes32 t.arrRot
    ++ bytes32 t.launchId ++ bytes64 t.arrTsc ++ packNats 1 ((List.range 8).map fun n => t.count (BitVec.ofNat 3 n))
    ++ packNats 4 ((List.range 4).flatMap fun n =>
        let b := Tbl.get {} t.binds n; [b.value.toNat, b.mask.toNat])
    ++ natBytes 1 (packBits 1 ((List.range 4).map fun n => if (Tbl.get {} t.binds n).active then 1 else 0))
    ++ natBytes 1 t.arrivals.length ++ natBytes 1 (if t.arrOvf then 1 else 0) ++ natBytes 1 cause.code.toNat
    ++ natBytes 4 (locOf r) ++ zeros 8
    ++ padTo 512 (t.arrivals.flatMap fun a => bytes32 a.tag ++ bytes32 a.rot ++ bytes64 a.tsc) ++ zeros 416

/-- The engine code of a command record (R335). -/
inductive Engine where
  | copy | vector | matrix | coll | land
deriving DecidableEq, Repr

def Engine.code : Engine → Nat
  | .copy => 0 | .vector => 1 | .matrix => 2 | .coll => 3 | .land => 4

def Engine.ofCode : Nat → Engine
  | 0 => .copy | 1 => .vector | 2 => .matrix | 3 => .coll | _ => .land

def Seq.queue (q : Seq) : Engine → List Cmd
  | .copy => q.copyQ | .vector => q.vecQ | .matrix => q.matQ | .coll => q.collQ | .land => q.landQ

def Seq.setQueue (q : Seq) (e : Engine) (l : List Cmd) : Seq :=
  match e with
  | .copy => { q with copyQ := l } | .vector => { q with vecQ := l } | .matrix => { q with matQ := l }
  | .coll => { q with collQ := l } | .land => { q with landQ := l }

def allEngines : List Engine := [.copy, .vector, .matrix, .coll, .land]

/-- Tile slots that a matrix command names (R224). -/
def tileCount : Instr → Nat
  | .mma (ml := l) .. => (l.ntm1.toNat + 1) * (l.ktm1.toNat + 1)
  | .mmak (ml := l) .. => (l.ntm1.toNat + 1) * (l.ktm1.toNat + 1)
  | _ => 0

/-- The tile-slot entries that follow a matrix command's record, padded to 64 bytes. -/
def Cmd.tileBytes (c : Cmd) : List Byte :=
  let n := tileCount c.ins
  let bs := (List.range n).flatMap fun k => bytes32 (c.tiles.getD k (0, 0)).1 ++ bytes32 (c.tiles.getD k (0, 0)).2
  padTo ((bs.length + 63) / 64 * 64) bs

/-- A command record with its extension (R335). -/
def Cmd.record (c : Cmd) (cls : Cls) (idx : Nat) (e : Engine) : List Byte :=
  padTo 12 ((encode c.ins).flatMap wordBytes) ++ natBytes 4 c.pix ++ natBytes 8 c.addr.toNat ++ bytes64 c.xd
    ++ bytes64 c.xa ++ bytes64 c.xb ++ natBytes 1 (cls.code + 4 * idx) ++ natBytes 1 e.code ++ natBytes 1 c.fid.toNat
    ++ natBytes 1 (c.tileBytes.length / 64) ++ bytes32 c.lfsr
    ++ natBytes 4 ((c.claim.map fun k => k.slot + k.round.toNat * 65536).getD 0)
    ++ bytes32 (if c.begun then c.target.getD 0 else 0) ++ c.tileBytes

/-- A command inserted by its place in issue order. -/
def insertCmd (x : Engine × Cmd) : List (Engine × Cmd) → List (Engine × Cmd)
  | [] => [x]
  | y :: r => if x.2.seqNo ≤ y.2.seqNo then x :: y :: r else y :: insertCmd x r

/-- The commands of a sequencer in issue order. -/
def Seq.inOrder (q : Seq) : List (Engine × Cmd) :=
  (allEngines.flatMap fun e => (q.queue e).map fun c => (e, c)).foldr insertCmd []

/-- The records of a strand's engine commands (R328). -/
def State.cmdRecords (s : State) (st : StrandRef) : List (List Byte) :=
  allCls.flatMap fun c =>
    (s.seq (seqOf st c)).inOrder.map fun (e, k) => k.record c (s.strand st).idx e

/-- A strand's trap frame: its strand record, the command directory, the command records (R328, R335); the directory's record
bytes are those of all the records with their extensions (log entry 85). -/
def State.frame (s : State) (st : StrandRef) (cause : Cause) : List Byte :=
  let recs := s.cmdRecords st
  (s.strand st).record (s.cluster st.die st.cl) st cause
    ++ allCls.flatMap (fun c => (s.seq (seqOf st c)).record)
    ++ natBytes 4 recs.length ++ natBytes 4 recs.flatten.length ++ zeros 56 ++ recs.flatten

/-- The 64 KiB frame area of a strand slot, in the slab of its die (R328, log entry 7). -/
def State.frameArea (s : State) (st : StrandRef) : Nat :=
  st.die * 0x80000000 + s.frameBase + (st.cl * 4 + st.slot) * 65536

/-- TCAUSE of a stop (R327). -/
def StopInfo.tcause (i : StopInfo) (st : StrandRef) : BitVec 64 :=
  BitVec.ofNat 64 (i.pix.toNat * 2 ^ 32 + i.cls.code * 2 ^ 22 + i.point.code * 2 ^ 20 + st.die * 2 ^ 16 + st.cl * 2 ^ 8
    + st.slot * 2 ^ 6 + i.cause.code.toNat)

/-- The hub takes up the first of its stopped strands when it holds none (R326, R327). -/
def State.loadTrap (s : State) (die : Nat) : State :=
  let d := s.die die
  match d.hub.held, d.hub.trapQ with
  | none, st :: rest =>
    match (s.strand st).stop with
    | .stopped i =>
      let regs := { d.hub.regs with
        tcause := i.tcause st, tepc := i.tepc.setWidth 64, tframe := BitVec.ofNat 64 (s.frameArea st + 1) }
      s.setDie die { d with hub := { d.hub with held := some st, trapQ := rest, regs := regs } }
    | _ => s.setDie die { d with hub := { d.hub with trapQ := rest } }
  | _, _ => s

/-- The TSC at which a strand stopped. -/
def State.stopTsc (s : State) (st : StrandRef) : Nat :=
  match (s.strand st).stop with
  | .stopped i => i.at_
  | _ => 0

/-- A strand queued to its hub, by the TSC of its stop, then by LOC (R326). -/
def State.insertTrap (s : State) (st : StrandRef) : List StrandRef → List StrandRef
  | [] => [st]
  | x :: r =>
    if s.stopTsc st < s.stopTsc x ∨ (s.stopTsc st = s.stopTsc x ∧ locOf st < locOf x) then st :: x :: r
    else x :: s.insertTrap st r

/-- The value that an LDS delivers. -/
def ldsValue (q : LdsReq) (bs : List Byte) : Word :=
  let v := leNat bs
  if q.sg then BitVec.ofInt 64 (intDecode (8 * q.size) v) else BitVec.ofNat 64 v

/-! ### Raising a cause (R326, R327) -/

/-- The detail that an event record gives of a stop: the place of a miss is known to the hub alone. -/
def StopInfo.shown (i : StopInfo) : Word := if i.cause = .xlateMiss ∨ i.cause = .posmapMiss then 0 else i.detail

/-- The event record of a stop that termination posts, and of a D-point cause met while the strand stops (R326, R329,
R336). -/
def StopInfo.record (i : StopInfo) (s : State) (st : StrandRef) : EvRec :=
  { cause := i.cause, cl := some st.cl, slot := some st.slot, launch := (s.strand st).launchId, detail := i.shown,
    tepc := i.tepc.setWidth 64, tsc := some i.tsc, pix := i.pix, point := i.point.code, seqc := i.cls.code }

/-- Whether a new cause takes the place of the one for which a strand began to stop: both arose in one cycle, and the new
one in an earlier class (R326). -/
def StopInfo.before (i j : StopInfo) : Bool :=
  i.tsc == j.tsc && decide (i.cls.code < j.cls.code) && i.point != .a && j.point != .a

/-- A cause at point D that does not stop its strand is posted; any other is raised again when its instruction is executed
again (R326). -/
def State.postLate (s : State) (st : StrandRef) (i : StopInfo) : State :=
  if i.point = .d then s.post st.die (i.record s st) else s

/-- TAKING A TRAP: a cause with its point, the address of what raised it, its PIX and its detail.  The strand begins to
stop, which STRAND_STOP ends; of the causes of one cycle the first in the order L, C, S, K is reported (R326).  A word that
cannot be corrected goes before any other cause, because its team is not resumed (R103; log entry 82). -/
def State.raise (s : State) (r : SeqRef) (c : Cause) (pt : Point) (tepc : BitVec 48) (pix : Nat) (detail : Word) :
    State :=
  let st := strandOf r
  let i : StopInfo :=
    { cause := c, point := pt, cls := r.cls, tepc := tepc, pix := BitVec.ofNat 32 pix, detail := detail, tsc := s.tsc r.die }
  let stopFor (s : State) : State := s.modStrand st fun t => { t with stop := .stopping i }
  match (s.strand st).stop with
  | .running => stopFor (s.softMiss st.die (s.ctxOf st) c detail)
  | .stopping j => if i.before j || (c == .sramUncorr && j.cause != .sramUncorr) then stopFor (s.postLate st j) else s.postLate st i
  | .stopped _ => s.postLate st i

/-- Whether a strand's sequencers may act: it runs, or one of them began to stop it in this cycle, in which all of them still
act (R326). -/
def State.acts (s : State) (st : StrandRef) : Bool :=
  match (s.strand st).stop with
  | .running => true
  | .stopping i => i.tsc == s.tsc st.die && i.point != .a
  | .stopped _ => false

/-- A push at the completion of an instruction; `none` when the queue holds 255 tokens (R57). -/
def State.pushTok (s : State) (st : StrandRef) (post : Option (BitVec 3)) : Option State :=
  match post with
  | none => some s
  | some q => if (s.strand st).count q ≥ 255 then none else some (s.modStrand st fun t => t.push q 1)

/-- A push at a completion, and whether it was performed: TOKEN_OVERFLOW at point D, with the PIX of the command, when the
queue is full (R57, R327). -/
def State.pushPost? (s : State) (r : SeqRef) (post : Option (BitVec 3)) (addr : BitVec 48) (pix : Nat) : State × Bool :=
  match s.pushTok (strandOf r) post with
  | some s' => (s', true)
  | none => (s.raise r .tokenOverflow .d addr pix 0, false)

def State.pushPost (s : State) (r : SeqRef) (post : Option (BitVec 3)) (addr : BitVec 48) (pix : Nat := 0) : State :=
  (s.pushPost? r post addr pix).1

/-- `n` tokens popped from a queue by a sequencer, those taken ahead of its turn first; whatever was released into the
queue is acquired (R169, R170). -/
def State.popQ (s : State) (r : SeqRef) (q : BitVec 3) (n : Nat) : State :=
  let k := min n ((s.seq r).preOf q)
  let left := (s.seq r).preOf q - k
  let others := (s.seq r).pre.filter fun p => p.1 != q
  (s.modStrand (strandOf r) fun t => t.pop q (n - k)).modSeq r fun z =>
    { z with pre := if left = 0 then others else (q, left) :: others, acq := s.tsc r.die }

/-- The TSC since which a line must have been filled for a read of a sequencer to hit it: that of its last phase boundary at
die scope or wider, or of its last other acquire (R115, R171, R297; log entry 83). -/
def Seq.fresh (q : Seq) : Nat := max q.phase q.acq

/-- The first LDS of a sequencer completes: reads its line, writes X[D] and pushes its token (R119).  A word in an
uncorrectable error delivers nothing (R103). -/
def State.ldsFinish (s : State) (r : SeqRef) (q : LdsReq) : State :=
  let s0 := s.modSeq r fun z => { z with lds := z.lds.drop 1 }
  match s.badAt q.pa q.size with
  | some w => s0.raise r .sramUncorr .a 0 0 (BitVec.ofNat 64 w)
  | none =>
    let (s1, bs) := (s0.corrected q.pa q.size).readSlab r.die (s.seq r).fresh q.pa q.size
    (s1.modSeq r fun z => z.putX q.d (ldsValue q bs) q.no s.cycles).pushPost r q.post q.addr

/-- Every accepted LDS of a stopping sequencer completes (R326). -/
def State.ldsAll (s : State) (r : SeqRef) : Nat → State
  | 0 => s
  | n + 1 =>
    match (s.seq r).lds with
    | [] => s
    | q :: _ => (s.ldsFinish r q).ldsAll r n

/-- A request of a sequencer removed from the parked tables of the package (R136). -/
def State.unpark (s : State) (req : Nat) : State :=
  { s with dies := s.dies.map fun (k, d) =>
      (k, { d with slices := d.slices.map fun (j, sl) =>
        (j, { sl with parked := sl.parked.filter (fun p => p.req != req || p.who matches .member _ _),
                      queue := sl.queue.filter (fun p => p.req != req || p.who matches .member _ _) }) }) }

/-- The requester id of a sequencer of this package (R127). -/
def State.rqid (s : State) (r : SeqRef) : BitVec 18 :=
  BitVec.ofNat 18 (s.chain.self * 8192 + r.die * 1024 + r.cl * 16 + r.slot * 4 + r.cls.code)

/-- A request at another member is cancelled there by a cancellation of label 0, under a number of its own (R135 to R137). -/
def State.cancelFar (s : State) (r : SeqRef) (t : TupOut) (mid : Nat) : State :=
  { s with nextReq := s.nextReq + 1 }.send (.tspreq mid
    ⟨3, false, t.cls, 0, 0, t.captA.setWidth 48, s.ctxOf (strandOf r), s.rqid r, BitVec.ofNat 32 s.nextReq, []⟩)

/-- The accepted and not completed requests of a stopping sequencer are cancelled and recorded (R136). -/
def State.cancelAll (s : State) (r : SeqRef) : State :=
  let q := s.seq r
  (q.tup.foldl (fun a t => if t.remote.isSome then a else a.unpark t.req) s).modSeq r fun z =>
    { z with tup := [], cancelled := z.cancelled ++ q.tup.map fun t => ⟨t.ins, t.captA, t.captB⟩ }

/-- What a cancelled request completes with (R138, R140). -/
def cancelledWord : BitVec 64 := 3 + 8

/-- A request of a stopping strand that its home has cancelled: it is recorded and completes nothing (R136). -/
def TupOut.struck (t : TupOut) : Bool := t.stopping && t.done.any fun d => d.1.toNat % 8 == 3

/-- The requests of a stopping strand at other members are cancelled there, once no instruction of the strand waits to be
accepted; one that its home had refused is not there (R136). -/
def State.askCancel (s : State) (st : StrandRef) : State :=
  if allCls.any fun c => (s.seq (seqOf st c)).wait == some .held then s
  else allCls.foldl (fun a c =>
    let r := seqOf st c
    (a.seq r).tup.foldl (fun b t =>
      match t.remote with
      | none => b
      | some mid =>
        if t.stopping || t.done.isSome then b
        else
          let t' := if t.resendAt.isSome then { t with stopping := true, done := some (cancelledWord, []) }
            else { t with stopping := true, since := b.tsc r.die }
          (if t.resendAt.isSome then b else b.cancelFar r t mid).modSeq r fun z =>
            { z with tup := z.tup.map fun x => if x.req = t.req then t' else x }) a) s

/-- The header of an instruction (R43, R44). -/
def hdrOf (i : Instr) : Hdr := i.hdr?.getD ⟨false, 0, .w32, none, none⟩

/-- Bytes of an instruction (R43). -/
def sizeOf (h : Hdr) : Nat := 4 * h.form.words

/-- Whether a cause is masked for a strand (R56, R324). -/
def State.masked (s : State) (st : StrandRef) (c : Cause) : Bool := (s.strand st).cmask.getLsbD c.code.toNat

/-- A tuple request completes at its requester (R133, R135, R138, R139): its block if it is DONE, X[D], its token;
REMOTE_TIMEOUT where an unmasked UNREACH is written and the token was pushed (R8). -/
def State.completeTup (s : State) (r : SeqRef) (o : TupOut) (status : BitVec 64) (out : List Byte) : State :=
  let h := hdrOf o.ins
  let d : Reg := ((o.ins.toRaw.map Raw.d).getD 0)
  let take := o.ins matches .tcpy .. | .ttak ..
  let cancel := o.ins matches .tcnl ..
  let base := ((s.team? (strandOf r)).map (·.spadBase)).getD 0 + (o.captB.toNat - windowBase)
  let s1 := if status.toNat % 8 != 0 || cancel then s else s.modCluster r.die r.cl fun c =>
    let c1 := c.putSpad (base + 80) (out.take 16)
    if take then c1.putSpad (base + 128) ((out.drop 16).take 64) else c1
  let s2 := s1.modSeq r fun z => ({ z with tup := z.tup.filter fun t => t.req != o.req }).putX d status o.no s.cycles
  let (s3, ok) := s2.pushPost? r h.pq o.addr 0
  let unreach := status.toNat % 8 == 4 && !cancel
  if ok && unreach && !s3.masked (strandOf r) .remoteTimeout then s3.raise r .remoteTimeout .d o.addr 0 0 else s3

/-- The completions that have come for a sequencer and that its requests have not taken yet (R136). -/
def State.takeDone (s : State) (r : SeqRef) : State :=
  (s.seq r).tup.foldl (fun a t =>
    match t.done with
    | some (st, out) => if t.struck then a else a.completeTup r t st out
    | none => a) s

/-- The step in which an instruction issued is taken back, because it is executed again: the operations still in flight have
that step before them again (R326, R330). -/
def Seq.unstep (q : Seq) : Seq := { q with flights := q.flights.map fun f => { f with rem := f.rem + 1 } }

/-- Whether a wait holds an instruction that has issued. -/
def Wait.holds : Wait → Bool
  | .arrival _ => true
  | .counter _ => true
  | .fence => true
  | .matrix => true
  | .launch => true
  | .idle => true
  | _ => false

/-- A token that an instruction popped and that it will pop again returns to its queue (log entry 84). -/
def State.unpop (s : State) (st : StrandRef) (q : Option (BitVec 3)) : State :=
  match q with
  | some q => if (s.strand st).count q < 255 then s.modStrand st fun t => t.push q 1 else s
  | none => s

/-- An instruction that has issued and is held is taken back, to be executed again: its token returns (R326; log entry 84). -/
def State.recall (s : State) (r : SeqRef) (c : Cmd) : State :=
  (s.unpop (strandOf r) (hdrOf c.ins).wq).modSeq r fun z => { z.unstep with pc := c.addr, gap := 0, wait := none, held := none }

/-- A wait that a stop ends without effect: an instruction that it holds is taken back, a token popped before issue returns
(R326; log entry 84). -/
def State.abandonWait (s : State) (r : SeqRef) : State :=
  let q := s.seq r
  match q.wait, q.held with
  | some w, some c =>
    if w.holds then s.recall r c
    else (s.unpop (strandOf r) q.popped).modSeq r fun z => { z with wait := none, held := none, popped := none }
  | _, _ => (s.unpop (strandOf r) q.popped).modSeq r fun z => { z with wait := none, held := none, popped := none }

/-- A contributor's claim released at PIX 0 (R167). -/
def State.dropClaims (s : State) (r : SeqRef) (seqNos : List Nat) : State :=
  let keep (k : Contrib) : Bool := match k.who with
    | .seq r' n => !(r' == r && seqNos.contains n)
    | _ => true
  let fix (g : Range) : Range := { g with contribs := g.contribs.filter keep }
  { s with
    clusters := s.clusters.map fun (k, c) => (k, { c with ranges := c.ranges.map fun (j, g) => (j, fix g) })
    dies := s.dies.map fun (k, d) => (k, { d with ranges := d.ranges.map fun (j, g) => (j, fix g) }) }

/-- The claim of an RWRR that stops at PIX 0 is released at its home: a REDHDR that repeats its number withdraws it (R167,
log entry 21). -/
def State.releaseFar (s : State) (r : SeqRef) (c : Cmd) : State :=
  match c.ins with
  | .rwrr (acc := acc) .. =>
    if c.pix = 0 ∧ (c.remote = .askedGo ∨ c.remote = .granted) then
      s.send (.redhdr (field c.xa 48 5) ⟨c.req, s.rqid r, s.ctxOf (strandOf r), c.xa, acc, low32 c.xd⟩)
    else s
  | _ => s

/-- What each sequencer of a stopping strand does first (R326): the wait is abandoned, LDS complete, parked requests
are cancelled, claims at PIX 0 are released, PIX takes that of its stopped command. -/
def State.stopSeq (s : State) (r : SeqRef) : State :=
  let s1 := ((s.abandonWait r).ldsAll r 16).takeDone r
  let s2 := s1.cancelAll r
  let cs := (s2.seq r).inOrder.map (·.2)
  let s3 := (s2.seq r).collQ.foldl (fun a c => a.releaseFar r c)
    (s2.dropClaims r ((cs.filter fun c => c.pix == 0).map (·.seqNo)))
  match (cs.find? fun c => c.pix != 0).orElse fun _ => cs.head? with
  | some c => s3.modSeq r fun z => { z with pix := BitVec.ofNat 32 c.pix }
  | none => s3

/-- A claim that a stopped command does not keep, and a target that an MMAK not begun does not record (R167, R232). -/
def Cmd.stopped (c : Cmd) : Cmd :=
  { c with claim := if c.pix = 0 then none else c.claim, target := if c.begun then c.target else none,
           head := none, req := 0, remote := .idle, sent := [] }

/-- What the device keeps of a strand beside its frame (log entry 15). -/
def State.besideOf (s : State) (st : StrandRef) : Beside :=
  let t := s.strand st
  let of {α : Type} (f : Seq → α) : Tbl α := allCls.map fun c => (c.code, f (s.seq (seqOf st c)))
  { wid := t.wid, launchId := t.launchId
    flights := of fun q => q.flights.map fun f => (f.post, f.no)
    cmds := of fun q => q.inOrder.map (·.2)
    nos := of (·.no)
    standIns := t.arrivals.map (·.standIn) }

def Beside.of (b : Beside) (wid : Word) (id : BitVec 32) : Bool := b.wid == wid && b.launchId == id

/-- The strand stops: its sequencers, then its frame, then the hub's queue (R326). -/
def State.finishStop (s : State) (st : StrandRef) : State :=
  let s1 := allCls.foldl (fun a c => a.stopSeq (seqOf st c)) s
  match (s1.strand st).stop with
  | .stopping i =>
    let s2 := allCls.foldl (fun a c => a.modSeq (seqOf st c) fun q =>
      allEngines.foldl (fun q e => q.setQueue e ((q.queue e).map Cmd.stopped)) q) s1
    let b := s2.besideOf st
    let s3 := s2.writeMem (s2.frameArea st) (s2.frame st i.cause)
    let s4 := allCls.foldl (fun a c => a.modSeq (seqOf st c) fun q =>
      { q with flights := [], cancelled := [], copyQ := [], vecQ := [], matQ := [], collQ := [], landQ := [] }) s3
    let s5 := { s4.modStrand st (fun t =>
        { t with stop := .stopped { i with at_ := s.tsc st.die }, preempt := t.preempt && i.cause != .preempt }) with
      beside := b :: s4.beside.filter fun x => !x.of b.wid b.launchId }
    (s5.modDie st.die fun d => { d with hub := { d.hub with trapQ := s5.insertTrap st d.hub.trapQ } }).loadTrap st.die
  | _ => s1

/-- A strand that has begun to stop is stopped as soon as nothing of it is unsettled (R136, R326). -/
def State.settleStop (s : State) (st : StrandRef) : State :=
  match (s.strand st).stop with
  | .stopping _ =>
    let s1 := s.askCancel st
    if s1.unsettled st then s1 else s1.finishStop st
  | _ => s

/-- The causes that CMASK can mask (R324). -/
def maskable : BitVec 64 := 0x000C80C350800000#64

/-! ### Returning from a trap (R331, R332, R342) -/

/-- A replay entry as its 32 bytes give it: `none` where it is not valid, `some none` where it names no fixed-latency
operation or REM reaches its latency (R342). -/
def parseReplay (bs : List Byte) (tsc : Nat) (kept : Option (BitVec 3) × Nat) : Option (Option Flight) :=
  if nat bs 6 1 % 2 = 0 then none
  else
    let word := BitVec.ofNat 32 (nat bs 0 4)
    let mod := BitVec.ofNat 8 (nat bs 7 1)
    let rem := nat bs 4 2
    let o1 := BitVec.ofNat 64 (nat bs 8 8)
    let o2 := BitVec.ofNat 64 (nat bs 16 8)
    let o3 := BitVec.ofNat 64 (nat bs 24 8)
    match replayLanding word mod o1 o2 o3 with
    | none => some none
    | some l =>
      if rem < l.latency then
        some (some ⟨0, word, mod, rem + 1, o1, o2, o3, l.dest, l.op, l.val, tsc + l.latency, kept.1, kept.2⟩)
      else some none

/-- The replay queue of a sequencer record. -/
def parseFlights (bs : List Byte) (tsc : Nat) (kept : List (Option (BitVec 3) × Nat)) : List (Option Flight) :=
  (List.range (min (nat bs 11 1) 8)).filterMap fun n =>
    parseReplay ((bs.drop (304 + 32 * n)).take 32) tsc (kept.getD n (none, 0))

/-- The instruction that three words name. -/
def parseInstr (bs : List Byte) : Option Instr :=
  match decodeBytes (padTo 12 bs) with
  | .ok i => some i
  | _ => none

def parseCancelled (bs : List Byte) : List Cancelled :=
  (List.range (min (nat bs 816 1) 8)).filterMap fun n =>
    let e := bs.drop (560 + 32 * n)
    (parseInstr (e.take 12)).map fun i => ⟨i, BitVec.ofNat 64 (nat e 16 8), BitVec.ofNat 64 (nat e 24 8)⟩

/-- A sequencer as its record gives it (R335), in interlocked mode (R331), with what is kept beside the record. -/
def parseSeq (bs : List Byte) (tsc : Nat) (kept : List (Option (BitVec 3) × Nat)) (no : Nat) : Seq :=
  { pc := BitVec.ofNat 48 (nat bs 0 8), live := true, ended := nat bs 8 1 % 2 == 1, step := nat bs 8 1 / 2 % 2 == 1,
    p := BitVec.ofNat 8 (nat bs 9 1) ||| 1, gap := nat bs 10 1 % 4, pix := BitVec.ofNat 32 (nat bs 12 4),
    flights := (parseFlights bs tsc kept).filterMap id,
    b := (List.range 4).foldl (fun t n =>
      let w := nat bs (16 + 8 * n) 8
      Tbl.set {} t n ⟨BitVec.ofNat 48 w, 2 ^ 63 ≤ w⟩) [],
    x := (List.range 32).foldl (fun t n =>
      Tbl.set 0 t n (if n = 0 then 0 else BitVec.ofNat 64 (nat bs (48 + 8 * n) 8))) [],
    cancelled := parseCancelled bs, phase := tsc, no := no }

/-- The command of a record, and its engine, class and extension (R335); its reads are as of its return, unless more is kept of it
(`Cmd.rejoin`, log entry 31). -/
def parseCmd (bs : List Byte) (seqNo tsc : Nat) : Option (Engine × Cls × Cmd) :=
  (parseInstr (bs.take 12)).map fun i =>
    let claim := nat bs 56 4
    let pix := nat bs 12 4
    let ext := (bs.drop 64).take (64 * nat bs 51 1)
    let e := Engine.ofCode (nat bs 49 1)
    let target := BitVec.ofNat 32 (nat bs 60 4)
    let keyed := i matches .mmak .. || i matches .land ..
    let keys : List (BitVec 32 × BitVec 32) := (List.range (ext.length / 8)).map fun n =>
      (BitVec.ofNat 32 (nat ext (8 * n) 4), BitVec.ofNat 32 (nat ext (8 * n + 4) 4))
    let tiles := if pix = 0 ∧ keys.all (· == (0, 0)) then [] else keys.take (tileCount i)
    let begun := keyed && (target != 0 || pix != 0 || tiles != [])
    (e, Cls.ofCode (nat bs 48 1 % 4),
     { ins := i, seqNo := seqNo, addr := BitVec.ofNat 48 (nat bs 16 8), xd := BitVec.ofNat 64 (nat bs 24 8),
       xa := BitVec.ofNat 64 (nat bs 32 8), xb := BitVec.ofNat 64 (nat bs 40 8), pix := pix,
       fid := BitVec.ofNat 2 (nat bs 50 1), lfsr := BitVec.ofNat 32 (nat bs 52 4),
       claim := if pix = 0 then none else some ⟨claim % 32, BitVec.ofNat 16 (claim / 65536)⟩,
       target := if begun then some target else none, begun := begun, tiles := tiles, recheck := tiles != [],
       since := tsc })

/-- The command records that follow a directory, `n` of them. -/
def parseCmds (bs : List Byte) (seqNo tsc : Nat) : Nat → List (Engine × Cls × Cmd)
  | 0 => []
  | n + 1 =>
    let next := parseCmds (bs.drop (64 + 64 * nat bs 51 1)) (seqNo + 1) tsc n
    match parseCmd bs seqNo tsc with
    | some c => c :: next
    | none => next

/-- A command that its record brings back, with what is kept of it beside the record: its place among the commands, its TID
entries as captured at issue, its translations, whether it has begun and on which target, the TSC of its reads
(R39, R110, R115, R231, R232; log entry 15). -/
def Cmd.rejoin (c old : Cmd) : Cmd :=
  { c with seqNo := old.seqNo, tids := old.tids, kept := old.kept, since := old.since, no := old.no,
           begun := old.begun, target := if old.begun then some (c.target.getD 0) else none,
           tiles := if old.tiles.isEmpty then [] else c.tiles, recheck := !old.tiles.isEmpty }

/-- The commands of a class joined with those kept, as long as the record names the same instruction at the same address. -/
def rejoinAll : List (Engine × Cls × Cmd) → List Cmd → List (Engine × Cls × Cmd × Bool)
  | [], _ => []
  | (e, k, c) :: cs, [] => (e, k, c, false) :: rejoinAll cs []
  | (e, k, c) :: cs, o :: os =>
    if c.ins = o.ins ∧ c.addr = o.addr then (e, k, c.rejoin o, true) :: rejoinAll cs os
    else (e, k, c, false) :: rejoinAll cs os

/-- The strand-wide part of a strand record, laid over what the strand keeps (R335); `standIns` says which of its arrival
records are stand-ins (R373). -/
def parseStrand (t : Strand) (bs : List Byte) (standIns : List Bool) : Strand :=
  { t with
    wid := BitVec.ofNat 64 (nat bs 0 8), cmask := BitVec.ofNat 64 (nat bs 8 8) &&& maskable,
    fid := BitVec.ofNat 2 (nat bs 16 4), arrTag := BitVec.ofNat 32 (nat bs 20 4),
    arrRot := BitVec.ofNat 32 (nat bs 24 4), launchId := BitVec.ofNat 32 (nat bs 28 4),
    arrTsc := BitVec.ofNat 64 (nat bs 32 8),
    q := (List.range 8).foldl (fun a n => Tbl.set 0 a n (nat bs (40 + n) 1)) [],
    qFree := (List.range 8).foldl (fun a n => Tbl.set 0 a n (nat bs (40 + n) 1)) [],
    qStart := (List.range 8).foldl (fun a n => Tbl.set 0 a n (nat bs (40 + n) 1)) [],
    binds := (List.range 4).foldl (fun a n => Tbl.set {} a n
      ⟨BitVec.ofNat 32 (nat bs (48 + 8 * n) 4), BitVec.ofNat 32 (nat bs (52 + 8 * n) 4),
       (nat bs 80 1).testBit n⟩) [],
    arrivals := (List.range (min (nat bs 81 1) 32)).map fun n =>
      ⟨BitVec.ofNat 32 (nat bs (96 + 16 * n) 4), BitVec.ofNat 32 (nat bs (100 + 16 * n) 4),
       BitVec.ofNat 64 (nat bs (104 + 16 * n) 8), standIns.getD n false⟩,
    arrOvf := nat bs 82 1 % 2 == 1, tagged := t.tagged || nat bs 80 1 % 16 != 0, stop := .running }

/-- Bytes of a sequencer record within a strand record. -/
def seqBytes (bs : List Byte) (c : Cls) : List Byte := (bs.drop (1024 + 1024 * c.code)).take 1024

/-- What is kept beside the frame of a strand (log entry 15). -/
def State.besides (s : State) (wid : Word) (id : BitVec 32) : Beside :=
  (s.beside.find? fun b => b.of wid id).getD { wid := wid, launchId := id }

/-- The pushes that the replay entries of a sequencer still owe, with their places in program order. -/
def Beside.flightsOf (b : Beside) (c : Cls) : List (Option (BitVec 3) × Nat) := Tbl.get [] b.flights c.code

/-- RETURNING FROM A TRAP: the strand is loaded from its frame and runs on (R342); the answer names besides the commands
that nothing is kept of. `none` where a replay entry fails its check. -/
def State.resume (s : State) (st : StrandRef) (t' : Strand) (bs : List Byte) : Option (State × List Nat) :=
  let tsc := s.tsc st.die
  let bare := parseStrand t' bs []
  let b := s.besides bare.wid bare.launchId
  let seqs := allCls.map fun c => (c, seqBytes bs c)
  if seqs.any fun (c, x) => (parseFlights x tsc (b.flightsOf c)).any (·.isNone) then none
  else
    let dir := bs.drop 5120
    let cmds := parseCmds (dir.drop 64) s.nextCmd tsc (min (nat dir 0 4) 256)
    let of (c : Cls) := rejoinAll (cmds.filter fun x => x.2.1 == c) (Tbl.get [] b.cmds c.code)
    let s1 := s.setStrandAt (stKey st) { parseStrand t' bs b.standIns with lastStep := tsc }
    let s2 := seqs.foldl (fun a (c, x) =>
      let q := parseSeq x tsc (b.flightsOf c) (Tbl.get 0 b.nos c.code)
      let mine (e : Engine) : List Cmd := ((of c).filter fun y => decide (y.1 = e)).map (·.2.2.1)
      a.setSeqAt (seqKey (seqOf st c)) (allEngines.foldl (fun q e => q.setQueue e (mine e)) q)) s1
    let fresh := ((allCls.flatMap of).filter fun y => !y.2.2.2).map (·.2.2.1.seqNo)
    some ({ s2 with nextCmd := s2.nextCmd + cmds.length }, fresh)

/-! ### Issuing an instruction (R47, R50, R51, R57 to R64) -/

/-- The registers of the agent that executes. -/
def State.me (s : State) : Seq := s.seqAt (agentKey s.cur)
def State.modMe (s : State) (f : Seq → Seq) : State := s.modSeqAt (agentKey s.cur) f
def State.X (s : State) (r : Reg) : Word := s.me.getX r
def State.P (s : State) (r : BitVec 3) : Bool := s.me.getP r
def State.B (s : State) (r : BitVec 2) : BReg := s.me.getB r

/-- The permit classes (R64, R352): memory, special-function, vector, matrix; the place of their fields in PERMIT. -/
inductive Permit where
  | mem | sfu | vec | mat
deriving DecidableEq, Repr

def Permit.lo : Permit → Nat
  | .mem => 48 | .sfu => 32 | .vec => 16 | .mat => 0

def Permit.idx : Permit → Nat
  | .mat => 0 | .vec => 1 | .sfu => 2 | .mem => 3

def Cluster.depth (c : Cluster) (k : Permit) : Nat := field c.permit (k.lo + 8) 8
def Cluster.rate (c : Cluster) (k : Permit) : Nat := min (field c.permit k.lo 8) 64

/-- Permits held: DEPTH after a cold reset (R352). -/
def Cluster.held (c : Cluster) (k : Permit) : Nat := Tbl.get (c.depth k) c.permits k.idx

def Cluster.takePermit (c : Cluster) (k : Permit) : Cluster :=
  { c with permits := Tbl.put c.permits k.idx (c.held k - 1) }

/-- How an instruction issues: its permit, whether it is a fixed-latency operation, its checks on words and registers, the
tokens that it waits for behind WQ and pops as it issues (R194), what else it waits for before it issues, its checks that read
memory; `defer` for a tuple request, which keeps WQ and the program counter until it is accepted (R133); `miss` the virtual
page that the early checks translate, which the hub must know when they end in XLATE_MISS (R356). -/
structure Plan where
  permit : Option Permit := none
  fixed : Bool := false
  defer : Bool := false
  miss : Nat := 0
  early : State → Option Cause := fun _ => none
  tokens : Option (BitVec 3 × Nat) := none
  room : State → Option Wait := fun _ => none
  late : State → Option Cause := fun _ => none

/-- The major, the minor and IMM16 of an instruction. -/
def majOf (i : Instr) : Nat := ((i.toRaw.map Raw.maj).getD 0).toNat
def minOf (i : Instr) : Nat := ((i.toRaw.map Raw.f).getD 0).toNat

def immOf (i : Instr) : BitVec 16 := (i.toRaw.map Raw.imm).getD 0

/-- Checks 8 to 10 of R47 and the queue bindings of R58, with the rule of R52 for a team without the pipe. -/
def State.precheck (s : State) (i : Instr) (h : Hdr) : Option Cause :=
  match s.cur with
  | .hub _ =>
    match accessHub (majOf i) with
    | .yes => if i.wf && h.wq.isNone && h.pq.isNone then none else some .operandReserved
    | .priv => some .privileged
    | .wrong => some .wrongSequencer
  | .seq r =>
    match mayExecute (majOf i) (minOf i) (immOf i) r.cls with
    | .priv => some .privileged
    | .wrong => some .wrongSequencer
    | .yes =>
      if !i.wf then some .operandReserved
      else if (majOf i == 0x36 || majOf i == 0x3B || majOf i == 0x42) && !((s.team? (strandOf r)).any (·.pipe)) then
        some .operandReserved
      else if (h.wq.any fun q => !s.isConsumer r q) || (h.pq.any fun q => !s.isProducer r q) then
        some .operandReserved
      else none

/-- A precise trap of the executing instruction: at point I on a sequencer; on a hub, no effect is described (R323). -/
def State.trapHere (s : State) (c : Cause) (detail : Word := 0) : Res :=
  match s.cur with
  | .seq r => .next (s.raise r c .i (s.seq r).pc 0 detail)
  | .hub d => .fault (.hubTrap d c)

/-- The instruction has issued: the program counter moves past it, its gap and SW are noted, WQ's pop is done (R59,
R317). -/
def State.advance (s : State) (h : Hdr) : State :=
  let s1 := s.modMe fun q =>
    { q with pc := q.pc + BitVec.ofNat 48 (sizeOf h), gap := h.gap.toNat, sw := h.sw, wait := none, held := none,
             popped := none, no := q.no + 1 }
  match s.cur with
  | .seq r => s1.modStrand (strandOf r) fun t => { t with lastStep := s.tsc r.die }
  | .hub _ => s1

/-- WQ popped for the executing sequencer, which remembers it until the instruction has issued. -/
def State.popWq (s : State) (r : SeqRef) (h : Hdr) : State :=
  match h.wq, (s.seq r).popped with
  | some q, none =>
    (s.popQ r q 1).modSeq r fun z => { z with popped := some q }
  | _, _ => s

/-- The tokens of a plan popped. -/
def State.popPlan (s : State) (r : SeqRef) (t : Option (BitVec 3 × Nat)) : State :=
  match t with
  | some (q, n) => s.popQ r q n
  | none => s

/-- The executing sequencer waits at `i`, which is executed when the wait is over. -/
def State.waits (s : State) (r : SeqRef) (i : Instr) (w : Wait) : State := s.modSeq r fun z =>
  { z with wait := some w, held := some { ins := i, seqNo := 0, addr := z.pc, xd := 0, xa := 0, xb := 0 } }

/-- Whether a permit of the class is there. -/
def State.permitOk (s : State) (r : SeqRef) (k : Option Permit) : Bool :=
  k.all fun k => decide (0 < (s.cluster r.die r.cl).held k)

/-- A permit taken. -/
def State.takePermit (s : State) (r : SeqRef) (k : Option Permit) : State :=
  match k with
  | some k => s.modCluster r.die r.cl fun c => c.takePermit k
  | none => s

/-- Whether a token for WQ is there, or popped already. -/
def State.wqReady (s : State) (r : SeqRef) (h : Hdr) : Bool :=
  (s.seq r).popped.isSome || h.wq.all fun q => decide (0 < s.tokens r q)

/-- Whether the tokens of a plan are there. -/
def State.planReady (s : State) (r : SeqRef) (t : Option (BitVec 3 × Nat)) : Bool :=
  t.all fun t => decide (t.2 ≤ s.tokens r t.1)

/-- The order in which a sequencer's instruction is checked, waits, pops and issues (R47, R57, R59, R62, R64); `act` is
its own effect, from the state in which it has issued. -/
def State.issueSeq (s : State) (r : SeqRef) (i : Instr) (h : Hdr) (p : Plan) (act : State → Res) : Res :=
  if !s.acts (strandOf r) then .next s
  else if p.fixed && 8 ≤ (s.seq r).flights.length then .next s
  else match s.precheck i h with
  | some c => s.trapHere c
  | none =>
    match p.early s with
    | some c => s.trapHere c (if c = .xlateMiss then BitVec.ofNat 64 p.miss else 0)
    | none =>
      if !s.wqReady r h then .next (s.waits r i .queue)
      else if p.tokens.isSome && !(s.popWq r h).planReady r p.tokens then .next ((s.popWq r h).waits r i .tokens)
      else if !s.permitOk r p.permit then .next (s.waits r i .permit)
      else match p.room s with
      | some w => .next (s.waits r i w)
      | none =>
        match p.late s with
        | some c => s.trapHere c
        | none =>
          if p.defer then act (s.takePermit r p.permit)
          else act ((((s.popWq r h).popPlan r p.tokens).takePermit r p.permit).advance h)

/-- The same for a hub, which has no token queues and no permits (R50, R51).  The spec gives a hub no trap for the values of
its operands: its instructions run on any, and what they leave open is a free value (log entry 6). -/
def State.issueHub (s : State) (d : Nat) (i : Instr) (h : Hdr) (p : Plan) (act : State → Res) : Res :=
  match s.precheck i h with
  | some c => .fault (.hubTrap d c)
  | none =>
    match p.room s with
    | some w => .next (s.modMe fun q => { q with wait := some w })
    | none => act (s.advance h)

/-- A value that nothing fixes (log entry 14). -/
def State.openValue (s : State) : State × Word := ({ s with free := s.free + 1 }, Config.freeValue s.free)

/-- ISSUING: the executing agent issues `i` by plan `p`, and `act` is its effect. -/
def State.issue (s : State) (i : Instr) (h : Hdr) (p : Plan) (act : State → Res) : Res :=
  match s.cur with
  | .seq r => s.issueSeq r i h p act
  | .hub d => s.issueHub d i h p act

/-- What an instruction that holds its agent comes to: it goes on holding it, or it has ended (R57). -/
inductive Hold where
  | stays (s : State)
  | ends (s : State)

/-- An instruction that has issued ends at once, or holds its agent by `w` until it has ended (R57, R59): `c` is what is kept of
it, `f` what it comes to. -/
def State.holdIn (s : State) (c : Cmd) (w : Wait) (f : State → Cmd → Hold) : Res :=
  match f s c with
  | .ends u => .next u
  | .stays u => .next (u.modMe fun q => { q with wait := some w, held := some c })

/-- What is kept of an instruction of the executing agent that has issued and holds it, with its operands and its deadline. -/
def State.heldCmd (s : State) (i : Instr) (h : Hdr) (xa xb : Word) (deadline : Option Nat := none) : Cmd :=
  { ins := i, seqNo := 0, addr := s.me.pc - BitVec.ofNat 48 (sizeOf h), xd := 0, xa := xa, xb := xb, head := deadline, no := s.me.no }

/-- The executing agent acquires what others have released (R171, R176, R197, R297). -/
def State.acquire (s : State) : State := s.modMe fun q => { q with acq := s.tsc (agentDie s.cur) }

/-- X[D] written in the step in which an instruction issues (R63). -/
def State.putNow (s : State) (d : Reg) (v : Word) : State := s.modMe fun q => q.putX d v q.no s.cycles

/-- The program counter of the instruction that has just issued. -/
def State.issuePc (s : State) (h : Hdr) : BitVec 48 := s.me.pc - BitVec.ofNat 48 (sizeOf h)

/-- An instruction at `addr` that finishes pushes its token (R57); a hub has no queues. -/
def State.finishAt (s : State) (h : Hdr) (addr : BitVec 48) : State :=
  match s.cur with
  | .seq r => s.pushPost r h.pq addr
  | .hub _ => s

/-- X[D] of an instruction that holds its sequencer, written as it ends, and its token (R57, R63). -/
def State.endHold (s : State) (c : Cmd) (d : Reg) (v : Word) : State :=
  (s.modMe fun q => q.putX d v c.no s.cycles).finishAt (hdrOf c.ins) c.addr

/-- An instruction that finishes in its issue step pushes its token (R57). -/
def State.finish (s : State) (h : Hdr) : State := s.finishAt h (s.issuePc h)

/-- What a meaning answers with its next state changed further. -/
def andThen (r : Res) (f : State → State) : Res :=
  match r with
  | .next s => .next (f s)
  | r => r

/-- A control register that a write reaches when it lands (R56, R35, R256, R339). -/
def State.landCsr (s : State) (r : SeqRef) (n : BitVec 12) (v : Word) : State :=
  match n.toNat with
  | 0x008 => s.modStrand (strandOf r) fun t => { t with cmask := v &&& maskable }
  | 0x025 => s.modCluster r.die r.cl fun c =>
      { c with finj := v.setWidth 32 &&& 0x80FFFFFF#32, finjLeft := (v.setWidth 24).toNat }
  | 0x038 => s.modCluster r.die r.cl fun c =>
      { c with lfsr := if low32 v = 0 then 1 else low32 v }
  | _ => s

/-- A VRED landing combined with its latch (R220). -/
def combineZ (op : LandOp) (z t : BitVec 32) : BitVec 32 :=
  match op with
  | .set => t
  | .vsum rm =>
    if (fp32 t).isNaN || (fp32 z).isNaN then fpNaN
    else if (fp32 t).isZero then z
    else roundFP32 (.det rm) ((fp32 z).add (fp32 t))
  | .vmax => roundFP32 (.det .rne) ((fp32 z).greatest (fp32 t))
  | .vmin => roundFP32 (.det .rne) ((fp32 z).least (fp32 t))

/-- A fixed-latency result lands (R61). -/
def State.land (s : State) (r : SeqRef) (f : Flight) : State :=
  match f.dest with
  | .none => s
  | .x d => s.modSeq r fun q => q.putX d f.val f.no s.cycles
  | .p d => s.modSeq r fun q => q.setP d (f.val != 0)
  | .b d => s.modSeq r fun q => q.setB d ⟨f.val.setWidth 48, true⟩
  | .z d => s.modCluster r.die r.cl fun c =>
      { c with z := Tbl.set 0 c.z d.toNat (combineZ f.op (Tbl.get 0 c.z d.toNat) (low32 f.val)) }
  | .fid => s.modStrand (strandOf r) fun t => { t with fid := f.val.setWidth 2 }
  | .tag n on => s.modStrand (strandOf r) fun t =>
      let old : Binding := Tbl.get {} t.binds n.toNat
      let new : Binding :=
        if on then ⟨low32 f.val, f.val.extractLsb' 32 32, true⟩ else { old with active := false }
      { t with tagged := true, binds := Tbl.set {} t.binds n.toNat new }
  | .csr n => s.landCsr r n f.val

/-- The tokens of operations that landed together are pushed (R57); the answer holds the operations whose queue was
full. -/
def State.pushLanded (s : State) (st : StrandRef) : List Flight → State × List Flight
  | [] => (s, [])
  | f :: fs =>
    match s.pushTok st f.post with
    | some s1 => s1.pushLanded st fs
    | none => let (s1, full) := s.pushLanded st fs; (s1, f :: full)

/-- A fixed-latency operation put in flight on the executing sequencer; a hub's result is there at once, because it
interlocks (R51, R60). -/
def State.launchOp (s : State) (i : Instr) (h : Hdr) (dest : Dest) (lat : Nat) (val o1 o2 o3 : Word)
    (op : LandOp := .set) : Res :=
  match s.cur with
  | .seq r =>
    .next (s.modSeq r fun q => { q with flights := q.flights ++
      [⟨s.issuePc h, wordOf i 0, modOf i, lat, o1, o2, o3, dest, op, val, 0, h.pq, s.me.no⟩] })
  | .hub _ =>
    .next (match dest with
      | .x d => s.modMe fun q => q.setX d val
      | .p d => s.modMe fun q => q.setP d (val != 0)
      | .b d => s.modMe fun q => q.setB d ⟨val.setWidth 48, true⟩
      | _ => s)

/-- One step of a sequencer's fixed-latency operations: those due land, in the order of their issue (R59, R61, R331), then
their tokens are pushed.  Where a push overflows, which the answer says, the step is not taken: the others keep their
remaining steps (R330). -/
def State.stepFlights (s : State) (r : SeqRef) : State × Bool :=
  let due := (s.seq r).flights.filter fun f => f.rem ≤ 1
  let s1 := s.modSeq r fun z => { z with flights := z.flights.filter fun f => !decide (f.rem ≤ 1) }
  let (s2, full) := (due.foldl (fun a f => a.land r f) s1).pushLanded (strandOf r) due
  let s3 := s2.modStrand (strandOf r) fun t => { t with lastStep := s.tsc r.die }
  if full.isEmpty then (s3.modSeq r fun z => { z with flights := z.flights.map fun f => { f with rem := f.rem - 1 } }, true)
  else (full.foldl (fun a f => a.raise r .tokenOverflow .d f.addr 0 0) s3, false)

/-- Whether the next step may be taken: in interlocked mode a result that is due must be ready (R331). -/
def Seq.stepReady (q : Seq) (tsc : Nat) : Bool := q.flights.all fun f => decide (1 < f.rem) || decide (f.ready ≤ tsc)

end Sys2Proof.Machine
end

