-- ==== Sys2Proof/Machine/Lanes.lean ====
section
/-! DEFINITION. Lanes and flits: lane sets, sequence numbers, replays, training, lost light (R260 to R269). -/

namespace Sys2Proof.Machine

/-! ### Lane sets (R260 to R263) -/

/-- A path of data flits: the data lanes of the package, for the flits that one die numbers, or the chain lanes of a die (R265; log
entries 4, 93). -/
inductive Path where
  | data (src : Nat)
  | chain (die : Nat)
deriving DecidableEq, Repr

/-- The die whose table keeps a path's link, and its key there. -/
def Path.die : Path → Nat
  | .data d => d
  | .chain d => d

def Path.key (p : Path) (mid : Nat) : Nat :=
  match p with
  | .data _ => mid * 2
  | .chain _ => mid * 2 + 1

/-- The path that a lane of a die serves, if it carries data flits, for the flits that `src` numbers. -/
def Lane.path (l : Lane) (die src : Nat) : Option Path :=
  if l.use = 1 then some (.chain die) else if l.use = 3 then some (.data src) else none

/-- Whether a lane of a die serves a path. -/
def Lane.serves (l : Lane) (p : Path) (die : Nat) : Bool :=
  match p with
  | .data _ => l.use == 3
  | .chain d => l.use == 1 && die == d

/-- The member that a channel reaches (R260). -/
def State.peer (s : State) (ch : BitVec 5) : Nat := (s.chain.self + ch.toNat) % 32

/-- Whether a lane may stand in a lane set (R263); channel 0 carries no traffic (R260). -/
def Lane.up (l : Lane) : Bool := l.ch != 0 && !l.ret && !l.los && !l.trn

def State.lane (s : State) (die n : Nat) : Lane := Tbl.get {} (s.die die).lanes n

def State.modLane (s : State) (die n : Nat) (f : Lane → Lane) : State :=
  s.modDie die fun d => { d with lanes := Tbl.put d.lanes n (f (Tbl.get {} d.lanes n)) }

/-- The lane set of a peer, by die, then by lane (R263); for a chain path, the die's chain lanes to the peer. -/
def State.laneSet (s : State) (p : Path) (mid : Nat) : List (Nat × Nat) :=
  let dies := match p with
    | .data _ => List.range 8
    | .chain d => [d]
  dies.flatMap fun d => (s.die d).lanes.filterMap fun (n, l) =>
    if l.up && l.serves p d && s.peer l.ch == mid then some (d, n) else none

def State.link (s : State) (p : Path) (mid : Nat) : Link := Tbl.get {} (s.die p.die).links (p.key mid)

def State.modLink (s : State) (p : Path) (mid : Nat) (f : Link → Link) : State :=
  s.modDie p.die fun d => { d with links := Tbl.put d.links (p.key mid) (f (Tbl.get {} d.links (p.key mid))) }

/-! ### The bytes of flits (R264, R265; log entry 93) -/

/-- One bit of a CRC-64 with the ECMA-182 polynomial, most significant bit first. -/
def crc64Bit (c : BitVec 64) : BitVec 64 :=
  if c.msb then (c <<< 1) ^^^ 0x42F0E1EBA9EA3693#64 else c <<< 1

def crc64Byte (c : BitVec 64) (b : Byte) : BitVec 64 :=
  crc64Bit (crc64Bit (crc64Bit (crc64Bit (crc64Bit (crc64Bit (crc64Bit (crc64Bit (c ^^^ (b.setWidth 64 <<< 56)))))))))

/-- The CRC-64 of a data flit's bytes 0 to 519 (R265). -/
def crc64 (bs : List Byte) : BitVec 64 := bs.foldl crc64Byte 0

/-- One bit of the CRC-32 of IEEE 802.3, least significant bit first. -/
def crc32Bit (c : BitVec 32) : BitVec 32 :=
  if c.getLsbD 0 then (c >>> 1) ^^^ 0xEDB88320#32 else c >>> 1

def crc32Byte (c : BitVec 32) (b : Byte) : BitVec 32 :=
  crc32Bit (crc32Bit (crc32Bit (crc32Bit (crc32Bit (crc32Bit (crc32Bit (crc32Bit (c ^^^ b.setWidth 32))))))))

/-- The CRC-32 of a control flit's 32 bytes (R264). -/
def crc32 (bs : List Byte) : BitVec 32 := ~~~(bs.foldl crc32Byte 0xFFFFFFFF#32)

/-- The types of control flits that R264 lists. -/
def controlTypes : List Nat :=
  [0x01, 0x02, 0x03, 0x10, 0x11, 0x12, 0x13, 0x21, 0x22, 0x28, 0x29, 0x2A, 0x2B, 0x30, 0x31, 0x40, 0x41, 0x42, 0x43, 0x44, 0x45,
   0x46]

/-- Whether 36 received bytes are a control flit whose CRC-32 holds and whose type R264 lists. -/
def controlGood (f : List Byte) : Bool :=
  f.length == 36 && nat f 32 4 == (crc32 (f.take 32)).toNat && controlTypes.contains (nat f 0 1)

/-- The 528 bytes of a data flit (R265). -/
def SentFlit.bytes (f : SentFlit) : List Byte :=
  let body := padTo 512 f.payload ++ natBytes 4 f.seq.toNat ++ natBytes 2 (f.window % 65536) ++ zeros 2
  body ++ natBytes 8 (crc64 body).toNat

/-- SEQ, the payload and the check of a received data flit (R265). -/
def flitSeq (f : DataFlit) : BitVec 32 := BitVec.ofNat 32 (nat f.bytes 512 4)

def flitPayload (f : DataFlit) : List Byte := f.bytes.take 512

def flitGood (f : DataFlit) : Bool :=
  f.bytes.length == 528 && nat f.bytes 520 8 == (crc64 (f.bytes.take 520)).toNat

/-! ### Sending (R265, R266) -/

/-- A flit put on a lane; a lane that is being retuned carries it once that has ended (R260, R263). -/
def State.putFlit (s : State) (mid die n : Nat) (f : SentFlit) : State :=
  let s1 := s.modLane die n fun l => { l with unacked := l.unacked ++ [f] }
  if (s.lane die n).retune then s1 else s1.send (.data mid die n f.bytes)

/-- A flit on the next lane of the set, or held while the set is empty (R266, R269). -/
def State.emitFlit (s : State) (p : Path) (mid : Nat) (f : SentFlit) : State :=
  let set := s.laneSet p mid
  let turn := (s.link p mid).turn
  match set[turn % max set.length 1]? with
  | some (die, n) => (s.putFlit mid die n f).modLink p mid fun k => { k with turn := (turn + 1) % set.length }
  | none => s.modLink p mid fun k => { k with pending := k.pending ++ [f] }

/-- The flits that waited for a lane, once the set is no longer empty. -/
def State.flush (s : State) (p : Path) (mid : Nat) : State :=
  if (s.laneSet p mid).isEmpty then s
  else
    let held := (s.link p mid).pending
    held.foldl (fun a f => a.emitFlit p mid f) (s.modLink p mid fun k => { k with pending := [] })

/-- A new flit: it takes the next SEQ of its direction. -/
def State.newFlit (s : State) (p : Path) (mid window : Nat) (payload : List Byte) : State :=
  let seq := (s.link p mid).send
  (s.modLink p mid fun k => { k with send := k.send + 1 }).emitFlit p mid ⟨seq, 0, window, padTo 512 payload, p.die⟩

/-- Bytes sent in flits of 512. -/
def State.sendBytes (s : State) (p : Path) (mid window : Nat) (bs : List Byte) : State :=
  (List.range ((bs.length + 511) / 512)).foldl (fun a n => a.newFlit p mid window ((bs.drop (512 * n)).take 512)) s

/-! ### Failures (R267 to R269) -/

/-- A flit inserted by its SEQ, among those of the die that numbers it; SEQ wraps (R265). -/
def insertFlit (f : SentFlit) : List SentFlit → List SentFlit
  | [] => [f]
  | x :: r =>
    if f.src < x.src || (f.src == x.src && f.seq != x.seq && decide ((x.seq - f.seq).toNat < 2 ^ 31)) then f :: x :: r
    else x :: insertFlit f r

/-- Moved flits on their paths, ahead of new flits: on the lanes of the set, or before those that wait for one. -/
def State.moveTo (s : State) (path : SentFlit → Option Path) (mid : Nat) (fs : List SentFlit) : State :=
  fs.foldr (fun f a =>
    match path f with
    | some p => if (s.laneSet p mid).isEmpty then a.modLink p mid fun k => { k with pending := f :: k.pending } else a
    | none => a)
    (fs.foldl (fun a f =>
      match path f with
      | some p => if (s.laneSet p mid).isEmpty then a else a.emitFlit p mid f
      | none => a) s)

/-- The unacknowledged flits of a lane that has left its set go to the other lanes, in ascending SEQ, ahead of new
flits; `old` is the lane as it was. -/
def State.moveAll (s : State) (die n : Nat) (old : Lane) : State :=
  let fs := old.unacked.foldl (fun a f => insertFlit { f with fails := 0 } a) []
  (s.modLane die n fun l => { l with unacked := [] }).moveTo (fun f => old.path die f.src) (s.peer old.ch) fs

/-- The lanes left in the set that a lane serves. -/
def State.lanesLeft (s : State) (die : Nat) (l : Lane) : Nat :=
  match l.path die 0 with
  | some p => (s.laneSet p (s.peer l.ch)).length
  | none => 0

/-- The detail of LANE_LOS and LINK_RETIRED (R268). -/
def laneDetail (replay left mid n : Nat) : Word := BitVec.ofNat 64 (replay * 2 ^ 32 + left * 2 ^ 16 + mid * 2 ^ 8 + n)

/-- The first data lane of a fibre takes over its failed control lane (R269). -/
def State.replaceControl (s : State) (die lane : Nat) : State :=
  let bad := s.lane die lane
  match ((s.die die).lanes.find? fun (n, l) => n / 8 == lane / 8 && n != lane && l.use == 3 && l.up).map (·.1) with
  | none => s
  | some n =>
    let old := s.lane die n
    (s.modLane die n fun l =>
      { l with use := 2, ch := bad.ch, retune := l.retune || l.ch != bad.ch,
               tuned := if l.ch = bad.ch then l.tuned else s.tsc die + 1200 }).moveAll die n old

/-- Whether every chain lane of every die has lost its light or is retired (R97, R269). -/
def State.chainDark (s : State) : Bool :=
  let ls := (List.range 8).flatMap fun d => (s.die d).lanes.filterMap fun (_, l) => if l.use = 1 then some l else none
  !ls.isEmpty && ls.all fun l => l.los || l.ret

/-- What a lane that has failed leaves behind: a control lane is replaced, and a member that has lost every chain lane is lost
(R269). -/
def State.laneFailed (s : State) (die n : Nat) : State :=
  let l := s.lane die n
  if l.use = 2 then s.replaceControl die n
  else if l.use = 1 && s.chainDark then s.soon [.memberLost (s.peer l.ch)]
  else s

/-- A lane retrains for 12,000 cycles, or is retired where BKT is 8 (R267); `replay` flits were moved. -/
def State.retrain (s : State) (die n replay : Nat) : State :=
  let l := s.lane die n
  let now := s.tsc die
  if l.bkt = 8 then
    let s1 := s.modLane die n fun l => { l with ret := true, trn := false }
    (s1.post die { cause := .linkRetired, detail := laneDetail replay (s1.lanesLeft die l) (s.peer l.ch) n }).laneFailed die n
  else
    (s.modLane die n fun l =>
      { l with trn := true, bkt := l.bkt + 1, bktAt := if l.bkt = 0 then now else l.bktAt, busy := now + 12000 }).send
      (.train die n)

/-- The flits of a package that wait for the set that a lane joins. -/
def State.rejoin (s : State) (die n : Nat) : State :=
  let l := s.lane die n
  if l.use = 1 then s.flush (.chain die) (s.peer l.ch)
  else if l.use = 3 then (List.range 8).foldl (fun a d => a.flush (.data d) (s.peer l.ch)) s
  else s

/-- NAK: the flit is sent again on its lane; after three failed replays it and the lane's other flits move, and the lane
retrains (R267). -/
def execNak (die lane : Nat) (flit : FlitNo) (s : State) : Res :=
  let l := s.lane die lane
  match l.unacked.find? fun f => f.src == flit.src && f.seq == flit.seq with
  | none => .next s
  | some f =>
    if f.fails < 3 then
      let s1 := s.modLane die lane fun l =>
        { l with unacked := l.unacked.map fun g =>
            if g.src = flit.src ∧ g.seq = flit.seq then { g with fails := g.fails + 1 } else g }
      .next (if l.retune then s1 else s1.send (.data (s.peer l.ch) die lane f.bytes))
    else
      let s1 := s.modLane die lane fun l => { l with trn := true }
      .next ((s1.moveAll die lane l).retrain die lane l.unacked.length)

/-- TRAIN: a training flit is received; the spec gives it no effect but training itself (R264). -/
def execTrain (_die _lane : Nat) (s : State) : Res := .next s

/-- LANE_TRAIN_DONE (R267). -/
def execLaneTrainDone (die lane : Nat) (s : State) : Res :=
  let l := s.lane die lane
  if l.trn ∧ l.busy ≤ s.tsc die then .next ((s.modLane die lane fun l => { l with trn := false }).rejoin die lane)
  else .next s

/-- Cycles of 10 s (R10, R267). -/
def bktCycles : Nat := 6000000000

/-- BKT_DECAY (R267). -/
def execBktDecay (die lane : Nat) (s : State) : Res :=
  let l := s.lane die lane
  if 0 < l.bkt ∧ l.bktAt + bktCycles ≤ s.tsc die then
    .next (s.modLane die lane fun l => { l with bkt := l.bkt - 1, bktAt := l.bktAt + bktCycles })
  else .next s

/-- LANE_LOS: where this package has seen the light of a lane go out at its receiver, it signals that on the control lane of the
other direction; where its peer has signalled it, the lane leaves its set, its flits move and LANE_LOS is posted (R268); a control
lane is replaced (R269). -/
def execLaneLos (die : Nat) (light : LostLight) (s : State) : Res :=
  let lane := light.lane
  let l := s.lane die lane
  if light.seen then .next (s.send (.losSignal die lane))
  else if l.los then .next s
  else
    let s1 := (s.modLane die lane fun l => { l with los := true, trn := false }).moveAll die lane l
    .next ((s1.post die
      { cause := .laneLos, detail := laneDetail l.unacked.length (s1.lanesLeft die l) (s.peer l.ch) lane }).laneFailed die lane)

/-- LIGHT_RETURN: the lane trains (R268). -/
def execLightReturn (die lane : Nat) (s : State) : Res :=
  let l := s.lane die lane
  let s1 := s.modLane die lane fun l => { l with los := false }
  .next (if !l.los then s else if l.ret then s1 else s1.retrain die lane 0)

/-- LANE_RETUNE_DONE: the lane carries flits again, those first that the set has given it (R260, R263). -/
def execLaneRetuneDone (die lane : Nat) (s : State) : Res :=
  let l := s.lane die lane
  if l.retune ∧ l.tuned ≤ s.tsc die then
    .next (l.unacked.foldl (fun a f => a.send (.data (s.peer l.ch) die lane f.bytes))
      (s.modLane die lane fun l => { l with retune := false }))
  else .next s

/-- UNLISTED_CONTROL_FLIT: 36 bytes received on a control lane that are no good control flit of a listed type are discarded and
counted as a failed check (R264). -/
def execUnlistedControlFlit (die lane : Nat) (flit : List Byte) (s : State) : Res :=
  .next (if controlGood flit then s else s.modLane die lane fun l => { l with failed := l.failed + 1 })

/-- USE and CH of a lane plan entry written (R260, R261, R263, R267). -/
def State.writeLane (s : State) (die n : Nat) (use : BitVec 2) (ch : BitVec 5) : State :=
  let old := s.lane die n
  let s1 := s.modLane die n fun l =>
    { l with use := use, ch := ch, ret := false, retune := l.retune || l.ch != ch,
             tuned := if l.ch = ch then l.tuned else s.tsc die + 1200 }
  (if old.use = use ∧ old.ch = ch then s1 else s1.moveAll die n old).rejoin die n

/-! ### Receiving (R266) -/

/-- Payloads delivered in SEQ order, at most `k` of them. -/
def Link.deliver (l : Link) : Nat → Link × List (List Byte)
  | 0 => (l, [])
  | k + 1 =>
    match l.early.find? fun e => e.1 == l.next with
    | none => (l, [])
    | some e =>
      let (l', ps) := { l with next := l.next + 1, early := l.early.filter fun x => x.1 != l.next }.deliver k
      (l', e.2 :: ps)

/-- A flit received on a path: acknowledged or refused, accepted once, and the payloads that it releases. -/
def State.receive (s : State) (p : Path) (die lane : Nat) (f : DataFlit) : State × List (List Byte) :=
  let seq := flitSeq f
  if !flitGood f then
    ((s.modLane die lane fun l => { l with failed := l.failed + 1 }).send (.nak die lane f.src seq), [])
  else
    let s1 := s.send (.ack die lane f.src seq)
    let l := s1.link p f.mid
    if 2 ^ 31 ≤ (seq - l.next).toNat || l.early.any fun e => e.1 == seq then (s1, [])
    else
      let (l', ps) := { l with early := (seq, flitPayload f) :: l.early }.deliver (l.early.length + 1)
      (s1.modLink p f.mid fun _ => l', ps)

end Sys2Proof.Machine
end

