-- ==== Sys2Proof/Machine/Scalar.lean ====
section
/-! DEFINITION. The integer, predicate, local memory and scalar floating families (R179 to R189). -/

namespace Sys2Proof.Machine

/-! ### Shared effects -/

/-- An ALU minor on two register values (R179, R180); `y` is xB, or the immediate. -/
def State.alu (s : State) (i : Instr) (h : Hdr) (op : AluOp) (d a : Reg) (y : Word) : Res :=
  s.issue i h { fixed := true } fun t => t.launchOp i h (.x d) op.latency (op.eval (s.X a) y) (s.X a) y 0

/-- A relation of CMP or CMPI (R183). -/
def State.cmp (s : State) (i : Instr) (h : Hdr) (op : Rel) (pd : BitVec 3) (a : Reg) (y : Word) : Res :=
  s.issue i h { fixed := true } fun t => t.launchOp i h (.p pd) 1 (boolWord (op.eval (s.X a) y)) (s.X a) y 0

/-- A PLOG minor (R184). -/
def State.plog (s : State) (i : Instr) (h : Hdr) (op : PLog) (pd : BitVec 3) (x y : Bool) : Res :=
  s.issue i h { fixed := true } fun t => t.launchOp i h (.p pd) 1 (boolWord (op.eval x y)) (boolWord x) (boolWord y) 0

/-- An LI minor (R182). -/
def State.li (s : State) (i : Instr) (h : Hdr) (f : Nat) (d : Reg) (lit : BitVec 32) : Res :=
  s.issue i h { fixed := true } fun t =>
    t.launchOp i h (.x d) 1 (liValue f lit (s.X d)) 0 (zext32 lit) (if f = 2 then s.X d else 0)

/-- An FSC minor (R188); FFMA reads X[D] too. -/
def State.fsc (s : State) (i : Instr) (h : Hdr) (op : FscOp) (rm : RMode) (d a b : Reg) : Res :=
  s.issue i h { fixed := true } fun t =>
    t.launchOp i h (.x d) 4 (op.eval rm (s.X a) (s.X b) (s.X d)) (s.X a) (s.X b) (s.X d)

/-- An FSF minor (R189), with a special-function permit (R64). -/
def State.fsf (s : State) (i : Instr) (h : Hdr) (op : FsfOp) (d a : Reg) : Res :=
  s.issue i h { fixed := true, permit := some .sfu } fun t => t.launchOp i h (.x d) 12 (op.eval (s.X a)) (s.X a) 0 0

/-! ### Local loads and stores (R186, R187) -/

/-- The place of a load or store of `n` bytes; `ld` for a load other than LDBS, LDHS and LDWS, which R186 does not name for
the accumulator part (log entry 24). -/
def localPlace (t : Team) (va : Word) (n : Nat) (ld : Bool) : Except Cause Place :=
  if va.toNat ≥ 2 ^ 48 then .error .addrRange
  else if va.toNat < windowBase then .error .xlateClass
  else match windowPlace t (va.toNat - windowBase) with
    | none => .error .addrRange
    | some (.acc o) =>
      if !ld || n < 4 then .error .xlateClass else if va.toNat % n ≠ 0 then .error .align else .ok (.acc o)
    | some (.tid o) => if n ≠ 8 || va.toNat % 8 ≠ 0 then .error .align else .ok (.tid o)
    | some p => if va.toNat % n ≠ 0 then .error .align else .ok p

/-- Bytes of a TID entry run (R37): 8 bytes at a byte offset of the table. -/
def Cluster.readTid (c : Cluster) (o : Nat) : Word := (Tbl.get 0 c.tid (o / 64)).extractLsb' (o % 64 * 8) 64

/-- A doubleword of a TID entry written; its reserved bits stay zero (R37). -/
def tidWritable : BitVec 512 := (~~~0#512 >>> 64) &&& ~~~(0x3F#512 <<< 10)

def Cluster.writeTid (c : Cluster) (o : Nat) (v : Word) : Cluster :=
  let old := Tbl.get 0 c.tid (o / 64)
  let sh := o % 64 * 8
  let new := (old &&& ~~~((0xFFFFFFFFFFFFFFFF#512) <<< sh)) ||| (v.setWidth 512 <<< sh)
  { c with tid := Tbl.set 0 c.tid (o / 64) (new &&& tidWritable), badTid := unwritten o 8 c.badTid }

/-- Accumulator word by number (R233). -/
def Cluster.accWord (c : Cluster) (n : Nat) : BitVec 32 := Tbl.get 0 c.acc n
def Cluster.isPoisoned (c : Cluster) (n : Nat) : Bool := Tbl.get false c.poison n

/-- What a local place holds, `n` bytes as a number. -/
def Cluster.readPlace (c : Cluster) (p : Place) (n : Nat) : Nat :=
  match p with
  | .spad o => leNat (Tbl.readRun 0 c.spad o n)
  | .acc o =>
    if n = 8 then (c.accWord (o / 4)).toNat + (c.accWord (o / 4 + 1)).toNat * 2 ^ 32 else (c.accWord (o / 4)).toNat
  | .tid o => (c.readTid o).toNat
  | .slab .. => 0

/-- ACC_POISON of a load of a poisoned word (R233). -/
def Cluster.poisonedAt (c : Cluster) (p : Place) (n : Nat) : Bool :=
  match p with
  | .acc o => c.isPoisoned (o / 4) || (n == 8 && c.isPoisoned (o / 4 + 1))
  | _ => false

/-- The detail of SRAM_UNCORR where a load reads a damaged word (R103). -/
def Cluster.softAt (c : Cluster) (r : SeqRef) (p : Place) (n : Nat) : Option Word :=
  match p with
  | .spad o => (wordHit c.badSpad o n).map (softDetail .spad r.die r.cl)
  | .acc o => (pairHit c.badAcc (o / 4) (n / 4)).map (softDetail .acc r.die r.cl)
  | .tid o => (wordHit c.badTid o n).map (softDetail .tid r.die r.cl)
  | .slab .. => none

/-! ### The cadence table in CTL memory (R80, R107) -/

def Cadence.flags (e : Cadence) : Nat :=
  (if e.valid then 1 else 0) + (if e.missed then 2 else 0) + (if e.lost then 4 else 0) + (if e.audit then 8 else 0)

/-- The 32 bytes of an entry (R80). -/
def Cadence.bytes (e : Cadence) : List Byte :=
  bytes32 e.tag ++ bytes32 e.arroff ++ bytes32 e.depoff ++ bytes32 e.dwell ++ natBytes 2 e.nreg.toNat ++ natBytes 1 e.flags
    ++ natBytes 1 e.size.toNat ++ bytes32 e.lastRot ++ bytes64 e.lastTsc

/-- An entry that nothing has written. -/
def noCadence : Cadence := ⟨0, 0, 0, 0, 0, false, false, false, false, 0, 0, 0, 0, none, false, false, false⟩

/-- The entry that 32 bytes give; what the device keeps beside them stays while the tag stays. -/
def Cadence.ofBytes (bs : List Byte) (old : Cadence) : Cadence :=
  let w (o : Nat) : BitVec 32 := BitVec.ofNat 32 (nat bs o 4)
  let fl := nat bs 18 1
  let e := if w 0 = old.tag then old else noCadence
  { e with
    tag := w 0, arroff := w 4, depoff := w 8, dwell := w 12, nreg := BitVec.ofNat 16 (nat bs 16 2)
    valid := fl.testBit 0, missed := fl.testBit 1, lost := fl.testBit 2, audit := fl.testBit 3
    size := BitVec.ofNat 8 (nat bs 19 1), lastRot := w 20, lastTsc := BitVec.ofNat 64 (nat bs 24 8) }

/-- The page of the cadence table: TROT, ROTBASE, 16 bytes of zero, then the entries (log entry 7). -/
def tableSize : Nat := 0x200000

/-- A byte of the page at an offset. -/
def Chain.tableByte (c : Chain) (o : Nat) : Byte :=
  if o < 8 then (bytes64 (BitVec.ofNat 64 c.trot)).getD o 0
  else if o < 16 then (bytes64 (BitVec.ofNat 64 c.rotBase)).getD (o - 8) 0
  else if o < 32 then 0
  else ((c.cadence.getD (o / 32 - 1) noCadence).bytes).getD (o % 32) 0

/-- A byte of the page written. -/
def Chain.setTableByte (c : Chain) (o : Nat) (b : Byte) : Chain :=
  let put (v k : Nat) : Nat := leNat ((bytes64 (BitVec.ofNat 64 v)).set k b)
  if o < 8 then { c with trot := put c.trot o }
  else if o < 16 then { c with rotBase := put c.rotBase (o - 8) }
  else if o < 32 then c
  else
    let i := o / 32 - 1
    let es := c.cadence ++ List.replicate (i + 1 - c.cadence.length) noCadence
    let e := es.getD i noCadence
    { c with cadence := es.set i (Cadence.ofBytes (e.bytes.set (o % 32) b) e) }

/-- The offset of a slab address in the page of the cadence table, which lies on die 0. -/
def State.inTable (s : State) (pa : Nat) : Option Nat :=
  if s.cadenceBase ≤ pa ∧ pa < s.cadenceBase + tableSize then some (pa - s.cadenceBase) else none

/-- Whether a run of slab bytes touches the page. -/
def State.hitsTable (s : State) (pa n : Nat) : Bool := decide (pa < s.cadenceBase + tableSize) && decide (s.cadenceBase < pa + n)

/-- Slab bytes as a hub and the host read them (R107, R353). -/
def State.readCtl (s : State) (pa n : Nat) : List Byte :=
  if s.hitsTable pa n then (List.range n).map fun j =>
    match s.inTable (pa + j) with
    | some o => s.chain.tableByte o
    | none => s.memByte (pa + j)
  else s.readMem pa n

/-- Slab bytes written by a hub of a die or by the host: the bytes of the cadence table change it, and a line that the die's cache
holds takes the others too (R80, R107, R116). -/
def State.writeCtl (s : State) (die pa : Nat) (bs : List Byte) : State :=
  if s.hitsTable pa bs.length then
    bs.zipIdx.foldl (fun a (b, j) =>
      match a.inTable (pa + j) with
      | some o => a.modChain fun c => c.setTableByte o b
      | none => a.writeSlab die (pa + j) [b]) s
  else s.writeSlab die pa bs

/-- A load of `n` bytes (R187): the value is sampled in the issue step. On a hub the address is physical (R104); one that is not
aligned, or that the slab does not have, gives a free value (log entry 6). -/
def State.loadOp (s : State) (i : Instr) (h : Hdr) (n : Nat) (sg : Bool) (d a : Reg) (off : BitVec 16) : Res :=
  let va := s.X a + sext16 off
  let ext (v : Nat) : Word := if sg then BitVec.ofInt 64 (intDecode (8 * n) v) else BitVec.ofNat 64 v
  match s.cur with
  | .hub g =>
    s.issue i h {} fun t =>
      if va.toNat % n ≠ 0 ∨ slabSize < va.toNat + n then
        let (u, v) := t.openValue
        u.launchOp i h (.x d) 3 v 0 0 0
      else match t.badAt va.toNat n with
        | some w =>
          let u := { t with free := t.free + 1 }.post g { cause := .sramUncorr, detail := BitVec.ofNat 64 w }
          u.launchOp i h (.x d) 3 (Config.freeValue t.free) 0 0 0
        | none =>
          let u := t.corrected va.toNat n
          u.launchOp i h (.x d) 3 (ext (leNat (u.readCtl va.toNat n))) 0 0 0
  | .seq r =>
    match s.team? (strandOf r) with
    | none => .next s
    | some tm =>
      let c := s.cluster r.die r.cl
      let place := localPlace tm va n (!sg)
      let check : Option Cause := match place with
        | .error e => some e
        | .ok _ => none
      let late : Option Cause := match place with
        | .ok p => if c.poisonedAt p n then some .accPoison else none
        | .error _ => none
      s.issue i h { fixed := true, permit := some .mem, early := fun _ => check, late := fun _ => late } fun t =>
        match place with
        | .ok p =>
          match c.softAt r p n with
          | some w => .next (t.raise r .sramUncorr .a 0 0 w)
          | none => t.launchOp i h (.x d) 3 (ext (c.readPlace p n)) (ext (c.readPlace p n)) (sext16 off) 0
        | .error _ => .next t

/-- A store of `n` bytes, performed in its issue step (R187); a hub's to an address that is not aligned, or that the slab does
not have, stores nothing (log entry 6). -/
def State.storeOp (s : State) (i : Instr) (h : Hdr) (n : Nat) (a b : Reg) (off : BitVec 16) : Res :=
  let va := s.X a + sext16 off
  match s.cur with
  | .hub g =>
    s.issue i h {} fun t =>
      .next (if va.toNat % n ≠ 0 ∨ slabSize < va.toNat + n then t
        else t.writeCtl g va.toNat (natBytes n (s.X b).toNat))
  | .seq r =>
    match s.team? (strandOf r) with
    | none => .next s
    | some tm =>
      let place := localPlace tm va n false
      let check : Option Cause := match place with
        | .error e => some e
        | .ok _ => none
      s.issue i h { permit := some .mem, early := fun _ => check } fun t =>
        let t' := match place with
          | .ok (.spad o) => t.modCluster r.die r.cl fun c => c.putSpad o (natBytes n (s.X b).toNat)
          | .ok (.tid o) => t.modCluster r.die r.cl fun c => c.writeTid o (s.X b)
          | _ => t
        .next (t'.finish h)

/-! ### The meanings -/

/-- ADD (R179). -/
def execAdd (h : Hdr) (d a b : Reg) (s : State) : Res := s.alu (.add h d a b) h .add d a (s.X b)

/-- SUB (R179). -/
def execSub (h : Hdr) (d a b : Reg) (s : State) : Res := s.alu (.sub h d a b) h .sub d a (s.X b)

/-- AND (R179). -/
def execAnd (h : Hdr) (d a b : Reg) (s : State) : Res := s.alu (.and h d a b) h .and d a (s.X b)

/-- OR (R179). -/
def execOr (h : Hdr) (d a b : Reg) (s : State) : Res := s.alu (.or h d a b) h .or d a (s.X b)

/-- XOR (R179). -/
def execXor (h : Hdr) (d a b : Reg) (s : State) : Res := s.alu (.xor h d a b) h .xor d a (s.X b)

/-- ANDN (R179). -/
def execAndn (h : Hdr) (d a b : Reg) (s : State) : Res := s.alu (.andn h d a b) h .andn d a (s.X b)

/-- SHL (R179). -/
def execShl (h : Hdr) (d a b : Reg) (s : State) : Res := s.alu (.shl h d a b) h .shl d a (s.X b)

/-- SHR (R179). -/
def execShr (h : Hdr) (d a b : Reg) (s : State) : Res := s.alu (.shr h d a b) h .shr d a (s.X b)

/-- SRA (R179). -/
def execSra (h : Hdr) (d a b : Reg) (s : State) : Res := s.alu (.sra h d a b) h .sra d a (s.X b)

/-- ROL (R179). -/
def execRol (h : Hdr) (d a b : Reg) (s : State) : Res := s.alu (.rol h d a b) h .rol d a (s.X b)

/-- MIN (R179). -/
def execMin (h : Hdr) (d a b : Reg) (s : State) : Res := s.alu (.min h d a b) h .min d a (s.X b)

/-- MAX (R179). -/
def execMax (h : Hdr) (d a b : Reg) (s : State) : Res := s.alu (.max h d a b) h .max d a (s.X b)

/-- MINU (R179). -/
def execMinu (h : Hdr) (d a b : Reg) (s : State) : Res := s.alu (.minu h d a b) h .minu d a (s.X b)

/-- MAXU (R179). -/
def execMaxu (h : Hdr) (d a b : Reg) (s : State) : Res := s.alu (.maxu h d a b) h .maxu d a (s.X b)

/-- MUL (R179). -/
def execMul (h : Hdr) (d a b : Reg) (s : State) : Res := s.alu (.mul h d a b) h .mul d a (s.X b)

/-- MULH (R179). -/
def execMulh (h : Hdr) (d a b : Reg) (s : State) : Res := s.alu (.mulh h d a b) h .mulh d a (s.X b)

/-- MULHU (R179). -/
def execMulhu (h : Hdr) (d a b : Reg) (s : State) : Res := s.alu (.mulhu h d a b) h .mulhu d a (s.X b)

/-- DIV (R179, R180). -/
def execDiv (h : Hdr) (d a b : Reg) (s : State) : Res := s.alu (.div h d a b) h .div d a (s.X b)

/-- DIVU (R179, R180). -/
def execDivu (h : Hdr) (d a b : Reg) (s : State) : Res := s.alu (.divu h d a b) h .divu d a (s.X b)

/-- REM (R179, R180). -/
def execRem (h : Hdr) (d a b : Reg) (s : State) : Res := s.alu (.rem h d a b) h .rem d a (s.X b)

/-- REMU (R179, R180). -/
def execRemu (h : Hdr) (d a b : Reg) (s : State) : Res := s.alu (.remu h d a b) h .remu d a (s.X b)

/-- CLZ (R179). -/
def execClz (h : Hdr) (d a : Reg) (s : State) : Res := s.alu (.clz h d a) h .clz d a 0

/-- POPC (R179). -/
def execPopc (h : Hdr) (d a : Reg) (s : State) : Res := s.alu (.popc h d a) h .popc d a 0

/-- ABS (R179). -/
def execAbs (h : Hdr) (d a : Reg) (s : State) : Res := s.alu (.abs h d a) h .abs d a 0

/-- ADDI (R181). -/
def execAddi (h : Hdr) (d a : Reg) (imm : BitVec 16) (s : State) : Res :=
  s.alu (.addi h d a imm) h .add d a (sext16 imm)

/-- ANDI (R181). -/
def execAndi (h : Hdr) (d a : Reg) (imm : BitVec 16) (s : State) : Res :=
  s.alu (.andi h d a imm) h .and d a (sext16 imm)

/-- ORI (R181). -/
def execOri (h : Hdr) (d a : Reg) (imm : BitVec 16) (s : State) : Res :=
  s.alu (.ori h d a imm) h .or d a (sext16 imm)

/-- XORI (R181). -/
def execXori (h : Hdr) (d a : Reg) (imm : BitVec 16) (s : State) : Res :=
  s.alu (.xori h d a imm) h .xor d a (sext16 imm)

/-- MINI (R181). -/
def execMini (h : Hdr) (d a : Reg) (imm : BitVec 16) (s : State) : Res :=
  s.alu (.mini h d a imm) h .min d a (sext16 imm)

/-- MAXI (R181). -/
def execMaxi (h : Hdr) (d a : Reg) (imm : BitVec 16) (s : State) : Res :=
  s.alu (.maxi h d a imm) h .max d a (sext16 imm)

/-- MULI (R181). -/
def execMuli (h : Hdr) (d a : Reg) (imm : BitVec 16) (s : State) : Res :=
  s.alu (.muli h d a imm) h .mul d a (sext16 imm)

/-- SHLI (R181). -/
def execShli (h : Hdr) (d a : Reg) (sh : BitVec 6) (s : State) : Res :=
  s.alu (.shli h d a sh) h .shl d a (sh.setWidth 64)

/-- SHRI (R181). -/
def execShri (h : Hdr) (d a : Reg) (sh : BitVec 6) (s : State) : Res :=
  s.alu (.shri h d a sh) h .shr d a (sh.setWidth 64)

/-- SRAI (R181). -/
def execSrai (h : Hdr) (d a : Reg) (sh : BitVec 6) (s : State) : Res :=
  s.alu (.srai h d a sh) h .sra d a (sh.setWidth 64)

/-- ROLI (R181). -/
def execRoli (h : Hdr) (d a : Reg) (sh : BitVec 6) (s : State) : Res :=
  s.alu (.roli h d a sh) h .rol d a (sh.setWidth 64)

/-- LIZ (R182). -/
def execLiz (h : Hdr) (d : Reg) (lit : BitVec 32) (s : State) : Res := s.li (.liz h d lit) h 0 d lit

/-- LIS (R182). -/
def execLis (h : Hdr) (d : Reg) (lit : BitVec 32) (s : State) : Res := s.li (.lis h d lit) h 1 d lit

/-- LIH (R182). -/
def execLih (h : Hdr) (d : Reg) (lit : BitVec 32) (s : State) : Res := s.li (.lih h d lit) h 2 d lit

/-- EQ (R183). -/
def execEq (h : Hdr) (pd : BitVec 3) (a b : Reg) (s : State) : Res := s.cmp (.eq h pd a b) h .eq pd a (s.X b)

/-- EQI (R183). -/
def execEqi (h : Hdr) (pd : BitVec 3) (a : Reg) (imm : BitVec 16) (s : State) : Res :=
  s.cmp (.eqi h pd a imm) h .eq pd a (sext16 imm)

/-- NE (R183). -/
def execNe (h : Hdr) (pd : BitVec 3) (a b : Reg) (s : State) : Res := s.cmp (.ne h pd a b) h .ne pd a (s.X b)

/-- NEI (R183). -/
def execNei (h : Hdr) (pd : BitVec 3) (a : Reg) (imm : BitVec 16) (s : State) : Res :=
  s.cmp (.nei h pd a imm) h .ne pd a (sext16 imm)

/-- LT (R183). -/
def execLt (h : Hdr) (pd : BitVec 3) (a b : Reg) (s : State) : Res := s.cmp (.lt h pd a b) h .lt pd a (s.X b)

/-- LTI (R183). -/
def execLti (h : Hdr) (pd : BitVec 3) (a : Reg) (imm : BitVec 16) (s : State) : Res :=
  s.cmp (.lti h pd a imm) h .lt pd a (sext16 imm)

/-- LTU (R183). -/
def execLtu (h : Hdr) (pd : BitVec 3) (a b : Reg) (s : State) : Res := s.cmp (.ltu h pd a b) h .ltu pd a (s.X b)

/-- LTUI (R183). -/
def execLtui (h : Hdr) (pd : BitVec 3) (a : Reg) (imm : BitVec 16) (s : State) : Res :=
  s.cmp (.ltui h pd a imm) h .ltu pd a (sext16 imm)

/-- GE (R183). -/
def execGe (h : Hdr) (pd : BitVec 3) (a b : Reg) (s : State) : Res := s.cmp (.ge h pd a b) h .ge pd a (s.X b)

/-- GEI (R183). -/
def execGei (h : Hdr) (pd : BitVec 3) (a : Reg) (imm : BitVec 16) (s : State) : Res :=
  s.cmp (.gei h pd a imm) h .ge pd a (sext16 imm)

/-- GEU (R183). -/
def execGeu (h : Hdr) (pd : BitVec 3) (a b : Reg) (s : State) : Res := s.cmp (.geu h pd a b) h .geu pd a (s.X b)

/-- GEUI (R183). -/
def execGeui (h : Hdr) (pd : BitVec 3) (a : Reg) (imm : BitVec 16) (s : State) : Res :=
  s.cmp (.geui h pd a imm) h .geu pd a (sext16 imm)

/-- PAND (R184). -/
def execPand (h : Hdr) (pd pa pb : BitVec 3) (s : State) : Res := s.plog (.pand h pd pa pb) h .pand pd (s.P pa) (s.P pb)

/-- POR (R184). -/
def execPor (h : Hdr) (pd pa pb : BitVec 3) (s : State) : Res := s.plog (.por h pd pa pb) h .por pd (s.P pa) (s.P pb)

/-- PXOR (R184). -/
def execPxor (h : Hdr) (pd pa pb : BitVec 3) (s : State) : Res := s.plog (.pxor h pd pa pb) h .pxor pd (s.P pa) (s.P pb)

/-- PNOT (R184). -/
def execPnot (h : Hdr) (pd pa : BitVec 3) (s : State) : Res := s.plog (.pnot h pd pa) h .pnot pd (s.P pa) false

/-- PMOV (R184). -/
def execPmov (h : Hdr) (pd pa : BitVec 3) (s : State) : Res := s.plog (.pmov h pd pa) h .pmov pd (s.P pa) false

/-- SEL (R185). -/
def execSel (h : Hdr) (pk : BitVec 3) (d a b : Reg) (s : State) : Res :=
  s.issue (.sel h pk d a b) h { fixed := true } fun t =>
    t.launchOp (.sel h pk d a b) h (.x d) 1 (if s.P pk then s.X a else s.X b) (boolWord (s.P pk)) (s.X a) (s.X b)

/-- LDB (R186, R187). -/
def execLdb (h : Hdr) (d a : Reg) (off : BitVec 16) (s : State) : Res :=
  s.loadOp (.ldb h d a off) h 1 false d a off

/-- LDH (R186, R187). -/
def execLdh (h : Hdr) (d a : Reg) (off : BitVec 16) (s : State) : Res :=
  s.loadOp (.ldh h d a off) h 2 false d a off

/-- LDW (R186, R187). -/
def execLdw (h : Hdr) (d a : Reg) (off : BitVec 16) (s : State) : Res :=
  s.loadOp (.ldw h d a off) h 4 false d a off

/-- LDD (R186, R187). -/
def execLdd (h : Hdr) (d a : Reg) (off : BitVec 16) (s : State) : Res :=
  s.loadOp (.ldd h d a off) h 8 false d a off

/-- LDBS (R186, R187). -/
def execLdbs (h : Hdr) (d a : Reg) (off : BitVec 16) (s : State) : Res :=
  s.loadOp (.ldbs h d a off) h 1 true d a off

/-- LDHS (R186, R187). -/
def execLdhs (h : Hdr) (d a : Reg) (off : BitVec 16) (s : State) : Res :=
  s.loadOp (.ldhs h d a off) h 2 true d a off

/-- LDWS (R186, R187). -/
def execLdws (h : Hdr) (d a : Reg) (off : BitVec 16) (s : State) : Res :=
  s.loadOp (.ldws h d a off) h 4 true d a off

/-- STB (R186, R187). -/
def execStb (h : Hdr) (a b : Reg) (off : BitVec 16) (s : State) : Res := s.storeOp (.stb h a b off) h 1 a b off

/-- STH (R186, R187). -/
def execSth (h : Hdr) (a b : Reg) (off : BitVec 16) (s : State) : Res := s.storeOp (.sth h a b off) h 2 a b off

/-- STW (R186, R187). -/
def execStw (h : Hdr) (a b : Reg) (off : BitVec 16) (s : State) : Res := s.storeOp (.stw h a b off) h 4 a b off

/-- STD (R186, R187). -/
def execStd (h : Hdr) (a b : Reg) (off : BitVec 16) (s : State) : Res := s.storeOp (.std h a b off) h 8 a b off

/-- FADD (R188). -/
def execFadd (h : Hdr) (d a b : Reg) (rm : RMode) (s : State) : Res := s.fsc (.fadd h d a b rm) h .fadd rm d a b

/-- FSUB (R188). -/
def execFsub (h : Hdr) (d a b : Reg) (rm : RMode) (s : State) : Res := s.fsc (.fsub h d a b rm) h .fsub rm d a b

/-- FMUL (R188). -/
def execFmul (h : Hdr) (d a b : Reg) (rm : RMode) (s : State) : Res := s.fsc (.fmul h d a b rm) h .fmul rm d a b

/-- FFMA (R188). -/
def execFfma (h : Hdr) (d a b : Reg) (rm : RMode) (s : State) : Res := s.fsc (.ffma h d a b rm) h .ffma rm d a b

/-- FMIN (R188). -/
def execFmin (h : Hdr) (d a b : Reg) (s : State) : Res := s.fsc (.fmin h d a b) h .fmin .rne d a b

/-- FMAX (R188). -/
def execFmax (h : Hdr) (d a b : Reg) (s : State) : Res := s.fsc (.fmax h d a b) h .fmax .rne d a b

/-- FCMPEQ (R188). -/
def execFcmpeq (h : Hdr) (d a b : Reg) (s : State) : Res := s.fsc (.fcmpeq h d a b) h .fcmpeq .rne d a b

/-- FCMPLT (R188). -/
def execFcmplt (h : Hdr) (d a b : Reg) (s : State) : Res := s.fsc (.fcmplt h d a b) h .fcmplt .rne d a b

/-- FCMPLE (R188). -/
def execFcmple (h : Hdr) (d a b : Reg) (s : State) : Res := s.fsc (.fcmple h d a b) h .fcmple .rne d a b

/-- FABS (R188). -/
def execFabs (h : Hdr) (d a : Reg) (s : State) : Res := s.fsc (.fabs h d a) h .fabs .rne d a 0

/-- FNEG (R188). -/
def execFneg (h : Hdr) (d a : Reg) (s : State) : Res := s.fsc (.fneg h d a) h .fneg .rne d a 0

/-- FCVTI (R188). -/
def execFcvti (h : Hdr) (d a : Reg) (rm : RMode) (s : State) : Res := s.fsc (.fcvti h d a rm) h .fcvti rm d a 0

/-- FCVTF (R188). -/
def execFcvtf (h : Hdr) (d a : Reg) (rm : RMode) (s : State) : Res := s.fsc (.fcvtf h d a rm) h .fcvtf rm d a 0

/-- EXP2 (R189). -/
def execExp2 (h : Hdr) (d a : Reg) (s : State) : Res := s.fsf (.exp2 h d a) h .exp2 d a

/-- LOG2 (R189). -/
def execLog2 (h : Hdr) (d a : Reg) (s : State) : Res := s.fsf (.log2 h d a) h .log2 d a

/-- RCP (R189). -/
def execRcp (h : Hdr) (d a : Reg) (s : State) : Res := s.fsf (.rcp h d a) h .rcp d a

/-- RSQRT (R189). -/
def execRsqrt (h : Hdr) (d a : Reg) (s : State) : Res := s.fsf (.rsqrt h d a) h .rsqrt d a

/-- SQRT (R189). -/
def execSqrt (h : Hdr) (d a : Reg) (s : State) : Res := s.fsf (.sqrt h d a) h .sqrt d a

/-- TANH (R189). -/
def execTanh (h : Hdr) (d a : Reg) (s : State) : Res := s.fsf (.tanh h d a) h .tanh d a

/-- SIN (R189). -/
def execSin (h : Hdr) (d a : Reg) (s : State) : Res := s.fsf (.sin h d a) h .sin d a

/-- COS (R189). -/
def execCos (h : Hdr) (d a : Reg) (s : State) : Res := s.fsf (.cos h d a) h .cos d a

end Sys2Proof.Machine
end

