-- ==== Sys2Proof/Machine/Tuples.lean ====
section
/-! DEFINITION. LDS (R118, R119) and tuple space (R120 to R140): the requests of the sequencers, the service of the
home slices, the completions. -/

namespace Sys2Proof.Machine

/-! ### LDS -/

/-- The 64-bit address of an LDS (R119). -/
def LdsOff.value : LdsOff → Word
  | .imm off => off.signExtend 64
  | .lit off => off.signExtend 64

/-- LDS: translated before issue, at most 16 in flight (R119). -/
def execLds (h : Hdr) (sz : BitVec 2) (sg : Bool) (d a : Reg) (off : LdsOff) (s : State) : Res :=
  let i : Instr := .lds h sz sg d a off
  match s.cur with
  | .hub _ => s.issue i h {} .next
  | .seq r =>
    let va := s.X a + LdsOff.value off
    let n := 2 ^ sz.toNat
    let place := s.translate (strandOf r) va n .read
    s.issue i h
      { permit := some .mem, miss := va.toNat / 0x200000
        early := fun _ => match place with
          | .error c => some c
          | .ok _ => none
        room := fun s => if (s.seq r).lds.length < 16 then none else some .room } fun t =>
      match place with
      | .ok pa => .next (t.modSeq r fun q => { q with lds := q.lds ++ [⟨t.issuePc h, d, va.setWidth 48, pa, n, sg, h.pq, t.me.no⟩] })
      | .error _ => .next t

/-- LDS_COMPLETE: the oldest LDS of a sequencer completes (R103, R119). -/
def execLdsComplete (g : Agent) (s : State) : Res :=
  match g with
  | .hub _ => .next s
  | .seq r => .next (match (s.seq r).lds with
    | [] => s
    | q :: _ => s.ldsFinish r q)

/-! ### Tuples and patterns -/

/-- Whether a 64-byte tuple is well-formed (R122). -/
def tupleOk (t : List Byte) : Bool :=
  let kc := nat t 2 1
  let pl := nat t 3 1
  nat t 0 2 != 0 && decide (kc ≤ 4) && decide (pl ≤ 24) && nat t 4 4 == 0 && nat t (8 + 8 * kc) (8 * (4 - kc)) == 0
    && nat t (40 + pl) (24 - pl) == 0

/-- Whether a 72-byte pattern may be used (R123). -/
def patternOk (p : List Byte) : Bool :=
  nat p 0 2 != 0 && (decide (nat p 2 1 ≤ 4) || nat p 2 1 == 0xFF) && nat p 3 5 == 0

/-- Whether a tuple matches a pattern of its region (R123). -/
def tupleMatches (t p : List Byte) : Bool :=
  nat t 0 2 == nat p 0 2 && (nat p 2 1 == 0xFF || nat t 2 1 == nat p 2 1)
    && (List.range 4).all fun j =>
        nat t (8 + 8 * j) 8 &&& nat p (16 + 16 * j) 8 == nat p (8 + 16 * j) 8 &&& nat p (16 + 16 * j) 8

/-- The home slice of a class in a region (R124). -/
def homeSlice (cls : BitVec 16) (rid : Nat) : Nat :=
  let c := cls.toNat
  (c % 64) ^^^ (c / 64 % 64) ^^^ (c / 4096 % 16 * 4) ^^^ (rid % 64)

/-- The region of a die with a base and a context: its RID (R120, R121); a damaged entry counts as invalid (R103). -/
def Die.region? (d : Die) (base : Nat) (ctx : BitVec 4) : Option (Nat × Region) :=
  d.regions.find? fun p => p.2.v && !d.badRegions.contains p.1 && p.2.ctx == ctx && p.2.vpn.toNat * 0x200000 == base

/-! ### Checks at issue (R121, R126, R139) -/

/-- Where a handle leads: a region of a die of this package, or another member. -/
inductive Target where
  | home (die rid : Nat)
  | far (mid : Nat)
deriving DecidableEq, Repr

/-- A handle under R121; one that names this member with RMT = 1 is checked as one with RMT = 0 (log entry 87). -/
def State.handle (s : State) (st : StrandRef) (v : Word) (k : AccKind) : Except Cause Target :=
  if field v 53 10 ≠ 0 ∨ (v.toNat < 2 ^ 63 ∧ field v 48 5 ≠ 0) then .error .addrRange
  else if v.toNat ≥ 2 ^ 63 ∧ field v 48 5 ≠ s.chain.self then .ok (.far (field v 48 5))
  else match s.translate st (v &&& 0xFFFFFFFFFFFF#64) 1 k with
    | .error c => .error c
    | .ok pa =>
      match (s.die (pa / 0x80000000)).region? (field v 0 48) (s.ctxOf st) with
      | some (rid, _) => .ok (.home (pa / 0x80000000) rid)
      | none => .error .addrRange

/-- The scratchpad offset of a request block of `n` bytes: ALIGN, then ADDR_RANGE (R126, R139). -/
def State.tupleBlock (s : State) (st : StrandRef) (va : Word) (n : Nat) : Except Cause Nat :=
  match s.team? st with
  | none => .error .addrRange
  | some t =>
    if va.toNat % 64 ≠ 0 then .error .align
    else if va.toNat < windowBase ∨ va.toNat - windowBase + n > t.spb then .error .addrRange
    else .ok (t.spadBase + (va.toNat - windowBase))

def errorOf {α : Type} : Except Cause α → Option Cause
  | .error c => some c
  | .ok _ => none

/-! ### Sending (R127, R135) -/

/-- The order in which requests reach a slice: by the cycle, then by requester id (R127). -/
def Requester.rank (self : Nat) : Requester → Nat
  | .seq r => self * 8192 + r.die * 1024 + r.cl * 16 + r.slot * 4 + r.cls.code
  | .member _ rq => rq.toNat

def TupReq.before (self : Nat) (a b : TupReq) : Bool :=
  decide (a.came < b.came) || (a.came == b.came && decide (a.who.rank self ≤ b.who.rank self))

/-- A request put in service order behind those that precede it. -/
def insertReq (self : Nat) (q : TupReq) : List TupReq → List TupReq
  | [] => [q]
  | x :: r => if x.before self q then x :: insertReq self q r else q :: x :: r

def State.modSlice (s : State) (die sl : Nat) (f : Slice → Slice) : State :=
  s.modDie die fun d => { d with slices := Tbl.put d.slices sl (f (Tbl.get {} d.slices sl)) }

def State.slice (s : State) (die sl : Nat) : Slice := Tbl.get {} (s.die die).slices sl

/-- A request reaches its home slice. -/
def State.reach (s : State) (die rid : Nat) (q : TupReq) : State :=
  s.modSlice die (homeSlice q.cls rid) fun sl => { sl with queue := insertReq s.chain.self q sl.queue }

/-- The fields of a request that its instruction gives: kind, `.n`, timeout, label (R138). -/
def tupFields : Instr → BitVec 2 × Bool × BitVec 16 × BitVec 16
  | .tdep _ nb _ _ _ => (0, nb, 0, 0)
  | .tcpy _ nb _ _ _ tmo label => (1, nb, tmo, label)
  | .ttak _ nb _ _ _ tmo label => (2, nb, tmo, label)
  | _ => (3, false, 0, 0)

/-- A request of a sequencer sent to its home, near or far (R135). -/
def State.sendTuple (s : State) (r : SeqRef) (o : TupOut) (target : Target) (block : List Byte) : State :=
  let (kind, nb, tmo, lab) := tupFields o.ins
  let label := if o.ins matches .tcnl .. then o.captB.extractLsb' 16 16 else lab
  let base := o.captA.setWidth 48
  let ctx := s.ctxOf (strandOf r)
  match target with
  | .home die rid =>
    (s.modSeq r fun q => { q with tup := q.tup ++ [o] }).reach die rid
      ⟨kind, nb, o.cls, tmo, label, base, ctx, .seq r, o.req, block, s.tsc die, none⟩
  | .far mid =>
    (s.modSeq r fun q => { q with tup := q.tup ++ [{ o with remote := some mid, since := s.tsc r.die, heard := false }] }).send
      (.tspreq mid ⟨kind, nb, o.cls, tmo, label, base, ctx, s.rqid r, BitVec.ofNat 32 o.req, block⟩)

/-- Requests accepted or sent and not completed that count against the eight of R133. -/
def Seq.tupCount (q : Seq) : Nat := (q.tup.filter fun t => !(t.ins matches .tcnl ..)).length

/-- TDEP, TCPY and TTAK at the requester (R139): the sequencer holds at the instruction until it is accepted. -/
def State.tuple (s : State) (i : Instr) (h : Hdr) (k : AccKind) (n : Nat) (a b : Reg) : Res :=
  match s.cur with
  | .hub _ => s.issue i h {} .next
  | .seq r =>
    let st := strandOf r
    let target := s.handle st (s.X a) k
    let blk := s.tupleBlock st (s.X b) n
    let input := if k = .deposit then 64 else 72
    let bytes := match blk with
      | .ok o => Tbl.readRun 0 (s.cluster r.die r.cl).spad o input
      | .error _ => []
    let good := if k = .deposit then tupleOk bytes else patternOk bytes
    s.issue i h
      { permit := some .mem, defer := true, miss := field (s.X a) 21 27
        early := fun _ => (errorOf target).orElse fun _ => errorOf blk
        room := fun s => if (s.seq r).tupCount < 8 then none else some .room
        late := fun _ => if good then none else some .tuplePattern } fun t =>
      match target with
      | .error _ => .next t
      | .ok tg =>
        let o : TupOut := { req := t.nextReq, ins := i, addr := (t.seq r).pc, cls := BitVec.ofNat 16 (nat bytes 0 2),
                            captA := s.X a, captB := s.X b, accepted := false, no := (t.seq r).no + 1 }
        .next (({ t with nextReq := t.nextReq + 1 }.waits r i .held).sendTuple r o tg bytes)

/-- TDEP (R122, R139). -/
def execTdep (h : Hdr) (nb : Bool) (d a b : Reg) (s : State) : Res := s.tuple (.tdep h nb d a b) h .deposit 128 a b

/-- TCPY (R123, R139). -/
def execTcpy (h : Hdr) (nb : Bool) (d a b : Reg) (tmo label : BitVec 16) (s : State) : Res :=
  s.tuple (.tcpy h nb d a b tmo label) h .copyTuple 192 a b

/-- TTAK (R123, R139). -/
def execTtak (h : Hdr) (nb : Bool) (d a b : Reg) (tmo label : BitVec 16) (s : State) : Res :=
  s.tuple (.ttak h nb d a b tmo label) h .take 192 a b

/-- TCNL (R140): pops WQ as it issues and holds its sequencer until its count returns. -/
def execTcnl (h : Hdr) (d a b : Reg) (s : State) : Res :=
  let i : Instr := .tcnl h d a b
  match s.cur with
  | .hub _ => s.issue i h {} .next
  | .seq r =>
    let target := s.handle (strandOf r) (s.X a) .cancel
    let bad := field (s.X b) 0 16 == 0 || field (s.X b) 32 32 != 0
    s.issue i h
      { permit := some .mem, miss := field (s.X a) 21 27
        early := fun _ => (errorOf target).orElse fun _ => if bad then some .tuplePattern else none } fun t =>
      match target with
      | .error _ => .next t
      | .ok tg =>
        let o : TupOut := { req := t.nextReq, ins := i, addr := t.issuePc h, cls := (s.X b).setWidth 16, captA := s.X a,
                            captB := s.X b, accepted := false, no := (t.seq r).no }
        .next (({ t with nextReq := t.nextReq + 1 }.waits r i .held).sendTuple r o tg [])

/-! ### Answers at the requester (R132, R133, R136, R138) -/

/-- What the home slice answers: parked, refused, or completed with a status word and the output bytes. -/
inductive TupAns where
  | parked
  | refused (c : Cause)
  | done (status : BitVec 64) (out : List Byte)
deriving DecidableEq, Repr

/-- The request of that number that a sequencer has out. -/
def Seq.tup? (q : Seq) (req : Nat) : Option TupOut := q.tup.find? fun t => t.req == req

def State.modTup (s : State) (r : SeqRef) (req : Nat) (f : TupOut → TupOut) : State :=
  s.modSeq r fun q => { q with tup := q.tup.map fun t => if t.req = req then f t else t }

/-- A change made as if the sequencer executed. -/
def State.asSeq (s : State) (r : SeqRef) (f : State → State) : State := { f { s with cur := .seq r } with cur := s.cur }

/-- The sequencer's request is accepted: WQ is popped and the program counter moves on (R133). -/
def State.acceptTup (s : State) (r : SeqRef) (o : TupOut) : State :=
  if o.accepted then s
  else if o.ins matches .tcnl .. then s.modSeq r fun q => { q with wait := none, held := none }
  else (s.asSeq r fun t => (t.popWq r (hdrOf o.ins)).advance (hdrOf o.ins)).modTup r o.req fun t => { t with accepted := true }

/-- The home slice's answer reaches the requester; one that a stop cancels completes nothing (R136), and a handle that its home
member rejects traps as at issue (R121; log entry 87). -/
def State.answerTup (s : State) (r : SeqRef) (req : Nat) (a : TupAns) : State :=
  match (s.seq r).tup? req with
  | none => s
  | some o =>
    let strike (s : State) : State := s.modTup r req fun t => { t with done := some (cancelledWord, []) }
    if o.done.isSome then s
    else match a with
    | .parked => (s.acceptTup r o).modTup r req fun t => { t with heard := true }
    | .done st out =>
      if o.accepted then
        let s1 := s.modTup r req fun t => { t with done := some (st, out) }
        if o.stopping && st.toNat % 8 == 3 then s1 else s1.soon [.tupleComplete req]
      else (s.acceptTup r o).completeTup r o st out
    | .refused c =>
      let full := c matches .tupleParkFull | .tupleRegionFull
      if full && (tupFields o.ins).2.1 then (s.acceptTup r o).completeTup r o 2 []
      else if o.stopping then strike s
      else if o.resent then
        if full then s.modTup r req fun t => { t with heard := true, resendAt := some (s.tsc r.die + 64) }
        else s.completeTup r o cancelledWord []
      else
        let s1 := s.modSeq r fun q => { q with tup := q.tup.filter fun t => t.req != req }
        let s2 := if o.ins matches .tcnl .. then
            s1.recall r { ins := o.ins, seqNo := 0, addr := o.addr, xd := 0, xa := 0, xb := 0 }
          else s1.modSeq r fun q => { q.unstep with wait := none, held := none, stepDone := false }
        match (s2.strand (strandOf r)).stop with
        | .running => s2.raise r c .i o.addr 0 0
        | _ => s2

/-- The status word of a refusal in a TSPRSP: FULL, or what the home member finds wrong with the handle (R132, R138; log entry
87). -/
def refusalWord : Cause → BitVec 64
  | .addrRange => 16
  | .xlateClass => 32
  | .xlatePerm => 48
  | _ => 2

/-- An answer on its way back: to a sequencer of the package, or as a TSPRSP (R135). -/
def State.answer (s : State) (who : Requester) (req : Nat) (a : TupAns) : State :=
  match who with
  | .seq r => s.answerTup r req a
  | .member mid _ =>
    let n := BitVec.ofNat 32 req
    s.send (.tsprsp mid (match a with
      | .parked => ⟨true, false, n, 0, []⟩
      | .refused c => ⟨false, false, n, refusalWord c, []⟩
      | .done st out => ⟨false, true, n, st, out⟩))

/-! ### Service at the home slice (R127 to R132, R140) -/

/-- The stamp of a stored tuple (R125). -/
def stampBytes (tsc : Nat) (seq : BitVec 32) (slice die : Nat) : List Byte :=
  natBytes 8 tsc ++ bytes32 seq ++ natBytes 1 slice ++ natBytes 1 die ++ zeros 2

/-- The status word of R138. -/
def tupStatus (seq : BitVec 32) (ncopy : Nat) (pk : Bool) (status : Nat) : BitVec 64 :=
  BitVec.ofNat 64 (seq.toNat * 2 ^ 32 + min ncopy 255 * 16 + (if pk then 8 else 0) + status)

/-- The region that a request names, with its die: one created since on another die serves it too (R120). -/
def State.regionOf (s : State) (die : Nat) (q : TupReq) : Option (Nat × Nat × Region) :=
  (die :: List.range 8).findSome? fun d => ((s.die d).region? q.base.toNat q.ctx).map fun p => (d, p)

def State.addCount (s : State) (die rid : Nat) (f : Nat → Nat) : State :=
  s.modDie die fun d =>
    let g := Tbl.get {} d.regions rid
    { d with regions := Tbl.put d.regions rid { g with count := f g.count } }

/-- The oldest stored tuple of a region that matches a pattern (R125, R128); a damaged one never matches (R103). -/
def Slice.oldest (sl : Slice) (rid : Nat) (p : List Byte) : Option Stored :=
  sl.stored.find? fun t => t.rid == rid && !sl.badTuples.contains t.seq && tupleMatches t.tuple p

/-- The stored tuples of a region in which an uncorrectable word is found are removed from the bag (R103, R120). -/
def State.purge (s : State) (die slice rid : Nat) : State :=
  let bad (x : Slice) (t : Stored) : Bool := t.rid == rid && x.badTuples.contains t.seq
  ((s.slice die slice).stored.filter (bad (s.slice die slice))).foldl (fun a t =>
    ((a.modSlice die slice fun x =>
        { x with stored := x.stored.filter fun u => u != t, badTuples := x.badTuples.filter (· != t.seq) }).addCount die rid
      (· - 1)).post die { cause := .sramUncorr, detail := softDetail .tuple die slice t.seq.toNat }) s

/-- A TCPY or TTAK performed (R128). -/
def State.serveTake (s : State) (die slice rid : Nat) (q : TupReq) : State :=
  let sl := s.slice die slice
  match sl.oldest rid q.block with
  | some t =>
    let ans := TupAns.done (tupStatus t.seq 0 false 0) (stampBytes t.tsc.toNat t.seq slice die ++ t.tuple)
    let s1 := if q.kind = 2 then
        (s.modSlice die slice fun x => { x with stored := x.stored.filter fun u => u != t }).addCount die rid (· - 1)
      else s
    s1.answer q.who q.req ans
  | none =>
    if q.timeout = 0 then s.answer q.who q.req (.done (tupStatus 0 0 false 1) [])
    else if sl.parked.length ≥ 256 then s.answer q.who q.req (.refused .tupleParkFull)
    else
      let dl := if q.timeout = 0xFFFF#16 then none else some (s.tsc die + 64 * q.timeout.toNat)
      (s.modSlice die slice fun x => { x with parked := x.parked ++ [{ q with deadline := dl }] }).answer q.who q.req .parked

/-- A TDEP performed (R129). -/
def State.serveDeposit (s : State) (die slice rid : Nat) (g : Region) (q : TupReq) : State :=
  let sl := s.slice die slice
  let hit (p : TupReq) : Bool := p.base == q.base && p.ctx == q.ctx && tupleMatches q.block p.block
  let copies := sl.parked.filter fun p => p.kind == 1 && hit p
  let take := sl.parked.find? fun p => p.kind == 2 && hit p
  if take.isNone && g.count == g.cap.toNat then s.answer q.who q.req (.refused .tupleRegionFull)
  else
    let tsc := s.tsc die
    let out := stampBytes tsc sl.seq slice die ++ q.block
    let gone (p : TupReq) : Bool := (p.kind == 1 && hit p) || take == some p
    let s1 := s.modSlice die slice fun x =>
      { x with seq := x.seq + 1, parked := x.parked.filter fun p => !gone p
               stored := if take.isSome then x.stored
                         else x.stored ++ [⟨rid, BitVec.ofNat 64 tsc, sl.seq, q.block, slice⟩] }
    let s2 := if take.isSome then s1 else s1.addCount die rid (· + 1)
    let give (a : State) (p : TupReq) : State := a.answer p.who p.req (.done (tupStatus sl.seq 0 true 0) out)
    let s3 := take.toList.foldl give (copies.foldl give s2)
    s3.answer q.who q.req (.done (tupStatus sl.seq copies.length take.isSome 0) (out.take 16))

/-- The strand part of a requester id (R140). -/
def Requester.strandId (self : Nat) (w : Requester) : Nat := w.rank self / 4

/-- A cancellation performed: the parked requests of the strand with the label complete with CANCELLED (R140). -/
def State.serveCancel (s : State) (die slice : Nat) (q : TupReq) : State :=
  let self := s.chain.self
  let hit (p : TupReq) : Bool := p.who.strandId self == q.who.strandId self && (q.label == 0 || p.label == q.label)
  let hits := (s.slice die slice).parked.filter hit
  let s1 := s.modSlice die slice fun x => { x with parked := x.parked.filter fun p => !hit p }
  let s2 := hits.foldl (fun a p => a.answer p.who p.req (.done (tupStatus 0 0 true 3) [])) s1
  s2.answer q.who q.req (.done (BitVec.ofNat 64 hits.length) [])

/-- The request at the head of a slice is performed when its kind is `kinds`.  A request for a region that has gone completes
with CANCELLED, and one for a region created since under another RID goes on to the home slice of its class there (R120, R124,
R127). -/
def State.serve (s : State) (die slice : Nat) (kinds : List Nat) : State :=
  match (s.slice die slice).queue with
  | [] => s
  | q :: rest =>
    if !kinds.contains q.kind.toNat then s
    else
      let s1 := s.modSlice die slice fun x => { x with queue := rest }
      match s1.regionOf die q with
      | none =>
        if q.kind = 3 then s1.serveCancel die slice q else s1.answer q.who q.req (.done (tupStatus 0 0 false 3) [])
      | some (d, rid, g) =>
        if d ≠ die ∨ homeSlice q.cls rid ≠ slice then s1.reach d rid { q with came := s1.tsc d }
        else if q.kind = 3 then s1.serveCancel die slice q
        else if q.kind = 0 then s1.serveDeposit die slice rid g q
        else (s1.purge die slice rid).serveTake die slice rid q

/-- TUPLE_TAKE_SERVICE. -/
def execTupleTakeService (die slice : Nat) (s : State) : Res := .next (s.serve die slice [1, 2])

/-- TUPLE_DEPOSIT_SERVICE. -/
def execTupleDepositService (die slice : Nat) (s : State) : Res := .next (s.serve die slice [0])

/-- TUPLE_CANCEL_SERVICE. -/
def execTupleCancelService (die slice : Nat) (s : State) : Res := .next (s.serve die slice [3])

/-- TUPLE_PARK_EXPIRE: the parked requests whose deadline TSC has reached complete with NONE (R130). -/
def execTupleParkExpire (die slice : Nat) (s : State) : Res :=
  let due (p : TupReq) : Bool := p.deadline.any fun d => decide (d ≤ s.tsc die)
  let hits := (s.slice die slice).parked.filter due
  let s1 := s.modSlice die slice fun x => { x with parked := x.parked.filter fun p => !due p }
  .next (hits.foldl (fun a p => a.answer p.who p.req (.done (tupStatus 0 0 true 1) [])) s1)

/-! ### Completion, resending, and other members -/

/-- The sequencer of a key of the table of sequencers. -/
def refOfKey (k : Nat) : SeqRef := ⟨k / 1024, k / 16 % 64, k / 4 % 4, Cls.ofCode (k % 4)⟩

/-- The sequencer that has a request of that number out. -/
def State.findTup (s : State) (req : Nat) : Option (SeqRef × TupOut) :=
  s.seqs.findSome? fun (k, q) => (q.tup? req).map fun o => (refOfKey k, o)

/-- TUPLE_COMPLETE: a parked request's completion writes its block and register and pushes its token (R133). -/
def execTupleComplete (req : Nat) (s : State) : Res :=
  match s.findTup req with
  | some (r, o) =>
    match o.done with
    | some (st, out) => .next (s.completeTup r o st out)
    | none => .next s
  | none => .next s

/-- Whether two windows have passed since a request to another member, or its cancellation, was sent, with no answer (R135, R136). -/
def TupOut.overdue (o : TupOut) (now : Nat) : Bool :=
  o.remote.isSome && o.done.isNone && (!o.heard || o.stopping) && decide (o.since + 8192 ≤ now)

/-- A request to another member whose answer does not come: UNREACH, TCNL writes 0 (R135, R140); one that a stop cancels is
recorded (R136; log entry 87). -/
def State.tupLost (s : State) (r : SeqRef) (o : TupOut) : State :=
  if o.stopping then s.modTup r o.req fun t => { t with done := some (cancelledWord, []) }
  else s.answerTup r o.req (.done (if o.ins matches .tcnl .. then 0 else tupStatus 0 0 o.heard 4) [])

/-- TUPLE_REMOTE_TIMEOUT: no TSPRSP within two windows (R135, R140). -/
def execTupleRemoteTimeout (req : Nat) (s : State) : Res :=
  match s.findTup req with
  | some (r, o) => .next (if o.overdue (s.tsc r.die) then s.tupLost r o else s)
  | none => .next s

/-- The requests at a member that is lost end: those parked there with UNREACH (R135). -/
def State.tupUnreach (s : State) (mid : Nat) : State :=
  s.seqs.foldl (fun a (k, q) => q.tup.foldl (fun b o =>
    if o.remote = some mid ∧ o.done.isNone ∧ o.heard ∧ o.resendAt.isNone then b.tupLost (refOfKey k) o else b) a) s

/-- A request sent again as its registers were captured, with its block as it stands and its full timeout (R136).  The block is
not checked again, and a handle that no longer passes its checks completes it with CANCELLED (log entry 45). -/
def State.resendTup (s : State) (r : SeqRef) (o : TupOut) : State :=
  let st := strandOf r
  let dep := o.ins matches .tdep ..
  let bytes := match s.tupleBlock st o.captB (if dep then 128 else 192) with
    | .ok off => Tbl.readRun 0 (s.cluster r.die r.cl).spad off (if dep then 64 else 72)
    | .error _ => []
  let k : AccKind := if dep then .deposit else if o.ins matches .tcpy .. then .copyTuple else .take
  let o' := { o with cls := BitVec.ofNat 16 (nat bytes 0 2), resendAt := none, resent := true, accepted := true, heard := false }
  let s1 := s.modSeq r fun q => { q with tup := q.tup.filter fun t => t.req != o.req }
  match s.handle st o.captA k with
  | .ok tg => s1.sendTuple r o' tg bytes
  | .error _ => s1.completeTup r o' cancelledWord []

/-- TUPLE_RESEND: a refused request that had been accepted before is sent again after 64 cycles (R136). -/
def execTupleResend (req : Nat) (s : State) : Res :=
  match s.findTup req with
  | some (r, o) =>
    if o.done.isNone && o.resendAt.any fun t => decide (t ≤ s.tsc r.die) then .next (s.resendTup r o) else .next s
  | none => .next s

/-- The cancelled requests of a resumed sequencer issued again in their order, without popping WQ (R136, R342). -/
def State.resendAll (s : State) (r : SeqRef) : State :=
  let q := s.seq r
  (q.cancelled.foldl (fun a c =>
    let o : TupOut := { req := a.nextReq, ins := c.ins, addr := 0, cls := 0, captA := c.captA, captB := c.captB,
                        accepted := true, resent := true }
    { a with nextReq := a.nextReq + 1 }.resendTup r o) s).modSeq r fun z => { z with cancelled := [] }

/-- What a TSPRSP says (R135); a refusal says what its kind can run out of (R132), or what its home finds wrong (log entry 87). -/
def tspAnswer (i : Instr) (rs : TspRsp) : TupAns :=
  if rs.completion then .done rs.status rs.block
  else if rs.parked then .parked
  else .refused (match rs.status.toNat with
    | 16 => .addrRange
    | 32 => .xlateClass
    | 48 => .xlatePerm
    | _ => if i matches .tdep .. then .tupleRegionFull else .tupleParkFull)

end Sys2Proof.Machine
end

