-- ==== Sys2Proof/Machine/Tensor.lean ====
section
/-! DEFINITION. What the engines share: a unit's access to memory under R110 and R145, TID entries (R37 to R41), boxes
of elements, the LFSR (R35), and the issue, commitment and trap of commands (R142, R143). -/

namespace Sys2Proof.Machine

/-! ### A unit's accesses -/

/-- What a unit of a command works on: the state, its sequencer, the command. -/
structure Eng where
  s : State
  r : SeqRef
  c : Cmd

/-- A unit's actions: it fails with a cause and its detail, and then nothing of it remains (R143). -/
abbrev EM (α : Type) := StateT Eng (Except (Cause × Word)) α

def fail {α : Type} (c : Cause) (detail : Word := 0) : EM α := throw (c, detail)

def check (ok : Bool) (c : Cause) : EM Unit := if ok then pure () else fail c

def modS (f : State → State) : EM Unit := modify fun e => { e with s := f e.s }

def modC (f : Cmd → Cmd) : EM Unit := modify fun e => { e with c := f e.c }

/-- The cluster of the command. -/
def getCl : EM Cluster := do
  let e ← get
  pure (e.s.cluster e.r.die e.r.cl)

def modCl (f : Cluster → Cluster) : EM Unit := modify fun e => { e with s := e.s.modCluster e.r.die e.r.cl f }

def getTeam : EM (Option Team) := do
  let e ← get
  pure (e.s.team? (strandOf e.r))

/-- The entry of a virtual page: kept from the unit that first touched it (R110). -/
def keepPage (vpn : Nat) : EM (BitVec 64) := do
  let e ← get
  match e.c.kept.find? fun k => k.vpn == vpn with
  | some k => pure k.entry
  | none =>
    match tmLookup (e.s.die e.r.die).goodTm (e.s.ctxOf (strandOf e.r)) vpn with
    | none => fail .xlateMiss (BitVec.ofNat 64 vpn)
    | some w =>
      set { e with c := { e.c with kept := ⟨vpn, w⟩ :: e.c.kept } }
      pure w

/-- SRAM_UNCORR where an uncorrectable word is read (R103). -/
def eccRead (pa n : Nat) : EM Unit := do
  let e ← get
  match e.s.badAt pa n with
  | some w => fail .sramUncorr (BitVec.ofNat 64 w)
  | none => modS fun s => s.corrected pa n

/-- Bytes of the slab read by physical address, through the line cache (R114, R154); `whole` a part of a block that lies in
several lines, which a read takes from one moment (R293). -/
def readPhys (pa : Int) (n : Nat) (whole : Bool := false) : EM (List Byte) := do
  check (decide (0 ≤ pa) && decide (pa.toNat + n ≤ slabSize)) .addrRange
  eccRead pa.toNat n
  let e ← get
  let (s, bs) := (if whole then e.s.dropLines e.r.die pa.toNat n else e.s).readSlab e.r.die e.c.since pa.toNat n
  set { e with s := s }
  pure bs

def writePhys (pa : Int) (bs : List Byte) : EM Unit := do
  check (decide (0 ≤ pa) && decide (pa.toNat + bs.length ≤ slabSize)) .addrRange
  modify fun e => { e with s := e.s.writeSlab e.r.die pa.toNat bs }

/-- The scratchpad offset in the cluster of `n` bytes of the local window; XLATE_CLASS in the ACC and TID-table parts (R145,
R315). -/
def spadRange (va n : Nat) : EM Nat := do
  match ← getTeam with
  | none => fail .xlateClass
  | some t =>
    match windowPlace t (va - windowBase) with
    | none => fail (if 0x300000 ≤ va - windowBase ∧ va - windowBase < 0x304000 then .xlateClass else .addrRange)
    | some (.spad o) =>
      check (decide (va - windowBase + n ≤ t.spb)) .addrRange
      pure o
    | some _ => fail .xlateClass

/-- SRAM_UNCORR where scratchpad bytes are read that a damaged word holds (R103). -/
def spadCheck (o n : Nat) : EM Unit := do
  let e ← get
  match wordHit (e.s.cluster e.r.die e.r.cl).badSpad o n with
  | some w => fail .sramUncorr (softDetail .spad e.r.die e.r.cl w)
  | none => pure ()

/-- The same for accumulator words. -/
def accCheck (lo n : Nat) : EM Unit := do
  let e ← get
  match pairHit (e.s.cluster e.r.die e.r.cl).badAcc lo n with
  | some w => fail .sramUncorr (softDetail .acc e.r.die e.r.cl w)
  | none => pure ()

/-- The slab address of a byte of a PLAIN page (R107, R110). -/
def plainAt (va : Nat) (k : AccKind) : EM Nat := do
  let w ← keepPage (va / 0x200000)
  match checkPlace k (entryPlace w (va % 0x200000)) with
  | .ok pa => pure pa
  | .error c => fail c

/-- Pages that a run of bytes touches, as pieces (address, bytes), at most `k` of them. -/
def pieces (va n : Nat) : Nat → List (Nat × Nat)
  | 0 => []
  | k + 1 =>
    if n = 0 then []
    else
      let m := min n (0x200000 - va % 0x200000)
      (va, m) :: pieces (va + m) (n - m) k

/-- What an access of `n` bytes at a virtual address touches: pages below the local window, as pieces, and a run within it, which
is not translated (R104, R105). -/
def splitV (va : Int) (n : Nat) : EM (List (Nat × Nat) × Option (Nat × Nat)) := do
  check (decide (0 ≤ va) && decide (va.toNat < 2 ^ 48)) .addrRange
  let a := va.toNat
  let m := min n (windowBase - a)
  pure (pieces a m (m / 0x200000 + 2), if m < n then some (a + m, n - m) else none)

/-- `n` bytes at a virtual address (R104, R105, R145). -/
def readV (va : Int) (n : Nat) (whole : Bool := false) : EM (List Byte) := do
  if n = 0 then pure []
  else
    let (ps, w) ← splitV va n
    let parts ← ps.mapM fun (v, m) => do
      let pa ← plainAt v .read
      readPhys pa m whole
    match w with
    | none => pure parts.flatten
    | some (v, m) =>
      let o ← spadRange v m
      let c ← getCl
      spadCheck o m
      pure (parts.flatten ++ Tbl.readRun 0 c.spad o m)

/-- Bytes written at a virtual address. -/
def writeV (va : Int) (bs : List Byte) : EM Unit := do
  if bs.isEmpty then pure ()
  else
    let (ps, w) ← splitV va bs.length
    ps.forM fun (v, m) => do
      let pa ← plainAt v .write
      writePhys pa ((bs.drop (v - va.toNat)).take m)
    match w with
    | none => pure ()
    | some (v, m) =>
      let o ← spadRange v m
      modCl fun c => c.putSpad o (bs.drop (bs.length - m))

/-- A place that a tensor lies at: a virtual address, or a physical one of the position map (R154). -/
inductive Loc where
  | va (a : Int)
  | pa (a : Int)
deriving DecidableEq, Repr

def Loc.add : Loc → Int → Loc
  | .va a, o => .va (a + o)
  | .pa a, o => .pa (a + o)

def Loc.read (l : Loc) (n : Nat) (whole : Bool := false) : EM (List Byte) :=
  match l with
  | .va a => readV a n whole
  | .pa a => readPhys a n whole

/-- Bytes from the start of its line. -/
def Loc.inLine : Loc → Nat
  | .va a => (a % 256).toNat
  | .pa a => (a % 256).toNat

/-- A place that must lie in the local window (R145). -/
def Loc.local : Loc → EM Unit
  | .va a => do
    check (decide (0 ≤ a) && decide (a.toNat < 2 ^ 48)) .addrRange
    check (decide (windowBase ≤ a.toNat)) .xlateClass
  | .pa _ => pure ()

def Loc.write (l : Loc) (bs : List Byte) : EM Unit :=
  match l with
  | .va a => writeV a bs
  | .pa a => writePhys a bs

/-! ### TID entries (R37 to R41) -/

/-- A TID entry's geometry as a command captures it (R39), its tensor at `loc`. -/
structure Tens where
  fmt : Fmt
  bax : Nat
  ndim : Nat
  app : Bool
  loc : Loc
  dims : List Nat
  strs : List Int
  scale : BitVec 32
deriving DecidableEq, Repr

def tidField (e : BitVec 512) (lo w : Nat) : Nat := (e.toNat >>> lo) % 2 ^ w

def tidDim (e : BitVec 512) (j : Nat) : Nat := tidField e (64 + 32 * j) 32
def tidStr (e : BitVec 512) (j : Nat) : Int := intDecode 32 (tidField e (192 + 32 * j) 32)
def tidNdim (e : BitVec 512) : Nat := tidField e 6 2 + 1

/-- The entry as a tensor; FP32 stands for the reserved code, which no check lets through. -/
def Tens.of (e : BitVec 512) : Tens :=
  { fmt := (Fmt.ofCode (BitVec.ofNat 4 (tidField e 0 4))).getD .fp32
    bax := tidField e 4 2, ndim := tidNdim e, app := e.getLsbD 8, loc := .va (tidField e 16 48)
    dims := (List.range (tidNdim e)).map (tidDim e), strs := (List.range (tidNdim e)).map (tidStr e)
    scale := BitVec.ofNat 32 (tidField e 320 32) }

/-- Whether an entry may be used (R38). -/
def tidValid (e : BitVec 512) : Bool :=
  match Fmt.ofCode (BitVec.ofNat 4 (tidField e 0 4)) with
  | none => false
  | some f =>
    let t := Tens.of e
    let a : Int := f.align
    let sc := fp32 t.scale
    e.getLsbD 9 && t.dims.all (· != 0)
      && (!f.blocked || (decide (t.bax < t.ndim) && t.strs.getD t.bax 0 == 0))
      && decide (tidField e 16 48 % f.align = 0) && t.strs.all (fun x => x % a == 0)
      && sc.isFin && !sc.isZero && !sc.sign

/-- Entry `n` of a team's run; `none` at or beyond NTID (R315). -/
def State.tidEntry (s : State) (r : SeqRef) (n : Nat) : Option (BitVec 512) :=
  (s.team? (strandOf r)).bind fun t =>
    if n < t.ntid then some (Tbl.get 0 (s.cluster r.die r.cl).tid (t.tidBase + n)) else none

/-- An entry that a command may use, or TID_INVALID (R38). -/
def State.useTid (s : State) (r : SeqRef) (n : Nat) : Except Cause (BitVec 512) :=
  match s.tidEntry r n with
  | some e => if tidValid e then .ok e else .error .tidInvalid
  | none => .error .tidInvalid

/-- A change of entry `n` of the command's team. -/
def modTid (n : Nat) (f : BitVec 512 → BitVec 512) : EM Unit := do
  match ← getTeam with
  | none => pure ()
  | some t => modCl fun c =>
      { c with tid := Tbl.set 0 c.tid (t.tidBase + n) (f (Tbl.get 0 c.tid (t.tidBase + n))) }

/-- Bits `[lo + 31 : lo]` replaced. -/
def tidPut (e : BitVec 512) (lo : Nat) (v : BitVec 32) : BitVec 512 :=
  (e &&& ~~~((0xFFFFFFFF#512) <<< lo)) ||| (v.setWidth 512 <<< lo)

/-- A count that stops at its largest value (R41). -/
def tidAdd (e : BitVec 512) (lo n : Nat) : BitVec 512 := tidPut e lo (BitVec.ofNat 32 (min (tidField e lo 32 + n) 0xFFFFFFFF))

def satCount (tid n : Nat) : EM Unit := if n = 0 then pure () else modTid tid fun e => tidAdd e 384 n
def rbCount (tid n : Nat) : EM Unit := if n = 0 then pure () else modTid tid fun e => tidAdd e 416 n

/-- AMAX after an element of value `v` (R40); a −0.0 that a store has left counts as zero, and so a first |v| of zero leaves it
(log entry 88). -/
def amaxUpdate (tid : Nat) (v : ExtNum) : EM Unit :=
  if v.isNaN then pure ()
  else modTid tid fun e =>
    let new := roundFP32 (.det .ru) v.abs
    let old := fp32 (BitVec.ofNat 32 (tidField e 352 32))
    if old.isNaN || old.sign && !old.isZero || old.lt (fp32 new) then tidPut e 352 new else e

/-! ### Elements and blocks of a tensor (R21 to R25, R38) -/

def idxAt (ix : List Nat) (j : Nat) : Nat := ix.getD j 0

def Tens.dim (t : Tens) (j : Nat) : Nat := t.dims.getD j 1
def Tens.str (t : Tens) (j : Nat) : Int := t.strs.getD j 0

/-- Whether an index lies in the tensor (R38); what an index holds above NDIM is ignored, also where `.t` put it there (R147, R157;
log entry 89). -/
def Tens.inside (t : Tens) (ix : List Nat) : Bool := (List.range t.ndim).all fun j => decide (idxAt ix j < t.dim j)

/-- Offset of an index along every dimension but the block axis. -/
def Tens.offset (t : Tens) (ix : List Nat) : Int :=
  (List.range t.ndim).foldl (fun a j => if t.fmt.blocked && j == t.bax then a else a + t.str j * idxAt ix j) 0

/-- Bytes of an MX block's elements. -/
def mxElemBytes (f : Fmt) : Nat := f.elemBits * 4

/-- The pieces (place, bytes) of the block that holds an index: an element, an SX block, or the scale byte and the
elements of an MX block (R21, R25). -/
def Tens.block (t : Tens) (ix : List Nat) : List (Loc × Nat) :=
  let l := t.loc.add (t.offset ix)
  let i := idxAt ix t.bax
  if t.fmt.isSx then [(l.add (i / 16 * t.fmt.groupBytes : Nat), t.fmt.groupBytes)]
  else if t.fmt.isMx then
    let g := l.add (i / 256 * t.fmt.groupBytes : Nat)
    let b := i % 256 / 32
    [(g.add (b : Nat), 1), (g.add (8 + b * mxElemBytes t.fmt : Nat), mxElemBytes t.fmt)]
  else [(l, t.fmt.size)]

/-- Whether the SX block or MX group that holds an index lies in more than one line (R293). -/
def Tens.wide (t : Tens) (ix : List Nat) : Bool :=
  t.fmt.blocked &&
  decide (256 < ((t.loc.add (t.offset ix)).add (idxAt ix t.bax / t.fmt.groupLen * t.fmt.groupBytes : Nat)).inLine + t.fmt.groupBytes)

/-- A block's bytes, its pieces one after another. -/
def readBlock (t : Tens) (ix : List Nat) : EM (List Byte) := do
  let parts ← (t.block ix).mapM fun (l, n) => l.read n (t.wide ix)
  pure parts.flatten

def writeBlock (t : Tens) (ix : List Nat) (bs : List Byte) : EM Unit := do
  match t.block ix with
  | [(l, n)] => l.write (bs.take n)
  | [(l1, n1), (l2, n2)] =>
    l1.write (bs.take n1)
    l2.write ((bs.drop n1).take n2)
  | _ => pure ()

/-- An MX block of bytes in parts. -/
def mxOfBytes (f : Fmt) (bs : List Byte) : MxBlock := ⟨nat bs 0 1, unpackBits f.elemBits 32 (leNat (bs.drop 1))⟩
def MxBlock.bytes (f : Fmt) (b : MxBlock) : List Byte := natBytes 1 b.x ++ natBytes (mxElemBytes f) (packBits f.elemBits b.els)

/-- The value of the element at place `i` of its block's bytes (R22, R24, R25). -/
def blockValue (f : Fmt) (bs : List Byte) (i : Nat) : ExtNum :=
  match f.sxW?, f.mx? with
  | some w, _ => (sxUnpack w (leNat bs)).value (i % 16)
  | none, some m => let b := mxOfBytes f bs; mxValue m b.x (b.els.getD (i % 32) 0)
  | none, none => f.decode (leNat bs)

/-- The exact value of an element, before any scale. -/
def readElem (t : Tens) (ix : List Nat) : EM ExtNum := do
  let bs ← readBlock t ix
  pure (blockValue t.fmt bs (idxAt ix t.bax))

/-- The values of a block encoded whole (R23, R26): the bytes and the saturation count. -/
def encodeBlock (f : Fmt) (xs : List (ExtNum × Rnd)) : List Byte × Nat :=
  match f.sxW?, f.mx? with
  | some w, _ => let (b, n) := sxEncode w xs; (natBytes f.groupBytes (sxPack w b), n)
  | none, some m => let (b, n) := mxEncode m f.emax xs; (b.bytes f, n)
  | none, none => ([], 0)

/-- A tensor's scale as a number. -/
def scaleNum (b : BitVec 32) : ExtNum := fp32 b

def scaleQ (b : BitVec 32) : Q :=
  match fp32 b with
  | .fin _ q => q
  | _ => ⟨1, 1⟩

/-! ### Boxes (R147) -/

/-- A box register's field `j`, or `d` above NDIM. -/
def boxField (v : Word) (ndim d j : Nat) : Nat := if j < ndim then field v (16 * j) 16 else d

def boxFields (v : Word) (ndim d : Nat) : List Nat := (List.range 4).map (boxField v ndim d)

/-- Box indices (i1, i2, i3) of row `k` (R147). -/
def rowIdx (e : List Nat) (k : Nat) : List Nat :=
  [k % idxAt e 1, k / idxAt e 1 % idxAt e 2, k / idxAt e 1 / idxAt e 2]

def rowsOf (e : List Nat) : Nat := idxAt e 1 * idxAt e 2 * idxAt e 3

def addIdx (a b : List Nat) : List Nat := (a.zip b).map fun (x, y) => x + y

/-- The lowest byte and the byte after the highest that a box of a tensor can touch, whole groups along the block axis
(R146). -/
def Tens.span (t : Tens) (o e : List Nat) : Option (Int × Int) :=
  match t.loc with
  | .pa _ => none
  | .va a =>
    if (List.range t.ndim).any fun j => idxAt e j == 0 then none
    else
      let ext (j : Nat) : Int × Int :=
        if t.fmt.blocked && j == t.bax then
          let g := t.fmt.groupLen
          let b : Int := t.fmt.groupBytes
          (b * (idxAt o j / g : Nat), b * ((idxAt o j + idxAt e j + g - 1) / g - 1 : Nat))
        else
          let x := t.str j * idxAt o j
          let y := t.str j * (idxAt o j + idxAt e j - 1 : Nat)
          (min x y, max x y)
      let lo := (List.range t.ndim).foldl (fun s j => s + (ext j).1) a
      let hi := (List.range t.ndim).foldl (fun s j => s + (ext j).2) a
      some (lo, hi + t.fmt.groupBytes)

/-- Whether two spans meet (R146): the scratchpad and the pages of the context have distinct virtual addresses. -/
def spansMeet : Option (Int × Int) → Option (Int × Int) → Bool
  | some (a, b), some (c, d) => decide (a < d) && decide (c < b)
  | _, _ => false

def runSpan (a : Word) (n : Nat) : Option (Int × Int) := if n = 0 then none else some (a.toNat, a.toNat + n)

/-! ### The LFSR (R35) -/

/-- One step. -/
def lfsrStep (x : BitVec 32) : BitVec 32 := if x.getLsbD 0 then (x >>> 1) ^^^ 0x80200003#32 else x >>> 1

/-- A linear map of 32 bits by the images of the bits, applied. -/
def applyMap (m : List (BitVec 32)) (x : BitVec 32) : BitVec 32 :=
  m.zipIdx.foldl (fun a (c, i) => if x.getLsbD i then a ^^^ c else a) 0

def lfsrMap : List (BitVec 32) := (List.range 32).map fun i => lfsrStep (1#32 <<< i)

/-- `n` steps, by squaring; `k` bounds the bits of `n`. -/
def lfsrPower (m : List (BitVec 32)) (x : BitVec 32) (n : Nat) : Nat → BitVec 32
  | 0 => x
  | k + 1 =>
    if n = 0 then x
    else lfsrPower (m.map (applyMap m)) (if n % 2 = 1 then applyMap m x else x) (n / 2) k

/-- The state after `n` words. -/
def lfsrWords (x : BitVec 32) (n : Nat) : BitVec 32 := lfsrPower lfsrMap x (32 * n) 80

/-- The rounding of element `i` of a command that reserved its words from `x` on (R34, R35). -/
def rndAt (sr : Bool) (rm : RMode) (x : BitVec 32) (i : Nat) : Rnd :=
  if sr then .stoch (lfsrWords x (i + 1)) else .det rm

/-- `n` words reserved by the executing sequencer: the state before them (R35). -/
def State.reserve (s : State) (r : SeqRef) (n : Nat) : State × BitVec 32 :=
  let x := (s.cluster r.die r.cl).lfsr
  (s.modCluster r.die r.cl fun c => { c with lfsr := lfsrWords x n }, x)

/-! ### Commands -/

/-- Room in a sequencer's queue of an engine (R141, R199, R225). -/
def State.engineRoom (r : SeqRef) (e : Engine) (limit : Nat) (s : State) : Option Wait :=
  if ((s.seq r).queue e).length < limit then none else some .room

/-- A command put into its sequencer's queue by the executing instruction: registers, phase and FID as they stand
(R115, R250). -/
def State.enqueue (s : State) (r : SeqRef) (e : Engine) (i : Instr) (h : Hdr) (xd xa xb : Word)
    (tids : List (BitVec 512) := []) (lfsr : BitVec 32 := 0) : State :=
  let c : Cmd :=
    { ins := i, seqNo := s.nextCmd, addr := s.issuePc h, xd := xd, xa := xa, xb := xb, tids := tids, lfsr := lfsr,
      fid := (s.strand (strandOf r)).fid, since := (s.seq r).fresh, no := (s.seq r).no }
  { s with nextCmd := s.nextCmd + 1 }.modSeq r fun q => q.setQueue e (q.queue e ++ [c])

/-- The head of a queue replaced. -/
def State.setHead (s : State) (r : SeqRef) (e : Engine) (c : Cmd) : State :=
  s.modSeq r fun q => q.setQueue e (c :: (q.queue e).drop 1)

/-- The head of a queue completes: it leaves and pushes its token, if its queue has room (R57, R142). -/
def State.completeCmd? (s : State) (r : SeqRef) (e : Engine) (c : Cmd) : State × Bool :=
  (s.modSeq r fun q => q.setQueue e ((q.queue e).drop 1)).pushPost? r (hdrOf c.ins).pq c.addr c.pix

def State.completeCmd (s : State) (r : SeqRef) (e : Engine) (c : Cmd) : State := (s.completeCmd? r e c).1

/-- A command completes with a status word in X[D], and then raises the cause of one, if it is not masked; nothing follows a
push that fails (R8, R71). -/
def State.completeStatus (s : State) (r : SeqRef) (e : Engine) (c : Cmd) (d : Reg) (w : Word) (cause : Option Cause)
    (detail : Word := 0) : State :=
  let (s1, ok) := (s.modSeq r fun q => q.putX d w c.no s.cycles).completeCmd? r e c
  match cause with
  | some k => if !ok || s1.masked (strandOf r) k then s1 else s1.raise r k .d c.addr c.pix detail
  | none => s1

/-- A cause that stops a command at a unit (R143): an uncorrectable word stops the strand asynchronously (R103). -/
def State.unitTrap (s : State) (r : SeqRef) (c : Cmd) (cause : Cause) (detail : Word) : State :=
  if cause = .sramUncorr then s.raise r cause .a 0 0 detail else s.raise r cause .u c.addr c.pix detail

/-- Whether a team takes part in execution: its strand is not stopping or stopped. -/
def State.runs (s : State) (r : SeqRef) : Bool := (s.strand (strandOf r)).stop == .running

/-- One unit of the head of a queue: `units` says how many it has; the body performs unit `pix`, and answers
whether SCALE_OVERFLOW is to be raised behind it (R142, R143, R324). -/
def State.doUnit (s : State) (r : SeqRef) (e : Engine) (units : Cmd → Nat) (step : Cmd → Nat) (body : EM Bool) : State :=
  match (s.seq r).queue e with
  | [] => s
  | c :: _ =>
    if !s.runs r then s
    else if units c ≤ c.pix then s.completeCmd r e c
    else match body.run ⟨s, r, c⟩ with
      | .error (cause, detail) => s.unitTrap r c cause detail
      | .ok (beyond, g) =>
        let c' := { g.c with pix := c.pix + step c }
        let s1 := g.s.setHead r e c'
        let beyond' := beyond && !s1.masked (strandOf r) .scaleOverflow
        if units c' ≤ c'.pix ∧ !beyond' then s1.completeCmd r e c'
        else if beyond' then s1.raise r .scaleOverflow .u c'.addr c'.pix 0
        else s1

/-- Units of the head of a queue performed at one moment, up to the first whose count is a multiple of `per`: those that hold one MX
group among them, which is read and written whole (R293). -/
def State.doUnits (s : State) (r : SeqRef) (e : Engine) (units : Cmd → Nat) (step : Cmd → Nat) (body : EM Bool) (per : Nat) :
    Nat → State
  | 0 => s
  | n + 1 =>
    let s1 := s.doUnit r e units step body
    match (s.seq r).queue e, (s1.seq r).queue e with
    | c :: _, c' :: _ =>
      if c.seqNo = c'.seqNo ∧ c.pix < c'.pix ∧ c'.pix % per ≠ 0 then s1.doUnits r e units step body per n else s1
    | _, _ => s1

end Sys2Proof.Machine
end

