-- ==== Sys2Proof/Machine/Chain.lean ====
section
/-! DEFINITION. The chain: the derailleur and the cadence table, frames and freewheel slots, arrivals and dwell, the
sending of stripes, and TAGB, WTAG, TAGQ and FWD (R72 to R94, R373). -/

namespace Sys2Proof.Machine

/-! ### The derailleur table (R94) -/

def derV (e : BitVec 32) : Bool := e.getLsbD 12
def derOrigin (e : BitVec 32) : Bool := e.getLsbD 11
def derSkip (e : BitVec 32) : Bool := e.getLsbD 10
def derMid (e : BitVec 32) : Nat := (e.extractLsb' 0 5).toNat

/-- An entry; a damaged one counts as invalid (R103). -/
def Chain.entry (c : Chain) (i : Nat) : BitVec 32 := if c.badDerail.contains i then 0 else Tbl.get 0 c.derail i

/-- The index of this package's entry. -/
def Chain.own (c : Chain) : Option Nat := (List.range 32).find? fun i => derV (c.entry i) && derMid (c.entry i) == c.self

/-- The first live entry after index `i` in the order of `steps`, other than this package's. -/
def Chain.seek (c : Chain) (i : Nat) (steps : List Nat) : Option Nat :=
  (steps.map fun k => c.entry ((i + k) % 32)).findSome? fun e =>
    if derV e && !derSkip e && derMid e != c.self then some (derMid e) else none

def Chain.successor (c : Chain) : Option Nat := c.own.bind fun i => c.seek i ((List.range 31).map (· + 1))
def Chain.predecessor (c : Chain) : Option Nat := c.own.bind fun i => c.seek i ((List.range 31).map (31 - ·))

def Chain.isOrigin (c : Chain) : Bool := c.own.any fun i => derOrigin (c.entry i)

/-- Whether a member has a valid entry, and whether it is bypassed. -/
def Chain.knows (c : Chain) (mid : Nat) : Bool := (List.range 32).any fun i => derV (c.entry i) && derMid (c.entry i) == mid
def Chain.skipped (c : Chain) (mid : Nat) : Bool :=
  (List.range 32).any fun i => derV (c.entry i) && derMid (c.entry i) == mid && derSkip (c.entry i)

/-! ### The cadence table (R80, R81) -/

/-- The entry of a tag; the tag of a damaged one is treated as LOST (R103). -/
def State.cadence? (s : State) (tag : BitVec 32) : Option Cadence :=
  (s.chain.cadence.find? fun e => e.valid && e.tag == tag).map fun e =>
    { e with lost := e.lost || s.chain.badTags.contains tag }

def State.modCadence (s : State) (tag : BitVec 32) (f : Cadence → Cadence) : State :=
  s.modChain fun c => { c with cadence := c.cadence.map fun e => if e.valid && e.tag == tag then f e else e }

/-- Bytes of a die's stripe of a segment of `z` MiB (R72). -/
def stripeBytes (z : Nat) : Nat := z * 131072

/-- The TSC at which rotation `n` is expected, and the one at which it departs, in the 64 bits of TSC (R10, R78, R80). -/
def State.expected (s : State) (e : Cadence) (n : Nat) : Nat :=
  (s.chain.rotBase + n * s.chain.trot + e.arroff.toNat) % 2 ^ 64
def State.departs (s : State) (e : Cadence) (n : Nat) : Nat :=
  (s.chain.rotBase + n * s.chain.trot + e.depoff.toNat) % 2 ^ 64

/-- NREG of every valid entry that a launch's pattern matches, changed (R81). -/
def State.register (s : State) (value mask : BitVec 32) (f : BitVec 16 → BitVec 16) : State :=
  s.modChain fun c => { c with cadence := c.cadence.map fun e =>
    if e.valid && e.tag &&& mask == value &&& mask then { e with nreg := f e.nreg } else e }

/-- Whether a launch's `.tag` matches a tag (R92, R229). -/
def State.tagOfLaunch (s : State) (st : StrandRef) (tag : BitVec 32) : Bool :=
  match (s.team? st).bind fun t => s.launch? t.launch with
  | none => false
  | some l =>
    let v := BitVec.ofNat 32 (nat l.hdr 96 4)
    let m := BitVec.ofNat 32 (nat l.hdr 100 4)
    (nat l.hdr 11 1).testBit 5 && tag &&& m == v &&& m

/-- Whether a binding can fire for a strand: its pattern matches some tag that the launch's `.tag` declares (R87). -/
def State.canFire (s : State) (st : StrandRef) (b : Binding) : Bool :=
  match (s.team? st).bind fun t => s.launch? t.launch with
  | none => false
  | some l =>
    let v := BitVec.ofNat 32 (nat l.hdr 96 4)
    let m := BitVec.ofNat 32 (nat l.hdr 100 4)
    (nat l.hdr 11 1).testBit 5 && (b.value ^^^ v) &&& b.mask &&& m == 0

/-- Whether a tag has a valid cadence entry and the launch of a strand a `.tag` that matches it. -/
def State.tagOk (s : State) (st : StrandRef) (tag : BitVec 32) : Bool := (s.cadence? tag).isSome && s.tagOfLaunch st tag

/-! ### Arrivals (R82, R84, R373) -/

/-- Whether a binding is active and matches (R84). -/
def Binding.fits (b : Binding) (tag : BitVec 32) : Bool := b.active && tag &&& b.mask == b.value &&& b.mask

/-- The lowest binding of a strand that can fire and matches a tag (R87, R88). -/
def State.bindingOf (s : State) (st : StrandRef) (tag : BitVec 32) : Option Nat :=
  (List.range 4).find? fun n =>
    let b : Binding := Tbl.get {} (s.strand st).binds n
    b.fits tag && s.canFire st b

/-- A record appended to a strand's arrival queue, or dropped with the overflow noted (R84). -/
def Strand.arrive (t : Strand) (a : Arrival) : Strand :=
  if 32 ≤ t.arrivals.length then { t with arrOvf := true } else { t with arrivals := t.arrivals ++ [a] }

/-- A record to the tagged strands of a die that have a binding for its tag. -/
def State.deliver (s : State) (die : Nat) (a : Arrival) : State :=
  { s with strands := s.strands.map fun (k, t) =>
      (k, if k / 256 = die ∧ t.tagged ∧ (s.bindingOf ⟨k / 256, k / 4 % 64, k % 4⟩ a.tag).isSome then t.arrive a else t) }

/-- The most recent arrival of a tag on a die, stand-ins included (R232, R373). -/
def Die.lastOf (d : Die) (tag : BitVec 32) : Option (BitVec 32 × Nat) :=
  match Tbl.get? d.lastArr tag.toNat, Tbl.get? d.standIn tag.toNat with
  | some a, some b => if a.2 < b.2 then some b else some a
  | some a, none => some a
  | none, b => b

/-- The frame of a die that holds a rotation of a tag. -/
def Die.frameOf (d : Die) (tag rot : BitVec 32) : Option (Nat × Frame) :=
  d.frames.find? fun (_, f) => f.st != .free && f.tag == tag && f.rot == rot

/-- How a rotation of a tag stands on a die (R83, R92, R232). -/
inductive RotState where
  | pending | lost | missed
  | here (arrived : Nat)
  | gone
deriving DecidableEq, Repr

/-- Whether the time at which a rotation is expected has come; a time of 2^63 counts or more ahead has not (R10, R373). -/
def State.expectedPast (s : State) (die : Nat) (e : Cadence) (rot : BitVec 32) : Bool :=
  decide ((s.tsc die + 2 ^ 64 - s.expected e rot.toNat) % 2 ^ 64 < 2 ^ 63)

/-- A rotation is LOST once it has arrived, was discarded, or should have arrived, while its tag is marked LOST (R74, R83, R92,
R373). -/
def State.rotState (s : State) (die : Nat) (tag rot : BitVec 32) : RotState :=
  let d := s.die die
  let e := s.cadence? tag
  let missed := e.any fun e => e.missed && e.missRot == rot
  let lost := e.any (·.lost)
  let due := e.any fun e => e.lost && (e.hdrRot == some rot || s.expectedPast die e rot)
  let stood := (Tbl.get? d.standIn tag.toNat).any fun a => a.1 == rot
  match d.frameOf tag rot with
  | some (_, f) => if lost then .lost else if missed then .missed else .here f.arrived
  | none =>
    match Tbl.get? d.lastArr tag.toNat with
    | some (r, _) =>
      if r = rot then (if lost then .lost else if missed then .missed else .gone)
      else if stood then .lost
      else if missed then .missed
      else if (r - rot).toNat < 2 ^ 31 then .gone
      else if due then .lost
      else .pending
    | none => if stood then .lost else if missed then .missed else if due then .lost else .pending

/-- The status that a record delivers (R85, R373). -/
def State.arrivalStatus (s : State) (a : Arrival) : Nat :=
  match s.cadence? a.tag with
  | none => if a.standIn then 2 else 0
  | some e => if a.standIn || e.lost then 2 else if e.missed && e.missRot == a.rot then 1 else 0

/-! ### Frames and freewheel slots (R75 to R77) -/

/-- The slab address of a frame of a die's ring. -/
def State.frameAddr (s : State) (die i : Nat) : Nat := die * 0x80000000 + s.chain.ringBase + i * s.chain.frameBytes

def State.modFrame (s : State) (die i : Nat) (f : Frame → Frame) : State :=
  s.modDie die fun d => { d with frames := Tbl.put d.frames i (f (Tbl.get {} d.frames i)) }

def Chain.fslot (c : Chain) (n : Nat) : Option FSlot := Tbl.get none c.slots n

def State.modFSlot (s : State) (n : Nat) (f : FSlot → FSlot) : State :=
  s.modChain fun c => { c with slots := Tbl.set none c.slots n ((c.fslot n).map f) }

/-- The freewheel slot of a rotation of a tag. -/
def Chain.slotOf (c : Chain) (tag rot : BitVec 32) : Option Nat :=
  (List.range 8).find? fun n => (c.fslot n).any fun f => f.tag == tag && f.rot == rot

/-- Bytes of a tile image (R91). -/
def tileBytes : Fmt → Nat
  | .sx4 => 2048 | .sx6 => 3072 | .sx9 => 4608
  | .e4m3 => 4096 | .e5m2 => 4096 | .bf16 => 8192
  | .mxf4 => 2176 | .mxf6a => 3200 | .mxf6b => 3200 | .mxf8a => 4224 | .mxf8b => 4224
  | _ => 0

/-- The dies whose stripes hold `n` bytes of a segment of `z` MiB from offset `o` (R72). -/
def stripeDies (z o n : Nat) : List Nat :=
  let w := max (stripeBytes z) 1
  (List.range 8).filter fun d => decide (o < (d + 1) * w) && decide (d * w < o + n)

/-- Whether a landing that is in progress reads a rotation's frame on a die (R77, R92). -/
def State.landingReads (s : State) (die : Nat) (tag rot : BitVec 32) (z : Nat) : Bool :=
  s.seqs.any fun (_, q) => q.landQ.any fun c =>
    match c.ins with
    | .land _ f _ _ _ _ _ cnt =>
      c.begun && low32 c.xa == tag && c.target == some rot
        && (stripeDies z c.xb.toNat ((cnt.toNat + 1) * tileBytes f)).contains die
    | _ => false

/-- Whether a frame of a die is released now (R77). -/
def State.releasable (s : State) (die : Nat) (f : Frame) : Bool :=
  f.st == .sent &&
  match f.slot with
  | none => true
  | some n =>
    ((s.chain.fslot n).all fun k => k.tag != f.tag || k.rot != f.rot || k.expired.contains die)
      && !s.landingReads die f.tag f.rot f.size

/-- The slot of a segment is free once every die's frame of it is (R77); it stays held while some die has neither taken nor
discarded its stripe (log entry 86). -/
def State.freeSlots (s : State) : State :=
  s.modChain fun c => { c with slots := c.slots.filter fun (_, f) =>
    match f with
    | none => false
    | some k => k.dies.length < 8 || (List.range 8).any fun d => ((s.die d).frameOf k.tag k.rot).isSome }

/-- The frames of a die that may be released, released and reported to the predecessor (R77, R79). -/
def State.release (s : State) (die : Nat) : State :=
  let done := ((s.die die).frames.filter fun (_, f) => s.releasable die f).map (·.1)
  if done.isEmpty then s
  else
    let s1 := done.foldl (fun a i => a.modFrame die i fun _ => {}) s
    let s2 := match s1.chain.predecessor with
      | some mid => s1.send (.freefr mid die done.length)
      | none => s1
    s2.freeSlots

/-! ### Sending (R78, R79, R93) -/

/-- A stripe's SEGHDR as this die sends it; the origin numbers the rotation (R73, R74). -/
def State.header (s : State) (die : Nat) (tag rot : BitVec 32) (size : Nat) (flags : BitVec 8) : SegHdr :=
  ⟨BitVec.ofNat 8 die, BitVec.ofNat 8 size, flags, tag, rot, BitVec.ofNat 64 (s.tsc die), true⟩

/-- The first frame from `i` on whose stripe is still to be sent, or that is free to be received into: those sent already, when
some are sent again, are passed over (R78, R97). -/
def Die.nextUnsent (d : Die) (n i : Nat) : Nat → Nat
  | 0 => i
  | k + 1 =>
    let f : Frame := Tbl.get {} d.frames i
    if i ≠ d.nextRecv ∧ (f.st = .free ∨ (f.sending ∧ f.lastSeq.isSome)) then d.nextUnsent n ((i + 1) % max n 1) k else i

/-- The flits of a frame that have been written and not sent go to the successor; at the last one the engine goes on to
the next frame (R78); an uncorrectable word makes the tag LOST (R103). -/
def State.pushStripe (s : State) (die : Nat) : State :=
  let i := (s.die die).nextSend
  let f := Tbl.get {} (s.die die).frames i
  match s.chain.successor with
  | none => s
  | some mid =>
    if !f.sending || f.got ≤ f.sent then s
    else
      let pa := s.frameAddr die i + 512 * f.sent
      let n := 512 * (f.got - f.sent)
      let bs := s.readMem pa n
      let read := if (s.badAt pa n).isSome then s.modCadence f.tag fun e => { e with lost := true } else s.corrected pa n
      let s1 := read.sendBytes (.chain die) mid (windowOf (s.tsc die)) bs
      let last := (s1.link (.chain die) mid).send - 1
      if f.got = f.size * 256 then
        (s1.modFrame die i fun g => { g with sent := f.got, lastSeq := some last }).modDie die fun d =>
          { d with nextSend := d.nextUnsent s.chain.ringFrames ((i + 1) % max s.chain.ringFrames 1) s.chain.ringFrames }
      else s1.modFrame die i fun g => { g with sent := f.got }

/-- STRIPE_SEND_START: the stripe at the head of the die's sending order begins when its first flit, its departure time
and a credit are there; a stripe of FWD ignores the departure time (R78, R93). -/
def execStripeSendStart (die : Nat) (s : State) : Res :=
  let d := s.die die
  let i := d.nextSend
  let f := Tbl.get {} d.frames i
  match s.chain.successor with
  | none => .next s
  | some mid =>
    if d.credits = 0 ∨ (f.sending ∧ f.lastSeq.isNone) then .next s
    else match d.fwd.find? (·.lastSeq.isNone) with
    | some j =>
      let s1 := s.send (.seghdr mid (s.header die j.tag j.rot j.size j.flags))
      let s2 := s1.sendBytes (.chain die) mid (windowOf d.tsc) (s.readMem j.pa (stripeBytes j.size))
      let last := (s2.link (.chain die) mid).send - 1
      .next (s2.modDie die fun d =>
        { d with credits := d.credits - 1, fwd := d.fwd.map fun k => if k = j then { k with lastSeq := some last } else k })
    | none =>
      let due := (s.cadence? f.tag).all fun e => decide (s.departs e f.rot.toNat ≤ d.tsc)
      if f.got = 0 ∨ f.sending ∨ !due then .next s
      else
        let rot := if s.chain.isOrigin then f.rot + 1 else f.rot
        let s1 := s.send (.seghdr mid (s.header die f.tag rot f.size f.flags))
        let s2 := (s1.modFrame die i fun g => { g with sending := true }).modDie die fun d => { d with credits := d.credits - 1 }
        .next (s2.pushStripe die)

/-- FREEFR: one credit for each frame reported (R79). -/
def execFreefr (die count : Nat) (s : State) : Res :=
  .next (s.modDie die fun d => { d with credits := d.credits + count })

/-- The last flit of a chain stripe is acknowledged: its frame is SENT, or its FWD completes with 0 (R77, R93). -/
def State.stripeAcked (s : State) (die : Nat) (seq : BitVec 32) : State :=
  let d := s.die die
  let s1 := d.frames.foldl (fun a (i, f) =>
    if f.sending && f.lastSeq == some seq && f.st != .free then a.modFrame die i fun g => { g with st := .sent } else a) s
  let jobs := d.fwd.filter fun j => j.lastSeq == some seq
  let s2 := jobs.foldl (fun a j => a.modSeqAt (hubKey die) fun q => q.setX j.d 0) s1
  (s2.modDie die fun d => { d with fwd := d.fwd.filter fun j => j.lastSeq != some seq }).release die

/-- ACK: the flit leaves the lane that holds it, also one to which it has moved, or the flits that wait for a lane (R266, R268). -/
def execAck (die lane : Nat) (flit : FlitNo) (s : State) : Res :=
  let l := s.lane die lane
  match l.path die flit.src with
  | none => .next s
  | some p =>
    let mid := s.peer l.ch
    let keep (f : SentFlit) : Bool := f.src != p.die || f.seq != flit.seq
    let s1 := (List.range 8).foldl (fun a d => a.modDie d fun v =>
      { v with lanes := v.lanes.map fun (n, x) =>
          (n, if x.serves p d && a.peer x.ch == mid then { x with unacked := x.unacked.filter keep } else x) }) s
    let s2 := s1.modLink p mid fun k => { k with pending := k.pending.filter keep }
    .next (match p with
      | .data _ => s2
      | .chain d => s2.stripeAcked d flit.seq)

/-! ### Receiving (R74, R76, R77, R82, R97) -/

/-- The lowest free freewheel slot. -/
def Chain.freeSlot (c : Chain) : Option Nat := (List.range 8).find? fun n => (c.fslot n).isNone

/-- A die has taken, or discarded, its stripe of a rotation that holds a slot. -/
def State.noteDie (s : State) (die : Nat) (tag rot : BitVec 32) : State :=
  match s.chain.slotOf tag rot with
  | some n => s.modFSlot n fun f => { f with dies := if f.dies.contains die then f.dies else die :: f.dies }
  | none => s

/-- The flags and the slot of the first SEGHDR of a rotation on the package; whether its arrivals are recorded is settled
(R76, R81). -/
def State.firstHeader (s : State) (die : Nat) (e : Cadence) (rot : BitVec 32) : State :=
  let s1 := s.modCadence e.tag fun e =>
    { e with missed := false, lost := false, reinj := false, hdrRot := some rot, hdrReg := e.nreg != 0 }
  if e.nreg = 0 then s1
  else match s1.chain.freeSlot with
  | some n => s1.modChain fun c => { c with slots := Tbl.set none c.slots n (some ⟨e.tag, rot, false, [], []⟩) }
  | none =>
    (s1.modCadence e.tag fun e => { e with missed := true, missRot := rot }).post die
      { cause := .segmentMissed, detail := 1 }

/-- A stripe whose sender was bypassed before its end and that is not the one that comes next: its frame is free again (R97; log
entry 86). -/
def State.dropStale (s : State) (die : Nat) (hd : SegHdr) : State :=
  match (s.die die).incoming with
  | x :: rest =>
    if x.stale && !(x.hdr.tag == hd.tag && x.hdr.rot == hd.rot) then
      ((if x.drop then s else s.modFrame die (s.die die).nextRecv fun _ => {}).noteDie die x.hdr.tag x.hdr.rot).modDie die
        fun d => { d with incoming := rest }
    else s
  | [] => s

/-- SEGHDR: checked against the cadence entry; the stripe that follows is received, or discarded (R74, R97).  One whose first
sending was cut off by its sender's death is received again into its frame. -/
def execSeghdr (die : Nat) (hd : SegHdr) (s0 : State) : Res :=
  let s := s0.dropStale die hd
  let push (s : State) (drop : Bool) (slot : Option Nat) (reg : Bool) : State :=
    s.modDie die fun d => { d with incoming := d.incoming ++ [{ hdr := hd, slot := slot, drop := drop, reg := reg }] }
  let e := s.cadence? hd.tag
  let good := hd.rsvZero && hd.die.toNat == die && decide (1 ≤ hd.size.toNat) && decide (hd.size.toNat ≤ 64)
    && hd.flags &&& 0xFC == 0 && e.any fun e => e.size == hd.size
  let again := (Tbl.get? (s.die die).lastArr hd.tag.toNat).any fun a => a.1 == hd.rot
  let cut := (s.die die).incoming.head?.any fun x => x.stale && x.hdr.tag == hd.tag && x.hdr.rot == hd.rot
  match e with
  | some e =>
    if good ∧ cut then .next (s.modDie die fun d =>
      { d with incoming := d.incoming.modify 0 fun x => { x with got := 0, stale := false, again := true } })
    else if good ∧ again then .next (push s true none false)
    else
      let first := e.hdrRot != some hd.rot
      if good then
        let s1 := if first then s.firstHeader die e hd.rot else s
        .next (push s1 false (s1.chain.slotOf hd.tag hd.rot) (if first then e.nreg != 0 else e.hdrReg))
      else
        let s1 := s.modCadence hd.tag fun e => { e with lost := true, hdrRot := some hd.rot }
        .next (push ((s1.noteDie die hd.tag hd.rot).post die { cause := .segmentAuth, detail := zext32 hd.tag }) true none false)
  | none => .next (push (s.post die { cause := .segmentAuth, detail := zext32 hd.tag }) true none false)

/-- The arrival of a rotation on a die (R82): the cadence entry, the slot, and the records of R84 unless it passes
(R81, R83). -/
def State.arrival (s : State) (die : Nat) (h : SegHdr) (reg : Bool) : State :=
  let now := s.tsc die
  let s1 := (s.modDie die fun d => { d with lastArr := Tbl.put d.lastArr h.tag.toNat (h.rot, now) }).noteDie die h.tag h.rot
  let s2 := s1.modCadence h.tag fun e =>
    { e with lastRot := h.rot, seen := true, lastTsc := if die = 0 then BitVec.ofNat 64 now else e.lastTsc }
  if reg then s2.deliver die ⟨h.tag, h.rot, BitVec.ofNat 64 now, false⟩ else s2

/-- The digest that this member holds of a segment: that of a manifest it has verified, else one that came another way (R98). -/
def State.digestOf (s : State) (tag : BitVec 32) : List Byte :=
  match Tbl.get? s.mailbox.models (tag.toNat / 2 ^ 24) with
  | some m =>
    if tag.toNat % 2 ^ 24 < m.count then s.readMem (m.manifest + 64 + 64 * (tag.toNat % 2 ^ 24)) 64
    else padTo 64 (Config.segDigest tag.toNat)
  | none => padTo 64 (Config.segDigest tag.toNat)

/-- The audit of a segment that has come with all its stripes: its digest is computed again, and a mismatch is a loss (R98). -/
def State.endAudit (s : State) (die : Nat) (a : Audit) : State :=
  let data := (List.range 8).flatMap fun d => Tbl.get [] a.stripes d
  let s1 := s.modChain fun c => { c with audit := none }
  if padTo 64 (Config.sha3 data) = s.digestOf a.tag then s1
  else (s1.modCadence a.tag fun e => { e with lost := true }).post die { cause := .segmentAuth, detail := zext32 a.tag }

/-- The audits of a member whose cadence entry enables them: of the segments whose SEGHDR carries the flag, at most one in 64
(R98). A stripe has come whole on a die; the first of a segment begins the audit, the last one ends it. -/
def State.auditStripe (s : State) (die : Nat) (h : SegHdr) (pa : Nat) : State :=
  let put (s : State) (a : Audit) : State :=
    let b := { a with stripes := Tbl.put a.stripes die (s.readMem pa (stripeBytes h.size.toNat)) }
    if 8 ≤ b.stripes.length then s.endAudit die b else s.modChain fun c => { c with audit := some b }
  match s.chain.audit with
  | some a =>
    if a.tag = h.tag ∧ a.rot = h.rot then put s a
    else if die = 0 then s.modChain fun c => { c with sinceAudit := c.sinceAudit + 1 } else s
  | none =>
    if !h.flags.getLsbD 0 || !(s.cadence? h.tag).any (·.audit) || decide (s.chain.sinceAudit < 63) then
      if die = 0 then s.modChain fun c => { c with sinceAudit := c.sinceAudit + 1 } else s
    else put (s.modChain fun c => { c with sinceAudit := 0 }) ⟨h.tag, h.rot, []⟩

/-- A payload delivered on a die's chain lanes: written into the frame of the stripe it belongs to (R75, R77), or
discarded (R97). -/
def State.chainFlit (s : State) (die : Nat) (payload : List Byte) : State :=
  let d := s.die die
  match d.incoming with
  | [] => s
  | x :: rest =>
    let total := x.hdr.size.toNat * 256
    let i := d.nextRecv
    let f := Tbl.get {} d.frames i
    let fits := decide (i < s.chain.ringFrames) && decide (stripeBytes x.hdr.size.toNat ≤ s.chain.frameBytes)
      && (x.got != 0 || x.again || f.st == .free)
    let next (s : State) (drop : Bool) : State := s.modDie die fun d =>
      { d with incoming := if x.got + 1 < total then { x with drop := drop, got := x.got + 1 } :: rest else rest }
    if x.drop || !fits then next (if x.drop then s else s.noteDie die x.hdr.tag x.hdr.rot) true
    else
      let s1 := if x.got ≠ 0 ∨ x.again then s else
        (s.modFrame die i fun _ =>
          { st := .fill, tag := x.hdr.tag, rot := x.hdr.rot, size := x.hdr.size.toNat, flags := x.hdr.flags, slot := x.slot,
            arrived := d.tsc }).arrival die x.hdr x.reg
      let s2 := s1.writeMem (s1.frameAddr die i + 512 * x.got) payload
      let full := x.got + 1 = total
      let s3 := s2.modFrame die i fun g => { g with got := max g.got (x.got + 1), st := if full then .full else .fill }
      let s4 := if full then s3.modDie die fun d => { d with nextRecv := (i + 1) % max s.chain.ringFrames 1 } else s3
      (next (if full then s4.auditStripe die x.hdr (s1.frameAddr die i) else s4) false).pushStripe die

/-! ### Dwell and stand-ins (R83, R373) -/

/-- DWELL_EXPIRE: a slot's dwell limit on a die; a miss where no landing has started (R83), and a release (R77). -/
def execDwellExpire (die fslot : Nat) (s : State) : Res :=
  match s.chain.fslot fslot with
  | none => .next s
  | some k =>
    let arr := (Tbl.get? (s.die die).lastArr k.tag.toNat).filter fun a => a.1 == k.rot
    let dwell := ((s.cadence? k.tag).map fun e => e.dwell.toNat).getD 0
    if k.expired.contains die || !(arr.any fun a => decide (a.2 + dwell ≤ s.tsc die)) then .next s
    else
      let s1 := s.modFSlot fslot fun k => { k with expired := die :: k.expired }
      let s2 := if k.started then s1 else s1.modCadence k.tag fun e => { e with missed := true, missRot := k.rot }
      .next (s2.release die)

/-- The rotation of a tag that is expected at one of the counts that TSC has passed in this cycle, and its TSC (R373); a time of
2^63 counts or more ahead has not come. -/
def State.expectedNow (s : State) (e : Cadence) (now span : Nat) : Option (Nat × Nat) :=
  let past := (now + 2 ^ 64 - s.expected e 0) % 2 ^ 64
  if s.chain.trot = 0 ∨ 2 ^ 63 ≤ past ∨ span ≤ past % s.chain.trot then none
  else some (past / s.chain.trot, now - past % s.chain.trot)

/-- LOST_STANDIN: while a tag is LOST, each die queues a record at each arrival that the cadence table expects
(R373). -/
def execLostStandin (tag : BitVec 32) (s : State) : Res :=
  match s.cadence? tag with
  | none => .next s
  | some e =>
    if !e.lost then .next s
    else .next ((List.range 8).foldl (fun a d =>
      match a.expectedNow e (a.tsc d) (a.die d).span with
      | none => a
      | some (n, at_) =>
        let rot := BitVec.ofNat 32 n
        if ((a.die d).lastOf tag).any fun x => x.1 == rot then a
        else (a.modDie d fun v => { v with standIn := Tbl.put v.standIn tag.toNat (rot, at_) }).deliver d
          ⟨tag, rot, BitVec.ofNat 64 at_, true⟩) s)

/-! ### TAGB, WTAG, TAGQ (R86 to R89) -/

/-- TAGB: binding `bd` takes value X[A] and mask X[B] and is active (R87). -/
def execTagb (h : Hdr) (bd : BitVec 2) (a b : Reg) (s : State) : Res :=
  let v := zext32 (low32 (s.X a)) ||| (s.X b <<< 32)
  s.issue (.tagb h bd a b) h { fixed := true } fun t =>
    t.launchOp (.tagb h bd a b) h (.tag bd true) 1 v (s.X a) (s.X b) 0

/-- TAGB.clr: binding `bd` is inactive (R87). -/
def execTagbClr (h : Hdr) (bd : BitVec 2) (s : State) : Res :=
  s.issue (.tagbClr h bd) h { fixed := true } fun t => t.launchOp (.tagbClr h bd) h (.tag bd false) 1 0 0 0 0

/-- The records of a strand from the first that has a binding (R84, R88). -/
def State.pendingArrivals (s : State) (st : StrandRef) : List Arrival :=
  (s.strand st).arrivals.dropWhile fun a => (s.bindingOf st a.tag).isNone

/-- The deadline of a WTAG that issues now, if it has one: none for a timeout of 0xFFFF. -/
def wtagDeadline (now : Nat) (tmo : BitVec 16) : Option Nat := if tmo = 0xFFFF then none else some (now + 64 * tmo.toNat)

/-- WTAG delivers the first record: ARRTAG, ARRROT, ARRTSC, the status word, and a branch to the target of its binding
(R88). -/
def State.wtagTake (s : State) (r : SeqRef) (c : Cmd) (d : Reg) (a : Arrival) (n : Nat) : State :=
  let t := s.strand (strandOf r)
  let w : Word := (zext32 a.tag <<< 32) ||| BitVec.ofNat 64 (n * 16 + (if t.arrOvf then 4 else 0) + s.arrivalStatus a)
  let target := ((s.seq r).getB (BitVec.ofNat 2 n)).target
  let s1 := s.modStrand (strandOf r) fun t =>
    { t with arrTag := a.tag, arrRot := a.rot, arrTsc := a.tsc, arrivals := t.arrivals.drop 1, arrOvf := false }
  (s1.modSeq r fun q => { q with pc := target }).endHold c d w

/-- Whether the binding of the record that comes first is not prepared (R88). -/
def State.wtagUnprepared (s : State) (r : SeqRef) : Bool :=
  (s.pendingArrivals (strandOf r)).head?.any fun a =>
    (s.bindingOf (strandOf r) a.tag).any fun n => !((s.seq r).getB (BitVec.ofNat 2 n)).prep

/-- What a WTAG comes to: records without a binding are removed; the first that has one is delivered, or traps precisely where the
binding is not prepared; with none until the deadline it ends with NONE (R88). -/
def wtagHold (d : Reg) (s : State) (c : Cmd) : Hold :=
  match s.cur with
  | .hub _ => .ends s
  | .seq r =>
    let st := strandOf r
    let s1 := s.modStrand st fun t => { t with arrivals := s.pendingArrivals st }
    match s.pendingArrivals st with
    | [] => if c.head.any fun x => decide (x ≤ s.tsc r.die) then .ends (s1.endHold c d 3) else .stays s1
    | a :: _ =>
      if s.wtagUnprepared r then .ends ((s1.recall r c).raise r .branchUnprepared .i c.addr 0 0)
      else .ends (s1.wtagTake r c d a ((s.bindingOf st a.tag).getD 0))

/-- WTAG (R88). -/
def execWtag (h : Hdr) (d : Reg) (tmo : BitVec 16) (s : State) : Res :=
  match s.cur with
  | .hub _ => s.issue (.wtag h d tmo) h {} .next
  | .seq r =>
    let unbound (s : State) : Bool := (List.range 4).all fun n => !(Tbl.get {} (s.strand (strandOf r)).binds n).active
    s.issue (.wtag h d tmo) h
      { early := fun s => if unbound s then some .tagUnbound else none
        late := fun s => if s.wtagUnprepared r then some .branchUnprepared else none } fun t =>
      let w := wtagDeadline (s.tsc r.die) tmo
      t.holdIn (t.heldCmd (.wtag h d tmo) h 0 0 w) (.arrival w) (wtagHold d)

/-- The value of TAGQ (R89); of a tag that has never arrived the next rotation is number 0 (log entry 50). -/
def State.tagq (s : State) (tag : BitVec 32) (which : BitVec 2) : Word :=
  match s.cadence? tag with
  | none => BitVec.allOnes 64
  | some e =>
    match which.toNat with
    | 0 => BitVec.ofNat 64 (s.expected e (if e.seen then (e.lastRot + 1).toNat else 0))
    | 1 => zext32 e.dwell
    | 2 => BitVec.ofNat 64 (e.lastRot.toNat * 2 ^ 32 + e.size.toNat * 2 ^ 24 + e.flags * 2 ^ 16 + e.nreg.toNat)
    | _ => e.lastTsc

/-- TAGQ: X[D] is written as it issues (R89). -/
def execTagq (h : Hdr) (d a : Reg) (which : BitVec 2) (s : State) : Res :=
  s.issue (.tagq h d a which) h {} fun t =>
    .next ((t.putNow d (s.tagq (low32 (s.X a)) which)).finish h)

/-! ### FWD (R93) -/

/-- A job put ahead of the first stripe of FWD that has not begun. -/
def insertJob (j : FwdJob) : List FwdJob → List FwdJob
  | [] => [j]
  | x :: r => if x.lastSeq.isNone then j :: x :: r else x :: insertJob j r

/-- FWD: a stripe queued at the head of the die's sending order; its status register is written when the last flit is
acknowledged.  An address that is no stripe's place in the slab sends nothing and gives a free status (log entry 6). -/
def execFwd (h : Hdr) (reinj audit : Bool) (d a b : Reg) (size : BitVec 7) (s : State) : Res :=
  let i : Instr := .fwd h reinj audit d a b size
  match s.cur with
  | .seq _ => s.issue i h {} .next
  | .hub die =>
    let pa := (s.X a).toNat
    s.issue i h {} fun t =>
      if pa % 65536 ≠ 0 ∨ slabSize < pa + stripeBytes size.toNat then
        let (u, v) := t.openValue
        .next (u.modMe fun q => q.setX d v)
      else
        let flags := (if audit then 1#8 else 0) ||| (if reinj then 2#8 else 0)
        let job : FwdJob :=
          { pa := pa, tag := low32 (s.X b), rot := (s.X b).extractLsb' 32 32, size := size.toNat, flags := flags, d := d }
        .next (t.modDie die fun v => { v with fwd := insertJob job v.fwd })

end Sys2Proof.Machine
end

