-- ==== Sys2Proof/Machine/Copy.lean ====
section
/-! DEFINITION. The copy engine: CPY, CPYT, GATH, SCAT and CPYX (R141 to R161). -/

namespace Sys2Proof.Machine

/-! ### Units of a box (R151, R157) -/

/-- Blocks along an extent. -/
def blocksOf (e blk : Nat) : Nat := (e + blk - 1) / blk

/-- Units of a box whose rows are taken one by one (`d` = 0), or a block length at a time along dimension `d`. -/
def unitCount (e : List Nat) (d blk : Nat) : Nat :=
  if e.any (· == 0) then 0
  else match d with
    | 0 => rowsOf e
    | 1 => blocksOf (idxAt e 1) blk * idxAt e 2 * idxAt e 3
    | 2 => blocksOf (idxAt e 2) blk * idxAt e 3
    | _ => blocksOf (idxAt e 3) blk

/-- The indices of a block `b` of an extent. -/
def blockRange (e blk b : Nat) : List Nat := (List.range blk).filterMap fun k => if b * blk + k < e then some (b * blk + k) else none

/-- The rows (i1, i2, i3) of unit `u`, ascending. -/
def unitRows (e : List Nat) (d blk u : Nat) : List (List Nat) :=
  match d with
  | 0 => [rowIdx e u]
  | 1 =>
    let nb := blocksOf (idxAt e 1) blk
    (blockRange (idxAt e 1) blk (u % nb)).map fun i1 => [i1, u / nb % idxAt e 2, u / nb / idxAt e 2]
  | 2 =>
    let nb := blocksOf (idxAt e 2) blk
    (blockRange (idxAt e 2) blk (u % nb)).flatMap fun i2 => (List.range (idxAt e 1)).map fun i1 => [i1, i2, u / nb]
  | _ =>
    (blockRange (idxAt e 3) blk u).flatMap fun i3 => (List.range (idxAt e 2)).flatMap fun i2 =>
      (List.range (idxAt e 1)).map fun i1 => [i1, i2, i3]

/-- The elements of rows, ascending. -/
def elemsOf (e : List Nat) (rows : List (List Nat)) : List (List Nat) :=
  rows.flatMap fun r => (List.range (idxAt e 0)).map fun i0 => i0 :: r

/-- Whether an origin and extent along the block axis cover whole blocks or end at the dimension (R151, R157). -/
def wholeBlocks (o e dim blk : Nat) : Bool := o % blk == 0 && (e % blk == 0 || o + e == dim)

/-! ### CPY (R149, R150) -/

/-- A copy command issued: its checks on registers, its checks on memory, and the entries it captures. -/
def State.copyCmd (s : State) (i : Instr) (h : Hdr) (d a b : Reg) (early late : Option Cause) (n : Nat)
    (tids : List (BitVec 512)) : Res :=
  match s.cur with
  | .hub _ => s.issue i h {} .next
  | .seq r =>
    s.issue i h
      { permit := some .mem, early := fun _ => early, room := State.engineRoom r .copy 16, late := fun _ => late } fun t =>
      let (t1, x) := if n = 0 then (t, 0) else t.reserve r n
      .next (t1.enqueue r .copy i h (s.X d) (s.X a) (s.X b) tids x)

def cpyCount (c : Cmd) : Nat := field c.xb 0 32

/-- CPY. -/
def execCpy (h : Hdr) (d a b : Reg) (s : State) : Res :=
  let n := field (s.X b) 0 32
  let overlap := spansMeet (runSpan (s.X d) n) (runSpan (s.X a) n)
  s.copyCmd (.cpy h d a b) h d a b (if overlap then some .regionOverlap else none) none 0 []

/-- A unit of CPY: 256 destination bytes. -/
def cpyUnit : EM Bool := do
  let c := (← get).c
  let o := 256 * c.pix
  let bs ← readV (c.xa.toNat + o : Nat) (min 256 (cpyCount c - o))
  writeV (c.xd.toNat + o : Nat) bs
  pure false

/-! ### CPYT (R151) -/

/-- Source, destination, extents and origins of a box command (R147). -/
structure BoxCmd where
  dst : Tens
  src : Tens
  e : List Nat
  oa : List Nat
  ob : List Nat
deriving DecidableEq, Repr

def boxOf (tids : List (BitVec 512)) (xd xa xb : Word) : BoxCmd :=
  let dst := Tens.of (tids.getD 0 0)
  let src := Tens.of (tids.getD 1 0)
  ⟨dst, src, boxFields xd src.ndim 1, boxFields xa src.ndim 0, boxFields xb src.ndim 0⟩

def BoxCmd.empty (b : BoxCmd) : Bool := b.e.any (· == 0)

def Cmd.box (c : Cmd) : BoxCmd := boxOf c.tids c.xd c.xa c.xb

/-- Both entries of a box command, or TID_INVALID (R38, R147). -/
def State.boxTids (s : State) (r : SeqRef) (tn tm : BitVec 8) : Except Cause (List (BitVec 512)) := do
  let n ← s.useTid r tn.toNat
  let m ← s.useTid r tm.toNat
  if tidNdim n = tidNdim m then pure [n, m] else throw .tidInvalid

/-- CPYT's checks at issue (R146, R151); a box without elements is checked for its blocks, and then does nothing
(R147, log entry 81). -/
def cpytCheck (b : BoxCmd) : Option Cause :=
  let f := b.src.fmt
  let ax := b.src.bax
  if b.dst.fmt ≠ f then some .formatIllegal
  else if f.blocked && !(b.dst.bax == ax
      && wholeBlocks (idxAt b.oa ax) (idxAt b.e ax) (b.src.dim ax) f.blockLen
      && wholeBlocks (idxAt b.ob ax) (idxAt b.e ax) (b.dst.dim ax) f.blockLen) then some .align
  else if b.empty then none
  else if spansMeet (b.dst.span b.ob b.e) (b.src.span b.oa b.e) then some .regionOverlap
  else none

/-- The dimension along which a unit of CPYT takes a block length. -/
def cpytAxis (b : BoxCmd) : Nat := if b.src.fmt.blocked then b.src.bax else 0

def cpytUnits (c : Cmd) : Nat := unitCount c.box.e (cpytAxis c.box) c.box.src.fmt.blockLen

/-- CPYT. -/
def execCpyt (h : Hdr) (tn tm : BitVec 8) (d a b : Reg) (s : State) : Res :=
  match s.cur with
  | .hub _ => s.issue (.cpyt h tn tm d a b) h {} .next
  | .seq r =>
    match s.boxTids r tn tm with
    | .error c => s.copyCmd (.cpyt h tn tm d a b) h d a b none (some c) 0 []
    | .ok ts => s.copyCmd (.cpyt h tn tm d a b) h d a b none (cpytCheck (boxOf ts (s.X d) (s.X a) (s.X b))) 0 ts

/-- The elements of an MX block that lie beyond a tensor: they read as +0.0 and are written as zero (R25). -/
def trimBlock (t : Tens) (ix : List Nat) (bs : List Byte) : List Byte :=
  let left := t.dim t.bax - idxAt ix t.bax / 32 * 32
  if t.fmt.isMx && decide (left < 32) then
    let b := mxOfBytes t.fmt bs
    MxBlock.bytes t.fmt ⟨b.x, b.els.take left ++ List.replicate (32 - left) 0⟩
  else bs

/-- The encoding of an element, or the block that it begins, copied bit for bit (R151, R155). -/
def copyBlock (src : Tens) (ia : List Nat) (dst : Tens) (ib : List Nat) : EM Unit := do
  let bs ← readBlock src ia
  writeBlock dst ib (trimBlock dst ib (trimBlock src ia bs))

/-- A unit of CPYT. -/
def cpytUnit : EM Bool := do
  let c := (← get).c
  let b := c.box
  let ax := cpytAxis b
  let es := elemsOf b.e (unitRows b.e ax b.src.fmt.blockLen c.pix)
  check (es.all fun i => b.src.inside (addIdx b.oa i) && b.dst.inside (addIdx b.ob i)) .tidBounds
  let starts := es.filter fun i => !b.src.fmt.blocked || idxAt i b.src.bax % b.src.fmt.blockLen == 0
  starts.forM fun i => copyBlock b.src (addIdx b.oa i) b.dst (addIdx b.ob i)
  pure false

/-! ### The position map in a command (R113, R154) -/

/-- The slab page of a token, or POSMAP_MISS with its key (R113). -/
def posPage (req token : Nat) : EM Nat := do
  let e ← get
  let ctx := (e.s.ctxOf (strandOf e.r)).toNat
  let d := e.s.die e.r.die
  let tpg := token / 16
  match d.posWay ctx req tpg with
  | some w => pure ((Tbl.get 0 d.pm (posSet ctx req tpg * 4 + w)).extractLsb' 60 28).toNat
  | none => fail .posmapMiss (BitVec.ofNat 64 (req * 65536 + tpg))

/-- The place of an index whose dimension 1 is a token of a request (R154). -/
def posPlace (t : Tens) (req : Nat) (ix : List Nat) : EM (Tens × List Nat) := do
  let page ← posPage req (idxAt ix 1)
  pure ({ t with loc := .pa (page * 64 : Nat) }, ix.set 1 (idxAt ix 1 % 16))

/-- Bits of a position-mode register outside its fields (R152, R160). -/
def posStray (v : Word) : Bool := field v 20 12 != 0 || field v 52 12 != 0

/-! ### GATH and SCAT (R152 to R155) -/

/-- A gather or scatter: the indexed and the packed tensor, which of them is written. -/
structure RowCmd where
  idx : Tens
  pk : Tens
  gath : Bool
  pos : Bool
deriving DecidableEq, Repr

/-- Destination TID first in the command; GATH's source is indexed, SCAT's destination. -/
def rowOf (gath pos : Bool) (tids : List (BitVec 512)) : RowCmd :=
  let dst := Tens.of (tids.getD 0 0)
  let src := Tens.of (tids.getD 1 0)
  if gath then ⟨src, dst, true, pos⟩ else ⟨dst, src, false, pos⟩

/-- Rows of a unit: a page where blocks run along tokens (R154). -/
def RowCmd.step (r : RowCmd) : Nat := if r.pos && r.idx.fmt.blocked && r.idx.bax == 1 then 16 else 1

/-- The checks on registers of GATH and SCAT (R152, R153). -/
def State.rowEarly (s : State) (r : SeqRef) (pos : Bool) (xa : Word) (n : Nat) : Option Cause :=
  if pos then (if posStray xa then some .addrRange else none)
  else if xa.toNat % 4 ≠ 0 then some .align
  else
    let inside := (s.team? (strandOf r)).any fun t =>
      decide (windowBase ≤ xa.toNat) && decide (xa.toNat - windowBase + 4 * n ≤ t.spb)
    if n = 0 || inside then none else some .addrRange

/-- The span of rows `lo` to `lo + n - 1`, `w` elements each. -/
def rowsSpan (t : Tens) (lo n w : Nat) : Option (Int × Int) := t.span [0, lo, 0, 0] [w, n, 1, 1]

/-- The checks on TIDs of GATH and SCAT (R146, R153, R154). -/
def rowLate (r : RowCmd) (xd xa : Word) (n : Nat) : Option Cause :=
  let f := r.idx.fmt
  let row0 := xd.toNat
  let fmtOk := r.pk.fmt == f && decide (r.idx.dim 0 ≤ r.pk.dim 0)
  let axisOk := !f.blocked || (r.idx.bax == 0 && r.pk.bax == 0) || (r.pos && f.isSx && r.idx.bax == 1 && r.pk.bax == 1)
  let pageOk := r.step == 1 || (field xa 32 20 % 16 == 0 && row0 % 16 == 0 && n % 16 == 0)
  if !(fmtOk && axisOk && pageOk) then some .formatIllegal
  else if r.pos || n = 0 then none
  else
    let pk := rowsSpan r.pk row0 n (r.idx.dim 0)
    let ix := rowsSpan r.idx 0 (r.idx.dim 1) (r.idx.dim 0)
    let arr := runSpan xa (4 * n)
    let meet := if r.gath then spansMeet pk ix || spansMeet pk arr else spansMeet ix pk || spansMeet ix arr
    if meet then some .regionOverlap else none

/-- GATH and SCAT at issue. -/
def State.rowsCmd (s : State) (i : Instr) (h : Hdr) (gath pos : Bool) (tn tm : BitVec 8) (d a b : Reg) : Res :=
  match s.cur with
  | .hub _ => s.issue i h {} .next
  | .seq r =>
    let n := field (s.X b) 0 32
    let early := s.rowEarly r pos (s.X a) n
    match s.useTid r tn.toNat, s.useTid r tm.toNat with
    | .ok x, .ok y => s.copyCmd i h d a b early (rowLate (rowOf gath pos [x, y]) (s.X d) (s.X a) n) 0 [x, y]
    | _, _ => s.copyCmd i h d a b early (some .tidInvalid) 0 []

/-- GATH. -/
def execGath (h : Hdr) (pos : Bool) (tn tm : BitVec 8) (d a b : Reg) (s : State) : Res :=
  s.rowsCmd (.gath h pos tn tm d a b) h true pos tn tm d a b

/-- SCAT. -/
def execScat (h : Hdr) (pos : Bool) (tn tm : BitVec 8) (d a b : Reg) (s : State) : Res :=
  s.rowsCmd (.scat h pos tn tm d a b) h false pos tn tm d a b

/-- Row `k` of the indexed tensor, as a tensor and the index of its first element (R153, R154). -/
def indexedRow (r : RowCmd) (c : Cmd) (k : Nat) : EM (Tens × List Nat) := do
  if r.pos then
    let t := field c.xa 32 20 + k
    check (decide (t ≤ 1048575) && decide (t < r.idx.dim 1)) .tidBounds
    posPlace r.idx (field c.xa 0 20) [0, t, 0, 0]
  else
    let bs ← readV (c.xa.toNat + 4 * k : Nat) 4
    let i := intDecode 32 (leNat bs)
    check (decide (0 ≤ i) && decide (i.toNat < r.idx.dim 1)) .tidBounds
    pure (r.idx, [0, i.toNat, 0, 0])

/-- A unit of GATH or SCAT: one row, or the 16 rows of a page; GATH writes into the scratchpad alone (R145). -/
def rowUnit (gath pos : Bool) : EM Bool := do
  let c := (← get).c
  let r := rowOf gath pos c.tids
  let k := c.pix
  let row := c.xd.toNat + k
  check (decide (row + r.step ≤ r.pk.dim 1)) .tidBounds
  if r.step = 16 then
    let t := field c.xa 32 20 + k
    check (decide (t + 15 ≤ 1048575) && decide (t + 15 < r.idx.dim 1)) .tidBounds
  let (it, ix) ← indexedRow r c k
  let len := if r.step = 16 || !r.idx.fmt.blocked then 1 else r.idx.fmt.blockLen
  ((List.range (r.idx.dim 0)).filter fun i => i % len == 0).forM fun i0 =>
    let p := [i0, row, 0, 0]
    let q := ix.set 0 i0
    if gath then do
      (r.pk.block p).forM fun x => x.1.local
      copyBlock it q r.pk p
    else copyBlock r.pk p it q
  pure false

/-! ### CPYX (R156 to R161) -/

/-- A CPYX: its box and its modifiers. -/
structure XCmd where
  box : BoxCmd
  sr : Bool
  sat : Bool
  rm : RMode
  pos : Bool
  app : Bool
  tr : Bool
deriving DecidableEq, Repr

/-- Destination index of a source index (R157). -/
def XCmd.swap (x : XCmd) (i : List Nat) : List Nat :=
  if x.tr then [idxAt i 1, idxAt i 0, idxAt i 2, idxAt i 3] else i

/-- The source dimension that the destination's block axis receives. -/
def XCmd.axis (x : XCmd) : Nat :=
  let b := x.box.dst.bax
  if x.tr then (if b = 0 then 1 else if b = 1 then 0 else b) else b

/-- The destination origin: with `.pos`, the first token along dimension 1 (R160). -/
def XCmd.origin (x : XCmd) (xb : Word) : List Nat := if x.pos then [0, field xb 32 20, 0, 0] else x.box.ob

/-- The dimension along which a unit takes a block length (R157). -/
def XCmd.unitAxis (x : XCmd) : Nat := if x.app || !x.box.dst.fmt.blocked then 0 else x.axis

def xOf (sr sat : Bool) (rm : RMode) (pos app tr : Bool) (tids : List (BitVec 512)) (xd xa xb : Word) : XCmd :=
  ⟨boxOf tids xd xa xb, sr, sat, rm, pos, app, tr⟩

def XCmd.units (x : XCmd) : Nat := unitCount x.box.e x.unitAxis x.box.dst.fmt.blockLen

/-- CPYX's checks at issue on its TIDs (R146, R157, R159, R160); a box without elements is checked for its blocks,
and then does nothing (R147, log entry 81). -/
def xCheck (x : XCmd) (xb : Word) : Option Cause :=
  let f := x.box.dst.fmt
  let ax := x.box.dst.bax
  let o := x.origin xb
  let je := x.swap x.box.e
  if x.pos ∧ x.box.dst.ndim ≠ 2 then some .tidInvalid
  else if x.app && !(f.blocked && x.axis == 1) then some .formatIllegal
  else if x.pos && f.isMx && ax == 1 then some .formatIllegal
  else if f.blocked && !x.app && !wholeBlocks (idxAt o ax) (idxAt je ax) (x.box.dst.dim ax) f.blockLen then some .align
  else if x.box.empty then none
  else if !x.pos && spansMeet (x.box.dst.span o je) (x.box.src.span x.box.oa x.box.e) then some .regionOverlap
  else none

/-- CPYX. -/
def execCpyx (h : Hdr) (sr sat : Bool) (rm : RMode) (pos app tr : Bool) (tn tm : BitVec 8) (d a b : Reg) (s : State) :
    Res :=
  let i : Instr := .cpyx h sr sat rm pos app tr tn tm d a b
  match s.cur with
  | .hub _ => s.issue i h {} .next
  | .seq r =>
    let early := if pos && posStray (s.X b) then some Cause.addrRange else none
    match s.boxTids r tn tm with
    | .error c => s.copyCmd i h d a b early (some c) 0 []
    | .ok ts =>
      let x := xOf sr sat rm pos app tr ts (s.X d) (s.X a) (s.X b)
      let n := if sr then x.box.e.foldl (· * ·) 1 else 0
      s.copyCmd i h d a b early (xCheck x (s.X b)) n ts

/-- Where a destination index of CPYX lies. -/
def XCmd.place (x : XCmd) (xb : Word) (j : List Nat) : EM (Tens × List Nat) :=
  if x.pos then posPlace x.box.dst (field xb 0 20) j else pure (x.box.dst, j)

/-- A value written into an element of a format without blocks (R36). -/
def writeElem (t : Tens) (tid : Nat) (ix : List Nat) (sat : Bool) (y : ExtNum × Rnd) : EM Unit := do
  let enc := t.fmt.encode y.2 sat y.1
  writeBlock t ix (natBytes t.fmt.size enc.bits)
  if enc.clamp then satCount tid 1

/-- The index of the first element of an index's block. -/
def blockStart (t : Tens) (ix : List Nat) : List Nat :=
  ix.set t.bax (idxAt ix t.bax / t.fmt.blockLen * t.fmt.blockLen)

/-- The values that a block encodes, element by element; what the unit does not give counts as +0.0 (R23). -/
def blockFill (t : Tens) (key : List Nat) (ys : List (List Nat × ExtNum × Rnd)) : List (ExtNum × Rnd) :=
  (List.range t.fmt.blockLen).map fun k =>
    match ys.find? fun y => y.1 == key.set t.bax (idxAt key t.bax + k) with
    | some y => y.2
    | none => (.zero, .det .rne)

/-- One value appended to its block (R42, R159); the answer says whether SCALE_OVERFLOW is raised. -/
def appendElem (t : Tens) (tid token : Nat) (ix : List Nat) (y : ExtNum × Rnd) : EM Bool := do
  let blk := t.fmt.blockLen
  let p := token % blk
  if p = 0 then
    let (bs, n) := encodeBlock t.fmt (y :: List.replicate (blk - 1) (.zero, .det .rne))
    writeBlock t ix bs
    satCount tid n
    pure false
  else
    let bs ← readBlock t ix
    match t.fmt.sxW?, t.fmt.mx? with
    | some w, _ =>
      let a := sxAppend w (leNat bs) p y.1 y.2 t.app
      writeBlock t ix (natBytes t.fmt.groupBytes a.blk)
      satCount tid a.sat
      rbCount tid a.rebase
      pure a.beyond
    | none, some m =>
      let (b, a) := mxAppend m (mxOfBytes t.fmt bs) p y.1 y.2 t.app
      writeBlock t ix (b.bytes t.fmt)
      satCount tid a.sat
      rbCount tid a.rebase
      pure a.beyond
    | none, none => pure false

/-- A unit of CPYX (R158). -/
def cpyxUnit (sr sat : Bool) (rm : RMode) (pos app tr : Bool) (tn : Nat) : EM Bool := do
  let c := (← get).c
  let x := xOf sr sat rm pos app tr c.tids c.xd c.xa c.xb
  let e := x.box.e
  let dst := x.box.dst
  let o := x.origin c.xb
  let es := elemsOf e (unitRows e x.unitAxis dst.fmt.blockLen c.pix)
  let jOf (i : List Nat) : List Nat := addIdx o (x.swap i)
  check (es.all fun i => x.box.src.inside (addIdx x.box.oa i) && dst.inside (jOf i)
    && (!pos || decide (idxAt (jOf i) 1 ≤ 1048575))) .tidBounds
  let ys ← es.mapM fun i => do
    let v := (← readElem x.box.src (addIdx x.box.oa i)).mul (scaleNum x.box.src.scale)
    amaxUpdate tn v
    let lin := idxAt i 0 + idxAt e 0 * (idxAt i 1 + idxAt e 1 * (idxAt i 2 + idxAt e 2 * idxAt i 3))
    pure (jOf i, v.divScale (scaleQ dst.scale), rndAt sr rm c.lfsr lin)
  if !dst.fmt.blocked then
    ys.forM fun y => do
      let (t, ix) ← x.place c.xb y.1
      writeElem t tn ix sat y.2
    pure false
  else if !app then
    ((ys.map fun y => blockStart dst y.1).eraseDups).forM fun key => do
      let (bs, n) := encodeBlock dst.fmt (blockFill dst key ys)
      let (t, ix) ← x.place c.xb key
      writeBlock t ix bs
      satCount tn n
    pure false
  else
    ys.foldlM (fun past y => do
      let (t, ix) ← x.place c.xb y.1
      let v ← appendElem t tn (idxAt y.1 dst.bax) ix y.2
      pure (past || v)) false

/-! ### COPY_UNIT -/

/-- Units of a copy command, in counts of PIX (R142). -/
def copyUnits (c : Cmd) : Nat :=
  match c.ins with
  | .cpy .. => (cpyCount c + 255) / 256
  | .cpyt .. => cpytUnits c
  | .gath .. => field c.xb 0 32
  | .scat .. => field c.xb 0 32
  | .cpyx _ sr sat rm pos app tr .. => (xOf sr sat rm pos app tr c.tids c.xd c.xa c.xb).units
  | _ => 0

def copyStep (c : Cmd) : Nat :=
  match c.ins with
  | .gath _ pos .. => (rowOf true pos c.tids).step
  | .scat _ pos .. => (rowOf false pos c.tids).step
  | _ => 1

def copyBody (i : Instr) : EM Bool :=
  match i with
  | .cpy .. => cpyUnit
  | .cpyt .. => cpytUnit
  | .gath _ pos .. => rowUnit true pos
  | .scat _ pos .. => rowUnit false pos
  | .cpyx _ sr sat rm pos app tr tn .. => cpyxUnit sr sat rm pos app tr tn.toNat
  | _ => pure false

/-- The units of a copy command that are performed at one moment: those of one run of MX blocks, because a group is read and written
whole (R293). -/
def copyRun (c : Cmd) : Nat :=
  match c.ins with
  | .cpyt .. =>
    let b := c.box
    let d := cpytAxis b
    if b.src.fmt.isMx && d != 0 then blocksOf (idxAt b.e d) b.src.fmt.blockLen else 1
  | .cpyx _ sr sat rm pos app tr .. =>
    let x := xOf sr sat rm pos app tr c.tids c.xd c.xa c.xb
    let f := x.box.dst.fmt
    if f.isMx && x.unitAxis != 0 then blocksOf (idxAt x.box.e x.unitAxis) f.blockLen else 1
  | _ => 1

/-- COPY_UNIT: one unit of the command at the head of a sequencer's copy queue, or the run of units that must be performed as one
(R141, R142, R293); a CPYR is CPYR_ADD's. -/
def execCopyUnit (g : Agent) (s : State) : Res :=
  match g with
  | .hub _ => .next s
  | .seq r =>
    match (s.seq r).copyQ with
    | c :: _ => .next (if c.ins matches .cpyr .. then s
      else s.doUnits r .copy copyUnits copyStep (copyBody c.ins) (copyRun c) (copyRun c))
    | [] => .next s

end Sys2Proof.Machine
end

