-- ==== Sys2Proof/Machine/Matrix.lean ====
section
/-! DEFINITION. The matrix engine with fidelity slicing, and the accumulator (R222 to R236, R245 to R259). -/

namespace Sys2Proof.Machine

/-! ### The accumulator (R226, R233) -/

/-- Words of an accumulator. -/
def accWords : Nat := 131072

/-- AccAdd (R226). -/
def accAdd (a : BitVec 32) (p : ExtNum) (rm : RMode) : BitVec 32 :=
  if (fp32 a).isNaN || p.isNaN then fpNaN
  else if p.isZero then a
  else roundFP32 (.det rm) ((fp32 a).add p)

/-- An overwrite of a word clears its poison. -/
def Cluster.accPut (c : Cluster) (n : Nat) (v : BitVec 32) : Cluster :=
  { c with acc := Tbl.set 0 c.acc n v, poison := Tbl.set false c.poison n false, badAcc := c.badAcc.filter (· != n) }

/-- The result of an add: poison stays. -/
def Cluster.accKeep (c : Cluster) (n : Nat) (v : BitVec 32) : Cluster := { c with acc := Tbl.set 0 c.acc n v }

def Cluster.anyPoison (c : Cluster) (lo n : Nat) : Bool :=
  c.poison.any fun (k, p) => p && decide (lo ≤ k) && decide (k < lo + n)

/-- The check that a span lies in the scratchpad part of the window: XLATE_CLASS below the window or in its other parts,
else ADDR_RANGE (R229). -/
def spadSpan (t : Option Team) : Option (Int × Int) → Option Cause
  | none => none
  | some (lo, hi) =>
    let a : Int := lo - (windowBase : Int)
    if a < 0 then some .xlateClass
    else if (0x200000 ≤ a ∧ a < 0x280000) ∨ (0x300000 ≤ a ∧ a < 0x304000) then some .xlateClass
    else if t.any fun t => decide (hi - (windowBase : Int) ≤ (t.spb : Int)) then none
    else some .addrRange

/-! ### Elements as the engine reads them (R29, R91, R245) -/

/-- An element: its exact value, and its bound exponent. -/
structure MatEl where
  v : ExtNum
  be : Int
deriving DecidableEq, Repr

/-- Largest shift and bits of m of an MX element format (R29). -/
def mxShape (f : Fmt) : Int × Int :=
  match f with
  | .mxf4 => (2, 2)
  | .mxf6a => (2, 4)
  | .mxf6b => (6, 3)
  | .mxf8a => (14, 4)
  | _ => (29, 3)

/-- Element `i` of the bytes of its block. -/
def matEl (f : Fmt) (bs : List Byte) (i : Nat) : MatEl :=
  let be : Int := match f.sxW?, f.mx?, f.mf? with
    | some w, _, _ => (nat bs 0 1 : Int) - 127 + w
    | none, some m, _ => (1 - m.bias - m.mb + ((nat bs 0 1 : Int) - 127)) + (mxShape f).1 + (mxShape f).2
    | none, none, some m =>
      let e := leNat bs % 2 ^ (m.eb + m.mb) / 2 ^ m.mb
      (1 - m.bias - m.mb) + (if e = 0 then 0 else (e : Int) - 1) + m.mb + 1
    | _, _, _ => 0
  ⟨blockValue f bs i, be⟩

/-- The bytes of the block of a tile image that holds element (k, n), and the element's place in it (R91). -/
def tileBlock (f : Fmt) (img : List Byte) (k n : Nat) : List Byte × Nat :=
  if f.isSx then ((img.drop ((n * 4 + k / 16) * f.groupBytes)).take f.groupBytes, k % 16)
  else if f.isMx then
    let b := 2 * n + k / 32
    let g := img.drop (b / 8 * f.groupBytes)
    ((g.drop (b % 8)).take 1 ++ (g.drop (8 + b % 8 * mxElemBytes f)).take (mxElemBytes f), k % 32)
  else ((img.drop ((n * 64 + k) * f.size)).take f.size, 0)

/-- Element (k, n) of a tile. -/
def Tile.el (t : Tile) (k n : Nat) : MatEl :=
  let (bs, i) := tileBlock t.fmt t.img k n
  matEl t.fmt bs i

/-! ### Groups (R31, R245 to R247, R251) -/

/-- What a group gives: its sum, whether it is checked, whether its residues differ. -/
structure GroupRes where
  sum : ExtNum
  checked : Bool
  bad : Bool
deriving DecidableEq, Repr

/-- w_f of R246. -/
def fidWeight : Nat → Int
  | 1 => 12
  | 2 => 8
  | _ => 5

/-- The greatest of the bound exponents of a group's products. -/
def groupBound : List (MatEl × MatEl) → Option Int
  | [] => none
  | (a, b) :: r => some ((groupBound r).elim (a.be + b.be) (max (a.be + b.be)))

/-- The error of the trimmed slices, in units of 2^(t_f - 64), within the bound of R247 (log entry 9). -/
def trimOf (n : Nat) : Int := max (-(2 ^ 69)) (min (2 ^ 69) (Config.trimError n))

/-- One group: the exact sum, and at FID `f` above 0 the output of the trimmed slices (R247).  The residue unit sees an
error `d` × 2^x exactly when 15 does not divide `d`, because 2 has an inverse modulo 15 (R251). -/
def groupOf (f n : Nat) (els : List (MatEl × MatEl)) : GroupRes :=
  let s := ExtNum.sum (els.map fun (a, b) => a.v.mul b.v)
  if !s.isFin then ⟨s, false, false⟩
  else match f, groupBound els with
    | 0, _ => ⟨s, true, false⟩
    | _, none => ⟨s, true, false⟩
    | f, some e =>
      let d := trimOf n
      let err : ExtNum := .fin (d < 0) ((Q.ofNat d.natAbs).scale2 (e - fidWeight f - 64))
      ⟨s.add err, true, d % 15 != 0⟩

/-! ### MMA and MMAK: fields and checks (R224, R227 to R229) -/

/-- The fields of an MMA or MMAK. -/
structure MmCmd where
  keyed : Bool
  lst : Bool
  zr : Bool
  rm : RMode
  kt : Nat
  nt : Nat
  slot : Nat
  mac0 : Nat
  off : Nat
  d : Reg
deriving DecidableEq, Repr, Inhabited

def mmOf : Instr → Option MmCmd
  | .mma _ lst zr rm _ _ _ _ l =>
    some ⟨false, lst, zr, rm, l.ktm1.toNat + 1, l.ntm1.toNat + 1, l.slot.toNat, l.mac0.toNat, 0, 0⟩
  | .mmak _ lst zr rm _ _ d _ _ l off =>
    some ⟨true, lst, zr, rm, l.ktm1.toNat + 1, l.ntm1.toNat + 1, l.slot.toNat, l.mac0.toNat, off.toNat, d⟩
  | _ => none

/-- Rows, first word, and the row or list that a command names (R227). -/
def mmRows (xb : Word) : Nat := field xb 0 16
def mmAcc0 (xb : Word) : Nat := field xb 16 17

/-- The tile slots of a command, k-tile by k-tile within n-tile by n-tile (R224). -/
def MmCmd.keys (m : MmCmd) : List Nat :=
  (List.range m.nt).flatMap fun j => (List.range m.kt).map fun i => (m.mac0 + i + m.kt * j) * 8 + m.slot

/-- The tile slots that a command reads: a BF16 tile fills two (R222). -/
def MmCmd.used (m : MmCmd) (f : Fmt) : List Nat :=
  if f = .bf16 then m.keys.flatMap fun k => [k, k + 1] else m.keys

def Cluster.tile (c : Cluster) (k : Nat) : Tile := Tbl.get {} c.tiles k

/-- Formats of the matrix engine (R30). -/
def matrixOk (f : Fmt) : Bool := f == .bf16 || f == .e4m3 || f == .e5m2 || f.blocked

/-- The span of the A rows of a command without a list. -/
def aSpan (a : Tens) (row0 rows : Nat) : Option (Int × Int) := a.span [0, row0, 0, 0] [a.dim 0, rows, 1, 1]

/-- Checks 2 to 7 of R229 on the entries. -/
def mmTens (t : Option Team) (m : MmCmd) (a b : Tens) (xa xb : Word) : Option Cause :=
  let rows := mmRows xb
  let row0 := field xa 0 32
  let list := field xa 0 21
  if !matrixOk a.fmt || !matrixOk b.fmt || (a.fmt.blocked && a.bax != 0) then some .formatIllegal
  else if 64 * m.kt < a.dim 0 || (!m.lst && decide (a.dim 1 < row0 + rows)) then some .tidBounds
  else
    let place := if m.lst then
        (if t.any fun t => decide (list + 8 * rows ≤ t.spb) then none else some .addrRange)
      else (spadSpan t (a.span [0, 0, 0, 0] [1, 1, 1, 1])).orElse fun _ => spadSpan t (aSpan a row0 rows)
    place.orElse fun _ =>
      if (m.lst && list % 8 != 0) || (!m.lst && mmAcc0 xb % 64 != 0) then some .align
      else if !m.lst && decide (accWords < mmAcc0 xb + rows * 64 * m.nt) then some .addrRange
      else none

/-- The checks of R229 that read memory: the entries, then the tile slots or the tag. -/
def State.mmCheck (s : State) (r : SeqRef) (m : MmCmd) (tA tB : BitVec 8) (tag : BitVec 32) (xa xb : Word) :
    Except Cause (List (BitVec 512)) := do
  let odd := (s.tidEntry r tB.toNat).any fun e => (Tens.of e).fmt == .bf16 && m.slot % 2 == 1
  if odd then throw .operandReserved
  let a ← s.useTid r tA.toNat
  let b ← s.useTid r tB.toNat
  match mmTens (s.team? (strandOf r)) m (Tens.of a) (Tens.of b) xa xb with
  | some c => throw c
  | none =>
    let tiles := m.keys.map (s.cluster r.die r.cl).tile
    if m.keyed then (if s.tagOk (strandOf r) tag then pure [a, b] else throw .landSlot)
    else if !tiles.all (·.v) then throw .landSlot
    else if !tiles.all (·.fmt == (Tens.of b).fmt) then throw .formatIllegal
    else pure [a, b]

/-- MMA and MMAK at issue.  WQ of an MMAK is not popped here (R227). -/
def State.mmCmd (s : State) (i : Instr) (h : Hdr) (m : MmCmd) (tA tB : BitVec 8) (d a b : Reg) : Res :=
  match s.cur with
  | .hub _ => s.issue i h {} .next
  | .seq r =>
    let none? := mmRows (s.X b) == 0
    let tids := if none? then .ok [] else s.mmCheck r m tA tB (low32 (s.X d)) (s.X a) (s.X b)
    let unbound := m.keyed && h.wq.any fun q => !s.isConsumer r q
    let macs := !none? && decide (64 < m.mac0 + m.kt * m.nt)
    s.issue i (if m.keyed then { h with wq := none } else h)
      { permit := some .mat
        early := fun _ => if unbound || macs then some .operandReserved else none
        room := State.engineRoom r .matrix 8
        late := fun _ => errorOf tids } fun t =>
      .next (t.enqueue r .matrix i h (s.X d) (s.X a) (s.X b) (tids.toOption.getD []))

/-- MMA (R227). -/
def execMma (h : Hdr) (lst zr : Bool) (rm : RMode) (tA tB : BitVec 8) (a b : Reg) (ml : MmaLit) (s : State) : Res :=
  let i : Instr := .mma h lst zr rm tA tB a b ml
  s.mmCmd i h ((mmOf i).getD default) tA tB 0 a b

/-- MMAK (R227). -/
def execMmak (h : Hdr) (lst zr : Bool) (rm : RMode) (tA tB : BitVec 8) (d a b : Reg) (ml : MmaLit) (off : BitVec 11)
    (s : State) : Res :=
  let i : Instr := .mmak h lst zr rm tA tB d a b ml off
  s.mmCmd i h ((mmOf i).getD default) tA tB d a b

/-! ### Start of an MMAK (R232) -/

/-- The head of a matrix queue if it is an MMA or MMAK. -/
def State.mmHead (s : State) (r : SeqRef) : Option (Cmd × MmCmd) :=
  match (s.seq r).matQ with
  | [] => none
  | c :: _ => (mmOf c.ins).map fun m => (c, m)

/-- The TSC since which a strand's launch has been resident. -/
def State.residentSince (s : State) (st : StrandRef) : Nat :=
  (((s.team? st).bind fun t => s.launch? t.launch).map (·.since)).getD 0

/-- MMAK_TARGET_CHOICE: at the head of its queue, an MMAK chooses its target rotation. -/
def execMmakTargetChoice (g : Agent) (s : State) : Res :=
  match g with
  | .hub _ => .next s
  | .seq r =>
    match s.mmHead r with
    | none => .next s
    | some (c, m) =>
      if !m.keyed || !s.runs r || c.target.isSome || c.begun || mmRows c.xb == 0 then .next s
      else
        let now := s.tsc r.die
        let h := c.head.getD now
        let last := ((s.die r.die).lastOf (low32 c.xd)).filter fun a => decide (s.residentSince (strandOf r) ≤ a.2)
        let target := last.map fun a =>
          if c.head.isSome then a.1 else if h ≤ a.2 + 16 * m.off then a.1 else a.1 + 1
        .next (s.setHead r .matrix { c with head := some h, target := target })

/-- An MMAK completes with a status, and raises the cause of one that is unmasked (R232). -/
def State.mmakEnd (s : State) (r : SeqRef) (c : Cmd) (m : MmCmd) (status : Nat) (cause : Option Cause) : State :=
  let w : Word := if mmRows c.xb = 0 then 0 else (zext32 (c.target.getD 0) <<< 32) ||| BitVec.ofNat 64 status
  s.completeStatus r .matrix c m.d w cause

/-- The arrival TSC of a rotation of a tag on a die. -/
def Die.arrivedAt (d : Die) (tag rot : BitVec 32) : Option Nat :=
  match d.frameOf tag rot with
  | some (_, f) => some f.arrived
  | none => ((Tbl.get? d.lastArr tag.toNat).filter fun a => a.1 == rot).map (·.2)

/-- MMAK_START_TIME: at its start time an MMAK pops WQ and begins, or completes with SCHEDULE_MISS; before it, with
LOST or MISSED (R232). -/
def execMmakStartTime (g : Agent) (s : State) : Res :=
  match g with
  | .hub _ => .next s
  | .seq r =>
    match s.mmHead r with
    | none => .next s
    | some (c, m) =>
      match c.target with
      | none => .next s
      | some rot =>
        if !m.keyed || c.begun || !s.runs r then .next s
        else
          let tag := low32 c.xd
          match s.rotState r.die tag rot with
          | .lost => .next (s.mmakEnd r c m 2 none)
          | .missed => .next (s.mmakEnd r c m 1 (some .segmentMissed))
          | .pending => .next s
          | _ =>
            if s.tsc r.die < (((s.die r.die).arrivedAt tag rot).getD 0) + 16 * m.off then .next s
            else match (hdrOf c.ins).wq with
            | some q =>
              if (s.strand (strandOf r)).free q = 0 then .next (s.mmakEnd r c m 3 (some .scheduleMiss))
              else .next ((s.popQ r q 1).setHead r .matrix { c with begun := true })
            | none => .next (s.setHead r .matrix { c with begun := true })

/-! ### Fidelity (R249 to R256) -/

/-- The island of a cluster (R347), as its key. -/
def islandOf (die cl : Nat) : Nat := die * 3 + cl / 18

def State.island (s : State) (k : Nat) : Island := Tbl.get {} s.islands k

/-- FIDRATE: the rates of the cluster, and VTRIM of its island, which lies within 400 to 750 mV (R248; log entry 8). -/
def fidRate (die cl : Nat) : Word :=
  (Config.fidRate (clKey die cl)).setWidth 64 <<< 16 ||| BitVec.ofNat 64 (400 + Config.vtrim (islandOf die cl) % 351)

/-- One checked group of a unit: output, group, whether the residues differed. -/
structure Checked where
  n : Nat
  g : Nat
  bad : Bool
deriving DecidableEq, Repr

/-- What `switching` counts down from: the slices stand on their rails 12 cycles behind the cycle in which it is set (R249). -/
def railCycles : Nat := 13

/-- The detail of FID_MCHECK and FID_RAISE (R255). -/
def fidDetail (unit g word fid : Nat) (inj action : Bool) (wcnt : Nat) : Word :=
  BitVec.ofNat 64 (unit % 2 ^ 24 * 2 ^ 40 + g % 256 * 2 ^ 32 + word % 2 ^ 17 * 2 ^ 15 + fid * 2 ^ 13
    + (if inj then 2 ^ 12 else 0) + (if action then 2 ^ 11 else 0) + min wcnt 0x7FF)

/-- A mismatch: counted, then poison, a record, or a raise (R252, R253). -/
def State.mismatch (s : State) (r : SeqRef) (unit aw fid : Nat) (k : Checked) (inj : Bool) : State :=
  let c := s.cluster r.die r.cl
  let wcnt := min (c.wcnt.toNat + 1) 0xFFFF
  let c1 := { c with fidErr := BitVec.ofNat 32 (min (c.fidErr.toNat + 1) 0xFFFFFFFF), wcnt := BitVec.ofNat 16 wcnt }
  let rec_ (cause : Cause) (action : Bool) : EvRec :=
    { cause := cause, cl := some r.cl, slot := some r.slot, launch := (s.strand (strandOf r)).launchId,
      detail := fidDetail unit k.g (aw + k.n) fid inj action wcnt }
  if fid = 0 then
    (s.setCluster r.die r.cl { c1 with poison := Tbl.set false c1.poison (aw + k.n) true }).post r.die (rec_ .fidMcheck false)
  else if c.fidThr.toNat < wcnt then
    (s.setCluster r.die r.cl { c1 with raised := true, lastFid := 0, switching := railCycles, railFor := none }).post r.die (rec_ .fidRaise true)
  else if c1.fidRecords < 64 then
    (s.setCluster r.die r.cl { c1 with fidRecords := c1.fidRecords + 1 }).post r.die (rec_ .fidRaise false)
  else s.setCluster r.die r.cl c1

/-- The residue checks of a unit, in ascending output and group, with an injection that is armed (R251, R252, R256); a group in
which a mismatch is forced and that is in error too counts for both, the forced one first (R370; log entry 91). -/
def State.residues (s : State) (r : SeqRef) (unit aw fid : Nat) (ks : List Checked) : State :=
  ks.foldl (fun a k =>
    let c := a.cluster r.die r.cl
    let armed := c.finj.getLsbD 31
    let fire := armed && c.finjLeft == 0
    let c1 := { c with
      fidChk := if c.fidChk = BitVec.allOnes 48 then c.fidChk else c.fidChk + 1
      finj := if fire then c.finj &&& 0x7FFFFFFF#32 else c.finj
      finjLeft := if armed then c.finjLeft - 1 else c.finjLeft }
    let a1 := a.setCluster r.die r.cl c1
    let a2 := if fire then a1.mismatch r unit aw fid k true else a1
    if k.bad then a2.mismatch r unit aw fid k false else a2) s

/-! ### A unit of MMA or MMAK (R230, R231) -/

/-- What one output of a unit gives. -/
structure OutRes where
  bits : BitVec 32
  checks : List Checked
  cause : Option Cause
deriving DecidableEq, Repr

/-- The groups of output `n`: pairs of 16 consecutive k. -/
def groupEls (as : List MatEl) (bs : List MatEl) (g : Nat) : List (MatEl × MatEl) :=
  ((as.drop (16 * g)).take 16).zip ((bs.drop (16 * g)).take 16)

/-- One output: AccAdd of each group in ascending k (R230), with its FP cause. -/
def outputOf (m : MmCmd) (f base : Nat) (scale : ExtNum) (as : List MatEl) (n : Nat) (col : List MatEl) (old : BitVec 32) :
    OutRes :=
  let gs := (List.range (4 * m.kt)).map fun g => (g, groupOf f (base + n * 4 * m.kt + g) (groupEls as col g))
  let bits := gs.foldl (fun acc (_, g) => accAdd acc (scale.mul g.sum) m.rm) old
  let vs := (as.map (·.v)) ++ (col.map (·.v)) ++ [fp32 old]
  let x := fp32 bits
  { bits := bits
    checks := gs.filterMap fun (g, r) => if r.checked then some ⟨n, g, r.bad⟩ else none
    cause := if x.isNaN && !vs.any (·.isNaN) then some .fpInvalid
      else if x.isInf && vs.all (·.isFin) then some .fpOverflow else none }

/-- The A row of a unit: a tensor, its row, and the accumulator word of output 0 (R228, R230).  A row of a list is laid
out element after element (log entry 17). -/
def mmRow (m : MmCmd) : EM (Tens × Nat × Nat) := do
  let c := (← get).c
  let a := Tens.of (c.tids.getD 0 0)
  let u := c.pix
  if m.lst then
    let e := leNat (← readV (windowBase + field c.xa 0 21 + 8 * u : Nat) 8)
    let aw := e / 2 ^ 21 % 2 ^ 17
    check (e / 2 ^ 38 == 0 && decide (aw + 64 * m.nt ≤ accWords)) .addrRange
    check (aw % 64 == 0) .align
    let strs : List Int := if a.fmt.blocked then [0, 0] else [(a.fmt.size : Int), 0]
    pure ({ a with loc := .va (windowBase + e % 2 ^ 21 : Nat), strs := strs }, 0, aw)
  else pure (a, field c.xa 0 32 + u, mmAcc0 c.xb + u * 64 * m.nt)

/-- An A element at or beyond DIM0: +0.0 (R230), with the bound exponent of the block that it falls in where the row holds a part of
that block, else that of an encoding of zero bytes (R245; log entry 46). -/
def pastEl (f : Fmt) (dim k : Nat) (lastBlock : List Byte) : MatEl :=
  let same := f.blocked && k / f.blockLen == (dim - 1) / f.blockLen
  ⟨.fin false (Q.ofNat 0), (matEl f (if same then lastBlock else zeros lastBlock.length) k).be⟩

/-- The `n` elements of an A row that meet the tiles (R230). -/
def readRow (t : Tens) (row n : Nat) : EM (List MatEl) := do
  let blocks ← (List.range (t.dim 0)).mapM fun k => readBlock t [k, row, 0, 0]
  pure ((List.range n).map fun k =>
    if k < t.dim 0 then matEl t.fmt (blocks.getD k []) k else pastEl t.fmt (t.dim 0) k (blocks.getLastD []))

/-- The tag and rotation of every tile slot of a command. -/
def tileKeys (m : MmCmd) (c : Cluster) : List (BitVec 32 × BitVec 32) := m.keys.map fun k => ((c.tile k).tag, (c.tile k).rot)

/-- The slots of a unit hold tiles (R222). -/
def checkTiles (m : MmCmd) : EM Unit := do
  let cl ← getCl
  check (m.keys.all fun k => (cl.tile k).v) .landSlot
  modC fun c => { c with recheck := false }

/-- Whether a resumed command finds other tiles in its slots than it had read (R223). -/
def Cmd.tilesGone (c : Cmd) (m : MmCmd) (cl : Cluster) : Bool := c.recheck && !c.tiles.isEmpty && c.tiles != tileKeys m cl

/-- What a command's first reading of its slots records, whatever then becomes of its unit (R223). -/
def Cmd.noteTiles (c : Cmd) (m : MmCmd) (cl : Cluster) : Cmd :=
  if c.tiles.isEmpty && m.keys.all fun k => (cl.tile k).v then { c with tiles := tileKeys m cl } else c

/-- A unit at FID `f`; `exact` where the trim rail is parked (R249). -/
def mmUnit (m : MmCmd) (f : Nat) (exact : Bool) : EM Bool := do
  let e ← get
  let u := e.c.pix
  let (a, row, aw) ← mmRow m
  checkTiles m
  let cl ← getCl
  check (m.zr || !cl.anyPoison aw (64 * m.nt)) .accPoison
  if !m.zr then accCheck aw (64 * m.nt)
  let as ← readRow a row (64 * m.kt)
  let scale := (scaleNum a.scale).mul (scaleNum (Tens.of (e.c.tids.getD 1 0)).scale)
  let outs := (List.range (64 * m.nt)).map fun n =>
    let col := (List.range (64 * m.kt)).map fun k => (cl.tile ((m.mac0 + k / 64 + m.kt * (n / 64)) * 8 + m.slot)).el (k % 64) (n % 64)
    outputOf m (if exact then 0 else f) e.s.free scale as n col (if m.zr then 0 else cl.accWord (aw + n))
  match outs.findSome? fun o => o.cause.filter fun k => !e.s.masked (strandOf e.r) k with
  | some k => fail k
  | none =>
    modCl fun c => outs.zipIdx.foldl (fun c (o, n) => if m.zr then c.accPut (aw + n) o.bits else c.accKeep (aw + n) o.bits) c
    modS fun s => { s with free := s.free + 256 * m.nt * m.kt }
    modS fun s => s.residues e.r u aw f (outs.flatMap (·.checks))
    pure false

/-- Whether every slot of an MMAK holds its tag and target rotation (R232). -/
def MmCmd.landed (m : MmCmd) (cl : Cluster) (tag rot : BitVec 32) : Bool :=
  m.keys.all fun k => (cl.tile k).v && (cl.tile k).tag == tag && (cl.tile k).rot == rot

/-- Whether the tiles of an MMAK have yet to land for its next unit (R232). -/
def Cmd.awaitsTiles (c : Cmd) (m : MmCmd) (cl : Cluster) : Bool := m.keyed && !m.landed cl (low32 c.xd) (c.target.getD 0)

/-- Whether a slot of a cluster has a unit of MMA or MMAK that waits for nothing but its rails. -/
def State.railUnit (s : State) (r : SeqRef) : Bool :=
  match s.mmHead r with
  | some (c, m) =>
    s.runs r && decide (c.pix < mmRows c.xb) && (!m.keyed || c.begun) && !c.awaitsTiles m (s.cluster r.die r.cl)
  | none => false

/-- MMA_UNIT: one A row of the command at the head of a matrix queue, once the tiles of an MMAK have landed (R232) and the rails
stand as its FID asks; the engine waits for the unit for which it has moved them, and moves them for one unit at a time (R225,
R250, R253). -/
def execMmaUnit (g : Agent) (s : State) : Res :=
  match g with
  | .hub _ => .next s
  | .seq r =>
    match s.mmHead r with
    | none => .next s
    | some (c, m) =>
      let cl := s.cluster r.die r.cl
      let rows := mmRows c.xb
      let f := if cl.raised then 0 else c.fid
      let other := cl.railFor.any fun w => w.1 != r.slot && s.railUnit ⟨r.die, r.cl, w.1, .C⟩
      if !s.runs r then .next s
      else if rows ≤ c.pix then .next (if m.keyed then s.mmakEnd r c m 0 none else s.completeCmd r .matrix c)
      else if m.keyed && !c.begun then .next s
      else if c.tilesGone m cl then .next (s.unitTrap r c .landSlot 0)
      else if c.awaitsTiles m cl then
        .next (if (s.chain.slotOf (low32 c.xd) (c.target.getD 0)).isSome then s else s.unitTrap r c .landSlot 0)
      else if cl.switching != 0 || other then .next s
      else if cl.lastFid ≠ f ∧ cl.railFor ≠ some (r.slot, f) then
        .next (s.setCluster r.die r.cl { cl with switching := railCycles, railFor := some (r.slot, f) })
      else
        let s0 := (s.setHead r .matrix (c.noteTiles m cl)).modCluster r.die r.cl fun k => { k with lastFid := f, railFor := none }
        let s1 := s0.doUnit r .matrix (fun _ => rows + 1) (fun _ => 1) (mmUnit m f.toNat (s.island (islandOf r.die r.cl)).parked)
        match s1.mmHead r with
        | some (c1, _) =>
          if s1.runs r && c1.seqNo == c.seqNo && decide (rows ≤ c1.pix) then
            .next (if m.keyed then s1.mmakEnd r c1 m 0 none else s1.completeCmd r .matrix c1)
          else .next s1
        | none => .next s1

/-- FID_RAIL_SWITCH_DONE: the slices stand on their rails and later units may start (R253). -/
def execFidRailSwitchDone (die cl : Nat) (s : State) : Res :=
  .next (s.modCluster die cl fun c => if c.switching ≤ 1 then { c with switching := 0 } else c)

/-! ### ACLR and ADRN (R234 to R236) -/

def aclrFirst (c : Cmd) : Nat := field c.xa 0 17
def aclrCount (c : Cmd) : Nat := field c.xb 0 18

/-- ACLR (R234). -/
def execAclr (h : Hdr) (a b : Reg) (s : State) : Res :=
  match s.cur with
  | .hub _ => s.issue (.aclr h a b) h {} .next
  | .seq r =>
    let beyond := decide (accWords < field (s.X a) 0 17 + field (s.X b) 0 18)
    s.issue (.aclr h a b) h
      { early := fun _ => if beyond then some .addrRange else none, room := State.engineRoom r .matrix 8 } fun t =>
      .next (t.enqueue r .matrix (.aclr h a b) h 0 (s.X a) (s.X b))

def aclrUnit : EM Bool := do
  let c := (← get).c
  let lo := aclrFirst c + 256 * c.pix
  let n := min 256 (aclrCount c - 256 * c.pix)
  modCl fun cl => (List.range n).foldl (fun x k => x.accPut (lo + k) 0) cl
  pure false

/-- The head of a matrix queue. -/
def State.matHead (s : State) (r : SeqRef) : Option Cmd := (s.seq r).matQ.head?

/-- ACLR_UNIT (R234). -/
def execAclrUnit (g : Agent) (s : State) : Res :=
  match g with
  | .hub _ => .next s
  | .seq r =>
    match s.matHead r with
    | some c =>
      .next (if c.ins matches .aclr .. then
        s.doUnit r .matrix (fun c => (aclrCount c + 255) / 256) (fun _ => 1) aclrUnit else s)
    | none => .next s

/-- A drain: destination, extents, origin, first word and pitch, whether it transposes (R235). -/
structure Drain where
  t : Tens
  e0 : Nat
  e1 : Nat
  org : List Nat
  acc0 : Nat
  lda : Nat
  tr : Bool
deriving DecidableEq, Repr

def drainOf (e : BitVec 512) (xd xa xb : Word) (tr : Bool) (lda : BitVec 17) : Drain :=
  let t := Tens.of e
  let e0 := field xb 0 16
  ⟨t, e0, field xb 16 16, boxFields xd t.ndim 0, field xa 0 17, if lda = 0 then e0 else lda.toNat, tr⟩

def Drain.ext (d : Drain) : List Nat := if d.tr then [d.e1, d.e0, 1, 1] else [d.e0, d.e1, 1, 1]

def Drain.empty (d : Drain) : Bool := d.e0 == 0 || d.e1 == 0

/-- Rows of a unit (R236). -/
def Drain.rows (d : Drain) : Nat :=
  if !d.t.fmt.blocked || d.t.bax == (if d.tr then 1 else 0) then 1 else d.t.fmt.blockLen

def Drain.units (d : Drain) : Nat := if d.empty then 0 else (d.e1 + d.rows - 1) / d.rows

/-- The checks of R236. -/
def Drain.check (d : Drain) (t : Option Team) : Option Cause :=
  let b := d.t.bax
  if d.t.ndim < 2 then some .tidInvalid
  else if d.empty then none
  else if (spadSpan t (d.t.span d.org d.ext)).isSome then some .xlateClass
  else if d.t.fmt.blocked && !wholeBlocks (idxAt d.org b) (idxAt d.ext b) (d.t.dim b) d.t.fmt.blockLen then some .align
  else if accWords < d.acc0 + (d.e1 - 1) * d.lda + d.e0 then some .addrRange
  else none

/-- ADRN (R235, R236). -/
def execAdrn (h : Hdr) (sr sat : Bool) (rm : RMode) (clr tr : Bool) (tn : BitVec 8) (d a b : Reg) (lda : BitVec 17)
    (s : State) : Res :=
  let i : Instr := .adrn h sr sat rm clr tr tn d a b lda
  match s.cur with
  | .hub _ => s.issue i h {} .next
  | .seq r =>
    let e := s.useTid r tn.toNat
    let dr := drainOf (e.toOption.getD 0) (s.X d) (s.X a) (s.X b) tr lda
    s.issue i h
      { room := State.engineRoom r .matrix 8
        late := fun s => (errorOf e).orElse fun _ => dr.check (s.team? (strandOf r)) } fun t =>
      let n := if sr then dr.e0 * dr.e1 else 0
      let (t1, x) := if n = 0 then (t, 0) else t.reserve r n
      .next (t1.enqueue r .matrix i h (s.X d) (s.X a) (s.X b) [e.toOption.getD 0] x)

/-- A unit of ADRN (R236). -/
def drainUnit (d : Drain) (sr sat : Bool) (rm : RMode) (clr : Bool) (tn : Nat) : EM Bool := do
  let c := (← get).c
  let cl ← getCl
  let r0 := c.pix * d.rows
  let rows := (List.range (min d.rows (d.e1 - r0))).map fun k => r0 + k
  let pts : List (Nat × Nat) := rows.flatMap fun r => (List.range d.e0).map fun k => (r, k)
  let word (p : Nat × Nat) : Nat := d.acc0 + p.1 * d.lda + p.2
  let dest (p : Nat × Nat) : List Nat := addIdx d.org (if d.tr then [p.1, p.2, 0, 0] else [p.2, p.1, 0, 0])
  check (pts.all fun p => !cl.isPoisoned (word p)) .accPoison
  check (pts.all fun p => d.t.inside (dest p)) .tidBounds
  pts.forM fun p => accCheck (word p) 1
  let ys ← pts.mapM fun p => do
    let v := fp32 (cl.accWord (word p))
    amaxUpdate tn v
    pure (dest p, v.divScale (scaleQ d.t.scale), rndAt sr rm c.lfsr (p.1 * d.e0 + p.2))
  if !d.t.fmt.blocked then ys.forM fun y => writeElem d.t tn y.1 sat y.2
  else ((ys.map fun y => blockStart d.t y.1).eraseDups).forM fun key => do
    let (bs, n) := encodeBlock d.t.fmt (blockFill d.t key ys)
    writeBlock d.t key bs
    satCount tn n
  if clr then modCl fun cl => pts.foldl (fun x p => x.accPut (word p) 0) cl
  pure false

/-- DRAIN_UNIT (R236): the units of a drain that fill MX groups row by row are performed at one moment (R293). -/
def execDrainUnit (g : Agent) (s : State) : Res :=
  match g with
  | .hub _ => .next s
  | .seq r =>
    match s.matHead r with
    | none => .next s
    | some c =>
      match c.ins with
      | .adrn _ sr sat rm clr tr tn _ _ _ lda =>
        let d := drainOf (c.tids.getD 0 0) c.xd c.xa c.xb tr lda
        let body := drainUnit d sr sat rm clr tn.toNat
        let group := d.t.fmt.isMx && d.rows != 1
        .next (if group then s.doUnits r .matrix (fun _ => d.units) (fun _ => 1) body d.units d.units
          else s.doUnit r .matrix (fun _ => d.units) (fun _ => 1) body)
      | _ => .next s

/-! ### FDL (R257 to R259) -/

/-- SETFID lands FIDCTL.FID after 1 step (R258). -/
def execSetfid (h : Hdr) (f : BitVec 2) (s : State) : Res :=
  s.issue (.setfid h f) h { fixed := true } fun t => t.launchOp (.setfid h f) h .fid 1 (f.setWidth 64) (f.setWidth 64) 0 0

/-- Whether matrix commands of a sequencer are still to complete (R259). -/
def State.matrixBusy (s : State) (r : SeqRef) : Bool := (s.seq r).matQ.any fun c => (mmOf c.ins).isSome

/-- What an FCRD comes to. -/
def fcrdHold (which : BitVec 2) (d : Reg) (s : State) (c : Cmd) : Hold :=
  match s.cur with
  | .hub _ => .ends s
  | .seq r =>
    let k := s.cluster r.die r.cl
    let v : Word := match which.toNat with
      | 0 => zext32 k.fidErr
      | 1 => k.fidChk.setWidth 64
      | _ => BitVec.ofNat 64 ((if k.raised then 2 ^ 16 else 0) + k.wcnt.toNat)
    if s.matrixBusy r then .stays s else .ends (s.endHold c d v)

/-- What an FCCLR comes to. -/
def fcclrHold (d : Reg) (s : State) (c : Cmd) : Hold :=
  match s.cur with
  | .hub _ => .ends s
  | .seq r =>
    let v := zext32 (s.cluster r.die r.cl).fidErr
    if s.matrixBusy r then .stays s
    else .ends ((s.modCluster r.die r.cl fun k => { k with fidErr := 0, fidChk := 0 }).endHold c d v)

/-- FCRD (R259). -/
def execFcrd (h : Hdr) (d : Reg) (which : BitVec 2) (s : State) : Res :=
  s.issue (.fcrd h d which) h {} fun t => t.holdIn (t.heldCmd (.fcrd h d which) h 0 0) .matrix (fcrdHold which d)

/-- FCCLR (R259). -/
def execFcclr (h : Hdr) (d : Reg) (s : State) : Res :=
  s.issue (.fcclr h d) h {} fun t => t.holdIn (t.heldCmd (.fcclr h d) h 0 0) .matrix (fcclrHold d)

end Sys2Proof.Machine
end

