-- ==== Sys2Proof/Machine/Attention.lean ====
section
/-! DEFINITION. The attention pipe (R237 to R241), and the atomics at the accumulator and in staging (R242 to R244). -/

namespace Sys2Proof.Machine

/-! ### Checks at issue (R238) -/

/-- Formats that ATQ and ATS accept. -/
def attnFmt (t : Tens) : Bool :=
  (t.fmt == .bf16 || t.fmt == .e4m3 || t.fmt == .e5m2 || t.fmt.isSx) && (!t.fmt.blocked || t.bax == 0)

/-- Checks 2 to 4 of R238 over the entries of a command that takes `n` rows from `row0`. -/
def attnTens (t : Option Team) (ts : List Tens) (row0 n : Nat) : Option Cause :=
  if ts.any fun x => !attnFmt x then some .formatIllegal
  else if ts.any fun x => decide (64 < x.dim 0) || decide (64 < n) || decide (x.dim 1 < row0 + n) then some .tidBounds
  else if ts.any fun x => (spadSpan t (x.span [0, 0, 0, 0] ((List.range 4).map x.dim))).isSome then some .xlateClass
  else none

/-- The entries of ATQ or ATS, or what its checks raise. -/
def State.attnCheck (s : State) (r : SeqRef) (tids : List (BitVec 8)) (row0 n : Nat) : Except Cause (List (BitVec 512)) := do
  let es ← tids.mapM fun t => s.useTid r t.toNat
  match attnTens (s.team? (strandOf r)) (es.map Tens.of) row0 n with
  | some c => throw c
  | none => pure es

/-- An ATN at issue, with its checks on registers and on entries. -/
def State.atnCmd (s : State) (i : Instr) (h : Hdr) (d a b : Reg) (early : Option Cause)
    (tids : SeqRef → Except Cause (List (BitVec 512))) : Res :=
  match s.cur with
  | .hub _ => s.issue i h {} .next
  | .seq r =>
    s.issue i h
      { permit := some .mat, early := fun _ => early, room := State.engineRoom r .matrix 8
        late := fun _ => errorOf (tids r) } fun t =>
      .next (t.enqueue r .matrix i h (s.X d) (s.X a) (s.X b) ((tids r).toOption.getD []))

def atqRow0 (xa : Word) : Nat := field xa 0 32
def atqRows (xa : Word) : Nat := field xa 32 7

/-- ATQ (R239). -/
def execAtq (h : Hdr) (tq : BitVec 8) (d a : Reg) (s : State) : Res :=
  s.atnCmd (.atq h tq d a) h d a 0 none fun r => s.attnCheck r [tq] (atqRow0 (s.X a)) (atqRows (s.X a))

/-- ATS (R240). -/
def execAts (h : Hdr) (tk tv : BitVec 8) (a b : Reg) (s : State) : Res :=
  s.atnCmd (.ats h tk tv a b) h 0 a b none fun r => s.attnCheck r [tk, tv] (field (s.X a) 0 32) (field (s.X b) 0 32)

def atfO (xa : Word) : Nat := field xa 0 17

/-- ATF (R241): the bases are checked at issue, the words it writes when the rows are known (log entry 18). -/
def execAtf (h : Hdr) (u : Bool) (a b : Reg) (s : State) : Res :=
  let bad := atfO (s.X a) % 64 != 0 || atfO (s.X b) % 2 != 0
  s.atnCmd (.atf h u a b) h 0 a b (if bad then some .align else none) fun _ => .ok []

/-! ### ATTENTION_PERFORM (R239 to R241) -/

/-- Sums of groups of 16 added in ascending order, each scaled (R240). -/
def accGroups (scale : ExtNum) (acc : BitVec 32) (ps : List ExtNum) : BitVec 32 :=
  (List.range ((ps.length + 15) / 16)).foldl (fun a g =>
    accAdd a (scale.mul (ExtNum.sum ((ps.drop (16 * g)).take 16))) .rne) acc

def rneFP32 (x : ExtNum) : BitVec 32 := roundFP32 (.det .rne) x

/-- The values of a row of a tensor. -/
def rowValues (t : Tens) (row n : Nat) : EM (List ExtNum) := (List.range n).mapM fun i => readElem t [i, row, 0, 0]

/-- ATQ. -/
def atqUnit : EM Bool := do
  let c := (← get).c
  let t := Tens.of (c.tids.getD 0 0)
  let rows := atqRows c.xa
  let dq := t.dim 0
  let vs ← (List.range rows).mapM fun r => rowValues t (atqRow0 c.xa + r) dq
  let sc := scaleNum t.scale
  let q : Tbl ExtNum := vs.zipIdx.flatMap fun (v, r) => v.zipIdx.map fun (x, i) => (r * 64 + i, x.mul sc)
  let all (n : Nat) (v : BitVec 32) : Tbl (BitVec 32) := (List.range n).map fun k => (k, v)
  modCl fun cl => { cl with pipe := ⟨rows, dq, 0, q, low32 c.xd, all rows (fpInf true), all rows 0, all (rows * 64) 0⟩ }
  pure false

/-- What one query row becomes: m, l and O (R240). -/
structure RowState where
  m : BitVec 32
  l : BitVec 32
  o : List (BitVec 32)
deriving DecidableEq, Repr

/-- One row over a block of keys `ks` and values `vs`. -/
def attnRow (sc sk sv : ExtNum) (q : List ExtNum) (ks vs : List (List ExtNum)) (old : RowState) : RowState :=
  let scores := ks.map fun k =>
    rneFP32 (sc.mul (fp32 (accGroups sk 0 ((q.zip k).map fun (x, y) => x.mul y))))
  let mn := rneFP32 (scores.foldl (fun m x => m.greatest (fp32 x)) (fp32 old.m))
  let low := mn == fpInf true
  let e (x : BitVec 32) : BitVec 32 := fExp2 (fp32 (rneFP32 ((fp32 x).sub (fp32 mn))))
  let a := if low then ExtNum.one else fp32 (e old.m)
  let ps := scores.map fun x =>
    if low then ExtNum.zero else mfBf16.decode (mfBf16.encode (.det .rne) false (fp32 (e x))).bits
  let l := accGroups .one (rneFP32 (a.mul (fp32 old.l))) ps
  let o := old.o.zipIdx.map fun (w, i) =>
    accGroups sv (rneFP32 (a.mul (fp32 w))) ((ps.zip vs).map fun (p, v) => p.mul (v.getD i .zero))
  ⟨mn, l, o⟩

/-- ATS. -/
def atsUnit : EM Bool := do
  let c := (← get).c
  let p := (← getCl).pipe
  let n := field c.xb 0 32
  if p.rows = 0 ∨ n = 0 then pure false
  else
    let tk := Tens.of (c.tids.getD 0 0)
    let tv := Tens.of (c.tids.getD 1 0)
    check (tk.dim 0 == p.dq && (p.dv == 0 || tv.dim 0 == p.dv)) .formatIllegal
    let dv := tv.dim 0
    let t0 := field c.xa 0 32
    let ks ← (List.range n).mapM fun j => rowValues tk (t0 + j) p.dq
    let vs ← (List.range n).mapM fun j => rowValues tv (t0 + j) dv
    let rows := (List.range p.rows).map fun r =>
      attnRow (fp32 p.sc) (scaleNum tk.scale) (scaleNum tv.scale)
        ((List.range p.dq).map fun i => Tbl.get .zero p.q (r * 64 + i)) ks vs
        ⟨Tbl.get 0 p.m r, Tbl.get 0 p.l r, (List.range dv).map fun i => Tbl.get 0 p.o (r * 64 + i)⟩
    let m : Tbl (BitVec 32) := rows.zipIdx.map fun (x, r) => (r, x.m)
    let l : Tbl (BitVec 32) := rows.zipIdx.map fun (x, r) => (r, x.l)
    let o : Tbl (BitVec 32) := rows.zipIdx.flatMap fun (x, r) => x.o.zipIdx.map fun (w, i) => (r * 64 + i, w)
    modCl fun cl => { cl with pipe := { p with dv := dv, m := m, l := l, o := o } }
    pure false

/-- O / L, divided exactly and rounded once (R241). -/
def attnDivide (o l : BitVec 32) : BitVec 32 :=
  match fp32 l, fp32 o with
  | .nan, _ => fpNaN
  | .fin s b, x =>
    if b.num = 0 then 0
    else rneFP32 (match x with
      | .fin t a => .fin (s != t) (a.div b)
      | .inf t => .inf (s != t)
      | y => y)
  | .inf s, .fin t _ => fpZero (s != t)
  | _, _ => fpNaN

/-- ATF. -/
def atfUnit (u : Bool) : EM Bool := do
  let c := (← get).c
  let p := (← getCl).pipe
  let ob := atfO c.xa
  let mb := atfO c.xb
  check (p.rows == 0 || (decide (ob + 64 * p.rows ≤ accWords) && decide (mb + 2 * p.rows ≤ accWords))) .addrRange
  let out (r i : Nat) : BitVec 32 :=
    if p.dv ≤ i then 0
    else if u then Tbl.get 0 p.o (r * 64 + i)
    else attnDivide (Tbl.get 0 p.o (r * 64 + i)) (Tbl.get 0 p.l r)
  modCl fun cl =>
    let cl1 := (List.range p.rows).foldl (fun x r =>
      let y := (List.range 64).foldl (fun x i => x.accPut (ob + 64 * r + i) (out r i)) x
      (y.accPut (mb + 2 * r) (Tbl.get 0 p.m r)).accPut (mb + 2 * r + 1) (Tbl.get 0 p.l r)) cl
    { cl1 with pipe := { p with rows := 0 } }
  pure false

/-- ATTENTION_PERFORM: the ATN at the head of a matrix queue, in one unit. -/
def execAttentionPerform (g : Agent) (s : State) : Res :=
  match g with
  | .hub _ => .next s
  | .seq r =>
    let one (body : EM Bool) : State := s.doUnit r .matrix (fun _ => 1) (fun _ => 1) body
    match s.matHead r with
    | none => .next s
    | some c =>
      match c.ins with
      | .atq .. => .next (one atqUnit)
      | .ats .. => .next (one atsUnit)
      | .atf _ u _ _ => .next (one (atfUnit u))
      | _ => .next s

/-! ### Atomics (R242 to R244) -/

/-- A minor of AAT, its rounding, whether it returns the old value, whether it acts on staging. -/
structure Atomic where
  pair : Bool
  put : Bool
  rm : RMode
  ret : Bool
  stg : Bool
  d : Reg
deriving DecidableEq, Repr

def atomicOf : Instr → Option Atomic
  | .aadd _ g _ _ => some ⟨true, false, .rne, false, g, 0⟩
  | .aaddf _ g rm _ _ => some ⟨false, false, rm, false, g, 0⟩
  | .awr _ g _ _ => some ⟨false, true, .rne, false, g, 0⟩
  | .aaddx _ g d _ _ => some ⟨true, false, .rne, true, g, d⟩
  | .aaddfx _ g rm d _ _ => some ⟨false, false, rm, true, g, d⟩
  | .awrx _ g d _ _ => some ⟨false, true, .rne, true, g, d⟩
  | _ => none

/-- The word that an atomic names: in its cluster's accumulator, or in a die's staging (R243). -/
inductive AccRef where
  | acc (w : Nat)
  | stg (die w : Nat)
deriving DecidableEq, Repr

/-- A staging word of a physical address (R108, R162). -/
def stgRef (pa : Nat) : Nat × Nat := (pa / 0x80000000, pa % 0x200000 / 4)

/-- The word of an atomic, or the cause that its address raises; a pair in staging is aligned to its 8 bytes (R110, R243). -/
def State.atomicAt (s : State) (r : SeqRef) (k : Atomic) (xa : Word) : Except Cause AccRef :=
  if k.stg then
    (s.translate (strandOf r) xa (if k.pair then 8 else 4) (if k.put && !k.ret then .clear else .reduce)).map fun pa =>
      .stg (stgRef pa).1 (stgRef pa).2
  else if xa.toNat ≥ 2 ^ 17 then .error .addrRange
  else if k.pair && xa.toNat % 2 == 1 then .error .align
  else .ok (.acc xa.toNat)

/-- An AAT issues and holds its sequencer until it has been performed (R243). -/
def State.atomicCmd (s : State) (i : Instr) (h : Hdr) (a b : Reg) : Res :=
  match s.cur, atomicOf i with
  | .seq r, some k =>
    let ref := s.atomicAt r k (s.X a)
    s.issue i h { miss := (s.X a).toNat / 0x200000, early := fun _ => errorOf ref } fun t =>
      let pos := match ref with
        | .ok (.acc w) => w
        | .ok (.stg d w) => d * 2 ^ 32 + w
        | .error _ => 0
      .next (t.modMe fun q => { q with wait := some .held, held := some (t.heldCmd i h (BitVec.ofNat 64 pos) (s.X b)) })
  | _, _ => s.issue i h {} .next

/-- AADD. -/
def execAadd (h : Hdr) (stg : Bool) (a b : Reg) (s : State) : Res := s.atomicCmd (.aadd h stg a b) h a b

/-- AADDF. -/
def execAaddf (h : Hdr) (stg : Bool) (rm : RMode) (a b : Reg) (s : State) : Res :=
  s.atomicCmd (.aaddf h stg rm a b) h a b

/-- AWR. -/
def execAwr (h : Hdr) (stg : Bool) (a b : Reg) (s : State) : Res := s.atomicCmd (.awr h stg a b) h a b

/-- AADDX. -/
def execAaddx (h : Hdr) (stg : Bool) (d a b : Reg) (s : State) : Res := s.atomicCmd (.aaddx h stg d a b) h a b

/-- AADDFX. -/
def execAaddfx (h : Hdr) (stg : Bool) (rm : RMode) (d a b : Reg) (s : State) : Res :=
  s.atomicCmd (.aaddfx h stg rm d a b) h a b

/-- AWRX. -/
def execAwrx (h : Hdr) (stg : Bool) (d a b : Reg) (s : State) : Res := s.atomicCmd (.awrx h stg d a b) h a b

/-- The effect of an atomic on the word or pair, and the value of the X form (R243). -/
def Atomic.eval (k : Atomic) (lo hi : BitVec 32) (xb : Word) : List (BitVec 32) × Word :=
  if k.pair then
    let old : Word := hi ++ lo
    let new := old + xb
    ([low32 new, new.extractLsb' 32 32], old)
  else ([if k.put then low32 xb else accAdd lo (fp32 (low32 xb)) k.rm], zext32 lo)

/-- Words written at an atomic's place; an overwrite clears poison. -/
def State.putWords (s : State) (r : SeqRef) (k : Atomic) (pos : Nat) (ws : List (BitVec 32)) : State :=
  if k.stg then s.modDie (pos / 2 ^ 32) fun d =>
    { d with
      stg := ws.zipIdx.foldl (fun t (v, j) => Tbl.set 0 t (pos % 2 ^ 32 + j) v) d.stg
      badStg := if k.put then d.badStg.filter (· != pos % 2 ^ 32) else d.badStg }
  else s.modCluster r.die r.cl fun c =>
    ws.zipIdx.foldl (fun x (v, j) => if k.put then x.accPut (pos + j) v else x.accKeep (pos + j) v) c

/-- The detail of SRAM_UNCORR where an atomic reads a damaged word: all but AWR read theirs (R103). -/
def State.atomicSoft (s : State) (r : SeqRef) (k : Atomic) (pos : Nat) : Option Word :=
  let n := if k.pair then 2 else 1
  if k.put && !k.ret then none
  else if k.stg then
    (pairHit (s.die (pos / 2 ^ 32)).badStg (pos % 2 ^ 32) n).map (softDetail .stg (pos / 2 ^ 32) 0)
  else (pairHit (s.cluster r.die r.cl).badAcc pos n).map (softDetail .acc r.die r.cl)

/-- AAT_PERFORMED: the atomic that a sequencer waits in is performed; the wait ends, and where an X form has no post clause this
acquires what the atomics before it at the word released (R243, R244). -/
def execAatPerformed (g : Agent) (s : State) : Res :=
  match g with
  | .hub _ => .next s
  | .seq r =>
    match (s.seq r).held with
    | none => .next s
    | some c =>
      match atomicOf c.ins with
      | none => .next s
      | some k =>
        let pos := c.xa.toNat
        let cl := s.cluster r.die r.cl
        let at_ (n : Nat) : BitVec 32 := if k.stg then Tbl.get 0 (s.die (pos / 2 ^ 32)).stg (pos % 2 ^ 32 + n) else cl.accWord (pos + n)
        let n := if k.pair then 2 else 1
        let (ws, old) := k.eval (at_ 0) (at_ 1) c.xb
        if k.ret && !k.stg && cl.anyPoison pos n then .next ((s.recall r c).raise r .accPoison .i c.addr 0 0)
        else match s.atomicSoft r k pos with
        | some w => .next ((s.recall r c).raise r .sramUncorr .a 0 0 w)
        | none =>
          let s1 := (s.putWords r k pos ws).modSeq r fun q => { q with wait := none, held := none }
          .next (s1.asSeq r fun t =>
            if k.ret then (if (hdrOf c.ins).pq.isNone then t.acquire else t).endHold c k.d old
            else t.finishAt (hdrOf c.ins) c.addr)

end Sys2Proof.Machine
end

