-- ==== Sys2Proof/Machine/Land.lean ====
section
/-! DEFINITION. LAND: tiles from a freewheel slot into tile slots (R90 to R92, R222, R223). -/

namespace Sys2Proof.Machine

/-- The fields of a LAND: format, macro, first tile slot, tiles, tile slots to a tile. -/
structure LandCmd where
  fmt : Fmt
  mac : Nat
  slot : Nat
  count : Nat
  per : Nat
  d : Reg
deriving DecidableEq, Repr

def landOf : Instr → Option LandCmd
  | .land _ f d _ _ mac slot cnt => some ⟨f, mac.toNat, slot.toNat, cnt.toNat + 1, if f = .bf16 then 2 else 1, d⟩
  | _ => none

/-- The keys of the tile slots that a LAND writes. -/
def LandCmd.keys (l : LandCmd) : List Nat := (List.range (l.per * l.count)).map fun k => l.mac * 8 + l.slot + k

/-! ### Issue -/

/-- The checks of R92 on the word. -/
def LandCmd.early (l : LandCmd) : Option Cause :=
  if l.fmt == .fp32 || l.fmt == .fp16 || l.fmt.isInt then some .formatIllegal
  else if l.slot % l.per ≠ 0 ∨ 8 < l.slot + l.per * l.count then some .operandReserved
  else none

/-- The checks of R92 that read the cadence table, and those behind them. -/
def State.landLate (s : State) (st : StrandRef) (l : LandCmd) (tag : BitVec 32) (off : Nat) : Option Cause :=
  if !s.tagOk st tag then some .landSlot
  else if off % 64 ≠ 0 then some .align
  else
    let size := ((s.cadence? tag).map fun e => e.size.toNat).getD 0
    if size * 2 ^ 20 < off + l.count * tileBytes l.fmt then some .addrRange else none

/-- The rotation of a LOST tag whose SEGHDR has come, of which no stripe is received (R74, R83). -/
def State.lostHeader (s : State) (tag : BitVec 32) : Option (BitVec 32) :=
  ((s.cadence? tag).filter (·.lost)).bind (·.hdrRot)

/-- The target of a LAND that chooses now: the current rotation of the tag while its slot is open on the die, else the
next (R92). `none` while no rotation of the tag has come. -/
def State.landTarget (s : State) (die : Nat) (tag : BitVec 32) : Option (BitVec 32) :=
  match (s.die die).lastOf tag with
  | some a =>
    let open_ := (s.chain.slotOf tag a.1).any fun n => (s.chain.fslot n).any fun k => !k.expired.contains die
    some (if open_ then a.1 else a.1 + 1)
  | none => (s.lostHeader tag).map (· + 1)

/-- LAND (R90, R92). -/
def execLand (h : Hdr) (fmt : Fmt) (d a b : Reg) (mac : BitVec 6) (slot cnt : BitVec 3) (s : State) : Res :=
  let i : Instr := .land h fmt d a b mac slot cnt
  match s.cur, landOf i with
  | .seq r, some l =>
    let tag := low32 (s.X a)
    s.issue i h
      { permit := some .mem, early := fun _ => l.early
        late := fun s => s.landLate (strandOf r) l tag (s.X b).toNat } fun t =>
      let c : Cmd :=
        { ins := i, seqNo := t.nextCmd, addr := t.issuePc h, xd := 0, xa := s.X a, xb := s.X b,
          target := s.landTarget r.die tag, head := some (s.tsc r.die), no := t.me.no }
      .next ({ t with nextCmd := t.nextCmd + 1 }.modSeq r fun q => { q with landQ := q.landQ ++ [c] })
  | _, _ => s.issue i h {} .next

/-! ### LAND_TILE -/

/-- A LAND completes with its status; SEGMENT_MISSED follows where the token was pushed (R8, R92). -/
def State.landEnd (s : State) (r : SeqRef) (c : Cmd) (l : LandCmd) (status : Nat) : State :=
  let w : Word := if status = 2 then 2 else (zext32 (c.target.getD 0) <<< 32) ||| BitVec.ofNat 64 status
  let s1 := s.modSeq r fun q => ({ q with landQ := q.landQ.filter fun k => k.seqNo != c.seqNo }).putX l.d w c.no s.cycles
  let (s2, ok) := s1.pushPost? r (hdrOf c.ins).pq c.addr c.pix
  if ok && status == 1 && !s2.masked (strandOf r) .segmentMissed then s2.raise r .segmentMissed .d c.addr c.pix 0 else s2

/-- The sequencers C of the team of a strand. -/
def State.teamSeqs (s : State) (st : StrandRef) : List SeqRef :=
  ((s.team? st).map fun t => t.slots.map fun n => (⟨st.die, st.cl, n, .C⟩ : SeqRef)).getD []

/-- Whether an earlier matrix command of the team reads a slot that a LAND writes, other than an MMAK that waits for
this landing (R92, R231). -/
def State.landWaits (s : State) (r : SeqRef) (c : Cmd) (l : LandCmd) : Bool :=
  (s.teamSeqs (strandOf r)).any fun m => (s.seq m).matQ.any fun k =>
    match mmOf k.ins with
    | none => false
    | some f =>
      decide (k.seqNo < c.seqNo) && (f.used (Tens.of (k.tids.getD 1 0)).fmt).any (l.keys.contains ·)
        && !(f.keyed && low32 k.xd == low32 c.xa && (k.target.isNone || k.target == c.target))

/-- The pieces (die, offset in the die's stripe, bytes) of a run of a segment of `z` MiB (R72). -/
def stripePieces (z o n : Nat) : List (Nat × Nat × Nat) :=
  let w := max (stripeBytes z) 1
  (List.range 8).filterMap fun d =>
    let lo := max o (d * w)
    let hi := min (o + n) ((d + 1) * w)
    if lo < hi then some (d, lo - d * w, hi - lo) else none

/-- How a piece of a stripe stands: not written yet, its frame gone, or at a slab address. -/
inductive PieceSt where
  | notYet | gone | at_ (pa : Nat)
deriving DecidableEq, Repr

/-- How the first `n` bytes from `o` of a die's stripe stand. -/
def State.piece (s : State) (tag rot : BitVec 32) (p : Nat × Nat × Nat) : PieceSt :=
  match (s.die p.1).frameOf tag rot with
  | some (i, f) => if p.2.1 + p.2.2 ≤ 512 * f.got then .at_ (s.frameAddr p.1 i + p.2.1) else .notYet
  | none => if s.rotState p.1 tag rot = .pending then .notYet else .gone

/-- A tile written (R222, R223). -/
def Cluster.putTile (c : Cluster) (key : Nat) (t : Tile) : Cluster :=
  let below := key - 1
  let ends := key % 2 == 1 && (c.tile below).v && (c.tile below).fmt == .bf16
  let c1 := { c with tiles := Tbl.put c.tiles key t }
  let c2 := if ends then { c1 with tiles := Tbl.put c1.tiles below { c.tile below with v := false } } else c1
  if t.fmt = .bf16 then { c2 with tiles := Tbl.put c2.tiles (key + 1) { c.tile (key + 1) with v := false } } else c2

/-- A LAND that has started: its next tile once its bytes have come, MISSED when a frame has gone, LOST at an
uncorrectable word (R92, R103). -/
def State.landTile (s : State) (r : SeqRef) (c : Cmd) (l : LandCmd) (rot : BitVec 32) : State :=
  let tag := low32 c.xa
  let size := ((s.cadence? tag).map fun e => e.size.toNat).getD 0
  let n := tileBytes l.fmt
  let ps := stripePieces size (c.xb.toNat + c.pix * n) n
  let sts := ps.map fun p => (s.piece tag rot p, p.2.2)
  if sts.any fun x => decide (x.1 = .gone) then s.landEnd r c l 1
  else if sts.any fun x => decide (x.1 = .notYet) then s
  else
    let runs := sts.filterMap fun x => match x.1 with
      | .at_ pa => some (pa, x.2)
      | _ => none
    if runs.any fun x => (s.badAt x.1 x.2).isSome then
      (s.modCadence tag fun e => { e with lost := true }).landEnd r c l 2
    else
      let img := runs.flatMap fun x => s.readMem x.1 x.2
      let key := l.mac * 8 + l.slot + l.per * c.pix
      let s1 := runs.foldl (fun a x => a.corrected x.1 x.2) s
      let s2 := s1.modCluster r.die r.cl fun k => k.putTile key ⟨true, l.fmt, tag, rot, img⟩
      let c' := { c with pix := c.pix + 1 }
      let s3 := s2.modSeq r fun q => { q with landQ := q.landQ.map fun k => if k.seqNo = c.seqNo then c' else k }
      if l.count ≤ c'.pix then
        let s4 := s3.landEnd r c' l 0
        (List.range 8).foldl (fun a d => a.release d) s4
      else s3

/-- Whether the first flit that a LAND reads has been written. -/
def State.landReady (s : State) (c : Cmd) (l : LandCmd) (rot : BitVec 32) : Bool :=
  let tag := low32 c.xa
  let size := ((s.cadence? tag).map fun e => e.size.toNat).getD 0
  match stripePieces size c.xb.toNat (tileBytes l.fmt) with
  | [] => false
  | (d, o, _) :: _ => s.piece tag rot (d, o, 1) matches .at_ _

/-- One LAND served: its target settled, its waits over, it starts; then tile by tile (R92). -/
def State.landServe (s : State) (r : SeqRef) (c0 : Cmd) (l : LandCmd) : State :=
  let tag := low32 c0.xa
  let target := c0.target.orElse fun _ =>
    if c0.head.isSome then (((s.die r.die).lastOf tag).map (·.1)).orElse fun _ =>
      (((s.cadence? tag).filter (·.missed)).map (·.missRot)).orElse fun _ => s.lostHeader tag
    else s.landTarget r.die tag
  let c := { c0 with target := target, head := some (s.tsc r.die) }
  let keep (k : Cmd) (s : State) : State :=
    s.modSeq r fun q => { q with landQ := q.landQ.map fun x => if x.seqNo = k.seqNo then k else x }
  match target with
  | none => keep { c0 with head := c.head } s
  | some rot =>
    if c.begun then s.landTile r c l rot
    else
      let d := s.die r.die
      let passed := (d.arrivedAt tag rot).any fun a =>
        decide (a + ((s.cadence? tag).map fun e => e.dwell.toNat).getD 0 ≤ s.tsc r.die)
      let slot := s.chain.slotOf tag rot
      let started := slot.any fun n => (s.chain.fslot n).any (·.started)
      match s.rotState r.die tag rot with
      | .lost => s.landEnd r c l 2
      | .missed => s.landEnd r c l 1
      | .pending => keep c s
      | st =>
        if s.landWaits r c l then keep c s
        else if passed && !started then s.landEnd r c l 1
        else if st = .gone then s.landEnd r c l 1
        else if !s.landReady c l rot then keep c s
        else
          let c1 := { c with begun := true }
          let s1 := match slot with
            | some n => s.modFSlot n fun k => { k with started := true }
            | none => s
          (keep c1 s1).landTile r c1 l rot

/-- LAND_TILE: the LANDs of a sequencer, each as far as it can go now. -/
def execLandTile (g : Agent) (s : State) : Res :=
  match g with
  | .hub _ => .next s
  | .seq r =>
    .next ((s.seq r).landQ.foldl (fun a c0 =>
      match (a.seq r).landQ.find? fun k => k.seqNo == c0.seqNo with
      | some c =>
        match landOf c.ins with
        | some l => if a.runs r then a.landServe r c l else a
        | none => a
      | none => a) s)

end Sys2Proof.Machine
end

