-- ==== Sys2Proof/Machine/Collective.lean ====
section
/-! DEFINITION. The collective engine's counters and reduction ranges (R162 to R167, R274, R275, R282 to R285, R290,
R291). -/

namespace Sys2Proof.Machine

/-! ### Counters (R274, R275) -/

/-- A counter handle. -/
structure Handle where
  rmt : Bool
  v : Bool
  mid : Nat
  die : Nat
  num : Nat
deriving DecidableEq, Repr

def Handle.of (h : Word) : Handle := ⟨h.getLsbD 63, h.getLsbD 62, field h 48 5, field h 40 3, field h 0 8⟩

/-- Whether a handle's zero fields are zero and its member is one that it may name (R275, R291). -/
def State.handleOk (s : State) (h : Word) : Bool :=
  let k := Handle.of h
  field h 53 9 == 0 && field h 43 5 == 0 && field h 8 32 == 0 && (if k.rmt then s.chain.knows k.mid else k.mid == 0)

def State.counter (s : State) (die n : Nat) : Counter := Tbl.get {} (s.die die).counters n

/-- The oldest unfired entry of a work queue is armed once its counter has come to its threshold (R276). -/
def armHead (cs : Tbl Counter) : List WorkEntry → List WorkEntry
  | [] => []
  | e :: r =>
    if e.fired then e :: armHead cs r
    else
      let c : Counter := Tbl.get {} cs (nat e.image 2 1)
      { e with armed := e.armed || decide (nat e.image 4 4 ≤ c.value.toNat) } :: r

def QPair.arm (q : QPair) (cs : Tbl Counter) : QPair := { q with entries := armHead cs q.entries }

/-- A counter changed, and the arming of its die's work entries tested (R276). -/
def State.modCounter (s : State) (die n : Nat) (f : Counter → Counter) : State :=
  s.modDie die fun d =>
    let cs := Tbl.put d.counters n (f (Tbl.get {} d.counters n))
    { d with counters := cs, qps := d.qps.map fun p => (p.1, p.2.arm cs) }

/-- An add to a counter: at its top it is clamped, OVF is set and COUNTER_OVERFLOW posted (R274). -/
def State.counterAdd (s : State) (die n add : Nat) : State :=
  let c := s.counter die n
  let v := c.value.toNat + add
  if v < 2 ^ 32 then s.modCounter die n fun c => { c with value := BitVec.ofNat 32 v }
  else
    (s.modCounter die n fun c => { c with value := BitVec.allOnes 32, ovf := true }).post die
      { cause := .counterOverflow, detail := BitVec.ofNat 64 n }

/-- An increment of the counter that a handle names, here or at its member (R278); V = 0 names none. -/
def State.bump (s : State) (die : Nat) (ctx : BitVec 4) (h : Word) (add : BitVec 32) : State :=
  let k := Handle.of h
  if !k.v then s
  else if !k.rmt || k.mid == s.chain.self then s.counterAdd k.die k.num add.toNat
  else s.send (.cntadd k.mid ⟨0, windowOf (s.tsc die), ctx, h, add⟩)

/-! ### Status words (R281) -/

def statusWord (status unit mask : Nat) : BitVec 64 := BitVec.ofNat 64 (mask * 2 ^ 32 + unit % 2 ^ 24 * 256 + status)

/-- The destination register of a remote command. -/
def collReg : Instr → Reg
  | .rwr _ d _ _ => d
  | .rrd _ d _ _ => d
  | .rwrr _ _ _ _ d _ _ => d
  | _ => 0

def State.modColl (s : State) (r : SeqRef) (n : Nat) (f : Cmd → Cmd) : State :=
  s.modSeq r fun q => { q with collQ := q.collQ.map fun c => if c.seqNo = n then f c else c }

/-- A remote command completes with its status word (R288). -/
def State.collEnd (s : State) (r : SeqRef) (c : Cmd) (w : BitVec 64) : State :=
  let s1 := s.modSeq r fun q =>
    ({ q with collQ := q.collQ.filter fun k => k.seqNo != c.seqNo }).putX (collReg c.ins) w c.no s.cycles
  s1.pushPost r (hdrOf c.ins).pq c.addr c.pix

/-! ### Ranges (R162 to R164, R282) -/

/-- The memory that a range lies in. -/
inductive RMem where
  | acc (die cl : Nat)
  | stg (die : Nat)
deriving DecidableEq, Repr

def RMem.die : RMem → Nat
  | .acc d _ => d
  | .stg d => d

def RMem.words : RMem → Nat
  | .acc _ _ => accWords
  | .stg _ => 524288

def RMem.ref (m : RMem) (n : Nat) : RangeRef :=
  match m with
  | .acc d c => .acc d c n
  | .stg d => .stg d n

def rangeMem : RangeRef → RMem
  | .acc d c _ => .acc d c
  | .stg d _ => .stg d

def State.ranges (s : State) : RMem → Tbl Range
  | .acc d c => (s.cluster d c).ranges
  | .stg d => (s.die d).ranges

def rangeNo : RangeRef → Nat
  | .acc _ _ n => n
  | .stg _ n => n

def State.range (s : State) (rr : RangeRef) : Range := Tbl.get {} (s.ranges (rangeMem rr)) (rangeNo rr)

def State.modRange (s : State) (rr : RangeRef) (f : Range → Range) : State :=
  match rr with
  | .acc d c n => s.modCluster d c fun x => { x with ranges := Tbl.put x.ranges n (f (Tbl.get {} x.ranges n)) }
  | .stg d n => s.modDie d fun x => { x with ranges := Tbl.put x.ranges n (f (Tbl.get {} x.ranges n)) }

/-- The valid range of a memory that holds `n` words from `w` (R166). -/
def State.findRange (s : State) (m : RMem) (w n : Nat) : Option RangeRef :=
  ((s.ranges m).find? fun p =>
    p.2.v && decide (p.2.base.toNat ≤ w) && decide (w + max n 1 ≤ p.2.base.toNat + p.2.len.toNat)).map
    fun p => m.ref p.1

/-- Words of a memory from `w` with values added by `add`: AccAdd for a contribution from elsewhere (R283), RoundFP32 of the sum
for CPYR (R166; log entry 90). -/
def State.addWords (s : State) (m : RMem) (w : Nat) (vs : List ExtNum) (add : BitVec 32 → ExtNum → BitVec 32) : State :=
  match m with
  | .acc d c => s.modCluster d c fun x =>
      vs.zipIdx.foldl (fun x (v, j) => x.accKeep (w + j) (add (x.accWord (w + j)) v)) x
  | .stg d => s.modDie d fun x =>
      { x with stg := vs.zipIdx.foldl (fun t (v, j) => Tbl.set 0 t (w + j) (add (Tbl.get 0 t (w + j)) v)) x.stg }

/-- The adds of a contribution from another sequencer's home (R226, R283), and of a CPYR (R166). -/
def redAdd (rm : RMode) (a : BitVec 32) (p : ExtNum) : BitVec 32 := accAdd a p rm
def cpyrAdd (rm : RMode) (a : BitVec 32) (p : ExtNum) : BitVec 32 := roundFP32 (.det rm) ((fp32 a).add p)

/-- Words of a memory written +0.0. -/
def State.clearWords (s : State) (m : RMem) (w n : Nat) : State :=
  match m with
  | .acc d c => s.modCluster d c fun x => (List.range n).foldl (fun x j => x.accPut (w + j) 0) x
  | .stg d => s.modDie d fun x =>
      { x with
        stg := x.stg.filter fun p => p.1 < w || w + n ≤ p.1
        badStg := x.badStg.filter fun k => k < w || w + n ≤ k }

/-- The detail of SRAM_UNCORR where an add reads a damaged word (R103). -/
def State.softWords (s : State) (m : RMem) (w n : Nat) : Option Word :=
  match m with
  | .acc d c => (pairHit (s.cluster d c).badAcc w n).map (softDetail .acc d c)
  | .stg d => (pairHit (s.die d).badStg w n).map (softDetail .stg d 0)

def Range.slot (g : Range) (n : Nat) : BitVec 18 := Tbl.get 0 g.slots n
def Range.slotNos (g : Range) : List Nat := List.range (g.nslot.toNat + 1)

/-- Whether a slot admits a requester. -/
def Range.admits (g : Range) (rq : BitVec 18) : Bool := g.slotNos.any fun n => g.slot n == rq

/-- The lowest slot that a requester may claim now (R163). -/
def Range.freeSlot (g : Range) (rq : BitVec 18) : Option Nat :=
  g.slotNos.find? fun n =>
    g.slot n == rq && !g.filled.getLsbD n && !g.contribs.any fun k => (k.claim.map (·.slot)) == some n

/-- The members of slots for which `p` holds. -/
def Range.members (g : Range) (p : Nat → Bool) : BitVec 32 :=
  (g.slotNos.filter p).foldl (fun m n => m ||| (1#32 <<< ((g.slot n).extractLsb' 13 5).toNat)) 0

/-- The members whose slots are unfilled. -/
def Range.missing (g : Range) : BitVec 32 := g.members fun n => !g.filled.getLsbD n

/-- Whether slots 0 to `n - 1` are filled (R164). -/
def Range.turnOf (g : Range) (n : Nat) : Bool := g.filled.toNat % 2 ^ n == 2 ^ n - 1

/-- Whether a contribution may be performed: its turn has come, and a round that has timed out cuts none that has
begun (R164, R284). -/
def Range.ready (g : Range) (k : Contrib) : Bool :=
  k.claim.any (fun c => g.turnOf c.slot) && !g.tmd && (!g.expired || k.begun || k.go)

/-- Contributions without a slot claim one, in their order; the round's timer starts at its first claim (R163, R284). -/
def Range.reclaim (g : Range) (now : Nat) : Range :=
  let g1 := g.contribs.foldl (fun a k =>
    match k.claim, a.freeSlot k.rq with
    | none, some n =>
      let give (x : Contrib) : Contrib := if x.who = k.who then { x with claim := some ⟨n, a.round⟩ } else x
      { a with contribs := a.contribs.map give }
    | _, _ => a) g
  if g1.started.isNone && g1.contribs.any (·.claim.isSome) then { g1 with started := some now } else g1

def State.contrib? (s : State) (rr : RangeRef) (who : Contributor) : Option Contrib :=
  (s.range rr).contribs.find? fun k => k.who == who

def State.modContrib (s : State) (rr : RangeRef) (who : Contributor) (f : Contrib → Contrib) : State :=
  s.modRange rr fun g => { g with contribs := g.contribs.map fun k => if k.who = who then f k else k }

/-- A contribution that reaches its range. -/
def State.joinRange (s : State) (rr : RangeRef) (k : Contrib) : State :=
  let now := s.tsc (rangeMem rr).die
  s.modRange rr fun g => ({ g with contribs := g.contribs ++ [k] }).reclaim now

/-! ### Rounds that time out (R284) -/

/-- A contribution that a timed-out round ends: TIMEOUT with the members that are missing. -/
def State.cut (s : State) (miss : BitVec 32) (k : Contrib) : State :=
  let w := statusWord 3 0 miss.toNat
  match k.who with
  | .seq r n =>
    match (s.seq r).collQ.find? fun c => c.seqNo == n with
    | some c => s.collEnd r c w
    | none =>
      match (s.seq r).copyQ.find? fun c => c.seqNo == n with
      | some c =>
        let (s1, ok) := (s.modSeq r fun q => { q with copyQ := q.copyQ.filter fun x => x.seqNo != n }).pushPost? r
          (hdrOf c.ins).pq c.addr c.pix
        if !ok || s1.masked (strandOf r) .remoteTimeout then s1 else s1.raise r .remoteTimeout .d c.addr c.pix 0
      | none => s
  | .entry die qp pos => s.modDie die fun d =>
      let q : QPair := Tbl.get {} d.qps qp
      let q' := { q with entries := q.entries.map fun e => if e.pos = pos then { e with outcome := some w } else e }
      { d with qps := Tbl.put d.qps qp q' }
  | .member mid req => { s with refused := (mid, req) :: s.refused }.send (.wrnack mid req 0 w)

/-- Round-completion counter of a range (R282). -/
def State.bumpRange (s : State) (rr : RangeRef) : State :=
  let g := s.range rr
  if g.cv then s.counterAdd (rangeMem rr).die g.cntr.toNat 1 else s

/-- A round whose timer has expired ends once no contribution is being performed (R284). -/
def State.settleRange (s : State) (rr : RangeRef) : State :=
  let g := s.range rr
  if !g.expired || g.tmd || g.contribs.any fun k => k.begun || k.go then s
  else
    let miss := g.missing
    let s1 := s.modRange rr fun g => { g with tmd := true, miss := miss, contribs := [], started := none }
    g.contribs.foldl (fun a k => a.cut miss k) (s1.bumpRange rr)

/-- ROUND_TIMEOUT: the timer of a round expires TMO windows after its first claim (R284). -/
def execRoundTimeout (rr : RangeRef) (s : State) : Res :=
  let g := s.range rr
  let due := g.started.any fun t => decide (t + 4096 * g.tmo.toNat ≤ s.tsc (rangeMem rr).die)
  if g.v && g.tmo != 0 && !g.tmd && (due || g.expired) then
    .next ((s.modRange rr fun g => { g with expired := true }).settleRange rr)
  else .next s

/-- A contribution has been performed: its slot is filled, and with the last slot the round completes (R164). -/
def State.fillSlot (s : State) (rr : RangeRef) (who : Contributor) : State :=
  match s.contrib? rr who with
  | none => s
  | some k =>
    let n := (k.claim.map (·.slot)).getD 0
    let s1 := s.modRange rr fun g =>
      { g with filled := g.filled ||| (1#32 <<< n), contribs := g.contribs.filter fun x => x.who != who }
    if n = (s1.range rr).nslot.toNat then
      let now := s.tsc (rangeMem rr).die
      let s2 := s1.modRange rr fun g =>
        ({ g with round := g.round + 1, filled := 0, started := none, expired := false,
                  lastRound := g.members fun _ => true }).reclaim now
      s2.bumpRange rr
    else s1.settleRange rr

/-- A contribution that leaves its range without filling its slot. -/
def State.leaveRange (s : State) (rr : RangeRef) (who : Contributor) : State :=
  let now := s.tsc (rangeMem rr).die
  (s.modRange rr fun g =>
    ({ g with contribs := g.contribs.filter fun x => x.who != who }).reclaim now).settleRange rr

/-! ### CPYR (R165, R166) -/

/-- CPYR: format and alignment are checked at issue. -/
def execCpyr (h : Hdr) (acc : Bool) (rm : RMode) (fmt : Fmt) (d a b : Reg) (s : State) : Res :=
  let bad : Option Cause :=
    if fmt ≠ .fp32 ∧ fmt ≠ .bf16 then some .formatIllegal
    else if (s.X a).toNat % fmt.size ≠ 0 ∨ (!acc ∧ (s.X d).toNat % 4 ≠ 0) then some .align
    else none
  s.copyCmd (.cpyr h acc rm fmt d a b) h d a b bad none 0 []

/-- What one step of a contribution of a sequencer came to. -/
inductive CStep where
  | waits
  | refused
  | timedOut
  | failed (c : Cause) (detail : Word)
  | soft (detail : Word)
  | unit (done : Bool)
deriving DecidableEq, Repr

/-- A contribution of `n` elements to a range, as far as one unit of `per` elements (R163, R164, R166): `read` gives the
values of a unit, `add` is its addition.  A contribution that stopped behind its first unit finds the slot that it has kept, wherever
its strand has been placed since (R167). -/
def State.contribute (s : State) (r : SeqRef) (e : Engine) (c : Cmd) (rr : RangeRef) (w n per : Nat)
    (add : BitVec 32 → ExtNum → BitVec 32) (read : EM (List ExtNum)) : State × CStep :=
  let me := Contributor.seq r c.seqNo
  let rq := s.rqid r
  let g := s.range rr
  let same (k : Contrib) : Bool := match k.who with
    | .seq _ n => n == c.seqNo
    | _ => false
  let mine (k : Contrib) : Bool := k.begun && k.claim.isSome && k.claim == c.claim && (same k || k.rq == rq)
  let s0 := if g.contribs.any (·.who == me) then s
    else s.modRange rr fun g => { g with contribs := g.contribs.map fun k => if mine k then { k with who := me } else k }
  if g.tmd then (s, .timedOut)
  else if (s0.contrib? rr me).isNone && !g.admits rq then (s, .refused)
  else
    let s1 := if (s0.contrib? rr me).isSome then s0
      else s0.joinRange rr ⟨me, rq, n, none, false, false⟩
    match s1.contrib? rr me with
    | none => (s1, .waits)
    | some k =>
      if !(s1.range rr).ready k then (s1, .waits)
      else if n ≤ c.pix * per then (s1.fillSlot rr me, .unit true)
      else match s1.softWords (rangeMem rr) (w + c.pix * per) (min per (n - c.pix * per)), read.run ⟨s1, r, c⟩ with
        | some d, _ => (s1, .soft d)
        | none, .error (cause, detail) => (s1, .failed cause detail)
        | none, .ok (vs, x) =>
          let c' := { x.c with pix := c.pix + 1, claim := k.claim }
          let s2 := (x.s.addWords (rangeMem rr) (w + c.pix * per) vs add).modSeq r fun q =>
            q.setQueue e ((q.queue e).map fun y => if y.seqNo = c.seqNo then c' else y)
          let s3 := s2.modContrib rr me fun k => { k with begun := true }
          if n ≤ c'.pix * per then (s3.fillSlot rr me, .unit true) else (s3, .unit false)

/-- The values of a unit of a contribution's scratchpad source, which lies in the local window (R145). -/
def readUnit (src : Word) (fmt : Fmt) (n per : Nat) : EM (List ExtNum) := do
  let c := (← get).c
  let m := min per (n - c.pix * per)
  if m ≠ 0 then (Loc.va (src.toNat + c.pix * per * fmt.size : Nat)).local
  let bs ← readV (src.toNat + c.pix * per * fmt.size : Nat) (m * fmt.size)
  pure ((List.range m).map fun i => fmt.decode (nat bs (i * fmt.size) fmt.size))

/-- The memory and word of a CPYR's destination (R166). -/
def cpyrTarget (cl : RMem) (acc : Bool) (xd : Word) : EM (RMem × Nat) := do
  if acc then pure (cl, xd.toNat)
  else
    check (decide (xd.toNat < 2 ^ 48)) .addrRange
    check (decide (xd.toNat < windowBase)) .xlateClass
    let pa ← plainAt xd.toNat .reduce
    pure (.stg (stgRef pa).1, (stgRef pa).2)

/-- The CPYR at the head of a copy queue, as far as one unit (R166). -/
def State.cpyrServe (s : State) (r : SeqRef) (c : Cmd) (acc : Bool) (rm : RMode) (fmt : Fmt) : State :=
  let n := field c.xb 0 32
  match (cpyrTarget (.acc r.die r.cl) acc c.xd).run ⟨s, r, c⟩ with
  | .error (cause, detail) => s.unitTrap r c cause detail
  | .ok ((m, w), x) =>
    let s0 := x.s.setHead r .copy x.c
    match s0.findRange m w n with
    | none => s0.unitTrap r c .addrRange 0
    | some rr =>
      match s0.contribute r .copy x.c rr w n 64 (cpyrAdd rm) (readUnit c.xa fmt n 64) with
      | (s1, .waits) => s1
      | (s1, .unit false) => s1
      | (s1, .unit true) => s1.completeCmd r .copy c
      | (s1, .refused) => s1.unitTrap r c .xlatePerm 0
      | (s1, .failed cause detail) => s1.unitTrap r c cause detail
      | (s1, .soft detail) => s1.unitTrap r c .sramUncorr detail
      | (s1, .timedOut) => s1.cut 0 ⟨.seq r c.seqNo, 0, n, none, false, false⟩

/-! ### QSLOT (R290) -/

/-- The scratchpad bytes of an image, or what its place raises (R289, R290). -/
def State.imageAt (s : State) (r : SeqRef) (va : Word) (n al : Nat) : Except Cause (List Byte) :=
  match spadSpan (s.team? (strandOf r)) (runSpan va n) with
  | some c => .error c
  | none =>
    if va.toNat % al ≠ 0 then .error .align
    else
      let base := ((s.team? (strandOf r)).map (·.spadBase)).getD 0
      .ok (Tbl.readRun 0 (s.cluster r.die r.cl).spad (base + (va.toNat - windowBase)) n)

/-- The range that an image of QSLOT describes. -/
def imageRange (b : List Byte) : Range :=
  let h := leNat (b.take 16)
  let ctl := nat b 144 8
  { v := h % 2 == 1, nslot := BitVec.ofNat 5 (h / 2 ^ 11), base := BitVec.ofNat 32 (h / 2 ^ 64),
    len := BitVec.ofNat 32 (h / 2 ^ 96),
    slots := (List.range 32).map fun n => (n, BitVec.ofNat 18 (nat b (16 + 4 * n) 4)),
    tmo := BitVec.ofNat 8 (ctl / 2 ^ 16), cv := ctl / 256 % 2 == 1, cntr := BitVec.ofNat 8 ctl }

/-- QSLOT's checks on its image (R290). -/
def State.imageCheck (s : State) (m : RMem) (num : Nat) (b : List Byte) : Option Cause :=
  let h := leNat (b.take 16)
  let ctl := nat b 144 8
  let g := imageRange b
  let hi := g.base.toNat + g.len.toNat
  let stray := h / 2 % 1024 != 0 || (List.range 32).any (fun n => decide (2 ^ 18 ≤ nat b (16 + 4 * n) 4))
    || ctl / 2 ^ 24 % 128 != 0 || ctl / 512 % 128 != 0 || nat b 152 8 != 0
  let meets (p : Nat × Range) : Bool :=
    p.1 != num && p.2.v && decide (p.2.base.toNat < hi) && decide (g.base.toNat < p.2.base.toNat + p.2.len.toNat)
  if stray then some .operandReserved
  else if (g.v && g.len == 0) || decide (m.words < hi) then some .addrRange
  else if g.v && (s.ranges m).any meets then some .regionOverlap
  else none

/-- QSLOT. -/
def execQslot (h : Hdr) (acc clr : Bool) (a b : Reg) (s : State) : Res :=
  match s.cur with
  | .hub _ => s.issue (.qslot h acc clr a b) h {} .next
  | .seq r =>
    let num := field (s.X a) 0 6
    let m : RMem := if acc then .acc r.die r.cl else .stg r.die
    let img := s.imageAt r (s.X b) 160 32
    let rr := m.ref num
    s.issue (.qslot h acc clr a b) h
      { permit := some .mem
        early := fun _ => if acc && decide (15 < num) then some .addrRange else errorOf img
        late := fun s => s.imageCheck m num (img.toOption.getD [])
        room := fun s =>
          let g := s.range rr
          if g.tmd || (g.filled == 0 && g.contribs.isEmpty) then none else some .range } fun t =>
      let g := imageRange (img.toOption.getD [])
      let t1 := t.modRange rr fun _ => g
      .next ((if clr then t1.clearWords m g.base.toNat g.len.toNat else t1).finish h)

/-! ### CNT (R291) -/

/-- The checks of a handle: ADDR_RANGE, then XLATE_PERM for a counter of this package of another context, however the handle names
the package; `here` asks for a counter of this die (R274, R291). -/
def State.handleCause (s : State) (r : SeqRef) (h : Word) (here : Bool) : Option Cause :=
  let k := Handle.of h
  if !k.v || !s.handleOk h then some .addrRange
  else if here && (k.rmt || k.die != r.die) then some .addrRange
  else if (!k.rmt || k.mid == s.chain.self) && (s.counter k.die k.num).ctx != some (s.ctxOf (strandOf r)) then some .xlatePerm
  else none

/-- CARM. -/
def execCarm (h : Hdr) (a b : Reg) (s : State) : Res :=
  match s.cur with
  | .hub _ => s.issue (.carm h a b) h {} .next
  | .seq r =>
    let k := Handle.of (s.X a)
    let v := low32 (s.X b)
    let bad := s.handleCause r (s.X a) true
    s.issue (.carm h a b) h { permit := some .mem, early := fun _ => bad } fun t =>
      .next ((t.modCounter k.die k.num fun c => { c with value := v, ovf := false }).finish h)

/-- CRD. -/
def execCrd (h : Hdr) (d a : Reg) (s : State) : Res :=
  match s.cur with
  | .hub _ => s.issue (.crd h d a) h {} .next
  | .seq r =>
    let k := Handle.of (s.X a)
    let bad := s.handleCause r (s.X a) true
    s.issue (.crd h d a) h { permit := some .mem, early := fun _ => bad } fun t =>
      let c := t.counter k.die k.num
      .next ((t.putNow d (BitVec.ofNat 64 ((if c.ovf then 2 ^ 32 else 0) + c.value.toNat))).finish h)

/-- What a CWAIT comes to: it ends when the counter has come to the threshold, or at its deadline, and is then a phase boundary
(R286, R291). -/
def cwaitHold (d : Reg) (s : State) (c : Cmd) : Hold :=
  match s.cur with
  | .hub _ => .ends s
  | .seq r =>
    let k := Handle.of c.xa
    let v := (s.counter k.die k.num).value
    let met := decide (low32 c.xb ≤ v)
    if met || c.head.any fun x => decide (x ≤ s.tsc r.die) then
      let s1 := s.modMe fun q => { q with phase := s.tsc r.die }
      .ends (s1.endHold c d (BitVec.ofNat 64 ((if met then 0 else 2 ^ 63) + v.toNat)))
    else .stays s

/-- CWAIT (R291). -/
def execCwait (h : Hdr) (d a b : Reg) (tmo : BitVec 16) (s : State) : Res :=
  match s.cur with
  | .hub _ => s.issue (.cwait h d a b tmo) h {} .next
  | .seq r =>
    let bad := s.handleCause r (s.X a) true
    s.issue (.cwait h d a b tmo) h { permit := some .mem, early := fun _ => bad } fun t =>
      let w := wtagDeadline (s.tsc r.die) tmo
      t.holdIn (t.heldCmd (.cwait h d a b tmo) h (s.X a) (s.X b) w) (.counter w) (cwaitHold d)

end Sys2Proof.Machine
end

