-- ==== Sys2Proof/Machine/Pages.lean ====
section
/-! DEFINITION. Translation entries loaded by a hub and by its firmware from a context's page list (R344, R356). -/

namespace Sys2Proof.Machine

/-! ### Entries (R344) -/

/-- What TLD and PMLD answer when they load nothing. -/
def notLoaded : Word := 0x8000000000000000#64

/-- The next unlocked index from `from_` on, in round-robin order over `n`. -/
def nextUnlocked (locked : Nat → Bool) (from_ n : Nat) : Option Nat :=
  ((List.range n).map fun k => (from_ + k) % n).find? fun k => !locked k

/-- The translation entry of an index. -/
def Die.tmEntry (d : Die) (n : Nat) : BitVec 64 := Tbl.get 0 d.tm n

/-- The index that TLD takes, and whether it was chosen in round-robin order (R344). -/
def Die.tldIndex (d : Die) (v : BitVec 64) (idx : Option (BitVec 12)) : Option (Nat × Bool) :=
  match idx with
  | some n => some (n.toNat, false)
  | none =>
    let same := d.tm.find? fun p => p.2.getLsbD 12 && field p.2 33 31 == field v 33 31
    match same with
    | some (n, e) => if e.getLsbD 13 then none else some (n, false)
    | none =>
      match (List.range 4096).find? fun n => !(d.tmEntry n).getLsbD 12 with
      | some n => if (d.tmEntry n).getLsbD 13 then none else some (n, false)
      | none => (nextUnlocked (fun n => (d.tmEntry n).getLsbD 13) d.tmNext 4096).map fun n => (n, true)

/-- TLD on a die: the index used, or 2^63. -/
def State.tld (s : State) (die : Nat) (v : BitVec 64) (idx : Option (BitVec 12)) : State × Word :=
  if field v 0 12 ≠ 0 ∨ 4 ≤ entryClass v then (s, notLoaded)
  else match (s.die die).tldIndex v idx with
    | none => (s, notLoaded)
    | some (n, turn) =>
      (s.modDie die fun d =>
        { d with tm := Tbl.set 0 d.tm n v, tmNext := if turn then (n + 1) % 4096 else d.tmNext
                 badTm := d.badTm.filter (· != n) }, BitVec.ofNat 64 n)

/-! ### Page lists (R356) -/

/-- Entry of a context's page list for a virtual page. -/
def State.listed (s : State) (ctx : BitVec 4) (vpn : Nat) : Option (BitVec 64) :=
  (Tbl.get {} s.ctxs ctx.toNat).pages.bind fun (pa, n) =>
    ((List.range n).map fun k => le64 (s.readMem (pa + 8 * k) 8)).find? fun e => e.getLsbD 12 && field e 37 27 == vpn

/-- Firmware of a die loads a missing page from the context's list. -/
def State.servePage (s : State) (die : Nat) (ctx : BitVec 4) (vpn : Nat) : State :=
  match tmLookup (s.die die).goodTm ctx vpn with
  | some _ => s
  | none =>
    match s.listed ctx vpn with
    | some e => (s.tld die e none).1
    | none => s

/-- The same for every page of a run of bytes. -/
def State.servePages (s : State) (die : Nat) (ctx : BitVec 4) (va n : Nat) : State :=
  (pieces va n (n / 0x200000 + 2)).foldl (fun a (v, _) => a.servePage die ctx (v / 0x200000)) s

end Sys2Proof.Machine
end

