-- ==== Sys2Proof/Machine/Fabric.lean ====
section
/-! DEFINITION. Remote access and work entries (R269, R271 to R273, R276 to R289, R291). -/

namespace Sys2Proof.Machine

/-! ### Remote pointers (R272) -/

def ptrRmt (p : Word) : Bool := p.getLsbD 63
def ptrMid (p : Word) : Nat := field p 48 5

/-- Whether a pointer's reserved bits are zero and its member is one that it may name. -/
def State.ptrOk (s : State) (p : Word) (acc : Bool) : Bool :=
  field p 53 10 == 0 && (!acc || (field p 43 5 == 0 && field p 38 2 == 0 && field p 17 15 == 0))
    && (if ptrRmt p then s.chain.knows (ptrMid p) else ptrMid p == 0)

/-- Whether a pointer leads to another member. -/
def State.ptrFar (s : State) (p : Word) : Bool := ptrRmt p && ptrMid p != s.chain.self

/-- The memory and word that a pointer names as the destination of a contribution, translated on a die in a context
(R272, R283). -/
def State.redTarget (s : State) (die : Nat) (ctx : BitVec 4) (p : Word) (acc : Bool) (k : AccKind := .reduce) :
    Except Cause (RMem × Nat) :=
  if acc then (if 54 ≤ field p 32 6 then .error .addrRange else .ok (.acc (field p 40 3) (field p 32 6), field p 0 17))
  else
    match (s.place die ctx none (p &&& 0xFFFFFFFFFFFF#64) 4).bind (checkPlace k) with
    | .error c => .error c
    | .ok pa => .ok (.stg (stgRef pa).1, (stgRef pa).2)

/-- The slab runs of `n` bytes at a virtual address, for an access of a kind. -/
def State.slabRuns (s : State) (die : Nat) (ctx : BitVec 4) (va n : Nat) (k : AccKind) : Except Cause (List (Nat × Nat)) :=
  (pieces va n (n / 0x200000 + 2)).mapM fun (v, m) =>
    ((s.place die ctx none (BitVec.ofNat 64 v) 1).bind (checkPlace k)).map fun pa => (pa, m)

/-- What the performing of a unit answers: done, or refused with a status. -/
inductive UnitAns where
  | done
  | status (w : BitVec 64)
deriving DecidableEq, Repr

/-- A failed translation at the home of a unit: NACK and an XLATE_MISS record for a missing entry, which firmware loads
from the context's page list; else FAULT (R287). -/
def State.unitFail (s : State) (die : Nat) (ctx : BitVec 4) (unit va : Nat) (c : Cause) : State × UnitAns :=
  if c = .xlateMiss then
    (((s.missRecord die ctx (va / 0x200000)).post die
        { cause := .xlateMiss, detail := BitVec.ofNat 64 (va / 0x200000) }).servePage die ctx (va / 0x200000),
      .status (statusWord 1 unit 0))
  else (s, .status (statusWord 5 unit 0))

/-- A unit of a write performed here (R277, R287): PLAIN bytes, or words of an accumulator. -/
def State.writeUnit (s : State) (die : Nat) (ctx : BitVec 4) (dst : Word) (acc : Bool) (unit : Nat) (bs : List Byte) :
    State × UnitAns :=
  if acc then
    let w := field dst 0 17
    let n := bs.length / 4
    if 54 ≤ field dst 32 6 ∨ accWords < w + n then (s, .status (statusWord 5 unit 0))
    else
      (s.modCluster (field dst 40 3) (field dst 32 6) fun c =>
        (List.range n).foldl (fun x j => x.accPut (w + j) (BitVec.ofNat 32 (nat bs (4 * j) 4))) c, .done)
  else
    match s.slabRuns die ctx (field dst 0 48) bs.length .remote with
    | .error c => s.unitFail die ctx unit (field dst 0 48) c
    | .ok runs =>
      let go (a : State × List Byte) (p : Nat × Nat) : State × List Byte :=
        (a.1.writeSlab die p.1 (a.2.take p.2), a.2.drop p.2)
      ((runs.foldl go (s, bs)).1, .done)

/-- The values of a contribution's bytes. -/
def redValues (fmt : Fmt) (bs : List Byte) : List ExtNum :=
  (List.range (bs.length / fmt.size)).map fun i => fmt.decode (nat bs (i * fmt.size) fmt.size)

/-! ### At the home: units, reads, contributions, counters (R271, R283, R287, R291) -/

/-- The range in which another member's contribution stands. -/
def State.farContrib (s : State) (mid req : Nat) : Option RangeRef :=
  let has (g : Range) : Bool := g.contribs.any fun k => k.who == .member mid req
  (s.clusters.findSome? fun (k, c) => (c.ranges.find? fun p => has p.2).map fun p => RangeRef.acc (k / 64) (k % 64) p.1).orElse
    fun _ => s.dies.findSome? fun (k, d) => (d.ranges.find? fun p => has p.2).map fun p => RangeRef.stg k p.1

/-- No further unit of a command is performed (R271). -/
def State.refuse (s : State) (mid req : Nat) : State :=
  { s with refused := if s.refused.contains (mid, req) then s.refused else (mid, req) :: s.refused }

/-- A unit of a contribution refused at its home: before its first unit it loses its slot; after a timeout it leaves the
range with its slot unfilled (R167, R284). -/
def State.refuseRed (s : State) (rr : RangeRef) (mid req : Nat) : State :=
  let who := Contributor.member mid req
  let g := s.range rr
  if g.expired || !(s.contrib? rr who).any (·.begun) then s.leaveRange rr who
  else s.modContrib rr who fun k => { k with go := false }

/-- A unit of another member's contribution. -/
def State.redUnit (s : State) (die mid : Nat) (w : WrUnit) (bs : List Byte) : State × UnitAns :=
  match s.farContrib mid w.req with
  | none => (s, .status (statusWord 5 w.unit 0))
  | some rr =>
    let g := s.range rr
    let m := rangeMem rr
    let late := g.expired && decide (windowOf ((g.started.getD 0) + 4096 * g.tmo.toNat) ≤ w.window)
    if late then (s, .status (statusWord 3 0 g.missing.toNat))
    else
      match s.redTarget die w.ctx w.dst w.acc with
      | .error c => s.unitFail die w.ctx w.unit (field w.dst 0 48) c
      | .ok (_, at_) =>
        match s.softWords m at_ (bs.length / (if w.bf16 then 2 else 4)) with
        | some d => (s.post m.die { cause := .sramUncorr, detail := d }, .status (statusWord 5 w.unit 0))
        | none =>
        let s1 := (s.addWords m at_ (redValues (if w.bf16 then .bf16 else .fp32) bs) (redAdd w.rm)).modContrib rr
          (.member mid w.req) fun k => { k with begun := true }
        (if w.last then (s1.fillSlot rr (.member mid w.req)).refuse mid w.req else s1, .done)

/-- The status of a unit that its home refuses as late, or behind one that it has refused: TIMEOUT for a contribution to a round
whose timer has expired, else NACK (R271, R284). -/
def State.lateStatus (s : State) (mid req unit : Nat) : BitVec 64 :=
  match s.farContrib mid req with
  | some rr => if (s.range rr).expired then statusWord 3 0 (s.range rr).missing.toNat else statusWord 1 unit 0
  | none => statusWord 1 unit 0

/-- A unit of another member refused (R271, R284). -/
def State.refuseUnit (s : State) (mid req unit : Nat) (st : BitVec 64) : State :=
  let s1 := (s.refuse mid req).send (.wrnack mid req unit st)
  match s1.farContrib mid req with
  | some rr => (s1.refuseRed rr mid req).settleRange rr
  | none => s1

/-- A unit whose bytes have come: performed before window N + 2 and acknowledged, or refused (R271). -/
def State.performUnit (s : State) (die mid : Nat) (w : WrUnit) (bs : List Byte) : State :=
  let late := w.window + 2 ≤ windowOf (s.tsc die)
  let (s1, a) :=
    if s.refused.contains (mid, w.req) ∨ late then (s, UnitAns.status (s.lateStatus mid w.req w.unit))
    else if w.red.isSome then s.redUnit die mid w bs
    else s.writeUnit die w.ctx w.dst w.acc w.unit bs
  match a with
  | .done =>
    let s2 := if w.last then s1.bump die w.ctx w.rcnt 1 else s1
    s2.send (.wrack mid w.req w.unit)
  | .status st => s1.refuseUnit mid w.req w.unit st

/-- A sequencer's command of that number. -/
def State.findColl (s : State) (req : Nat) : Option (SeqRef × Cmd) :=
  s.seqs.findSome? fun (k, q) => (q.collQ.find? fun c => c.req == req && req != 0).map fun c => (refOfKey k, c)

/-- Kind and size of a remote command: elements or bytes, bytes of an element, whether it reads or reduces. -/
structure RemCmd where
  bytes : Nat
  esz : Nat
  fmt : Fmt
  read : Bool
  red : Bool
  acc : Bool
  rm : RMode
deriving DecidableEq, Repr

def remOf (c : Cmd) : Option RemCmd :=
  let n := field c.xd 0 32
  match c.ins with
  | .rwr .. => some ⟨n, 1, .i8, false, false, false, .rne⟩
  | .rrd .. => some ⟨n, 1, .i8, true, false, false, .rne⟩
  | .rwrr _ acc rm f .. => some ⟨n * f.size, f.size, f, false, true, acc, rm⟩
  | _ => none

def RemCmd.units (k : RemCmd) : Nat := (k.bytes + 4095) / 4096

/-- Bytes of unit `u`. -/
def RemCmd.len (k : RemCmd) (u : Nat) : Nat := min 4096 (k.bytes - 4096 * u)

/-- A pointer moved on to unit `u`. -/
def RemCmd.at_ (k : RemCmd) (p : Word) (u : Nat) : Word :=
  let els := 4096 * u / k.esz
  p + BitVec.ofNat 64 (if k.acc then els else if k.red then 4 * els else 4096 * u)

/-- The units of a read that its command gives up: bytes that still come for them are thrown away (R288). -/
def State.leaveReads (s : State) (r : SeqRef) (c : Cmd) : State :=
  match remOf c with
  | none => s
  | some k =>
    let mid := ptrMid c.xa
    let here (u : Nat) : Bool := (s.link (.data r.die) mid).expect.any fun e => match e with
      | .read req unit _ => req == c.req && unit == u
      | _ => false
    let us := ((List.range c.sent.length).map fun i => c.pix + i).filter fun u => !here u
    if k.read then { s with lateReads := s.lateReads ++ us.map fun u => ⟨r.die, mid, c.req, u, k.len u⟩ } else s

/-- A unit of a remote command is committed; with the last one it completes (R288). -/
def State.commitUnit (s : State) (r : SeqRef) (c : Cmd) (k : RemCmd) : State :=
  let c' := { c with pix := c.pix + 1, sent := c.sent.drop 1 }
  let s1 := s.modColl r c.seqNo fun _ => c'
  if k.units ≤ c'.pix then s1.collEnd r c' 0 else s1

/-- A command whose unit is not performed: a trap where the cause is unmasked, else its status word (R288).  One that traps for
REMOTE_TIMEOUT may still hold its slot at the home, which its stop then gives up (R167). -/
def State.collFail (s : State) (r : SeqRef) (c : Cmd) (w : BitVec 64) : State :=
  let st := strandOf r
  let s1 := s.leaveReads r c
  let stop (k : Cause) (f : Cmd → Cmd) : State :=
    if s1.masked st k then s1.collEnd r c w
    else (s1.modColl r c.seqNo fun c => f { c with sent := [] }).raise r k .u c.addr c.pix 0
  match w.toNat % 8 with
  | 1 => stop .remoteNack fun c => { c with remote := .idle, req := 0 }
  | 2 => stop .remoteTimeout id
  | _ => s1.collEnd r c w

/-- A read unit comes back: it is written into the scratchpad and committed (R288). -/
def State.readBack (s : State) (req unit : Nat) (bs : List Byte) : State :=
  match s.findColl req with
  | none => s
  | some (r, c) =>
    match remOf c with
    | none => s
    | some k =>
      if c.pix ≠ unit ∨ c.sent.isEmpty then s
      else match (writeV (c.xb.toNat + 4096 * unit : Nat) bs).run ⟨s, r, c⟩ with
        | .error (cause, detail) =>
          ((s.leaveReads r { c with pix := unit + 1, sent := c.sent.drop 1 }).modColl r c.seqNo fun c =>
            { c with sent := [] }).unitTrap r c cause detail
        | .ok ((), x) => x.s.commitUnit r x.c k

/-- Bytes that a unit takes in whole flits. -/
def flitBytes (n : Nat) : Nat := (n + 511) / 512 * 512

/-- The bytes that have come to a die from a peer go to the units that wait for them, at most `n` of them. -/
def State.consume (s : State) (die mid : Nat) : Nat → State
  | 0 => s
  | n + 1 =>
    let l := s.link (.data die) mid
    match l.expect with
    | [] => s
    | e :: rest =>
      let len := match e with
        | .write _ w => w.len
        | .read _ _ m => m
        | .refused _ _ => 0
      if l.inbox.length < flitBytes len then s
      else
        let bs := l.inbox.take len
        let s1 := s.modLink (.data die) mid fun l => { l with inbox := l.inbox.drop (flitBytes len), expect := rest }
        (match e with
          | .write d w => s1.performUnit d mid w bs
          | .read req unit _ => s1.readBack req unit bs
          | .refused req st =>
            match s1.findColl req with
            | some (r, c) => s1.collFail r c st
            | none => s1).consume die mid n

def State.consumeAll (s : State) (die mid : Nat) : State :=
  s.consume die mid ((s.link (.data die) mid).expect.length + 1)

/-- What the next bytes from a peer to a die are for. -/
def State.awaitBytes (s : State) (die mid : Nat) (e : Expect) : State :=
  (s.modLink (.data die) mid fun l => { l with expect := l.expect ++ [e] }).consumeAll die mid

/-- DATA_FLIT: checked, acknowledged, delivered in SEQ order: on chain lanes into the frame, else to the units of the die and the
peer that sent it (R266; log entry 93). -/
def execDataFlit (die lane : Nat) (fl : DataFlit) (s : State) : Res :=
  match (s.lane die lane).path die fl.src with
  | none => .next s
  | some p =>
    let (s1, ps) := s.receive p die lane fl
    .next (match p with
      | .chain d => ps.foldl (fun a p => a.chainFlit d p) s1
      | .data d => (s1.modLink p fl.mid fun l => { l with inbox := l.inbox ++ ps.flatten }).consumeAll d fl.mid)

/-- WRHDR: a unit's header; the unit is performed once its bytes have come. -/
def execWrhdr (mid die : Nat) (wr : WrUnit) (s : State) : Res := .next (s.awaitBytes die mid (.write die wr))

/-- REMOTE_UNIT_DEADLINE: window N + 2 begins before a unit is performed: it and the rest of its command are refused
(R271, R284). -/
def execRemoteUnitDeadline (die req : Nat) (s : State) : Res :=
  let late (mid : Nat) (e : Expect) : Bool := match e with
    | .write d w => d == die && w.req == req && decide (w.window + 2 ≤ windowOf (s.tsc die)) && !s.refused.contains (mid, req)
    | _ => false
  match (List.range 32).findSome? fun mid => ((s.link (.data die) mid).expect.find? (late mid)).map fun e => (mid, e) with
  | some (mid, .write _ w) => .next (s.refuseUnit mid req w.unit (s.lateStatus mid req w.unit))
  | _ => .next s

/-- RDREQ: the unit is read and returned with its acknowledgement, or refused, and with it the later units of its command (R271,
R287, R288). -/
def execRdreq (mid die : Nat) (rd : RdUnit) (s : State) : Res :=
  let now := windowOf (s.tsc die)
  let no (s : State) (st : BitVec 64) : Res := .next (s.refuseUnit mid rd.req rd.unit st)
  if rd.window + 2 ≤ now ∨ s.refused.contains (mid, rd.req) then no s (statusWord 1 rd.unit 0)
  else match s.slabRuns die rd.ctx rd.va.toNat rd.len .read with
    | .error c =>
      let (s1, a) := s.unitFail die rd.ctx rd.unit rd.va.toNat c
      no s1 (match a with
        | .status w => w
        | .done => 0)
    | .ok runs =>
      match runs.findSome? fun p => s.badAt p.1 p.2 with
      | some w => no (s.post die { cause := .sramUncorr, detail := BitVec.ofNat 64 w }) (statusWord 5 rd.unit 0)
      | none =>
        let s1 := runs.foldl (fun a p => a.corrected p.1 p.2) s
        let bs := runs.flatMap fun p => s.readMem p.1 p.2
        .next ((s1.send (.wrack mid rd.req rd.unit)).sendBytes (.data die) mid now bs)

/-- Contributions of other members whose turn has come get REDGO; one of no elements is done with it (R283). -/
def State.grant (s : State) (rr : RangeRef) : State :=
  let g := s.range rr
  match g.contribs.find? fun k => (k.who matches .member ..) && !k.go && !k.begun && g.ready k with
  | some k =>
    match k.who with
    | .member mid req =>
      let s1 := (s.modContrib rr k.who fun k => { k with go := true }).send (.redgo mid req)
      if k.count = 0 then (s1.fillSlot rr k.who).refuse mid req else s1
    | _ => s
  | none => s

/-- Every range with contributions of other members, granted what has come to its turn. -/
def State.grantAll (s : State) : State :=
  let far (g : Range) : Bool := g.contribs.any fun k => (k.who matches .member ..) && !k.go && !k.begun
  let refs (m : RMem) (t : Tbl Range) : List RangeRef := (t.filter fun p => far p.2).map fun p => m.ref p.1
  let all := (s.clusters.flatMap fun (k, c) => refs (.acc (k / 64) (k % 64)) c.ranges)
    ++ s.dies.flatMap fun (k, d) => refs (.stg k) d.ranges
  all.foldl (fun a rr => a.grant rr) s

/-- REDHDR: the home claims a slot for the contribution (R163, R283).  A header that repeats a number withdraws it, does nothing
once that number has ended, and one whose requester had begun under another number continues that one (R167, log entry 21). -/
def execRedhdr (mid die : Nat) (rh : RedHdr) (s : State) : Res :=
  let who := Contributor.member mid rh.req
  match s.farContrib mid rh.req with
  | some rr => .next ((s.leaveRange rr who).refuse mid rh.req)
  | none =>
    if s.refused.contains (mid, rh.req) then .next s
    else
    let no (s : State) (st : BitVec 64) : Res := .next ((s.refuse mid rh.req).send (.wrnack mid rh.req 0 st))
    match s.redTarget die rh.ctx rh.dst rh.acc with
    | .error c =>
      let (s1, a) := s.unitFail die rh.ctx 0 (field rh.dst 0 48) c
      no s1 (match a with
        | .status w => w
        | .done => 0)
    | .ok (m, w) =>
      match s.findRange m w rh.count.toNat with
      | none => no s (statusWord 5 0 0)
      | some rr =>
        let g := s.range rr
        let mine (k : Contrib) : Bool := k.rq == rh.requester && k.begun && !k.go && (match k.who with
          | .member n req => n == mid && s.refused.contains (mid, req)
          | _ => false)
        if g.tmd then no s (statusWord 3 0 g.miss.toNat)
        else if !g.admits rh.requester then no s (statusWord 5 0 0)
        else match g.contribs.find? mine with
          | some k => .next ((s.modContrib rr k.who fun k => { k with who := who, go := true }).send (.redgo mid rh.req))
          | none => .next ((s.joinRange rr ⟨who, rh.requester, rh.count.toNat, none, false, false⟩).grant rr)

/-- CNTADD: performed and acknowledged, or refused late or, where a CADD names it, at a counter of another context (R271,
R274, R291); an increment of LCNT or DONEC, whose request number is 0, asks for no context (R278, R319, log entry 80). -/
def execCntadd (mid die : Nat) (ca : CntAdd) (s : State) : Res :=
  let k := Handle.of ca.handle
  if ca.window + 2 ≤ windowOf (s.tsc die) ∨ (ca.req ≠ 0 ∧ (s.counter k.die k.num).ctx ≠ some ca.ctx) then
    .next (s.send (.wrnack mid ca.req 0 (statusWord 1 0 0)))
  else .next ((s.counterAdd k.die k.num ca.addend.toNat).send (.wrack mid ca.req 0))

/-! ### RWR, RRD, RWRR at the sender (R287, R288) -/

/-- RWR, RRD and RWRR at issue: the pointer, then the scratchpad span, then what RWRR checks as CPYR does. -/
def State.remoteCmd (s : State) (i : Instr) (h : Hdr) (d a b : Reg) : Res :=
  match s.cur with
  | .hub _ => s.issue i h {} .next
  | .seq r =>
    let c : Cmd := { ins := i, seqNo := 0, addr := 0, xd := s.X d, xa := s.X a, xb := s.X b }
    match remOf c with
    | none => s.issue i h {} .next
    | some k =>
      let bad : Option Cause :=
        if k.red ∧ k.fmt ≠ .fp32 ∧ k.fmt ≠ .bf16 then some .formatIllegal
        else if !s.ptrOk c.xa k.acc || (!k.red && !ptrRmt c.xa) then some .addrRange
        else (spadSpan (s.team? (strandOf r)) (runSpan c.xb k.bytes)).orElse fun _ =>
          if k.red && (c.xb.toNat % k.esz != 0 || (!k.acc && c.xa.toNat % 4 != 0)) then some .align else none
      s.issue i h { permit := some .mem, early := fun _ => bad, room := State.engineRoom r .coll 16 } fun t =>
        .next (t.enqueue r .coll i h c.xd c.xa c.xb)

/-- RWR. -/
def execRwr (h : Hdr) (d a b : Reg) (s : State) : Res := s.remoteCmd (.rwr h d a b) h d a b

/-- RRD. -/
def execRrd (h : Hdr) (d a b : Reg) (s : State) : Res := s.remoteCmd (.rrd h d a b) h d a b

/-- RWRR. -/
def execRwrr (h : Hdr) (acc : Bool) (rm : RMode) (fmt : Fmt) (d a b : Reg) (s : State) : Res :=
  s.remoteCmd (.rwrr h acc rm fmt d a b) h d a b

/-- The next unit of a command sent, while earlier ones are on their way (R271, R288). -/
def State.sendUnit (s : State) (r : SeqRef) (c : Cmd) (k : RemCmd) : State :=
  let u := c.pix + c.sent.length
  let now := windowOf (s.tsc r.die)
  let mid := ptrMid c.xa
  let ctx := s.ctxOf (strandOf r)
  let len := k.len u
  let dst := k.at_ c.xa u
  let sent (s : State) : State := s.modColl r c.seqNo fun c => { c with sent := c.sent ++ [now] }
  if k.units ≤ u then s
  else if k.read then sent (s.send (.rdreq mid ⟨c.req, u, now, ctx, dst.setWidth 48, len⟩))
  else match (readV (c.xb.toNat + 4096 * u : Nat) len).run ⟨s, r, c⟩ with
    | .error (cause, detail) => if c.sent.isEmpty then s.unitTrap r c cause detail else s
    | .ok (bs, x) =>
      let w : WrUnit :=
        { req := c.req, unit := u, window := now, ctx := ctx, dst := dst, len := len,
          red := if k.red then some (s.rqid r) else none, acc := k.acc, bf16 := k.fmt == .bf16, rm := k.rm,
          last := decide (k.units ≤ u + 1), rcnt := 0 }
      sent ((x.s.send (.wr mid w)).sendBytes (.data r.die) mid now bs)

/-- One command that is the first of its sequencer to its member goes on: UNREACH to a bypassed member, REDHDR, the next
unit, or its end (R269, R272, R283, R288). -/
def State.pumpCmd (s : State) (r : SeqRef) (c0 : Cmd) : State :=
  match remOf c0 with
  | none => s
  | some k =>
    let (s1, c) := if c0.req ≠ 0 then (s, c0)
      else
        let c := { c0 with req := s.nextReq }
        ({ s with nextReq := s.nextReq + 1 }.modColl r c0.seqNo fun _ => c, c)
    if s1.chain.skipped (ptrMid c.xa) then (s1.leaveReads r c).collEnd r c (statusWord 2 c.pix 0)
    else if k.red && c.remote == .idle then
      (s1.modColl r c.seqNo fun c => { c with remote := .askedGo }).send (.redhdr (ptrMid c.xa)
        ⟨c.req, s.rqid r, s.ctxOf (strandOf r), c.xa, k.acc, low32 c.xd⟩)
    else if c.remote == .askedGo then s1
    else if k.units ≤ c.pix then s1.collEnd r c 0
    else s1.sendUnit r c k

/-- The members that a sequencer's commands lead to. -/
def State.farMids (s : State) (q : Seq) : List Nat :=
  ((q.collQ.filter fun c => s.ptrFar c.xa).map fun c => ptrMid c.xa).eraseDups

/-- The commands of a sequencer that may go on: to each member the first. -/
def State.pumpSeq (s : State) (r : SeqRef) : State :=
  if !s.runs r then s
  else (s.farMids (s.seq r)).foldl (fun a mid =>
    match (a.seq r).collQ.find? fun c => a.ptrFar c.xa && ptrMid c.xa == mid with
    | some c => if a.runs r then a.pumpCmd r c else a
    | none => a) s

/-- REDGO: the contributor sends its units. -/
def execRedgo (req : Nat) (s : State) : Res :=
  match s.findColl req with
  | some (r, c) =>
    if c.remote = .askedGo then
      let s1 := s.modColl r c.seqNo fun c => { c with remote := .granted }
      .next (if s1.runs r then s1.pumpCmd r { c with remote := .granted } else s1)
    else .next s
  | none =>
    .next { s with dies := s.dies.map fun (k, d) => (k, { d with qps := d.qps.map fun (j, q) =>
      (j, { q with entries := q.entries.map fun e =>
        if e.req = req ∧ e.remote = .askedGo ∧ req ≠ 0 then { e with remote := .granted } else e }) }) }

/-! ### Local RWRR, and CPYR_ADD (R166, R283) -/

/-- The first RWRR of a sequencer whose range is in this package, as far as one unit; it raises nothing (R283). -/
def State.rwrrServe (s : State) (r : SeqRef) (c : Cmd) (k : RemCmd) : State :=
  let n := field c.xd 0 32
  match s.redTarget r.die (s.ctxOf (strandOf r)) c.xa k.acc with
  | .error e =>
    let (s1, a) := s.unitFail r.die (s.ctxOf (strandOf r)) c.pix (field c.xa 0 48) e
    match a with
    | .done => s1
    | .status w => s1.collFail r c w
  | .ok (m, w) =>
    match s.findRange m w n with
    | none => s.collEnd r c (statusWord 5 c.pix 0)
    | some rr =>
      let per := 4096 / k.esz
      match s.contribute r .coll c rr w n per (redAdd k.rm) (readUnit c.xb k.fmt n per) with
      | (s1, .waits) => s1
      | (s1, .unit false) => s1
      | (s1, .unit true) => s1.collEnd r c 0
      | (s1, .refused) => s1.collEnd r c (statusWord 5 c.pix 0)
      | (s1, .failed cause detail) => s1.unitTrap r c cause detail
      | (s1, .soft detail) =>
        ((s1.post (rangeMem rr).die { cause := .sramUncorr, detail := detail }).leaveRange rr
          (.seq r c.seqNo)).collEnd r c (statusWord 5 c.pix 0)
      | (s1, .timedOut) => s1.collEnd r c (statusWord 3 0 (s1.range rr).miss.toNat)

/-- An RWR or RRD whose pointer names this package itself by its member index, as far as one unit (R272, R288; log entry 94). -/
def State.ownServe (s : State) (r : SeqRef) (c : Cmd) (k : RemCmd) : State :=
  let ctx := s.ctxOf (strandOf r)
  let len := k.len c.pix
  let spad : Int := (c.xb.toNat + 4096 * c.pix : Nat)
  let dst := k.at_ c.xa c.pix
  let end_ (s : State) (a : UnitAns) : State := match a with
    | .done => s.commitUnit r c k
    | .status w => s.collFail r c w
  if k.units ≤ c.pix then s.collEnd r c 0
  else if k.read then
    match s.slabRuns r.die ctx (field dst 0 48) len .read with
    | .error e => let (s1, a) := s.unitFail r.die ctx c.pix (field dst 0 48) e; end_ s1 a
    | .ok runs =>
      match runs.findSome? fun p => s.badAt p.1 p.2 with
      | some w => (s.post r.die { cause := .sramUncorr, detail := BitVec.ofNat 64 w }).collEnd r c (statusWord 5 c.pix 0)
      | none =>
        let s1 := runs.foldl (fun a p => a.corrected p.1 p.2) s
        match (writeV spad (runs.flatMap fun p => s.readMem p.1 p.2)).run ⟨s1, r, c⟩ with
        | .error (cause, detail) => s1.unitTrap r c cause detail
        | .ok ((), x) => end_ x.s .done
  else
    match (readV spad len).run ⟨s, r, c⟩ with
    | .error (cause, detail) => s.unitTrap r c cause detail
    | .ok (bs, x) => let (s1, a) := x.s.writeUnit r.die ctx dst k.acc c.pix bs; end_ s1 a

/-- CPYR_ADD: one unit of the CPYR at the head of a copy queue, and of the first remote command that leads to this package. -/
def execCpyrAdd (g : Agent) (s : State) : Res :=
  match g with
  | .hub _ => .next s
  | .seq r =>
    let s1 := match (s.seq r).copyQ with
      | c :: _ =>
        match c.ins with
        | .cpyr _ acc rm f _ _ _ => if s.runs r then s.cpyrServe r c acc rm f else s
        | _ => s
      | [] => s
    match (s1.seq r).collQ.find? fun c => !s1.ptrFar c.xa with
    | some c =>
      match remOf c with
      | some k => .next (if !s1.runs r then s1 else if k.red then s1.rwrrServe r c k else s1.ownServe r c k)
      | none => .next s1
    | none => .next s1

/-! ### CADD (R273, R291) -/

/-- CADD. -/
def execCadd (h : Hdr) (a b : Reg) (s : State) : Res :=
  match s.cur with
  | .hub _ => s.issue (.cadd h a b) h {} .next
  | .seq r =>
    let i : Instr := .cadd h a b
    let k := Handle.of (s.X a)
    let v := low32 (s.X b)
    let bad := s.handleCause r (s.X a) false
    let far := k.rmt && k.mid != s.chain.self
    if !far then
      s.issue i h { permit := some .mem, early := fun _ => bad } fun t =>
        .next ((t.counterAdd k.die k.num v.toNat).finish h)
    else
      let before (s : State) : Bool := (s.seq r).collQ.any fun c => s.ptrFar c.xa && ptrMid c.xa == k.mid
      s.issue i h
        { permit := some .mem, early := fun _ => bad, room := fun s => if before s then some .room else none } fun t =>
        if t.chain.skipped k.mid then .next (t.finish h)
        else
          let now := windowOf (t.tsc r.die)
          let c : Cmd := { t.heldCmd i h (s.X a) (s.X b) with req := t.nextReq, remote := .sent 0 now }
          let t1 := { t with nextReq := t.nextReq + 1 }.modMe fun q => { q with wait := some .held, held := some c }
          .next (t1.send (.cntadd k.mid ⟨c.req, now, t.ctxOf (strandOf r), s.X a, v⟩))

/-- The sequencer that waits in the remote CADD of that number. -/
def State.findCadd (s : State) (req : Nat) : Option (SeqRef × Cmd) :=
  s.seqs.findSome? fun (k, q) =>
    (q.held.filter fun c => c.req == req && req != 0 && (c.ins matches .cadd ..)).map fun c => (refOfKey k, c)

/-- A remote CADD ends: performed, refused (REMOTE_NACK unless masked), or unreached (log entry 20). -/
def State.caddEnd (s : State) (r : SeqRef) (c : Cmd) (status : Nat) : State :=
  let st := strandOf r
  if status = 1 ∧ !s.masked st .remoteNack then (s.recall r c).raise r .remoteNack .i c.addr 0 0
  else
    let s1 := s.modSeq r fun q => { q with wait := none, held := none }
    let (s2, ok) := s1.pushPost? r (hdrOf c.ins).pq c.addr 0
    if ok && status == 2 && !s2.masked st .remoteTimeout then s2.raise r .remoteTimeout .d c.addr 0 0 else s2

/-! ### Queue pairs and work entries (R276 to R280, R289) -/

/-- The fields of a work entry (R277). -/
structure Entry where
  op : Nat
  flags : Nat
  armc : Nat
  thresh : Nat
  count : Nat
  group : BitVec 32
  src : Word
  dst : Word
  lcnt : Word
  rcnt : Word
  stat : Word
  rqid : BitVec 18
deriving DecidableEq, Repr

def Entry.of (b : List Byte) : Entry :=
  ⟨nat b 0 1, nat b 1 1, nat b 2 1, nat b 4 4, nat b 8 4, BitVec.ofNat 32 (nat b 12 4), BitVec.ofNat 64 (nat b 16 8),
   BitVec.ofNat 64 (nat b 24 8), BitVec.ofNat 64 (nat b 32 8), BitVec.ofNat 64 (nat b 40 8), BitVec.ofNat 64 (nat b 48 8),
   BitVec.ofNat 18 (nat b 56 4)⟩

def Entry.acc (e : Entry) : Bool := e.flags.testBit 3
def Entry.fmt (e : Entry) : Fmt := if e.op = 2 then (if e.flags.testBit 0 then .bf16 else .fp32) else .i8
def Entry.rm (e : Entry) : RMode := RMode.ofCode (BitVec.ofNat 2 (e.flags / 2))

/-- Bytes of an entry's source. -/
def Entry.bytes (e : Entry) : Nat := e.count * e.fmt.size

/-- How an entry's data are sent (R278). -/
def Entry.rem (e : Entry) : RemCmd := ⟨e.bytes, e.fmt.size, e.fmt, false, e.op == 2, e.acc, e.rm⟩

/-- A handle of an image names a counter as R275 and R291 ask. -/
def State.imageHandle (s : State) (r : SeqRef) (h : Word) : Option Cause :=
  if (Handle.of h).v then s.handleCause r h false else none

/-- QPOST's checks of its image (R272, R277, R291). -/
def State.entryCheck (s : State) (r : SeqRef) (b : List Byte) : Option Cause :=
  let e := Entry.of b
  if 5 ≤ e.op ∨ 16 ≤ e.flags ∨ nat b 3 1 ≠ 0 ∨ nat b 60 4 ≠ 0 ∨ ((e.op = 0 ∨ e.op = 4) ∧ e.count ≠ 0) then
    some .operandReserved
  else if (e.op == 1 || e.op == 2) && !s.ptrOk e.dst e.acc then some .addrRange
  else
    (if e.op = 3 then s.imageHandle r e.dst else none).orElse fun _ =>
      (s.imageHandle r e.lcnt).orElse fun _ => s.imageHandle r e.rcnt

def State.qpair (s : State) (die n : Nat) : QPair := Tbl.get {} (s.die die).qps n

def State.modQpair (s : State) (die n : Nat) (f : QPair → QPair) : State :=
  s.modDie die fun d => { d with qps := Tbl.put d.qps n (f (Tbl.get {} d.qps n)) }

/-- QPOST (R289). -/
def execQpost (h : Hdr) (nb : Bool) (d a : Reg) (qp : BitVec 6) (s : State) : Res :=
  match s.cur with
  | .hub _ => s.issue (.qpost h nb d a qp) h {} .next
  | .seq r =>
    let img := s.imageAt r (s.X a) 64 64
    let b := img.toOption.getD []
    let pair := s.qpair r.die qp.toNat
    let pos := pair.posted % 64
    let full := pair.entries.any (·.pos == pos)
    s.issue (.qpost h nb d a qp) h
      { permit := some .mem, early := fun _ => errorOf img
        late := fun s => (s.entryCheck r b).orElse fun _ =>
          if pair.ctx ≠ some (s.ctxOf (strandOf r)) then some .xlatePerm
          else if full ∧ !nb then some .qpOverflow else none } fun t =>
      if full then .next ((t.putNow d 6).finish h)
      else
        let e : WorkEntry := { pos := pos, image := putNat 56 4 (t.rqid r).toNat b, ctx := t.ctxOf (strandOf r) }
        let t1 := t.modQpair r.die qp.toNat fun q =>
          { q with posted := q.posted + 1, entries := q.entries ++ [e] }.arm (t.die r.die).counters
        .next ((t1.putNow d (BitVec.ofNat 64 pos)).finish h)

def State.modEntry (s : State) (die qp pos : Nat) (f : WorkEntry → WorkEntry) : State :=
  s.modQpair die qp fun q => { q with entries := q.entries.map fun e => if e.pos = pos then f e else e }

/-- Whether GROUP is one of the values of R280. -/
def Entry.groupOk (e : Entry) (self : Nat) : Bool :=
  let dmid := if e.op = 4 ∨ !ptrRmt e.dst then self else ptrMid e.dst
  e.group == 0 || e.group == (1#32 <<< self)
    || (decide (2 ≤ popCount (e.group.setWidth 64) 32) && e.group.getLsbD dmid)

/-- Whether an entry moves no data (R279). -/
def Entry.still (e : Entry) (self : Nat) : Bool := e.group == (1#32 <<< self) || e.count == 0

/-- The source of an entry translated: the class of its first page says which it is (R107, R278). -/
def State.sourceOf (s : State) (die : Nat) (ctx : BitVec 4) (va : Word) (n : Nat) : Except Cause Src := do
  let p ← s.place die ctx none va 1
  match p with
  | .slab _ 3 .. =>
    let runs ← (pieces va.toNat n (n / 0x200000 + 2)).mapM fun (v, m) =>
      ((s.place die ctx none (BitVec.ofNat 64 v) 1).bind (checkPlace .stageRead)).map fun pa =>
        ((stgRef pa).1, pa % 0x200000, m)
    pure (.stg runs)
  | _ =>
    let runs ← s.slabRuns die ctx va.toNat n .read
    pure (.slab runs)

/-- Bytes of a source from an offset. -/
def State.sourceBytes (s : State) (src : Src) (o n : Nat) : List Byte :=
  match src with
  | .slab runs => ((runs.flatMap fun p => s.readMem p.1 p.2).drop o).take n
  | .stg runs =>
    ((runs.flatMap fun p => (List.range p.2.2).map fun j =>
      let a := p.2.1 + j
      (Tbl.get 0 (s.die p.1).stg (a / 4) >>> (8 * (a % 4))).setWidth 8).drop o).take n

/-- The staging range of an entry's source. -/
def State.sourceRange (s : State) (src : Src) : Option Range :=
  match src with
  | .stg ((die, at_, _) :: _) => (s.findRange (.stg die) (at_ / 4) 1).map s.range
  | _ => none

/-- A word of a source that cannot be corrected (R103). -/
def State.sourceSoft (s : State) (src : Src) : Option Word :=
  match src with
  | .slab runs => (runs.findSome? fun (p : Nat × Nat) => s.badAt p.1 p.2).map (BitVec.ofNat 64)
  | .stg runs => runs.findSome? fun p => s.softWords (.stg p.1) (p.2.1 / 4) ((p.2.1 % 4 + p.2.2 + 3) / 4)

/-- Whether a member is lost, as far as this one knows: its death is noticed, or it is bypassed (R97, log entry 80). -/
def State.lostMember (s : State) (mid : Nat) : Bool := s.chain.member.dead.contains mid || s.chain.skipped mid

/-- The members that were lost after the round that a source holds, of those in GROUP (R285). -/
def State.lostOf (s : State) (e : Entry) (g : Option Range) : BitVec 32 :=
  match g with
  | none => 0
  | some g =>
    if popCount (e.group.setWidth 64) 32 < 2 then 0
    else (List.range 32).foldl (fun m k =>
      if g.lastRound.getLsbD k && e.group.getLsbD k && s.lostMember k then m ||| (1#32 <<< k) else m) 0

/-- Whether an entry moves data, so that its source is translated when it fires (R278 to R280). -/
def Entry.moves (e : Entry) (self : Nat) : Bool := (e.op == 1 || e.op == 2) && e.groupOk self && !e.still self

/-- WORK_ENTRY_FIRE: the oldest unfired entry of a queue pair, once its counter has armed it; STAT is translated, then SRC where
the entry moves data; a WRITE of a timed-out staging range ends with TIMEOUT (R276, R278). -/
def execWorkEntryFire (die qp : Nat) (s : State) : Res :=
  match (s.qpair die qp).entries.find? fun w => !w.fired with
  | none => .next s
  | some w =>
    if !w.armed then .next s
    else
      let e := Entry.of w.image
      let fault (s : State) (c : Cause) : State :=
        (s.post die { cause := c }).modEntry die qp w.pos fun w => { w with outcome := some 5 }
      let source (s : State) : State :=
        if !e.moves s.chain.self then s
        else match s.sourceOf die w.ctx e.src e.bytes with
          | .error c => fault s c
          | .ok src =>
            let g := s.sourceRange src
            let late := if e.op == 1 && g.any (·.tmd) then g.map fun x => statusWord 3 0 x.miss.toNat else none
            s.modEntry die qp w.pos fun w => { w with source := some src, outcome := late }
      let s1 := (s.modEntry die qp w.pos fun w => { w with fired := true }).modQpair die qp fun q => q.arm (s.die die).counters
      if e.stat = 0 then .next (source s1)
      else match (s.place die w.ctx none e.stat 8).bind (checkPlace .write) with
        | .ok pa => .next (source (s1.modEntry die qp w.pos fun w => { w with stat := some pa }))
        | .error c => .next (fault s1 c)

/-- The status word of an entry: the members missing in a timed-out round are drawn from its GROUP (R280, R281). -/
def Entry.status (e : Entry) (w : BitVec 64) : BitVec 64 :=
  if w.toNat % 8 = 3 ∧ 2 ≤ popCount (e.group.setWidth 64) 32 then w &&& ((e.group.setWidth 64 <<< 32) ||| 0xFFFFFFFF#64) else w

/-- An entry completes: its status word, LCNT, its position free (R278, R289); `rcnt` where no unit carried it. -/
def State.entryEnd (s : State) (die qp : Nat) (w : WorkEntry) (status : BitVec 64) (rcnt : Bool) : State :=
  let e := Entry.of w.image
  let s1 := match w.stat with
    | some pa => s.writeSlab die pa (bytes64 (e.status status))
    | none => s
  let s2 := if status.toNat % 8 = 5 then s1
    else (if rcnt then s1.bump die w.ctx e.rcnt 1 else s1).bump die w.ctx e.lcnt 1
  let s3 := if status.toNat % 8 = 4 then s2.post die { cause := .collDegraded, detail := status >>> 32 } else s2
  s3.modQpair die qp fun q => { q with entries := q.entries.filter fun x => x.pos != w.pos }

/-- A local WRITE, unit by unit to its end or its first failure. -/
def State.writeLocal (s : State) (die : Nat) (ctx : BitVec 4) (e : Entry) (bs : List Byte) : State × UnitAns :=
  (List.range e.rem.units).foldl (fun (a, ans) u =>
    match ans with
    | .status _ => (a, ans)
    | .done => a.writeUnit die ctx (e.rem.at_ e.dst u) e.acc u ((bs.drop (4096 * u)).take 4096)) (s, .done)

/-- A contribution of an entry to a range of this package (R163, R278). -/
def State.entryRed (s : State) (die qp : Nat) (w : WorkEntry) (e : Entry) (n : Nat) (bs : List Byte) : State :=
  let who := Contributor.entry die qp w.pos
  match s.redTarget die w.ctx e.dst e.acc with
  | .error c =>
    let (s1, a) := s.unitFail die w.ctx 0 (field e.dst 0 48) c
    s1.entryEnd die qp w (match a with
      | .status x => x
      | .done => 0) false
  | .ok (m, at_) =>
    match s.findRange m at_ n with
    | none => s.entryEnd die qp w (statusWord 5 0 0) false
    | some rr =>
      let g := s.range rr
      if g.tmd then s.entryEnd die qp w (statusWord 3 0 g.miss.toNat) false
      else if !g.admits e.rqid then s.entryEnd die qp w (statusWord 5 0 0) false
      else
        let s1 := if (s.contrib? rr who).isSome then s else s.joinRange rr ⟨who, e.rqid, n, none, false, false⟩
        match s1.contrib? rr who with
        | some k =>
          if (s1.range rr).ready k then
            match s1.softWords m at_ n with
            | some d =>
              ((s1.post m.die { cause := .sramUncorr, detail := d }).leaveRange rr who).entryEnd die qp w (statusWord 5 0 0) false
            | none => ((s1.addWords m at_ (redValues e.fmt bs) (redAdd e.rm)).fillSlot rr who).entryEnd die qp w 0 true
          else s1
        | none => s1

/-- A unit of an entry sent to another member, or its REDHDR. -/
def State.entrySend (s : State) (die qp : Nat) (w0 : WorkEntry) (e : Entry) (n : Nat) (src : Src) (ok : BitVec 64) : State :=
  let mid := ptrMid e.dst
  let now := windowOf (s.tsc die)
  let k := { e.rem with bytes := n * e.fmt.size }
  let (s1, w) := if w0.req ≠ 0 then (s, w0)
    else
      let w := { w0 with req := s.nextReq }
      ({ s with nextReq := s.nextReq + 1 }.modEntry die qp w0.pos fun _ => w, w)
  let unit (s : State) : State :=
    let bs := s.sourceBytes src (4096 * w.unit) (k.len w.unit)
    let far := (Handle.of e.rcnt).rmt
    let u : WrUnit :=
      { req := w.req, unit := w.unit, window := now, ctx := w.ctx, dst := k.at_ e.dst w.unit, len := k.len w.unit,
        red := if k.red then some e.rqid else none, acc := e.acc, bf16 := e.fmt == .bf16, rm := e.rm,
        last := decide (k.units ≤ w.unit + 1), rcnt := if far then e.rcnt else 0 }
    (s.modEntry die qp w.pos fun w => { w with remote := .sent w.unit now }).send (.wr mid u) |>.sendBytes (.data die) mid now bs
  match w.remote with
  | .idle =>
    if k.red then
      (s1.modEntry die qp w.pos fun w => { w with remote := .askedGo }).send (.redhdr mid
        ⟨w.req, e.rqid, w.ctx, e.dst, e.acc, BitVec.ofNat 32 n⟩)
    else if k.units ≤ w.unit then s1.entryEnd die qp w ok (!(Handle.of e.rcnt).rmt)
    else unit s1
  | .granted => if k.units ≤ w.unit then s1.entryEnd die qp w ok (n == 0 || !(Handle.of e.rcnt).rmt) else unit s1
  | _ => s1

/-- SCLR (R278). -/
def State.entryClear (s : State) (die qp : Nat) (w : WorkEntry) (e : Entry) : State :=
  let fault (s : State) : State := s.entryEnd die qp w (statusWord 5 0 0) false
  match (if 2 ^ 48 ≤ e.dst.toNat then .error .addrRange else s.redTarget die w.ctx e.dst false .clear) with
  | .error c => fault (s.post die { cause := c })
  | .ok (m, at_) =>
    match (s.ranges (.stg die)).find? fun p => p.2.v && p.2.base.toNat == at_ with
    | some (_, g) =>
      if m = .stg die then (s.clearWords m at_ g.len.toNat).entryEnd die qp w 0 true else fault s
    | none => fault s

/-- The data of a fired entry that moves some, from the source translated as it fired (R278). -/
def State.entryMove (s0 : State) (die qp : Nat) (w : WorkEntry) (e : Entry) (src : Src) (far : Bool) : State :=
  let lost := if e.op = 1 then s0.lostOf e (s0.sourceRange src) else 0
  let ok := if lost = 0 then 0 else statusWord 4 0 lost.toNat
  match s0.sourceSoft src with
  | some x => (s0.post die { cause := .sramUncorr, detail := x }).entryEnd die qp w (statusWord 5 0 0) false
  | none =>
    let s : State := match src with
      | .slab runs => runs.foldl (fun (a : State) (p : Nat × Nat) => a.corrected p.1 p.2) s0
      | .stg _ => s0
    if !far then
      let bs := s.sourceBytes src 0 e.bytes
      if e.op = 2 then s.entryRed die qp w e e.count bs
      else
        let (s1, a) := s.writeLocal die w.ctx e bs
        match a with
        | .done => s1.entryEnd die qp w ok true
        | .status x => s1.entryEnd die qp w x false
    else if s.chain.skipped (ptrMid e.dst) || (lost != 0 && s.lostMember (ptrMid e.dst)) then
      s.entryEnd die qp w (if lost = 0 then statusWord 2 w.unit 0 else ok) false
    else s.entrySend die qp w e e.count src ok

/-- One fired entry, as far as it goes now. -/
def State.entryServe (s : State) (die qp : Nat) (w : WorkEntry) : State :=
  let e := Entry.of w.image
  let self := s.chain.self
  let far := if e.op = 3 then (Handle.of e.dst).rmt && (Handle.of e.dst).mid != self else s.ptrFar e.dst
  match w.outcome with
  | some st => s.entryEnd die qp w st (e.op == 1)
  | none =>
    if !e.groupOk self then s.entryEnd die qp w (statusWord 5 0 0) false
    else match e.op with
      | 0 => s.entryEnd die qp w 0 true
      | 4 => s.entryClear die qp w e
      | 3 =>
        if e.still self || !(Handle.of e.dst).v then s.entryEnd die qp w 0 true
        else if !far then (s.bump die w.ctx e.dst (BitVec.ofNat 32 e.count)).entryEnd die qp w 0 true
        else if s.chain.skipped (Handle.of e.dst).mid then s.entryEnd die qp w (statusWord 2 0 0) false
        else if w.remote = .idle then
          let now := windowOf (s.tsc die)
          ({ s with nextReq := s.nextReq + 1 }.modEntry die qp w.pos fun w =>
            { w with req := s.nextReq, remote := .sent 0 now }).send
            (.cntadd (Handle.of e.dst).mid ⟨s.nextReq, now, w.ctx, e.dst, BitVec.ofNat 32 e.count⟩)
        else s
      | op =>
        if !e.still self then s.entryMove die qp w e (w.source.getD (.slab [])) far
        else if op = 1 then s.entryEnd die qp w 0 true
        else if !far then s.entryRed die qp w e 0 []
        else if s.chain.skipped (ptrMid e.dst) then s.entryEnd die qp w (statusWord 2 0 0) false
        else s.entrySend die qp w e 0 (.slab []) 0

/-- Whether an earlier fired entry of the queue pair leads to the same other member (R273). -/
def State.entryBehind (s : State) (die qp : Nat) (w : WorkEntry) : Bool :=
  let mid (x : WorkEntry) : Option Nat :=
    let e := Entry.of x.image
    if e.op = 0 ∨ e.op = 4 ∨ !ptrRmt e.dst then none else some (ptrMid e.dst)
  let earlier := (s.qpair die qp).entries.takeWhile fun x => x.pos != w.pos
  (mid w).any fun m => m != s.chain.self && earlier.any fun x => x.fired && mid x == some m

/-- WORK_ENTRY_COMPLETE: the fired entries of a queue pair, each as far as it goes; one that is done completes. -/
def execWorkEntryComplete (die qp : Nat) (s : State) : Res :=
  .next (((s.qpair die qp).entries.filter (·.fired)).foldl (fun a w0 =>
    match (a.qpair die qp).entries.find? fun w => w.pos == w0.pos with
    | some w => if a.entryBehind die qp w then a else a.entryServe die qp w
    | none => a) s)

/-! ### Answers at the sender (R271, R288) -/

/-- The entry of that number. -/
def State.findEntry (s : State) (req : Nat) : Option (Nat × Nat × WorkEntry) :=
  s.dies.findSome? fun (k, d) => d.qps.findSome? fun (j, q) =>
    (q.entries.find? fun e => e.req == req && req != 0).map fun e => (k, j, e)

/-- The late read of that number and unit, and the state without it. -/
def State.takeLate (s : State) (req unit : Nat) : Option (LateRead × State) :=
  (s.lateReads.find? fun l => l.req == req && l.unit == unit).map fun l =>
    (l, { s with lateReads := s.lateReads.filter fun x => x != l })

/-- WRACK: a unit has been performed and is committed; a unit of a read comes in data flits, also where its command has given it
up (R288). -/
def execWrack (req unit : Nat) (s : State) : Res :=
  match s.takeLate req unit with
  | some (l, s1) => .next (s1.awaitBytes l.die l.mid (.read req unit l.len))
  | none =>
  match s.findColl req, s.findCadd req, s.findEntry req with
  | some (r, c), _, _ =>
    match remOf c with
    | some k =>
      if unit < c.pix ∨ c.pix + c.sent.length ≤ unit then .next s
      else if k.read then .next (s.awaitBytes r.die (ptrMid c.xa) (.read req unit (k.len unit)))
      else if unit = c.pix then .next (s.commitUnit r c k)
      else .next s
    | none => .next s
  | none, some (r, c), _ => .next (s.caddEnd r c 0)
  | none, none, some (die, qp, w) =>
    let e := Entry.of w.image
    if e.op = 3 then .next (s.entryEnd die qp w 0 true)
    else match w.remote with
      | .sent u _ =>
        if u = unit then
          .next (s.modEntry die qp w.pos fun w => { w with unit := unit + 1, remote := if e.op = 2 then .granted else .idle })
        else .next s
      | _ => .next s
  | none, none, none => .next s

/-- A refusal or an unreached unit at whoever sent it. -/
def State.unitLost (s : State) (req : Nat) (w : BitVec 64) : State :=
  match s.findColl req, s.findCadd req, s.findEntry req with
  | some (r, c), _, _ => s.collFail r c w
  | none, some (r, c), _ => s.caddEnd r c (w.toNat % 8)
  | none, none, some (die, qp, e) => s.entryEnd die qp e w false
  | none, none, none => s

/-- WRNACK: a unit is refused; the refusal of a unit of a read is met behind the units that come before it (R288). -/
def execWrnack (req unit : Nat) (status : BitVec 64) (s : State) : Res :=
  match s.takeLate req unit with
  | some (_, s1) => .next s1
  | none =>
    match s.findColl req with
    | some (r, c) =>
      if (remOf c).any (·.read) then .next (s.awaitBytes r.die (ptrMid c.xa) (.refused req status))
      else .next (s.collFail r c status)
    | none => .next (s.unitLost req status)

/-- Whether a unit was sent four windows ago or more. -/
def Remote.old (now : Nat) : Remote → Bool
  | .sent _ w => decide (w + 4 ≤ now)
  | _ => false

/-- The same for the first unit of a command that has no answer. -/
def Cmd.old (now : Nat) (c : Cmd) : Bool := c.sent.head?.any fun w => decide (w + 4 ≤ now)

/-- REMOTE_UNIT_UNREACHED: neither WRACK nor WRNACK by window N + 4 (R271, R288). -/
def execRemoteUnitUnreached (req : Nat) (s : State) : Res :=
  let now (die : Nat) : Nat := windowOf (s.tsc die)
  let (due, unit) := match s.findColl req, s.findCadd req, s.findEntry req with
    | some (r, c), _, _ => (c.old (now r.die), c.pix)
    | none, some (r, c), _ => (c.remote.old (now r.die), 0)
    | none, none, some (die, _, e) => (e.remote.old (now die), e.unit)
    | none, none, none => (false, 0)
  .next (if due then s.unitLost req (statusWord 2 unit 0) else s)

/-- The contributions of a lost member leave the ranges that they had begun or been granted (R284, R285). -/
def State.dropMember (s : State) (mid : Nat) : State :=
  let hit (k : Contrib) : Bool := match k.who with
    | .member m _ => m == mid
    | _ => false
  let refs (m : RMem) (t : Tbl Range) : List RangeRef := (t.filter fun p => p.2.contribs.any hit).map fun p => m.ref p.1
  let all := (s.clusters.flatMap fun (k, c) => refs (.acc (k / 64) (k % 64)) c.ranges)
    ++ s.dies.flatMap fun (k, d) => refs (.stg k) d.ranges
  all.foldl (fun a rr => ((a.range rr).contribs.filter hit).foldl (fun a k => a.leaveRange rr k.who) a) s

end Sys2Proof.Machine
end

