-- ==== Sys2Proof/Machine/Members.lean ====
section
/-! DEFINITION. Membership of the domain and its time (R94 to R98, R270), and the start of a window (R250, R271, R350). -/

namespace Sys2Proof.Machine

/-! ### Proposals (R95, R96) -/

/-- The live members but this one: valid, not bypassed, not known dead. -/
def Chain.live (c : Chain) : List Nat :=
  (((List.range 32).map c.entry).filter fun e =>
    derV e && !derSkip e && derMid e != c.self && !c.member.dead.contains (derMid e)).map derMid

def derCh (e : BitVec 32) : BitVec 5 := e.extractLsb' 5 5

def State.window (s : State) : Nat := windowOf (s.tsc 0)

def State.modMember (s : State) (f : Membership → Membership) : State :=
  s.modChain fun c => { c with member := f c.member }

/-- A proposal put in the order of the windows of those that are there. -/
def insertByWindow (p : Proposal) : List Proposal → List Proposal
  | [] => [p]
  | q :: r => if p.window < q.window then p :: q :: r else q :: insertByWindow p r

/-- The derailleur entries of a proposal put into the table (R95). -/
def Chain.withEntries (c : Chain) (p : Proposal) : Chain :=
  { c with derail := p.entries.foldl (fun t (i, e) => Tbl.set 0 t i (e &&& 0x1FFF)) c.derail }

/-- The table as it will stand after every committed change (R96). -/
def Chain.planned (c : Chain) : Chain := (c.member.committed.foldr insertByWindow []).foldl Chain.withEntries c

/-- The entries that bypass the dead members, as they must stand after every committed change (R96). -/
def Chain.repairs (c : Chain) : List (Nat × BitVec 32) :=
  (List.range 32).filterMap fun i =>
    let e := c.planned.entry i
    if derV e && !derSkip e && c.member.dead.contains (derMid e) then some (i, e ||| 0x400) else none

/-- The own proposal is committed once every live member has accepted (R95). -/
def State.tryCommit (s : State) : State :=
  match s.chain.member.own with
  | none => s
  | some p =>
    if s.chain.live.all (s.chain.member.accepts.contains ·) then
      (s.modMember fun m => { m with own := none, accepts := [], committed := m.committed ++ [p] }).send (.commit p.window)
    else s

/-- This member proposes a change for a window. -/
def State.propose (s : State) (window : Nat) (entries : List (Nat × BitVec 32)) : State :=
  if entries.isEmpty then s
  else
    let p : Proposal := ⟨s.chain.self, window, entries⟩
    ((s.modMember fun m => { m with own := some p, accepts := [] }).send (.propose p)).tryCommit

/-- The retry of R96, while a repair is still needed. -/
def State.proposeAgain (s : State) : State := s.propose (s.window + 2 + s.chain.self) s.chain.repairs

/-- PROPOSE: accepted, or rejected by a member that holds a different proposal for that window or an earlier one (R95). -/
def execPropose (pr : Proposal) (s : State) : Res :=
  let m := s.chain.member
  let holds := m.own.toList ++ m.held
  if holds.any fun p => p != pr && decide (p.window ≤ pr.window) then .next (s.send (.reject pr.mid pr.window))
  else
    let s1 := s.modMember fun m => { m with held := if m.held.contains pr then m.held else m.held ++ [pr] }
    .next (s1.send (.accept pr.mid pr.window))

/-- ACCEPT (R95). -/
def execAccept (mid window : Nat) (s : State) : Res :=
  if s.chain.member.own.any (·.window == window) then
    .next (s.modMember fun m => { m with accepts := if m.accepts.contains mid then m.accepts else mid :: m.accepts }).tryCommit
  else .next s

/-- REJECT: the proposal is dropped, and made again for a later window (R96). -/
def execReject (_mid window : Nat) (s : State) : Res :=
  if s.chain.member.own.any (·.window == window) then
    .next (s.modMember fun m => { m with own := none, accepts := [] }).proposeAgain
  else .next s

/-- COMMIT: kept until its window when it has come before window W - 1 (R95). -/
def execCommit (mid window : Nat) (s : State) : Res :=
  match s.chain.member.held.find? fun p => p.mid == mid && p.window == window with
  | some p =>
    .next (s.modMember fun m =>
      { m with held := m.held.filter (· != p), committed := if s.window + 1 < window then m.committed ++ [p] else m.committed })
  | none => .next s

/-! ### The death of a member (R97) -/

/-- The stripes that a hub's FWD has queued end with 1, as the successor is lost before it has acknowledged them; those that
firmware injects are kept (R93, R97). -/
def State.failJobs (s : State) (die : Nat) : State :=
  let jobs := (s.die die).fwd.filter fun j => !j.own
  (jobs.foldl (fun a j => a.modSeqAt (hubKey die) fun q => q.setX j.d 1) s).modDie die fun d => { d with fwd := d.fwd.filter (·.own) }

/-- MEMBER_LOST: this package, the predecessor, has lost its successor: a record, and a proposal to bypass it (R97). -/
def execMemberLost (mid : Nat) (s : State) : Res :=
  if s.chain.successor ≠ some mid ∨ s.chain.member.dead.contains mid then .next s
  else
    let s1 := (s.modMember fun m => { m with dead := mid :: m.dead }).post 0
      { cause := .memberLost, detail := BitVec.ofNat 64 mid }
    let s2 := (List.range 8).foldl (fun a d => a.failJobs d) s1
    .next (if s2.chain.member.own.isSome then s2 else s2.propose (s2.window + 2) s2.chain.repairs)

/-- The stripes of a die that its successor has not acknowledged are to be sent again from their first flit, the oldest of the ring
first, and the segments that firmware was injecting (R97). -/
def State.resendStripes (s : State) (die : Nat) (old : Nat) : State :=
  let n := max s.chain.ringFrames 1
  let again (f : Frame) : Bool := f.sending && (f.st == .fill || f.st == .full)
  let d := (s.failJobs die).die die
  let first := ((List.range n).map fun k => (d.nextRecv + 1 + k) % n).find? fun i => again (Tbl.get {} d.frames i)
  ((s.failJobs die).modLink (.chain die) old fun l => { l with pending := [] }).modDie die fun d =>
    { d with frames := d.frames.map fun (i, f) => (i, if again f then { f with sending := false, sent := 0, lastSeq := none } else f)
             fwd := d.fwd.map fun j => { j with lastSeq := none }
             nextSend := first.getD d.nextSend, credits := 0
             lanes := d.lanes.map fun (n, l) => (n, if l.use = 1 then { l with unacked := [] } else l) }

/-- A die whose predecessor has been bypassed: what that one had begun to send is cut off, and the next predecessor learns of the
free frames (R97; log entry 86). -/
def State.newPredecessor (s : State) (die mid : Nat) : State :=
  let d := s.die die
  let free := ((List.range s.chain.ringFrames).filter fun i => (Tbl.get {} d.frames i : Frame).st == .free).length
  (s.modDie die fun d => { d with incoming := match d.incoming with
    | x :: _ => if x.got = 0 then [] else [{ x with stale := true }]
    | [] => [] }).send (.freefr mid die free)

/-- The chain lanes of a die aimed at a new successor. -/
def State.retuneChain (s : State) (die : Nat) (ch : BitVec 5) : State :=
  ((s.die die).lanes.filter fun p => p.2.use == 1).foldl (fun a p => a.writeLane die p.1 1 ch) s

/-- Tags whose segments rested at a dead member are marked LOST: which ones is not known (R97, log entry 14). -/
def State.loseSegments (s : State) : State :=
  let es := s.chain.cadence.zipIdx.map fun (e, i) =>
    if e.valid && Config.restedAt (s.free + i) then { e with lost := true, reinj := false } else e
  { s with free := s.free + s.chain.cadence.length }.modChain fun c => { c with cadence := es }

/-- The new cadence table of a change of membership: its times are not known before (R95; log entry 96). -/
def State.newTable (s : State) : State :=
  let re (e : Cadence) : Cadence :=
    let v := Config.newCadence s.free e.tag.toNat
    { e with arroff := v.extractLsb' 0 32, depoff := v.extractLsb' 32 32, dwell := v.extractLsb' 64 32 }
  { s with free := s.free + 1 }.modChain fun c =>
    { c with cadence := c.cadence.map fun (e : Cadence) => if e.valid then re e else e, trot := (Config.newTrot s.free).toNat
             rotBase := (Config.newRotBase s.free).toNat }

/-- A committed change applied at the start of its window: the table, the cadence table, the chain lanes (R95); a member bypassed by
it is lost (R97, R135, R284). -/
def State.applyChange (s : State) (p : Proposal) : State :=
  let lost := (p.entries.filter fun (i, e) => derV e && derSkip e && !derSkip (s.chain.entry i)).map fun x => derMid x.2
  let s1 := s.modChain fun c => c.withEntries p
  let s2 := (lost.foldl (fun a mid =>
    let known := a.chain.member.dead.contains mid
    let b := if known then a else a.post 0 { cause := .memberLost, detail := BitVec.ofNat 64 mid }
    (((b.modMember fun m => { m with dead := m.dead.filter (· != mid) }).loseSegments).dropMember mid).tupUnreach mid) s1).newTable
  let s3 := match s.chain.successor, s2.chain.successor with
    | some a, some b =>
      if a = b then s2
      else
        let ch := (((List.range 32).map s2.chain.entry).find? fun e => derV e && derMid e == b).map derCh
        (List.range 8).foldl (fun x d => (x.resendStripes d a).retuneChain d (ch.getD 0)) s2
    | _, _ => s2
  match s.chain.predecessor, s2.chain.predecessor with
  | some a, some b => if a = b then s3 else (List.range 8).foldl (fun x d => x.newPredecessor d b) s3
  | _, _ => s3

/-! ### Injection (R97, R98) -/

/-- The stripes of a segment queued on every die, behind those that firmware has queued already. -/
def State.inject (s : State) (tag rot : BitVec 32) (pa size : Nat) (flags : BitVec 8) : State :=
  (List.range 8).foldl (fun a d => a.modDie d fun v =>
    { v with fwd := v.fwd ++ [{ pa := pa + d * stripeBytes size, tag := tag, rot := rot, size := size, flags := flags, d := 0
                                own := true }] }) s

/-- The rotation that the origin gives a segment which it sends: 0 at first, then one more each time (R73). -/
def State.nextRot (s : State) (tag : BitVec 32) : BitVec 32 :=
  match s.cadence? tag with
  | some e => if e.seen then e.lastRot + 1 else 0
  | none => 0

/-- A segment of a model: injected if its digest is that of the manifest, else marked LOST with a record (R98). -/
def State.injectOne (s : State) (m : Model) (tag : BitVec 32) (flags : BitVec 8) : State × Nat :=
  let n := tag.toNat % 2 ^ 24
  let pa := m.image + n * m.size * 0x100000
  if padTo 64 (Config.sha3 (s.readMem pa (m.size * 0x100000))) = s.readMem (m.manifest + 64 + 64 * n) 64 then
    (s.inject tag (s.nextRot tag) pa m.size flags, 1)
  else ((s.modCadence tag fun e => { e with lost := true }).post 0 { cause := .segmentAuth, detail := zext32 tag }, 0)

/-- The origin injects again the segments that are lost, once each, with the re-injected flag (R97 step 5). -/
def State.reinject (s : State) : State :=
  if !s.chain.isOrigin then s
  else (s.chain.cadence.filter fun e => e.valid && e.lost && !e.reinj).foldl (fun a e =>
    match Tbl.get? a.mailbox.models (e.tag.toNat / 2 ^ 24) with
    | some m =>
      if m.count ≤ e.tag.toNat % 2 ^ 24 then a
      else ((a.modCadence e.tag fun e => { e with reinj := true }).injectOne m e.tag 2).1
    | none => a) s

/-! ### The start of a window -/

/-- Proposals that have no COMMIT when window W - 1 begins are dropped with SYNC_LOSS; an own one is made again (R95,
R96). -/
def State.dropLate (s : State) (now : Nat) : State :=
  let m := s.chain.member
  let late (p : Proposal) : Bool := decide (p.window ≤ now + 1)
  let n := (m.held.filter late).length + (m.own.toList.filter late).length
  let s1 := s.modMember fun m => { m with held := m.held.filter fun p => !late p, own := m.own.filter fun p => !late p }
  let s2 := (List.range n).foldl (fun a _ => a.post 0 { cause := .syncLoss }) s1
  if m.own.any late then s2.proposeAgain else s2

/-- The origin's SYNC and FOLLOW to the live members (R270, log entry 11). -/
def State.sendSync (s : State) : State :=
  if !s.chain.isOrigin then s
  else s.chain.live.foldl (fun a mid => (a.send (.sync mid (a.tsc 0))).send (.follow mid (a.tsc 0))) s

/-- Whether no entry of those tables is damaged. -/
def State.tablesSound (s : State) : Bool :=
  ((List.range 8).all fun d => (s.die d).badRegions.isEmpty) && s.chain.badTags.isEmpty && s.chain.badDerail.isEmpty

/-- Damaged entries of the region tables, the cadence table and the derailleur: reported, and reloaded by firmware; the tag
of a cadence entry stays LOST (R103, log entry 37). -/
def State.reloadTables (s : State) : State :=
  if s.tablesSound then s
  else
    let say (a : State) (die : Nat) (w : Word) : State := a.post die { cause := .sramUncorr, detail := w }
    let s1 := (List.range 8).foldl (fun a d =>
      ((a.die d).badRegions.foldl (fun b n => say b d (softDetail .region d 0 n)) a).modDie d fun v =>
        { v with badRegions := [] }) s
    let s2 := s1.chain.badTags.foldl (fun a t =>
      say (a.modCadence t fun e => { e with lost := true }) 0 (softDetail .cadence 0 0 t.toNat)) s1
    let s3 := s2.chain.badDerail.foldl (fun a n => say a 0 (softDetail .derail 0 0 n)) s2
    s3.modChain fun c => { c with badTags := [], badDerail := [] }

/-- The clusters of a die at the start of a window: DROOP_BUDGET for one that lost more than 256 cycles in the window that ends,
and its counts begin again (R250, R252, R350). -/
def State.clusterWindow (s : State) (die : Nat) : State :=
  let drooped := s.clusters.filter fun p => p.1 / 64 == die && decide (256 < p.2.droopLost)
  let s1 := drooped.foldl (fun a p => a.post die
    { cause := .droopBudget, cl := some (p.1 % 64), detail := BitVec.ofNat 64 p.2.droopLost }) s
  let clear (c : Cluster) : Cluster := { c with wcnt := 0, fidRecords := 0, droopLost := 0 }
  { s1 with clusters := s1.clusters.map fun p => (p.1, if p.1 / 64 = die then clear p.2 else p.2) }

/-- What the chief hub does when a window begins: time is judged (R270), membership changes take effect or are dropped, lost
segments are injected again, a repair that is still to be made is proposed (R95 to R97). -/
def State.chiefWindow (s : State) : State :=
  let now := s.window
  let s1 := if Config.syncHeld now then s else s.post 0 { cause := .syncLoss }
  let due := (s1.chain.member.committed.filter fun p => decide (p.window ≤ now)).foldr insertByWindow []
  let s2 := due.foldl (fun a p => a.applyChange p) (s1.modMember fun m =>
    { m with committed := m.committed.filter fun p => !decide (p.window ≤ now) })
  let s3 := (s2.dropLate now).reinject
  (if s3.chain.member.own.isSome then s3 else s3.propose (now + 2) s3.chain.repairs).sendSync

/-- WINDOW_BOUNDARY: on every die whose TSC has come to a new window the counts of a window begin again; the chief hub's die brings
what the domain does then (R95, R250, R252, R270, R350). -/
def execWindowBoundary (s : State) : Res :=
  let s1 := ((List.range 8).filter fun d => (s.die d).crossed 4096).foldl (fun a d => a.clusterWindow d) s.reloadTables
  .next (if (s.die 0).crossed 4096 then s1.chiefWindow else s1)

/-! ### IEEE 1588 (R270, log entry 11) -/

/-- SYNC: its time of receipt, which the flit's timestamp holds. -/
def execSync (_mid : Nat) (_t2 : BitVec 64) (s : State) : Res := .next s

/-- FOLLOW: the member asks the origin for the delay. -/
def execFollow (mid : Nat) (_t1 : BitVec 64) (s : State) : Res :=
  .next (if s.chain.isOrigin then s else s.send (.dreq mid (s.tsc 0)))

/-- DREQ: the origin answers with its time of receipt. -/
def execDreq (mid : Nat) (t4 : BitVec 64) (s : State) : Res :=
  .next (if s.chain.isOrigin then s.send (.drsp mid t4.toNat) else s)

/-- DRSP: every die's TSC is steered forward, by at most the bound between members; what falls due at a count that it passes over
comes about in the next cycle. -/
def execDrsp (_mid : Nat) (_t4 : BitVec 64) (s : State) : Res :=
  let k := min (Config.steer s.free) 12
  .next { s with free := s.free + 1, dies := s.dies.map fun (n, d) => (n, { d with tsc := d.tsc + k }) }

end Sys2Proof.Machine
end

