-- ==== Sys2Proof/Machine/Place.lean ====
section
/-! DEFINITION. Teams in clusters: what a launch header asks for, the placing, starting and freeing of a team
(R305, R307, R313 to R316, R318). -/

namespace Sys2Proof.Machine

/-! ### The fields of a launch header (R305) -/

def hdrT (h : List Byte) : Nat := nat h 2 1
def hdrNstr (h : List Byte) : Nat := nat h 3 1
def hdrWidth (h : List Byte) (n : Nat) : Nat := nat h (4 + n) 1
def hdrFid (h : List Byte) : Nat := nat h 10 1
def hdrFlag (h : List Byte) (n : Nat) : Bool := (nat h 11 1).testBit n
def hdrInd (h : List Byte) : Bool := hdrFlag h 0
def hdrRes (h : List Byte) : Bool := hdrFlag h 1
def hdrPipe (h : List Byte) : Bool := hdrFlag h 2
def hdrDept (h : List Byte) : Bool := hdrFlag h 3
def hdrDepc (h : List Byte) : Bool := hdrFlag h 4
def hdrTag (h : List Byte) : Bool := hdrFlag h 5
def hdrNtid (h : List Byte) : Nat := nat h 12 2
def hdrWmask (h : List Byte) : Nat := nat h 14 2
def hdrSpb (h : List Byte) : Nat := nat h 32 4
def hdrEntry (h : List Byte) (c : Cls) : Nat := nat h (48 + 8 * c.code) 8
def hdrDonec (h : List Byte) : Word := BitVec.ofNat 64 (nat h 144 8)

/-- Total width of the team fields (R307). -/
def hdrS (h : List Byte) : Nat := ((List.range (hdrT h)).map (hdrWidth h)).sum

/-- The wheels that a header declares. -/
def hdrWheels (h : List Byte) : List Nat := (List.range 16).filter (hdrWmask h).testBit

/-! ### Room in a cluster (R313) -/

def State.teamsIn (s : State) (die cl : Nat) : List Team :=
  s.sched.teams.filterMap fun (_, t) => if t.die = die ∧ t.cl = cl then some t else none

def openSlots (ts : List Team) : List Nat := (List.range 4).filter fun n => !ts.any (·.slots.contains n)

/-- The lowest place below `top` of `n` units that meets none of the runs (start, length); it begins at 0 or behind a
run. -/
def lowestRun (runs : List (Nat × Nat)) (n top : Nat) : Option Nat :=
  let fits (c : Nat) : Bool := decide (c + n ≤ top) && runs.all fun (b, m) => decide (c + n ≤ b) || decide (b + m ≤ c)
  ((0 :: runs.map fun (b, m) => b + m).filter fits).foldl (fun best c =>
    match best with
    | none => some c
    | some b => some (min b c)) none

/-- Where a team stands in a cluster: slots, scratchpad base, TID base, wheels. -/
structure Spot where
  slots : List Nat
  spad : Nat
  tid : Nat
  wheels : List (Nat × Nat)
deriving DecidableEq, Repr

/-- The place that a team with this header takes in a cluster that holds the teams `ts`, if it can be held there. -/
def spotIn (ts : List Team) (h : List Byte) : Option Spot :=
  let slots := openSlots ts
  let used := ts.flatMap fun t => t.wheels.map (·.2)
  let wheels := (List.range 16).filter fun n => !used.contains n
  let names := hdrWheels h
  if slots.length < hdrNstr h ∨ wheels.length < names.length ∨ (hdrPipe h ∧ ts.any (·.pipe)) then none
  else
    match lowestRun (ts.map fun t => (t.spadBase, t.spb)) (hdrSpb h) 0x200000,
          lowestRun ((ts.filter fun t => t.ntid != 0).map fun t => (t.tidBase, t.ntid)) (hdrNtid h) 256 with
    | some sp, some ti => some ⟨slots.take (hdrNstr h), sp, ti, names.zip wheels⟩
    | _, _ => none

/-- The clusters of a grant (R308). -/
def grantOf (cfg : BitVec 64) : List (Nat × Nat) :=
  let mask := field cfg 24 8
  let lo := field cfg 18 6
  let hi := field cfg 12 6
  ((List.range 8).filter mask.testBit).flatMap fun d =>
    ((List.range 54).filter fun c => decide (lo ≤ c) && decide (c ≤ hi)).map fun c => (d, c)

/-- A cluster that can hold a team, with what the choice of R313 looks at. -/
structure Candidate where
  die : Nat
  cl : Nat
  spot : Spot
  suits : Bool
  busy : Nat
  room : Nat
deriving DecidableEq, Repr

/-- Whether a candidate is chosen over one that stands after it in (die, cluster) order. -/
def Candidate.atLeast (a b : Candidate) : Bool :=
  decide (a.busy < b.busy) || (a.busy == b.busy && decide (b.room ≤ a.room))

/-- The cluster for a team (R313). -/
def State.choose (s : State) (cfg : BitVec 64) (h : List Byte) : Option Candidate :=
  let cands := (grantOf cfg).filterMap fun (d, c) =>
    let ts := s.teamsIn d c
    (spotIn ts h).map fun p =>
      { die := d, cl := c, spot := p, suits := (s.island (islandOf d c)).parked == (hdrFid h == 0),
        busy := 4 - (openSlots ts).length, room := 0x200000 - (ts.map (·.spb)).sum : Candidate }
  let first := cands.filter (·.suits)
  (if first.isEmpty then cands else first).foldl (fun best c =>
    match best with
    | none => some c
    | some b => if b.atLeast c then some b else some c) none

/-! ### Placing (R313 to R315) -/

/-- Team `index` of a launch placed at a spot: its slots are taken. -/
def State.placeAt (s : State) (id : BitVec 32) (l : Launch) (index die cl : Nat) (p : Spot) : State :=
  let k := s.sched.nextTeam
  let t : Team :=
    { launch := id, index := index, die := die, cl := cl, slots := p.slots, ctx := l.ctx, spadBase := p.spad,
      spb := hdrSpb l.hdr, tidBase := p.tid, ntid := hdrNtid l.hdr, wheels := p.wheels, pipe := hdrPipe l.hdr,
      started := false }
  let s1 := s.modSched fun c => { c with teams := Tbl.put c.teams k t, nextTeam := k + 1 }
  p.slots.zipIdx.foldl (fun a (slot, i) =>
    let a1 := a.setStrandAt (stKey ⟨die, cl, slot⟩) { team := k, idx := i, launchId := id }
    allCls.foldl (fun b c => b.setSeqAt (seqKey ⟨die, cl, slot, c⟩) {}) a1) s1

/-- The next team of a launch placed in its grant: `none` where no cluster can hold it. -/
def State.placeNext (s : State) (id : BitVec 32) (l : Launch) (index : Nat) : Option State :=
  let cfg := (Tbl.get {} s.sched.queues l.queue).cfg
  (s.choose cfg l.hdr).map fun c => s.placeAt id l index c.die c.cl c.spot

/-- Teams placed in ascending index while they fit, at most `n`; the index of the first that is not placed. -/
def State.placeMany (s : State) (id : BitVec 32) (l : Launch) (index : Nat) : Nat → State × Nat
  | 0 => (s, index)
  | n + 1 =>
    match s.placeNext id l index with
    | some s' => s'.placeMany id l (index + 1) n
    | none => (s, index)

/-- Teams of one header that an empty cluster holds. -/
def clusterHolds (h : List Byte) : Nat :=
  let by_ (n top : Nat) : Nat := if n = 0 then 4 else top / n
  let k := min (min (by_ (hdrNstr h) 4) (by_ (hdrSpb h) 0x200000)) (min (by_ (hdrNtid h) 256) (by_ (hdrWheels h).length 16))
  if hdrPipe h then min k 1 else k

/-! ### Starting (R52, R316) -/

/-- The word of a wheel as its record initialises it (R173, R305). -/
def wheelStart (rec64 : Nat) : BitVec 64 :=
  BitVec.ofNat 64 ((rec64 / 2 ^ 32 % 16) * 2 ^ 32 + 2 ^ 31 + (rec64 / 2 ^ 15 % 2 ^ 16) * 2 ^ 15 + rec64 % 2 ^ 15)

/-- A cluster at the start of a team. -/
def Cluster.begin (c : Cluster) (t : Team) (l : Launch) : Cluster :=
  let tid := (List.range t.ntid).foldl (fun x n =>
    Tbl.set 0 x (t.tidBase + n) (BitVec.ofNat 512 (nat l.tids (64 * n) 64) &&& tidWritable)) c.tid
  let wheels := t.wheels.foldl (fun x (name, n) => Tbl.set 0 x n (wheelStart (nat l.wheels (8 * name) 8))) c.wheels
  let c1 := { c with tid := tid, badTid := unwritten (64 * t.tidBase) (64 * t.ntid) c.badTid, wheels := wheels, wheels0 := wheels }
  if t.pipe then { c1 with z := [], pipe := {} } else c1

/-- TEAM_START: a placed team is initialised and its sequencers begin at their entries. -/
def execTeamStart (team : Nat) (s : State) : Res :=
  match Tbl.get? s.sched.teams team with
  | none => .next s
  | some t =>
    match s.launch? t.launch with
    | none => .next s
    | some l =>
      if t.started then .next s
      else
        let now := s.tsc t.die
        let s1 := (s.modCluster t.die t.cl fun c => c.begin t l).modSched fun c =>
          { c with teams := Tbl.put c.teams team { t with started := true } }
        .next (t.slots.zipIdx.foldl (fun a (slot, i) =>
          let a1 := a.setStrandAt (stKey ⟨t.die, t.cl, slot⟩)
            { team := team, idx := i, launchId := t.launch, wid := BitVec.ofNat 64 (t.index * 2 ^ hdrS l.hdr + i),
              cmask := BitVec.ofNat 64 (nat l.hdr 24 8) &&& maskable, fid := BitVec.ofNat 2 (hdrFid l.hdr), lastStep := now }
          allCls.foldl (fun b c =>
            let e := hdrEntry l.hdr c
            b.setSeqAt (seqKey ⟨t.die, t.cl, slot, c⟩)
              { pc := BitVec.ofNat 48 e, live := true, ended := e == 0, phase := now }) a1) s1)

/-! ### Freeing (R318 step 5) -/

def Team.strands (t : Team) : List StrandRef := t.slots.map fun n => ⟨t.die, t.cl, n⟩

/-- A team's slots, extent, TID run and wheels are freed. -/
def State.freeTeam (s : State) (team : Nat) (t : Team) : State :=
  let s1 := t.strands.foldl (fun a st =>
    let a1 := allCls.foldl (fun b c => { b with seqs := Tbl.erase b.seqs (seqKey (seqOf st c)) }) a
    { a1 with strands := Tbl.erase a1.strands (stKey st) }) s
  s1.modSched fun c => { c with teams := Tbl.erase c.teams team }

/-- RAISED clears when a team of its cluster has retired and no strand there has FID above 0 (R253). -/
def State.lowerRaised (s : State) (die cl : Nat) : State :=
  if (s.teamsIn die cl).any fun t => t.strands.any fun st => (s.strand st).fid != 0 then s
  else s.modCluster die cl fun c => { c with raised := false }

end Sys2Proof.Machine
end

