-- ==== Sys2Proof/Machine/System.lean ====
section
/-! DEFINITION. The system instructions but CTXS and CTXL: CSRR, CSRW, TRAP, ERET, TLD, TLK, TINV, PMLD, RPLY, TSR and
IDLE (R338 to R344), with the control registers (R54, R352), and the events by which a strand stops (R325, R326,
R333). -/

namespace Sys2Proof.Machine

/-! ### Control registers (R54) -/

/-- CCNT of a cluster: the cycles since reset in which its clock ran (R337). -/
def State.ccnt (s : State) (die cl : Nat) : Nat := s.cycles - (s.cluster die cl).lag

/-- A register of cluster scope as it reads. -/
def State.clusterCsr (s : State) (die cl n : Nat) : Option Word :=
  let c := s.cluster die cl
  match n with
  | 0x011 => some (BitVec.ofNat 64 (s.ccnt die cl))
  | 0x021 => some (zext32 c.fidErr)
  | 0x022 => some (c.fidChk.setWidth 64)
  | 0x023 => some (fidRate die cl)
  | 0x024 => some (c.fidThr.setWidth 64)
  | 0x025 => some (zext32 c.finj)
  | 0x038 => some (zext32 c.lfsr)
  | 0x041 => some c.permit
  | _ => none

/-- A register of strand or sequencer scope as it reads. -/
def State.strandCsr (s : State) (r : SeqRef) (n : Nat) : Option Word :=
  let st := strandOf r
  let t := s.strand st
  match n with
  | 0x000 => some t.wid
  | 0x001 => some (zext32 t.launchId)
  | 0x002 => some (BitVec.ofNat 64 (locOf st))
  | 0x003 => some (BitVec.ofNat 64 r.cls.code)
  | 0x008 => some t.cmask
  | 0x012 => some (zext32 (s.seq r).pix)
  | 0x020 => some (BitVec.ofNat 64 (fidctl t (s.cluster r.die r.cl)))
  | 0x030 => some (zext32 t.arrTag)
  | 0x031 => some (zext32 t.arrRot)
  | 0x032 => some t.arrTsc
  | _ => none

/-- The cluster that a hub reaches with registers of cluster scope (R327, R352). -/
def State.hubCluster (s : State) (die : Nat) : Option (Nat × Nat) :=
  let h := (s.die die).hub
  let sel := (h.regs.csel.setWidth 6).toNat
  if h.regs.csel.getLsbD 7 then (if sel ≤ 53 then some (die, sel) else none)
  else h.held.map fun st => (st.die, st.cl)

/-- The sequencer that a hub reaches with registers of strand scope: the one that raised the cause of the trap that it
handles (R327). -/
def State.hubSeq (s : State) (die : Nat) : Option SeqRef :=
  let h := (s.die die).hub
  h.held.map fun st => seqOf st (Cls.ofCode (field h.regs.tcause 22 2))

/-- A register as a hub reads it (R327, R352). -/
def State.hubRead (s : State) (die n : Nat) : Word :=
  let h := (s.die die).hub
  match n with
  | 0x010 => BitVec.ofNat 64 (s.tsc die)
  | 0x018 => h.regs.tcause
  | 0x019 => h.regs.tepc
  | 0x01A => h.regs.tframe
  | 0x040 => h.regs.csel.setWidth 64
  | _ =>
    match (s.hubCluster die).bind fun p => s.clusterCsr p.1 p.2 n with
    | some v => v
    | none => ((s.hubSeq die).bind fun r => s.strandCsr r n).getD 0

/-- FINJ written: an injection armed afresh, or disarmed (R256). -/
def State.writeFinj (s : State) (die cl : Nat) (v : BitVec 32) : State :=
  s.modCluster die cl fun c => { c with finj := v &&& 0x80FFFFFF#32, finjLeft := (v.setWidth 24).toNat }

/-- FIDTHR written: RAISED is cleared (R253). -/
def State.writeFidthr (s : State) (die cl : Nat) (v : BitVec 16) : State :=
  s.modCluster die cl fun c => { c with fidThr := v, raised := false }

/-- LFSRSEED written; 0 means 1 (R35). -/
def State.writeLfsr (s : State) (die cl : Nat) (v : BitVec 32) : State :=
  s.modCluster die cl fun c => { c with lfsr := if v = 0 then 1 else v }

def allPermits : List Permit := [.mat, .vec, .sfu, .mem]

/-- PERMIT written: refused with PERMIT_CONFIG where a rate or a depth is 0; counts are clamped (R352). -/
def State.writePermit (s : State) (die cl : Nat) (v : BitVec 64) : State :=
  if (List.range 8).any fun n => field v (8 * n) 8 == 0 then s.post die { cause := .permitConfig, cl := some cl }
  else s.modCluster die cl fun c =>
    { c with permit := v, coolRates := none
             permits := allPermits.map fun k => (k.idx, min (c.held k) (field v (k.lo + 8) 8)) }

/-- A register of cluster scope written by a hub; a read-only one ignores it (R6). -/
def State.writeClusterCsr (s : State) (die cl n : Nat) (v : Word) : State :=
  match n with
  | 0x024 => s.writeFidthr die cl (v.setWidth 16)
  | 0x025 => s.writeFinj die cl (low32 v)
  | 0x038 => s.writeLfsr die cl (low32 v)
  | 0x041 => s.writePermit die cl v
  | _ => s

/-- The strand whose frame area begins at an address of its die (R328). -/
def State.frameOwner (s : State) (die pa : Nat) : Option StrandRef :=
  let base := die * 0x80000000 + s.frameBase
  let k := (pa - base) / 65536
  if base ≤ pa ∧ (pa - base) % 65536 = 0 ∧ k < 216 then some ⟨die, k / 4, k % 4⟩ else none

/-- The strand that TFRAME names (R327). -/
def State.hubStrand (s : State) (die : Nat) : Option StrandRef :=
  let t := (s.die die).hub.regs.tframe
  if t.getLsbD 0 then s.frameOwner die (field t 6 28 * 64) else none

def State.modHub (s : State) (die : Nat) (f : Hub → Hub) : State := s.modDie die fun d => { d with hub := f d.hub }

/-- The hub is done with its trap: TFRAME holds no frame, TCAUSE no cause; it takes up the next (R323, R326). -/
def State.hubRelease (s : State) (die : Nat) : State :=
  (s.modHub die fun h =>
    let regs := { h.regs with tcause := 0, tepc := 0, tframe := h.regs.tframe &&& ~~~1#64 }
    { h with held := none, regs := regs }).loadTrap die

/-- A register written by a hub (R327, R339, R352). -/
def State.hubWrite (s : State) (die n : Nat) (v : Word) : State :=
  match n with
  | 0x010 => s.modDie die fun d => { d with tsc := v.toNat }
  | 0x018 => s.modHub die fun h => { h with regs := { h.regs with tcause := v &&& 0xFFFFFFFF00F73FFF#64 } }
  | 0x019 => s.modHub die fun h => { h with regs := { h.regs with tepc := v } }
  | 0x01A =>
    let s1 := s.modHub die fun h => { h with regs := { h.regs with tframe := v &&& 0x3FFFFFFC1#64 } }
    (s1.modHub die fun h => { h with held := s1.hubStrand die }).loadTrap die
  | 0x040 => s.modHub die fun h => { h with regs := { h.regs with csel := v.setWidth 8 &&& 0xBF#8 } }
  | 0x008 =>
    match s.hubSeq die with
    | none => s
    | some r =>
      let m := v &&& maskable
      (s.modStrand (strandOf r) fun t => { t with cmask := m }).writeMem (s.frameArea (strandOf r) + 8) (bytes64 m)
  | _ =>
    match s.hubCluster die with
    | some p => s.writeClusterCsr p.1 p.2 n v
    | none => s

/-- CSRR (R339). -/
def execCsrr (h : Hdr) (d : Reg) (csr : BitVec 12) (s : State) : Res :=
  let v := match s.cur with
    | .seq r => ((s.clusterCsr r.die r.cl csr.toNat).orElse fun _ => s.strandCsr r csr.toNat).getD 0
    | .hub die => s.hubRead die csr.toNat
  s.issue (.csrr h d csr) h { fixed := true } fun t => t.launchOp (.csrr h d csr) h (.x d) 1 v v 0 0

/-- CSRW: a sequencer's write takes effect one step later (R339). -/
def execCsrw (h : Hdr) (csr : BitVec 12) (a : Reg) (s : State) : Res :=
  let v := s.X a
  s.issue (.csrw h csr a) h { fixed := true } fun t =>
    match s.cur with
    | .seq _ => t.launchOp (.csrw h csr a) h (.csr csr) 1 v v (csr.setWidth 64) 0
    | .hub die => .next (t.hubWrite die csr.toNat v)

/-- TRAP: USER_TRAP at point D, with its number and its immediate (R340); a hub has no traps (log entry 6). -/
def execTrap (h : Hdr) (n : BitVec 5) (m : BitVec 16) (s : State) : Res :=
  s.issue (.trap h n m) h {} fun t =>
    .next (match s.cur with
      | .hub _ => t
      | .seq r => t.raise r .userTrap .d (s.seq r).pc 0 (BitVec.ofNat 64 (m.toNat * 32 + n.toNat)))

/-- TSR (R341). -/
def execTsr (h : Hdr) (d : Reg) (s : State) : Res :=
  let v := BitVec.ofNat 64 (s.tsc (agentDie s.cur))
  s.issue (.tsr h d) h { fixed := true } fun t => t.launchOp (.tsr h d) h (.x d) 1 v v 0 0

/-- What waits for a hub, as IDLE names it: 0 a trapped strand, 1 a mailbox message, 2 an event (R341). -/
def Hub.waiting (h : Hub) : Option Nat :=
  if h.held.isSome || !h.trapQ.isEmpty then some 0 else if h.mail then some 1 else if h.event then some 2 else none

/-- What an IDLE comes to: X[D] says what waits; a message or an event that it reports waits no longer. -/
def idleHold (s : State) (c : Cmd) : Hold :=
  match s.cur, c.ins with
  | .hub die, .idle _ d =>
    match (s.die die).hub.waiting with
    | none => .stays s
    | some w => .ends ((s.modHub die fun b =>
        { b with mail := b.mail && w != 1, event := b.event && w != 2 }).modMe fun q => q.setX d (BitVec.ofNat 64 w))
  | _, _ => .ends s

/-- IDLE (R341). -/
def execIdle (h : Hdr) (d : Reg) (s : State) : Res :=
  match s.cur with
  | .seq _ => s.issue (.idle h d) h {} .next
  | .hub _ => s.issue (.idle h d) h {} fun t => t.holdIn (t.heldCmd (.idle h d) h 0 0) .idle idleHold

/-! ### ERET (R342) and RPLY (R343) -/

/-- The TIDs of a command whose entries it captured when it issued. -/
def cmdTids : Instr → List (BitVec 8)
  | .cpyt _ tn tm .. => [tn, tm]
  | .gath _ _ tn tm .. => [tn, tm]
  | .scat _ _ tn tm .. => [tn, tm]
  | .cpyx _ _ _ _ _ _ _ tn tm .. => [tn, tm]
  | .mma _ _ _ _ tA tB .. => [tA, tB]
  | .mmak _ _ _ _ tA tB .. => [tA, tB]
  | .adrn _ _ _ _ _ _ tn .. => [tn]
  | .atq _ tq .. => [tq]
  | .ats _ tk tv .. => [tk, tv]
  | _ => []

/-- The commands of a resumed sequencer of which nothing is kept beside their records take their TID entries from the table, as
at a new issue (R39; log entry 30). -/
def State.captureTids (s : State) (r : SeqRef) (fresh : List Nat) : State :=
  let cap (c : Cmd) : Cmd :=
    if fresh.contains c.seqNo then { c with tids := (cmdTids c.ins).map fun n => (s.tidEntry r n.toNat).getD 0 } else c
  s.modSeq r fun q => allEngines.foldl (fun q e => q.setQueue e ((q.queue e).map cap)) q

/-- The bytes of a strand's frame. -/
def State.frameBytes (s : State) (st : StrandRef) : List Byte :=
  let a := s.frameArea st
  s.readMem a (if nat (s.readMem (a + 5120) 4) 0 4 = 0 then 5184 else 65536)

/-- An event record about a strand. -/
def State.postOf (s : State) (die : Nat) (st : StrandRef) (c : Cause) : State :=
  s.post die { cause := c, cl := some st.cl, slot := some st.slot, launch := (s.strand st).launchId }

/-- ERET's work for the hub of a die: the strand that TFRAME names resumes; the answer is what X[D] takes. -/
def State.eret (s : State) (die : Nat) : State × Word :=
  match s.hubStrand die with
  | none => (s, 2)
  | some st =>
    match (s.strand st).stop with
    | .stopped _ =>
      match s.resume st (s.strand st) (s.frameBytes st) with
      | none => (s.postOf die st .replayInvalid, 1)
      | some (s1, fresh) =>
        let s2 := allCls.foldl (fun a c => (a.captureTids (seqOf st c) fresh).resendAll (seqOf st c)) s1
        (s2.hubRelease die, 0)
    | _ => (s, 2)

/-- ERET. -/
def execEret (h : Hdr) (d : Reg) (s : State) : Res :=
  match s.cur with
  | .seq _ => s.issue (.eret h d) h {} .next
  | .hub die => s.issue (.eret h d) h {} fun t =>
      let (u, v) := t.eret die
      .next (u.modMe fun q => q.setX d v)

/-- A replay entry's result put into the frame at `base` of a stopped strand, with its token (R343). -/
def State.rplyLand (s : State) (r : SeqRef) (base : Nat) (f : Flight) : State :=
  let rec_ := base + 1024 + 1024 * r.cls.code
  let s1 := match f.dest with
    | .none => s
    | .x d => if d = 0 then s else s.writeMem (rec_ + 48 + 8 * d.toNat) (bytes64 f.val)
    | .p d =>
      let q := ({ p := s.memByte (rec_ + 9) } : Seq).setP d (f.val != 0)
      s.writeMem (rec_ + 9) [q.p]
    | .b d => s.writeMem (rec_ + 16 + 8 * d.toNat) (natBytes 8 (BReg.word ⟨f.val.setWidth 48, true⟩))
    | .z d => s.modCluster r.die r.cl fun c =>
        { c with z := Tbl.set 0 c.z d.toNat (combineZ f.op (Tbl.get 0 c.z d.toNat) (low32 f.val)) }
    | .fid =>
      let t := { s.strand (strandOf r) with fid := f.val.setWidth 2 }
      s.writeMem (base + 16) (natBytes 4 (fidctl t (s.cluster r.die r.cl)))
    | .tag n on =>
      let act := s.memByte (base + 80)
      let bit : Byte := 1#8 <<< n.toNat
      let s2 := s.writeMem (base + 80) [if on then act ||| bit else act &&& ~~~bit]
      if on then s2.writeMem (base + 48 + 8 * n.toNat) (bytes64 f.val) else s2
    | .csr n => if n = 8 then s.writeMem (base + 8) (bytes64 (f.val &&& maskable)) else s.landCsr r n f.val
  match f.post with
  | none => s1
  | some q =>
    let k := (s1.memByte (base + 40 + q.toNat)).toNat
    if k ≥ 255 then s1.raise r .tokenOverflow .d 0 0 0 else s1.writeMem (base + 40 + q.toNat) (natBytes 1 (k + 1))

/-- RPLY's work for the sequencer of class `c` of the strand that TFRAME names. -/
def State.rply (s : State) (die : Nat) (c : Cls) : State :=
  match s.hubStrand die with
  | none => s
  | some st =>
    let base := s.frameArea st
    let t := s.strand st
    let fs := parseFlights (s.readMem (base + 1024 + 1024 * c.code) 1024) 0 ((s.besides t.wid t.launchId).flightsOf c)
    if fs.any (·.isNone) then s.postOf die st .replayInvalid
    else (fs.filterMap id).foldl (fun a f => a.rplyLand (seqOf st c) base f)
      (s.writeMem (base + 1024 + 1024 * c.code + 11) [0])

/-- RPLY. -/
def execRply (h : Hdr) (a : Reg) (s : State) : Res :=
  match s.cur with
  | .seq _ => s.issue (.rply h a) h {} .next
  | .hub die =>
    let c := Cls.ofCode (field (s.X a) 0 2)
    s.issue (.rply h a) h {} fun t => .next (t.rply die c)

/-! ### Translation memory and position map (R344) -/

/-- TLD. -/
def execTld (h : Hdr) (d b : Reg) (idx : Option (BitVec 12)) (s : State) : Res :=
  match s.cur with
  | .seq _ => s.issue (.tld h d b idx) h {} .next
  | .hub die =>
    let v := s.X b
    s.issue (.tld h d b idx) h {} fun t =>
      let (u, w) := t.tld die v idx
      .next (u.modMe fun q => q.setX d w)

/-- TLK. -/
def execTlk (h : Hdr) (a : Reg) (l : Bool) (s : State) : Res :=
  match s.cur with
  | .seq _ => s.issue (.tlk h a l) h {} .next
  | .hub die =>
    let n := field (s.X a) 0 12
    s.issue (.tlk h a l) h {} fun t => .next (t.modDie die fun d =>
      let e := d.tmEntry n
      { d with tm := Tbl.set 0 d.tm n (if l then e ||| 0x2000#64 else e &&& ~~~0x2000#64) })

/-- The entries that TINV removes. -/
def tinvHits (mode : BitVec 2) (xa : Word) (p : Nat × BitVec 64) : Bool :=
  let free := p.2.getLsbD 12 && !p.2.getLsbD 13
  match mode.toNat with
  | 0 => p.2.getLsbD 12 && p.1 == field xa 0 12
  | 1 => free && field p.2 33 4 == field xa 0 4
  | 2 => free
  | _ => false

/-- TINV. -/
def execTinv (h : Hdr) (d a : Reg) (mode : BitVec 2) (s : State) : Res :=
  match s.cur with
  | .seq _ => s.issue (.tinv h d a mode) h {} .next
  | .hub die =>
    let xa := s.X a
    s.issue (.tinv h d a mode) h {} fun t =>
      let n := ((t.die die).tm.filter (tinvHits mode xa)).length
      .next ((t.modDie die fun v => { v with tm := v.tm.filter fun p => !tinvHits mode xa p }).modMe fun q =>
        q.setX d (BitVec.ofNat 64 n))

/-- The way that PMLD takes in its set, and whether it was chosen in round-robin order (R344). -/
def Die.pmldWay (d : Die) (v : BitVec 128) (set : Nat) (way : Option (BitVec 2)) : Option (Nat × Bool) :=
  let at_ (w : Nat) : BitVec 128 := Tbl.get 0 d.pm (set * 4 + w)
  match way with
  | some w => some (w.toNat, false)
  | none =>
    match (List.range 4).find? fun w => (at_ w).getLsbD 59 && (at_ w).extractLsb' 88 40 == v.extractLsb' 88 40 with
    | some w => if (at_ w).getLsbD 58 then none else some (w, false)
    | none =>
      match (List.range 4).find? fun w => !(at_ w).getLsbD 59 with
      | some w => if (at_ w).getLsbD 58 then none else some (w, false)
      | none => (nextUnlocked (fun w => (at_ w).getLsbD 58) (Tbl.get 0 d.pmNext set) 4).map fun w => (w, true)

/-- PMLD on a die: set and way used, or 2^63. -/
def State.pmld (s : State) (die : Nat) (v : BitVec 128) (way : Option (BitVec 2)) : State × Word :=
  if v.extractLsb' 0 58 ≠ 0 then (s, notLoaded)
  else
    let set := posSet (v.extractLsb' 88 4).toNat (v.extractLsb' 108 20).toNat (v.extractLsb' 92 16).toNat
    match (s.die die).pmldWay v set way with
    | none => (s, notLoaded)
    | some (w, turn) =>
      (s.modDie die fun d =>
        { d with pm := Tbl.set 0 d.pm (set * 4 + w) v
                 badPm := d.badPm.filter (· != set * 4 + w)
                 pmNext := if turn then Tbl.set 0 d.pmNext set ((w + 1) % 4) else d.pmNext },
       BitVec.ofNat 64 (set * 4 + w))

/-- PMLD. -/
def execPmld (h : Hdr) (d a b : Reg) (way : Option (BitVec 2)) (s : State) : Res :=
  match s.cur with
  | .seq _ => s.issue (.pmld h d a b way) h {} .next
  | .hub die =>
    let v := s.X a ++ s.X b
    s.issue (.pmld h d a b way) h {} fun t =>
      let (u, w) := t.pmld die v way
      .next (u.modMe fun q => q.setX d w)

/-! ### Landing in idle steps, waits, words that are no instruction -/

/-- FIXED_LATENCY_LANDING: an idle step of a sequencer, in which its operations in flight advance and those due land
(R59 to R62). -/
def execFixedLatencyLanding (g : Agent) (s : State) : Res :=
  match g with
  | .hub _ => .next s
  | .seq r =>
    let q := s.seq r
    if !s.acts (strandOf r) || !q.live || !q.stepReady (s.tsc r.die) then .next s
    else
      let (s1, ok) := s.stepFlights r
      .next (if ok then s1.modSeq r fun z => { z with gap := z.gap - 1 } else s1)

/-- NOT_AN_INSTRUCTION: the word at the executing agent's program counter is none; it traps precisely (R47). -/
def execNotAnInstruction (c : Cause) (s : State) : Res := s.trapHere c

/-! ### How a strand comes to stop (R325, R326, R333) -/

/-- STRAND_STOP: a running strand begins to stop for pre-emption or abort; one that is stopping stops once nothing of
it is unsettled (R326). -/
def execStrandStop (r : StrandRef) (c : Cause) (s : State) : Res :=
  match (s.strand r).stop with
  | .running =>
    if (c == .preempt || c == .hostAbort) && (s.team? r).any (·.started) then .next (s.raise (seqOf r .L) c .a 0 0 0)
    else .next s
  | _ => .next (s.settleStop r)

/-- PREEMPT_REQUEST: every strand of the team is to stop, those too that stop already for another cause (R333). -/
def execPreemptRequest (launch team : Nat) (s : State) : Res :=
  let hits := s.sched.teams.filter fun (_, t) => t.launch.toNat == launch && t.index == team && t.started
  .next (hits.foldl (fun a (_, t) => t.strands.foldl (fun b st => b.modStrand st fun x => { x with preempt := true }) a) s)

/-- Whether a strand has a sequencer that waits, and none has taken a step for 2^24 cycles (R325). -/
def State.starved (s : State) (st : StrandRef) : Bool :=
  decide ((s.strand st).lastStep + 2 ^ 24 ≤ s.tsc st.die) && (allCls.any fun c => (s.seq (seqOf st c)).wait.isSome)

/-- WATCHDOG: the strand stops, or where the cause is masked a record is posted (R324, R325). -/
def execWatchdog (r : StrandRef) (s : State) : Res :=
  if (s.strand r).stop ≠ .running ∨ !s.starved r then .next s
  else if s.masked r .watchdog then
    .next ((s.postOf r.die r .watchdog).modStrand r fun t => { t with lastStep := s.tsc r.die })
  else
    let c := (allCls.find? fun c => (s.seq (seqOf r c)).wait.isSome).getD .L
    .next (s.raise (seqOf r c) .watchdog .a 0 0 0)

end Sys2Proof.Machine
end

