-- ==== Sys2Proof/Machine/Context.lean ====
section
/-! DEFINITION. The context image of a team: CTXS and CTXL (R334, R335, R345, R346). -/

namespace Sys2Proof.Machine

def imageMagic : Nat := 0x5854435A

/-- Bytes up to the next multiple of 64. -/
def up64 (n : Nat) : Nat := (n + 63) / 64 * 64

def padUp (bs : List Byte) : List Byte := padTo (up64 bs.length) bs

/-- Binary64, for the exact values of Q (R335). -/
def mfBinary64 : MFmt := ⟨11, 1023, 52, true, 0x7FEFFFFFFFFFFFFF, some 0x7FF8000000000000⟩

/-- Bytes of `n` command records with their extensions (R335). -/
def recordsLen (bs : List Byte) : Nat → Nat
  | 0 => 0
  | n + 1 =>
    let k := 64 + 64 * nat bs 51 1
    k + recordsLen (bs.drop k) n

/-- Command records, each with its extension. -/
def splitRecords (bs : List Byte) : Nat → List (List Byte)
  | 0 => []
  | n + 1 =>
    let k := 64 + 64 * nat bs 51 1
    bs.take k :: splitRecords (bs.drop k) n

/-- The command directory: how many records follow, and their bytes with their extensions (log entry 85). -/
def directory (n bytes : Nat) : List Byte := natBytes 4 n ++ natBytes 4 bytes ++ zeros 56

/-- The attention pipe section. -/
def Pipe.image (p : Pipe) : List Byte :=
  let q (k : Nat) : Nat := (mfBinary64.encode (.det .rne) false (Tbl.get .zero p.q k)).bits
  padTo 64 ([BitVec.ofNat 8 p.rows, BitVec.ofNat 8 p.dq, BitVec.ofNat 8 p.dv, 0] ++ bytes32 p.sc)
    ++ packNats 4 ((List.range 64).map fun r => (Tbl.get 0 p.m r).toNat)
    ++ packNats 4 ((List.range 64).map fun r => (Tbl.get 0 p.l r).toNat)
    ++ packNats 4 ((List.range 4096).map fun k => (Tbl.get 0 p.o k).toNat)
    ++ packNats 8 ((List.range 4096).map q)

/-- Bytes of the attention pipe section. -/
def pipeBytes : Nat := 49728

/-- The pipe that a section holds. -/
def Pipe.ofImage (bs : List Byte) : Pipe :=
  let w (o k : Nat) : BitVec 32 := BitVec.ofNat 32 (nat bs (o + 4 * k) 4)
  { rows := nat bs 0 1, dq := nat bs 1 1, dv := nat bs 2 1, sc := w 4 0
    m := (List.range 64).map fun r => (r, w 64 r)
    l := (List.range 64).map fun r => (r, w 320 r)
    o := (List.range 4096).map fun k => (k, w 576 k)
    q := (List.range 4096).map fun k => (k, mfBinary64.decode (nat bs (16960 + 8 * k) 8)) }

/-! ### CTXS (R345) -/

/-- The sections of a team's image behind its header: strand records, commands, wheels, latches, pipe, TID run, extent,
accumulator words and their poison bits. -/
def State.teamImage (s : State) (t : Team) (acc0 accn : Nat) : List Byte :=
  let c := s.cluster t.die t.cl
  let frames := t.strands.map fun st => s.frameBytes st
  let recs := frames.flatMap fun f => splitRecords (f.drop 5184) (nat f 5120 4)
  let wheel (n : Nat) : Nat :=
    ((t.wheels.find? fun p => p.1 == n).map fun p => (Tbl.get 0 c.wheels p.2).toNat).getD 0
  let z (n : Nat) : Nat := if t.pipe then (Tbl.get 0 c.z n).toNat else 0
  frames.flatMap (·.take 5120)
    ++ directory recs.length recs.flatten.length ++ recs.flatten
    ++ packNats 8 ((List.range 16).map wheel)
    ++ padTo 64 (packNats 4 ((List.range 4).map z))
    ++ (if t.pipe then c.pipe.image else [])
    ++ packNats 64 ((List.range t.ntid).map fun n => (Tbl.get 0 c.tid (t.tidBase + n)).toNat)
    ++ Tbl.readRun 0 c.spad t.spadBase t.spb
    ++ padUp (packNats 4 ((List.range accn).map fun n => (c.accWord (acc0 + n)).toNat))
    ++ padUp (natBytes ((accn + 7) / 8)
        (packBits 1 ((List.range accn).map fun n => if Tbl.get false c.poison (acc0 + n) then 1 else 0)))

/-- The image header (R335). -/
def imageHeader (t : Team) (hdr : List Byte) (acc0 accn size : Nat) : List Byte :=
  padTo 256 (natBytes 4 imageMagic ++ natBytes 2 1 ++ natBytes 1 t.slots.length ++ natBytes 1 (if t.pipe then 1 else 0)
    ++ bytes32 t.launch ++ natBytes 1 t.ctx.toNat ++ zeros 3 ++ padTo 192 hdr ++ natBytes 8 acc0 ++ natBytes 8 accn
    ++ natBytes 8 size)

/-- The team of the strand that a hub handles, if all of its strands have stopped. -/
def State.stoppedTeam (s : State) (die : Nat) : Option (Nat × Team) :=
  match (s.die die).hub.held with
  | none => none
  | some st =>
    let k := (s.strand st).team
    match s.team? st with
    | none => none
    | some t =>
      let still (x : StrandRef) : Bool := match (s.strand x).stop with
        | .stopped _ => true
        | _ => false
      if t.strands.all still then some (k, t) else none

/-- The strands of a team leave the hub's queue, and the hub its trap, when the team is freed (R345). -/
def State.dropTraps (s : State) (t : Team) : State :=
  let s1 := s.modHub t.die fun h => { h with trapQ := h.trapQ.filter fun x => !t.strands.contains x }
  if (s1.die t.die).hub.held.any t.strands.contains then s1.hubRelease t.die else s1

/-- CTXS's work: the image of the team whose strand the hub handles. -/
def State.saveTeam (s : State) (die : Nat) (rel : Bool) (xa xb : Word) : State × Word :=
  let acc0 := field xb 0 17
  let accn := field xb 32 18
  match s.stoppedTeam die with
  | none => (s, notLoaded)
  | some (k, t) =>
    if xa.toNat % 64 ≠ 0 ∨ accWords < acc0 + accn then (s, notLoaded)
    else
      let body := s.teamImage t acc0 accn
      let size := 256 + body.length
      if slabSize < xa.toNat + size then (s, notLoaded)
      else
        let hdr := ((s.launch? t.launch).map (·.hdr)).getD []
        let s1 := s.writeSlab die xa.toNat (imageHeader t hdr acc0 accn size ++ body)
        (if rel then (s1.dropTraps t).freeTeam k t else s1, BitVec.ofNat 64 size)

/-- CTXS. -/
def execCtxs (h : Hdr) (rel : Bool) (d a b : Reg) (s : State) : Res :=
  match s.cur with
  | .seq _ => s.issue (.ctxs h rel d a b) h {} .next
  | .hub die =>
    let xa := s.X a
    let xb := s.X b
    s.issue (.ctxs h rel d a b) h {} fun t =>
      let (u, v) := t.saveTeam die rel xa xb
      .next (u.modMe fun q => q.setX d v)

/-! ### CTXL (R346) -/

/-- The cause of a code (R323). -/
def causeOf (n : Nat) : Cause :=
  [.noCause, .zeroWord, .lenIllegal, .majUnassigned, .funcReserved, .wrongSequencer, .privileged, .operandReserved,
   .strideCode, .formatIllegal, .align, .regionOverlap, .branchUnprepared, .tokenOverflow, .tokenCount, .wheelState,
   .xlateMiss, .xlatePerm, .xlateClass, .posmapMiss, .addrRange, .tidInvalid, .tidBounds, .scaleOverflow,
   .tuplePattern, .tupleParkFull, .tupleRegionFull, .accPoison, .scheduleMiss, .tagUnbound, .segmentMissed, .landSlot,
   .fpInvalid, .fpOverflow, .fidMcheck, .fidRaise, .sramUncorr, .sramCorr, .remoteTimeout, .remoteNack,
   .linkRetired, .laneLos, .memberLost, .collDegraded, .qpOverflow, .counterOverflow, .syncLoss, .watchdog,
   .preempt, .userTrap, .breakpoint, .singleStep, .hostAbort, .droopBudget, .thermalLimit, .permitConfig,
   .firmwareAuth, .segmentAuth, .launchHeader, .ctxRestore, .replayInvalid].getD n .noCause

/-- The launch of an image whose header checks (R346). -/
def State.imageLaunch (s : State) (xa : Nat) : Option (BitVec 32 × Launch) :=
  let h := s.readMem xa 256
  let id := BitVec.ofNat 32 (nat h 8 4)
  let ok (l : Launch) : Bool :=
    nat h 0 4 == imageMagic && nat h 4 2 == 1 && nat h 6 1 == hdrNstr l.hdr && nat h 12 1 == l.ctx.toNat
      && (Tbl.get {} s.ctxs l.ctx.toNat).live && decide (xa + nat h 224 8 ≤ slabSize)
  if xa % 64 ≠ 0 ∨ slabSize < xa + 256 then none
  else ((s.launch? id).filter ok).map fun l => (id, l)

/-- A restored cluster: the TID run, the wheels, the latches, the pipe, the extent, the accumulator words. -/
def Cluster.restore (c : Cluster) (t : Team) (bs : List Byte) (acc0 accn : Nat) : Cluster :=
  let pipe := if t.pipe then pipeBytes else 0
  let tidAt := 192 + pipe
  let spadAt := tidAt + 64 * t.ntid
  let accAt := spadAt + t.spb
  let poisonAt := accAt + up64 (4 * accn)
  let wheels := t.wheels.foldl (fun x (name, n) => Tbl.set 0 x n (BitVec.ofNat 64 (nat bs (8 * name) 8))) c.wheels
  let tid := (List.range t.ntid).foldl (fun x n =>
    Tbl.set 0 x (t.tidBase + n) (BitVec.ofNat 512 (nat bs (tidAt + 64 * n) 64) &&& tidWritable)) c.tid
  let poison := nat bs poisonAt ((accn + 7) / 8)
  let c1 := { c with
    wheels := wheels, wheels0 := wheels, tid := tid
    badTid := unwritten (64 * t.tidBase) (64 * t.ntid) c.badTid
    spad := Tbl.writeRun 0 c.spad t.spadBase ((bs.drop spadAt).take t.spb)
    badSpad := unwritten t.spadBase t.spb c.badSpad
    badAcc := c.badAcc.filter fun k => k < acc0 || acc0 + accn ≤ k
    acc := Tbl.writeRun 0 c.acc acc0 ((List.range accn).map fun n => BitVec.ofNat 32 (nat bs (accAt + 4 * n) 4))
    poison := Tbl.writeRun false c.poison acc0 ((List.range accn).map poison.testBit) }
  if t.pipe then
    let z : Tbl (BitVec 32) := (List.range 4).foldl (fun x n => Tbl.set 0 x n (BitVec.ofNat 32 (nat bs (128 + 4 * n) 4))) []
    { c1 with z := z, pipe := Pipe.ofImage (bs.drop 192) }
  else c1

/-- A strand of a restored team: its frame in the frame area of its new slot; it stays stopped. -/
def State.restoreStrand (s : State) (k i : Nat) (st : StrandRef) (rec_ : List Byte) (cmds : List (List Byte)) : State :=
  let bare := parseStrand { team := k, idx := i } rec_ []
  let t := parseStrand { team := k, idx := i } rec_ (s.besides bare.wid bare.launchId).standIns
  let info : StopInfo :=
    { cause := causeOf (nat rec_ 83 1), point := .a, cls := .L, tepc := 0, pix := 0, detail := 0, tsc := s.tsc st.die }
  let ctl := natBytes 4 (fidctl t (s.cluster st.die st.cl))
  let frame := putAt 16 ctl (rec_.take 5120) ++ directory cmds.length cmds.flatten.length ++ cmds.flatten
  (s.setStrandAt (stKey st) { t with stop := .stopped info }).writeMem (s.frameArea st) frame

/-- CTXL's work: the LOC of strand 0, or nothing where a check fails. -/
def State.restoreTeam (s : State) (xa : Nat) (loc : Word) : Option (State × Word) :=
  let die := field loc 16 3
  let cl := field loc 8 6
  match s.imageLaunch xa with
  | none => none
  | some (id, l) =>
    if 53 < cl ∨ l.ending.isSome then none
    else match spotIn (s.teamsIn die cl) l.hdr with
    | none => none
    | some p =>
      let h := s.readMem xa 256
      let bs := (s.readMem xa (nat h 224 8)).drop 256
      let n := hdrNstr l.hdr
      let ncmd := nat bs (5120 * n) 4
      let cmdBs := bs.drop (5120 * n + 64)
      let cmds := splitRecords cmdBs ncmd
      let rest := cmdBs.drop (recordsLen cmdBs ncmd)
      let index := nat bs 0 8 / 2 ^ hdrS l.hdr
      let k := s.sched.nextTeam
      let s1 := s.placeAt id l index die cl p
      match Tbl.get? s1.sched.teams k with
      | none => none
      | some t =>
        let s2 := s1.modSched fun c => { c with teams := Tbl.put c.teams k { t with started := true } }
        let s3 := s2.modCluster die cl fun c => c.restore t rest (nat h 208 8) (nat h 216 8)
        let s4 := p.slots.zipIdx.foldl (fun a (slot, i) =>
          a.restoreStrand k i ⟨die, cl, slot⟩ ((bs.drop (5120 * i)).take 5120)
            (cmds.filter fun c => nat c 48 1 / 4 % 4 == i)) s3
        some (s4, BitVec.ofNat 64 (locOf ⟨die, cl, p.slots.headD 0⟩))

/-- CTXL; which number its record gives a failed check is a free value (log entry 14). -/
def execCtxl (h : Hdr) (d a b : Reg) (s : State) : Res :=
  match s.cur with
  | .seq _ => s.issue (.ctxl h d a b) h {} .next
  | .hub die =>
    let xa := (s.X a).toNat
    let xb := s.X b
    s.issue (.ctxl h d a b) h {} fun t =>
      match t.restoreTeam xa xb with
      | some (u, v) => .next (u.modMe fun q => q.setX d v)
      | none =>
        let u := { t with free := t.free + 1 }.post die { cause := .ctxRestore, detail := Config.freeValue t.free }
        .next (u.modMe fun q => q.setX d notLoaded)

end Sys2Proof.Machine
end

