-- ==== Sys2Proof/Machine/Control.lean ====
section
/-! DEFINITION. The branch, control, token, wheel and ordering families (R177, R190 to R197). -/

namespace Sys2Proof.Machine

/-! ### Branches (R177, R190 to R192) -/

/-- The executing agent continues at `target` (R177). -/
def State.jump (s : State) (target : BitVec 48) : State := s.modMe fun q => { q with pc := target }

/-- The target of a PBR at the program counter (R190). -/
def State.pbrTarget (s : State) : PbrTarget → BitVec 48
  | .rel off => s.me.pc + ((off.signExtend 48) <<< 2)
  | .abs a lit => (s.X a + zext32 lit).setWidth 48

/-- The executing agent continues at an address that its instruction fixes; a hub, at any where its operands fix none (log
entry 6). -/
def State.jumpTo (s : State) (fixed : Bool) (target : BitVec 48) : State :=
  if fixed then s.jump target else let (t, v) := s.openValue; t.jump (v.setWidth 48)

/-- A BR minor (R191): BRANCH_UNPREPARED if bD is not prepared, taken or not. -/
def State.branch (s : State) (i : Instr) (h : Hdr) (bd : BitVec 2) (taken : Bool) : Res :=
  s.issue i h { early := fun s => if (s.B bd).prep then none else some .branchUnprepared } fun t =>
    .next ((if taken then t.jumpTo (s.B bd).prep (s.B bd).target else t).finishAt h s.me.pc)

/-- PBR (R190): bD is prepared after 2 steps. -/
def execPbr (h : Hdr) (bd : BitVec 2) (tgt : PbrTarget) (s : State) : Res :=
  let v := (s.pbrTarget tgt).setWidth 64
  let bad := (tgt matches .abs ..) && v.toNat % 4 != 0
  s.issue (.pbr h bd tgt) h { fixed := true, early := fun _ => if bad then some .align else none } fun t =>
    if bad then let (u, w) := t.openValue; u.launchOp (.pbr h bd tgt) h (.b bd) 2 w w 0 0
    else t.launchOp (.pbr h bd tgt) h (.b bd) 2 v v 0 0

/-- BRT (R191). -/
def execBrt (h : Hdr) (bd : BitVec 2) (pa : BitVec 3) (s : State) : Res := s.branch (.brt h bd pa) h bd (s.P pa)

/-- BRF (R191). -/
def execBrf (h : Hdr) (bd : BitVec 2) (pa : BitVec 3) (s : State) : Res := s.branch (.brf h bd pa) h bd (!s.P pa)

/-- BRA (R191). -/
def execBra (h : Hdr) (bd : BitVec 2) (s : State) : Res := s.branch (.bra h bd) h bd true

/-- CALL (R192): branches as BRA and lands the address after it in x31. -/
def execCall (h : Hdr) (bd : BitVec 2) (s : State) : Res :=
  let link := (s.me.pc + BitVec.ofNat 48 (sizeOf h)).setWidth 64
  s.issue (.call h bd) h
    { fixed := true, early := fun s => if (s.B bd).prep then none else some .branchUnprepared } fun t =>
    andThen (t.launchOp (.call h bd) h (.x 31) 1 link link 0 0) fun u => u.jumpTo (s.B bd).prep (s.B bd).target

/-- RET (R192): continues at X[31]. -/
def execRet (h : Hdr) (s : State) : Res :=
  let v := s.X 31
  let bad : Option Cause := if v.toNat ≥ 2 ^ 48 then some .addrRange else if v.toNat % 4 ≠ 0 then some .align else none
  s.issue (.ret h) h { early := fun _ => bad } fun t => .next ((t.jumpTo bad.isNone (v.setWidth 48)).finishAt h s.me.pc)

/-! ### CTL (R193) -/

/-- END: the agent issues nothing more. -/
def execEndI (h : Hdr) (s : State) : Res :=
  s.issue (.endI h) h {} fun t => .next ((t.modMe fun q => { q with ended := true }).finish h)

/-- YIELD: a pre-emption that is pending stops the strand behind it (R193, R333). -/
def execYield (h : Hdr) (s : State) : Res :=
  s.issue (.yield h) h {} fun t =>
    let u := (t.modMe fun q => { q with sw := true }).finish h
    .next (match u.cur with
      | .seq r => if (u.strand (strandOf r)).preempt then u.raise r .preempt .a 0 0 0 else u
      | .hub _ => u)

/-- NOP. -/
def execNop (h : Hdr) (s : State) : Res := s.issue (.nop h) h {} fun t => .next (t.finish h)

/-- BRK: BREAKPOINT at point D, or a NOP where it is masked (R193, R324), and on a hub, which has no traps (log entry 6). -/
def execBrk (h : Hdr) (s : State) : Res :=
  s.issue (.brk h) h {} fun t =>
    let u := t.finish h
    .next (match s.cur with
      | .hub _ => u
      | .seq r => if u.masked (strandOf r) .breakpoint then u else u.raise r .breakpoint .d (s.seq r).pc 0 0)

/-! ### TOK (R194): a hub has no queues and traps at check 9 of R47 -/

/-- TKP: `n` tokens pushed as one release. -/
def execTkp (h : Hdr) (q : BitVec 3) (n : Reg) (s : State) : Res :=
  match s.cur with
  | .hub _ => s.issue (.tkp h q n) h {} .next
  | .seq r =>
    let popped := if h.wq = some q ∧ (s.seq r).popped.isNone ∧ (s.seq r).preOf q = 0 then 1 else 0
    s.issue (.tkp h q n) h
      { early := fun s => if s.isProducer r q then none else some .operandReserved
        late := fun s =>
          if (s.strand (strandOf r)).count q - popped + n.toNat > 255 then some .tokenOverflow else none } fun t =>
      .next ((t.modStrand (strandOf r) fun z => z.push q n.toNat).finish h)

/-- TKW: waits for `n` tokens, after WQ has been popped, and pops them as it issues. -/
def execTkw (h : Hdr) (q : BitVec 3) (n : Reg) (s : State) : Res :=
  match s.cur with
  | .hub _ => s.issue (.tkw h q n) h {} .next
  | .seq r =>
    s.issue (.tkw h q n) h
      { early := fun s => if s.isConsumer r q then none else some .operandReserved, tokens := some (q, n.toNat) } fun t =>
      .next (t.finish h)

/-- TKQ: lands the count at the start of the cycle. -/
def execTkq (h : Hdr) (d : Reg) (q : BitVec 3) (s : State) : Res :=
  match s.cur with
  | .hub _ => s.issue (.tkq h d q) h {} .next
  | .seq r =>
    let v := BitVec.ofNat 64 (Tbl.get 0 (s.strand (strandOf r)).qStart q.toNat)
    s.issue (.tkq h d q) h
      { fixed := true
        early := fun s => if (s.binding (strandOf r) q).isSome then none else some .operandReserved } fun t =>
      t.launchOp (.tkq h d q) h (.x d) 1 v v 0 0

/-! ### WHL (R173 to R176, R195) -/

/-- A wheel's word, field by field (R173). -/
structure Wheel where
  nfill : Nat
  nclm : Nat
  tail : Nat
  head : Nat
  nb : Nat
  act : Bool
  size : Nat
  base : Nat
deriving DecidableEq, Repr

def Wheel.ofWord (w : BitVec 64) : Wheel :=
  ⟨field w 49 5, field w 44 5, field w 40 4, field w 36 4, field w 32 4 + 1, w.getLsbD 31, field w 15 16, field w 0 15⟩

def Wheel.word (w : Wheel) : BitVec 64 :=
  BitVec.ofNat 64 (w.nfill * 2 ^ 49 + w.nclm * 2 ^ 44 + w.tail * 2 ^ 40 + w.head * 2 ^ 36 + (w.nb - 1) * 2 ^ 32
    + (if w.act then 2 ^ 31 else 0) + w.size * 2 ^ 15 + w.base)

def Wheel.nfree (w : Wheel) : Nat := w.nb - w.nfill - w.nclm

/-- The local-window address of buffer `i` (R173). -/
def Wheel.addr (w : Wheel) (i : Nat) : Word := BitVec.ofNat 64 (windowBase + 64 * (w.base + i * w.size))

/-- The wheel of the cluster that a name of the executing team stands for (R174). -/
def State.wheelNo (s : State) (r : SeqRef) (w : BitVec 4) : Option Nat :=
  (s.team? (strandOf r)).bind fun t => (t.wheels.find? fun p => p.1 == w.toNat).map (·.2)

/-- The wheel as the cycle began (`start`), or as it stands. -/
def State.wheel (s : State) (r : SeqRef) (w : BitVec 4) (start : Bool := false) : Wheel :=
  let c := s.cluster r.die r.cl
  Wheel.ofWord (Tbl.get 0 (if start then c.wheels0 else c.wheels) ((s.wheelNo r w).getD 0))

def State.setWheel (s : State) (r : SeqRef) (w : BitVec 4) (v : Wheel) : State :=
  s.modCluster r.die r.cl fun c => { c with wheels := Tbl.set 0 c.wheels ((s.wheelNo r w).getD 0) v.word }

/-- WHEEL_STATE of a wheel the launch does not declare (R174). -/
def State.undeclared (s : State) (r : SeqRef) (w : BitVec 4) : Option Cause :=
  if (s.wheelNo r w).isSome then none else some .wheelState

/-- WINIT's checks of its operands (R195). -/
def winitCheck (base cfg : Word) : Option Cause :=
  let size := field cfg 0 16
  let nb := field cfg 16 5
  if base.toNat ≥ 2 ^ 21 then some .addrRange
  else if base.toNat % 64 ≠ 0 then some .align
  else if cfg.toNat ≥ 2 ^ 21 ∨ size = 0 ∨ size > 32768 ∨ nb = 0 ∨ nb > 16 then some .wheelState
  else if base.toNat + 64 * size * nb > 0x200000 then some .addrRange
  else none

/-- WINIT. -/
def execWinit (h : Hdr) (w : BitVec 4) (base cfg : Reg) (s : State) : Res :=
  match s.cur with
  | .hub _ => s.issue (.winit h w base cfg) h {} .next
  | .seq r =>
    let b := s.X base
    let c := s.X cfg
    s.issue (.winit h w base cfg) h { early := fun s => (s.undeclared r w).orElse fun _ => winitCheck b c } fun t =>
      .next ((t.setWheel r w ⟨0, 0, 0, 0, field c 16 5, true, field c 0 16, b.toNat / 64⟩).finish h)

/-- A WHL minor that changes the counts at once: WHEEL_STATE unless `ok` holds of the wheel (R195). -/
def State.wheelOp (s : State) (i : Instr) (h : Hdr) (r : SeqRef) (w : BitVec 4) (ok : Wheel → Bool)
    (act : State → Wheel → Res) : Res :=
  s.issue i h
    { fixed := (i matches .wclm ..), early := fun s => s.undeclared r w
      late := fun s => if (s.wheel r w).act && ok (s.wheel r w) then none else some .wheelState } fun t =>
    act t (t.wheel r w)

/-- WCLM: claims the buffer at TAIL and lands its address. -/
def execWclm (h : Hdr) (d : Reg) (w : BitVec 4) (s : State) : Res :=
  match s.cur with
  | .hub _ => s.issue (.wclm h d w) h {} .next
  | .seq r => s.wheelOp (.wclm h d w) h r w (fun v => decide (0 < v.nfree)) fun t v =>
      let t' := (t.setWheel r w { v with tail := (v.tail + 1) % v.nb, nclm := v.nclm + 1 }).acquire
      t'.launchOp (.wclm h d w) h (.x d) 1 (v.addr v.tail) (v.addr v.tail) 0 0

/-- WPUB. -/
def execWpub (h : Hdr) (w : BitVec 4) (s : State) : Res :=
  match s.cur with
  | .hub _ => s.issue (.wpub h w) h {} .next
  | .seq r => s.wheelOp (.wpub h w) h r w (fun v => decide (0 < v.nclm)) fun t v =>
      .next ((t.setWheel r w { v with nclm := v.nclm - 1, nfill := v.nfill + 1 }).finish h)

/-- WREL. -/
def execWrel (h : Hdr) (w : BitVec 4) (s : State) : Res :=
  match s.cur with
  | .hub _ => s.issue (.wrel h w) h {} .next
  | .seq r => s.wheelOp (.wrel h w) h r w (fun v => decide (0 < v.nfill)) fun t v =>
      .next ((t.setWheel r w { v with head := (v.head + 1) % v.nb, nfill := v.nfill - 1 }).finish h)

/-- WWF and WWE: wait on the state at the start of the cycle, issue once it is there and land an address of it; the return is
an acquire (R175, R176). -/
def State.wheelWait (s : State) (i : Instr) (h : Hdr) (d : Reg) (w : BitVec 4) (ready : Wheel → Bool)
    (buf : Wheel → Nat) : Res :=
  match s.cur with
  | .hub _ => s.issue i h {} .next
  | .seq r =>
    let v := s.wheel r w true
    s.issue i h
      { fixed := true, early := fun s => s.undeclared r w
        room := fun s => if (v.act && ready v) || !(s.wheel r w).act then none else some .wheel
        late := fun s => if (s.wheel r w).act then none else some .wheelState } fun t =>
      t.acquire.launchOp i h (.x d) 1 (v.addr (buf v)) (v.addr (buf v)) 0 0

/-- WWF. -/
def execWwf (h : Hdr) (d : Reg) (w : BitVec 4) (s : State) : Res :=
  s.wheelWait (.wwf h d w) h d w (fun v => decide (0 < v.nfill)) (·.head)

/-- WWE. -/
def execWwe (h : Hdr) (d : Reg) (w : BitVec 4) (s : State) : Res :=
  s.wheelWait (.wwe h d w) h d w (fun v => decide (0 < v.nfree)) (·.tail)

/-! ### ORD (R196, R197) -/

/-- PHASE: every earlier write is performed already; a boundary at die scope or wider is noted for the line cache
(R115), one at a narrower scope acquires what the sequencers it covers have acquired (R171, R298). -/
def execPhase (h : Hdr) (scope : Scope) (s : State) : Res :=
  let wide := scope matches .die | .package | .domain
  s.issue (.phase h scope) h {} fun t =>
    .next ((if wide then t.modMe fun q => { q with phase := t.tsc (agentDie t.cur) } else t.acquire).finish h)

/-- Whether variable-latency instructions of the executing agent are still to complete (R197). -/
def State.engaged (s : State) : Bool :=
  match s.cur with
  | .seq _ => !s.me.lds.isEmpty || !s.me.cmds.isEmpty
  | .hub d => !(s.die d).fwd.isEmpty

/-- What a FENCE.E comes to: it ends once nothing is to complete, and acquires what was released (R197). -/
def fenceHold (s : State) (c : Cmd) : Hold :=
  if s.engaged then .stays s else .ends (s.acquire.finishAt (hdrOf c.ins) c.addr)

/-- FENCE.E (R197). -/
def execFenceE (h : Hdr) (s : State) : Res :=
  s.issue (.fenceE h) h {} fun t => t.holdIn (t.heldCmd (.fenceE h) h 0 0) .fence fenceHold

end Sys2Proof.Machine
end

