-- ==== Sys2Proof/Machine/Launch.lean ====
section
/-! DEFINITION. Launches: the header's checks, LNCH, the launch unit's passes, dispatch, ageing, retirement and
termination (R305 to R312, R318 to R322, R329). -/

namespace Sys2Proof.Machine

/-! ### Checking a header (R305, R306) -/

/-- Whether a header is rejected at submission. -/
def headerBad (h : List Byte) : Bool :=
  let z (o n : Nat) : Bool := nat h o n == 0
  let widths := (List.range 6).map (hdrWidth h)
  let qbind := (List.range 8).map fun n => nat h (16 + n) 1
  let entries := allCls.map (hdrEntry h)
  let s := hdrS h
  nat h 0 2 != 1 || decide (8 ≤ hdrT h) || widths.any (fun w => decide (64 ≤ w)) || decide (4 ≤ hdrFid h)
    || decide (64 ≤ nat h 11 1) || qbind.any (fun q => q / 16 % 8 != 0 || (decide (q < 128) && q != 0))
    || !z 140 4 || !z 152 40
    || decide (5 < hdrT h) || decide (64 < widths.sum)
    || hdrNstr h == 0 || decide (4 < hdrNstr h) || decide (2 ^ s < hdrNstr h)
    || decide (hdrSpb h < 64) || decide (0x200000 < hdrSpb h) || hdrSpb h % 64 != 0 || decide (256 < hdrNtid h)
    || entries.all (· == 0) || entries.any (fun e => e % 4 != 0)
    || (hdrTag h && !hdrRes h)
    || (if hdrInd h then nat h 40 8 % 4 != 0 else !z 40 8)
    || (hdrNtid h == 0 && !z 80 8) || (hdrWmask h == 0 && !z 88 8)
    || (if hdrDept h then nat h 112 8 % 8 != 0 || nat h 120 8 % 64 != 0 else !z 112 8 || !z 120 8)
    || (hdrDepc h && !(BitVec.ofNat 64 (nat h 128 8)).getLsbD 62)
    || (!hdrInd h && decide (s < 64) && decide (2 ^ (64 - s) ≤ nat h 36 4))

/-- Bytes that the launch unit reads in a launch's context. -/
def State.unitRead (s : State) (ctx : BitVec 4) (va n : Nat) : Except Cause (List Byte) :=
  (s.slabRuns 0 ctx va n .read).map fun rs => rs.flatMap fun (pa, m) => s.readMem pa m

/-! ### Submission (R321, R322) -/

/-- The next launch id: ids that are held are passed over. -/
def nextLaunchId (held : List Nat) (id : Nat) : Nat → Nat
  | 0 => id
  | n + 1 => if held.contains id then nextLaunchId held (id % 0xFFFFFFFE + 1) n else id

def State.queue (s : State) (n : Nat) : LQueue := Tbl.get {} s.sched.queues n

def State.modQueue (s : State) (n : Nat) (f : LQueue → LQueue) : State :=
  s.modSched fun c => { c with queues := Tbl.put c.queues n (f (Tbl.get {} c.queues n)) }

def LQueue.valid (q : LQueue) : Bool := q.cfg.getLsbD 39
def LQueue.ctx (q : LQueue) : BitVec 4 := q.cfg.extractLsb' 40 4
def LQueue.prio (q : LQueue) : Nat := field q.cfg 36 3
def LQueue.full (q : LQueue) : Bool := decide (64 ≤ q.ids.length)

/-- A launch appended to a queue; its id. -/
def State.append (s : State) (ctx : BitVec 4) (queue : Nat) (hdr : List Byte) : State × BitVec 32 :=
  let held := s.sched.launches.map (·.1)
  let id := nextLaunchId held s.sched.nextId.toNat (held.length + 1)
  let l : Launch := { ctx := ctx, queue := queue, hdr := hdr }
  let s1 := s.modSched fun c =>
    { c with launches := Tbl.put c.launches id l, nextId := BitVec.ofNat 32 (id % 0xFFFFFFFE + 1) }
  (s1.modQueue queue fun q => { q with ids := q.ids ++ [BitVec.ofNat 32 id] }, BitVec.ofNat 32 id)

/-- What an LNCH comes to whose header has been read and checked: its launch is appended once the queue has room; with `.n` a full
queue gives FULL (R321). -/
def lnchHold (nb : Bool) (d : Reg) (lq : Nat) (s : State) (c : Cmd) : Hold :=
  let q := s.queue lq
  if !q.full then
    let ctx := match s.cur with
      | .seq r => s.ctxOf (strandOf r)
      | .hub _ => q.ctx
    let (u, id) := s.append ctx lq c.data
    .ends (u.endHold c d (zext32 id <<< 32))
  else if nb then .ends (s.endHold c d 6)
  else .stays s

/-- LNCH that has issued with its header, which is read once (R306, R321). -/
def State.launchWith (s : State) (i : Instr) (h : Hdr) (nb : Bool) (d : Reg) (lq : Nat) (va : Word) (hdr : List Byte) : Res :=
  s.holdIn { s.heldCmd i h va 0 with data := hdr } .launch (lnchHold nb d lq)

/-- LNCH on a sequencer (R321): its checks in their order. -/
def State.lnchSeq (s : State) (r : SeqRef) (i : Instr) (h : Hdr) (nb : Bool) (d a : Reg) (lq : Nat) : Res :=
  let va := s.X a
  let q := s.queue lq
  let ctx := s.ctxOf (strandOf r)
  let hdr : Except Cause (List Byte) :=
    if !q.valid || q.ctx != ctx then .error .xlatePerm
    else if va.toNat % 64 ≠ 0 then .error .align
    else (s.translate (strandOf r) va 1 .read).bind fun _ =>
      (s.slabRuns r.die ctx va.toNat 192 .read).map fun rs => rs.flatMap fun (pa, m) => s.readMem pa m
  let vpn := va.toNat / 0x200000
  s.issue i h
    { miss := if (tmLookup (s.die r.die).goodTm ctx vpn).isSome then vpn + 1 else vpn
      early := fun _ => errorOf hdr
      late := fun _ => if headerBad (hdr.toOption.getD []) then some .launchHeader else none } fun t =>
    t.launchWith i h nb d lq va (hdr.toOption.getD [])

/-- LNCH on a hub (R321): a failure is reported in X[D] and posted; a header that the slab does not hold fails with ADDR_RANGE (log
entry 6). -/
def State.lnchHub (s : State) (die : Nat) (i : Instr) (h : Hdr) (nb : Bool) (d a : Reg) (lq : Nat) : Res :=
  let pa := (s.X a).toNat
  let hdr := s.readMem pa 192
  let bad : Option Cause :=
    if !(s.queue lq).valid then some .xlatePerm
    else if pa % 64 ≠ 0 then some .align
    else if slabSize < pa + 192 then some .addrRange
    else if headerBad hdr then some .launchHeader
    else none
  s.issue i h {} fun t => match bad with
    | some c => .next ((t.post die { cause := c }).modMe fun z => z.setX d (BitVec.ofNat 64 (2 ^ 63 + c.code.toNat)))
    | none => t.launchWith i h nb d lq (s.X a) hdr

/-- LNCH. -/
def execLnch (h : Hdr) (nb : Bool) (d a : Reg) (lq : BitVec 6) (s : State) : Res :=
  match s.cur with
  | .seq r => s.lnchSeq r (.lnch h nb d a lq) h nb d a lq.toNat
  | .hub die => s.lnchHub die (.lnch h nb d a lq) h nb d a lq.toNat

/-! ### Leaving the package (R319, R329) -/

/-- A completion record (R357): detail 0, or the cause of a termination. -/
def State.completion (s : State) (id : BitVec 32) (c : Cause) : State :=
  s.post 0 { cause := .noCause, launch := id, detail := (c.code).setWidth 64 }

/-- A launch leaves its queue; where it was the head, the next head begins at PRIO with its own count (R309). -/
def State.unqueue (s : State) (qn : Nat) (id : BitVec 32) : State :=
  s.modQueue qn fun q =>
    let q' := { q with ids := q.ids.filter (· != id) }
    if q.ids.head? = some id then { q' with level := q.prio, aged := 0, readySince := none } else q'

/-- A launch leaves the package: NREG falls, what is held for it goes. -/
def State.dropLaunch (s : State) (id : BitVec 32) (l : Launch) : State :=
  let v := BitVec.ofNat 32 (nat l.hdr 96 4)
  let m := BitVec.ofNat 32 (nat l.hdr 100 4)
  let s1 := if l.resident && hdrTag l.hdr then s.register v m (· - 1) else s
  let s2 := s1.unqueue l.queue id
  { s2 with beside := s2.beside.filter fun b => b.launchId != id }.modSched fun c =>
    { c with launches := Tbl.erase c.launches id.toNat, partials := c.partials.filter (· != id) }

/-- A launch retires: NREG, DONEC, the completion record (R319). -/
def State.retireLaunch (s : State) (id : BitVec 32) (l : Launch) (c : Cause) : State :=
  ((s.dropLaunch id l).bump 0 l.ctx (hdrDonec l.hdr) 1).completion id c

/-- The placed teams of a launch. -/
def State.teamsOf (s : State) (id : BitVec 32) : List (Nat × Team) := s.sched.teams.filter fun p => p.2.launch == id

/-- Whether a strand has stopped and its hub has handled its stop. -/
def State.handled (s : State) (st : StrandRef) : Bool :=
  (match (s.strand st).stop with
    | .stopped _ => true
    | _ => false) && (s.die st.die).hub.held != some st && !(s.die st.die).hub.trapQ.contains st

/-- A launch that is being terminated is gone once every strand of its placed teams has stopped and been handled
(R329). -/
def State.endLaunch (s : State) (id : BitVec 32) : State :=
  match s.launch? id with
  | none => s
  | some l =>
    match l.ending with
    | none => s
    | some c =>
      let ts := s.teamsOf id
      if ts.all fun p => !p.2.started || p.2.strands.all s.handled then
        ((ts.foldl (fun a p => a.freeTeam p.1 p.2) s).dropLaunch id l).completion id c
      else s

/-- Firmware terminates a launch with a cause: its running strands are to stop, no further team is placed (R329). -/
def State.terminate (s : State) (id : BitVec 32) (c : Cause) : State :=
  match s.launch? id with
  | none => s
  | some l =>
    if l.ending.isSome then s
    else
      let s1 := s.setLaunch id { l with ending := some c }
      let s2 := s1.modSched fun x => { x with partials := x.partials.filter (· != id) }
      let s3 := s2.unqueue l.queue id
      ((s3.teamsOf id).foldl (fun a p =>
        if p.2.started then p.2.strands.foldl (fun b st =>
          match (b.strand st).stop with
          | .running => b.raise (seqOf st .L) .hostAbort .a 0 0 0
          | _ => b) a
        else a) s3).endLaunch id

/-- A termination from outside: the record of HOST_ABORT comes first (R329, R355). -/
def State.abortLaunch (s : State) (id : BitVec 32) : State :=
  if (s.launch? id).any (·.ending.isNone) then
    (s.post 0 { cause := .hostAbort, launch := id }).terminate id .hostAbort
  else s

/-! ### Dependences (R309, R311) -/

/-- Where the tuple of a dependence is: a region of this package, or another member. -/
def State.depTarget (s : State) (l : Launch) : Option Target :=
  let v := BitVec.ofNat 64 (nat l.hdr 104 8)
  if field v 53 10 ≠ 0 ∨ (v.toNat < 2 ^ 63 ∧ field v 48 5 ≠ 0) then none
  else if v.toNat ≥ 2 ^ 63 ∧ field v 48 5 ≠ s.chain.self then some (.far (field v 48 5))
  else match (s.page 0 l.ctx (field v 0 48)).bind (checkPlace .take) with
    | .error _ => none
    | .ok pa => ((s.die (pa / 0x80000000)).region? (field v 0 48) l.ctx).map fun p => .home (pa / 0x80000000) p.1

/-- The pattern of a dependence, if it can be read and used. -/
def State.depPattern (s : State) (l : Launch) : Option (List Byte) :=
  ((s.unitRead l.ctx (nat l.hdr 112 8) 72).toOption).filter patternOk

/-- Pages that the dependences name, loaded from the list (R356). -/
def State.depPages (s : State) (l : Launch) : State :=
  if !hdrDept l.hdr then s
  else ((s.servePages 0 l.ctx (nat l.hdr 104 6) 1).servePages 0 l.ctx (nat l.hdr 112 8) 72).servePages 0 l.ctx
    (nat l.hdr 120 8) 80

/-- The stored tuple that a dependence would take here. -/
def State.depTuple (s : State) (l : Launch) : Option (Nat × Nat × Nat × Stored) :=
  match s.depTarget l, s.depPattern l with
  | some (.home die rid), some p =>
    let sl := homeSlice (BitVec.ofNat 16 (nat p 0 2)) rid
    ((s.slice die sl).oldest rid p).map fun t => (die, sl, rid, t)
  | _, _ => none

/-- Whether the counter dependence holds. -/
def State.depCounter (s : State) (l : Launch) : Bool :=
  let k := Handle.of (BitVec.ofNat 64 (nat l.hdr 128 8))
  !hdrDepc l.hdr || ((!k.rmt || k.mid == s.chain.self)
    && decide (nat l.hdr 136 4 ≤ (s.counter k.die k.num).value.toNat))

/-- Whether the head of a queue is ready (R309). -/
def State.ready (s : State) (l : Launch) : Bool :=
  l.committed || (s.depCounter l && (!hdrDept l.hdr || (s.depTuple l).isSome))

/-- Whether the taken tuple can be written. -/
def State.depOut (s : State) (l : Launch) : Bool := (s.slabRuns 0 l.ctx (nat l.hdr 120 8) 80 .write).toBool

/-- The taken tuple and its stamp written at DEPOUT (R311); the head is committed. -/
def State.commitTuple (s : State) (id : BitVec 32) (l : Launch) (tuple stamp : List Byte) : State :=
  let bs := tuple ++ stamp
  let s1 := match s.slabRuns 0 l.ctx (nat l.hdr 120 8) 80 .write with
    | .error _ => s
    | .ok rs => (rs.foldl (fun (a : State × List Byte) (pa, m) =>
        (a.1.writeSlab 0 pa (a.2.take m), a.2.drop m)) (s, bs)).1
  s1.setLaunch id { l with committed := true, ask := none }

/-- Step 1 of R311: the tuple is taken, here at once, from another member by a request. -/
def State.takeTuple (s : State) (id : BitVec 32) (l : Launch) : State :=
  match s.depTuple l with
  | some (die, sl, rid, t) =>
    let s0 := s.purge die sl rid
    let s1 := (s0.modSlice die sl fun x => { x with stored := x.stored.filter fun u => u != t }).addCount die rid (· - 1)
    s1.commitTuple id l t.tuple (stampBytes t.tsc.toNat t.seq sl die)
  | none =>
    match s.depTarget l, s.depPattern l with
    | some (.far mid), some p =>
      let rq := BitVec.ofNat 18 (s.chain.self * 8192 + 63 * 16 + 3)
      let q : TspReq := ⟨2, true, BitVec.ofNat 16 (nat p 0 2), 0, 0, BitVec.ofNat 48 (nat l.hdr 104 6), l.ctx, rq,
        BitVec.ofNat 32 s.nextReq, p⟩
      { s with nextReq := s.nextReq + 1 }.setLaunch id { l with ask := some s.nextReq } |>.send (.tspreq mid q)
    | _, _ => s

/-! ### Dispatch (R310, R311, R314) -/

/-- Whether a wheel record fails the checks of WINIT or passes SPB (R311). -/
def wheelBad (rec64 spb : Nat) : Bool :=
  let size := rec64 / 2 ^ 15 % 2 ^ 16
  decide (2 ^ 36 ≤ rec64) || rec64 / 2 ^ 31 % 2 == 1 || size == 0 || decide (32768 < size)
    || decide (spb < 64 * (rec64 % 2 ^ 15) + 64 * size * (rec64 / 2 ^ 32 % 16 + 1))

/-- What a dispatch comes to before its teams are placed: the team count with the images, or the end of the launch with
a cause, if it is one that an event reports. -/
inductive Ready where
  | teams (n : Nat) (tids wheels : List Byte)
  | ends (c : Option Cause)
deriving DecidableEq, Repr

/-- Steps 2 and 3 of R311, and what makes a launch retire without teams: its count is judged before the images are read. -/
def State.prepare (s : State) (l : Launch) : Ready :=
  let h := l.hdr
  let cfg := (s.queue l.queue).cfg
  match (if hdrInd h then (s.unitRead l.ctx (nat h 40 8) 4).map leNat else .ok (nat h 36 4)) with
  | .error c => .ends (some c)
  | .ok n =>
    if n = 0 then .ends none
    else if 2 ^ (64 - hdrS h) ≤ n then .ends (some .launchHeader)
    else
      let tids := if hdrNtid h = 0 then .ok [] else s.unitRead l.ctx (nat h 80 8) (64 * hdrNtid h)
      let wheels := if hdrWmask h = 0 then .ok [] else s.unitRead l.ctx (nat h 88 8) 128
      match tids, wheels with
      | .error c, _ => .ends (some c)
      | _, .error c => .ends (some c)
      | .ok ts, .ok ws =>
        let grant := (grantOf cfg).length * clusterHolds h
        if (hdrWheels h).any fun w => wheelBad (nat ws (8 * w) 8) (hdrSpb h) then .ends (some .launchHeader)
        else if grant < (if hdrRes h then n else 1) then .ends (some .launchHeader)
        else .teams n ts ws

/-- A bound on the teams that one pass can place. -/
def passTeams : Nat := 1728

/-- The teams placed since a team number start in this cycle (R316). -/
def State.startFrom (s : State) (k : Nat) : State :=
  s.soon ((List.range (s.sched.nextTeam - k)).map fun n => .teamStart (k + n))

/-- A head dispatched: its teams placed as far as R314 asks; `none` where they cannot be. -/
def State.place1 (s : State) (id : BitVec 32) (l : Launch) (n : Nat) (tids wheels : List Byte) : Option State :=
  let k := s.sched.nextTeam
  let (s1, placed) := s.placeMany id l 0 (min n passTeams)
  if placed = 0 ∨ (hdrRes l.hdr ∧ placed < n) then none
  else
    let q := s.queue l.queue
    let l' := { l with dispatched := true, nteams := n, placed := placed, resident := decide (placed = n),
                       since := s.tsc 0, tids := tids, wheels := wheels }
    let s2 := s1.setLaunch id l'
    let s3 := s2.modQueue l.queue fun q =>
      { q with ids := q.ids.filter (· != id), level := q.prio, aged := 0, readySince := none }
    let s4 := s3.modSched fun c =>
      { c with lastAt := Tbl.put c.lastAt q.level l.queue
               partials := if placed < n then c.partials ++ [id] else c.partials }
    let v := BitVec.ofNat 32 (nat l.hdr 96 4)
    let m := BitVec.ofNat 32 (nat l.hdr 100 4)
    let s5 := if placed = n ∧ hdrTag l.hdr then s4.register v m (· + 1) else s4
    some (s5.startFrom k)

/-- A launch that retires at its dispatch without teams (R311). -/
def State.endAtDispatch (s : State) (id : BitVec 32) (l : Launch) (c : Option Cause) : State :=
  let q := s.queue l.queue
  let s1 := match c with
    | some c => s.post 0 { cause := c, launch := id }
    | none => s
  let s2 := s1.modQueue l.queue fun q => { q with level := q.prio, aged := 0, readySince := none }
  (s2.modSched fun x => { x with lastAt := Tbl.put x.lastAt q.level l.queue }).retireLaunch id l (c.getD .noCause)

/-- The images and the count of a launch loaded from its context's list (R356). -/
def State.imagePages (s : State) (l : Launch) : State :=
  let a := if hdrInd l.hdr then s.servePages 0 l.ctx (nat l.hdr 40 8) 4 else s
  let b := if hdrNtid l.hdr = 0 then a else a.servePages 0 l.ctx (nat l.hdr 80 8) (64 * hdrNtid l.hdr)
  if hdrWmask l.hdr = 0 then b else b.servePages 0 l.ctx (nat l.hdr 88 8) 128

/-- A visited head: dispatched if it is ready and can be placed; the answer says whether it was (R310, R311). -/
def State.visit (s0 : State) (qn : Nat) : State × Bool :=
  match (s0.queue qn).ids.head? with
  | none => (s0, false)
  | some id =>
    match s0.launch? id with
    | none => (s0, false)
    | some l0 =>
      let far := hdrDept l0.hdr && !l0.committed && (s0.depTarget l0 matches some (.far _)) && s0.depCounter l0
        && l0.ask.isNone
      if !(s0.queue qn).valid || !(s0.ready l0 || far) then (s0, false)
      else
        let s1 := s0.imagePages l0
        let take := hdrDept l0.hdr && !l0.committed
        let fits := match s1.prepare l0 with
          | .ends _ => true
          | .teams n ts ws => (s1.place1 id l0 n ts ws).isSome
        if take && (!s1.depOut l0 || (!hdrInd l0.hdr && !fits)) then (s1, false)
        else
          let s2 := if take then s1.takeTuple id l0 else s1
          match s2.launch? id with
          | none => (s2, false)
          | some l =>
            if take && !l.committed then (s2, false)
            else match s2.prepare l with
              | .ends c => (s2.endAtDispatch id l c, true)
              | .teams n ts ws =>
                match s2.place1 id l n ts ws with
                | some s3 => (s3, true)
                | none => (s2, false)

/-- Queues visited in their order until one dispatches. -/
def State.visitAll (s : State) : List Nat → State
  | [] => s
  | q :: rest =>
    match s.visit q with
    | (s1, true) => s1
    | (s1, false) => s1.visitAll rest

/-- The order of a pass: levels 7 to 0, within a level cyclically behind the queue dispatched last (R310). -/
def State.visitOrder (s : State) : List Nat :=
  (List.range 8).flatMap fun k =>
    let level := 7 - k
    let last := Tbl.get 63 s.sched.lastAt level
    ((List.range 64).map fun n => (last + 1 + n) % 64).filter fun q => (s.queue q).level == level

/-- Remaining teams of a launch that is not resident (R314). -/
def State.placeRest (s : State) (id : BitVec 32) : State :=
  match s.launch? id with
  | none => s
  | some l =>
    let k := s.sched.nextTeam
    let (s1, placed) := s.placeMany id l l.placed (min (l.nteams - l.placed) passTeams)
    let s2 := s1.setLaunch id { l with placed := placed }
    (s2.modSched fun c =>
      { c with partials := if placed < l.nteams then c.partials else c.partials.filter (· != id) }).startFrom k

/-- The ageing of a queue begins, or stands still, with the readiness of its head (R309). -/
def State.noteReady (s : State) (qn : Nat) : State :=
  match (s.queue qn).ids.head?.bind s.launch? with
  | none => s
  | some l =>
    let s1 := s.depPages l
    let now := s1.tsc 0
    s1.modQueue qn fun q =>
      match s1.ready l, q.readySince with
      | true, none => { q with readySince := some now, level := max q.level q.prio }
      | false, some t => { q with readySince := none, aged := q.aged + (now - t) }
      | _, _ => q

/-- LAUNCH_PASS. -/
def execLaunchPass (s : State) : Res :=
  let s1 := s.sched.partials.foldl State.placeRest s
  let s2 := (s1.sched.queues.map (·.1)).foldl State.noteReady s1
  .next (s2.visitAll s2.visitOrder)

/-- QUEUE_AGEING: after AGE microseconds with its head ready, a queue's level rises (R309). -/
def execQueueAgeing (q : Nat) (s : State) : Res :=
  let v := s.queue q
  let period := field v.cfg 48 16 * 600
  match v.readySince with
  | none => .next s
  | some t =>
    let past := v.aged + (s.tsc 0 - t)
    if period = 0 ∨ past < period then .next s
    else .next (s.modQueue q fun x =>
      { x with level := min 7 (x.level + 1), aged := past - period, readySince := some (s.tsc 0) })

/-! ### Retirement (R318, R319) -/

/-- Whether every sequencer of a team has issued END and none of it stops. -/
def State.teamEnded (s : State) (t : Team) : Bool :=
  t.started && t.strands.all fun st =>
    (s.strand st).stop == .running && allCls.all fun c => (s.seq (seqOf st c)).ended

/-- Parked requests of a retiring strand are cancelled; nothing is written for them (R137). -/
def State.dropParked (s : State) (r : SeqRef) : State :=
  let parked := (s.seq r).tup.filter (·.done.isNone)
  let s1 := parked.foldl (fun a o =>
    match o.remote with
    | none => a.unpark o.req
    | some mid => a.cancelFar r o mid) s
  s1.modSeq r fun q => { q with tup := q.tup.filter (·.done.isSome) }

/-- Whether nothing that a sequencer issued is still to complete. -/
def Seq.quiet (q : Seq) : Bool := q.cmds.isEmpty && q.lds.isEmpty && q.flights.isEmpty && q.tup.isEmpty

/-- TOKEN_COUNT for a retiring strand that still holds tokens (R172). -/
def State.tokenCheck (s : State) (st : StrandRef) : State :=
  let t := s.strand st
  let counts := (List.range 8).map fun n => t.count (BitVec.ofNat 3 n)
  if counts.all (· == 0) then s
  else s.post st.die { cause := .tokenCount, cl := some st.cl, slot := some st.slot, launch := t.launchId,
                       detail := BitVec.ofNat 64 st.slot, detail2 := le64 (packNats 1 counts) }

/-- TEAM_RETIRE. -/
def execTeamRetire (team : Nat) (s : State) : Res :=
  match Tbl.get? s.sched.teams team with
  | none => .next s
  | some t =>
    if !s.teamEnded t then .next s
    else
      let seqs := t.strands.flatMap fun st => allCls.map fun c => seqOf st c
      let s1 := seqs.foldl State.dropParked s
      if !seqs.all fun r => (s1.seq r).quiet then .next s1
      else
        let s2 := ((t.strands.foldl State.tokenCheck s1).freeTeam team t).lowerRaised t.die t.cl
        match s2.launch? t.launch with
        | none => .next s2
        | some l =>
          let l' := { l with retired := l.retired + 1 }
          let s3 := s2.setLaunch t.launch l'
          .next (if l'.retired = l'.nteams ∧ l'.ending.isNone then s3.retireLaunch t.launch l' .noCause else s3)

/-! ### Answers of other members (R135) -/

/-- The access that a request at its home slice is (R107). -/
def tupleKind (kind : BitVec 2) : AccKind :=
  match kind.toNat with
  | 0 => .deposit
  | 1 => .copyTuple
  | 2 => .take
  | _ => .cancel

/-- TSPREQ: another member's request.  Its handle is translated here in the context of the requester's number, with the class and
permission checks of its kind, on the die that knows its page, or after firmware of die 0 has loaded it; it reaches its home slice,
or is refused as at issue (R121, R135; log entry 87). -/
def execTspreq (mid : Nat) (rq : TspReq) (s : State) : Res :=
  let who := Requester.member mid rq.requester
  let va := rq.base.toNat
  let known (d : Nat) : Bool := (tmLookup (s.die d).goodTm rq.ctx (va / 0x200000)).isSome
  let die := ((List.range 8).find? known).getD 0
  let s1 := if known die then s else s.servePage 0 rq.ctx (va / 0x200000)
  let no (c : Cause) : Res := .next (s1.answer who rq.req.toNat (.refused c))
  match (s1.page die rq.ctx va).bind (checkPlace (tupleKind rq.kind)) with
  | .error c => no (if c = .xlateMiss then .addrRange else c)
  | .ok pa =>
    match (s1.die (pa / 0x80000000)).region? va rq.ctx with
    | some (rid, _) => .next (s1.reach (pa / 0x80000000) rid
        ⟨rq.kind, rq.nb, rq.cls, rq.timeout, rq.label, rq.base, rq.ctx, who, rq.req.toNat, rq.block, s1.tsc die, none⟩)
    | none => no .addrRange

/-- The answer to a launch's request for its tuple. -/
def State.depAnswer (s : State) (id : BitVec 32) (l : Launch) (rs : TspRsp) : State :=
  if rs.completion ∧ rs.status.toNat % 8 = 0 then s.commitTuple id l ((rs.block.drop 16).take 64) (rs.block.take 16)
  else s.setLaunch id { l with ask := none }

/-- TSPRSP. -/
def execTsprsp (mid : Nat) (rs : TspRsp) (s : State) : Res :=
  match s.findTup rs.req.toNat with
  | some (r, o) => .next (if o.remote = some mid then s.answerTup r o.req (tspAnswer o.ins rs) else s)
  | none =>
    match s.sched.launches.find? fun p => p.2.ask == some rs.req.toNat with
    | some (id, l) => .next (s.depAnswer (BitVec.ofNat 32 id) l rs)
    | none => .next s

end Sys2Proof.Machine
end

