-- ==== Sys2Proof/Machine/Holds.lean ====
section
/-! DEFINITION. How a wait ends: of an instruction that has not issued, and of one that holds its agent until it has ended
(R57, R59, R88, R197, R259, R291, R321, R341). -/

namespace Sys2Proof.Machine

/-- What the instruction that holds the executing agent comes to now. -/
def State.holdStep (s : State) (c : Cmd) : Hold :=
  match c.ins with
  | .wtag _ d _ => wtagHold d s c
  | .cwait _ d _ _ _ => cwaitHold d s c
  | .fenceE _ => fenceHold s c
  | .fcrd _ d which => fcrdHold which d s c
  | .fcclr _ d => fcclrHold d s c
  | .lnch _ nb d _ lq => lnchHold nb d lq.toNat s c
  | .idle .. => idleHold s c
  | _ => .ends s

/-- The instruction that holds an agent, if one does. -/
def State.heldBack (s : State) (g : Agent) : Option Cmd :=
  let q := s.seqAt (agentKey g)
  if q.wait.any Wait.holds then q.held else none

/-- The instruction `c` that holds an agent goes on: it holds it longer, or it has ended and holds it no more. -/
def State.holdOn (s : State) (g : Agent) (c : Cmd) : State :=
  match { s with cur := g }.holdStep c with
  | .stays u => { u with cur := s.cur }
  | .ends u => { u.modSeqAt (agentKey g) fun q => { q with wait := none, held := none } with cur := s.cur }

/-- Whether the instruction that holds an agent ends now with what it waits for there, or takes an arrival record on its way
(R59, R88). -/
def State.holdDue (s : State) (g : Agent) : Bool :=
  (s.heldBack g).any fun c => match { s with cur := g }.holdStep { c with head := none } with
    | .stays u => match g with
      | .seq r => (u.strand (strandOf r)).arrivals != (s.strand (strandOf r)).arrivals
      | .hub _ => false
    | .ends _ => true

/-- The instruction that holds an agent goes on with what there is, whatever its deadline. -/
def State.holdEnd (s : State) (g : Agent) : State :=
  match s.heldBack g with
  | some c => s.holdOn g { c with head := none }
  | none => s

/-- WAIT_SATISFIED: an instruction that holds its agent ends where what it waits for is there; a sequencer whose wait stands
before issue executes its instruction in the turn of its class (R59). -/
def execWaitSatisfied (g : Agent) (s : State) : Res :=
  if (s.seqAt (agentKey g)).wait.any Wait.holds then .next (s.holdEnd g)
  else .next (s.modSeqAt (agentKey g) fun q => if q.wait = some .held then q else { q with wait := none })

/-- A wait of a sequencer that runs, whose deadline has come, ends; its instruction is `f`'s. -/
def State.lateHold (s : State) (g : Agent) (f : Instr → Bool) : Res :=
  match g with
  | .hub _ => .next s
  | .seq r =>
    match s.heldBack g with
    | some c => .next (if s.runs r && f c.ins && c.head.any fun d => decide (d ≤ s.tsc r.die) then s.holdOn g c else s)
    | none => .next s

/-- WTAG_TIMEOUT: a waiting WTAG whose deadline has come with no record for a binding writes NONE (R88). -/
def execWtagTimeout (g : Agent) (s : State) : Res := s.lateHold g fun i => i matches .wtag ..

/-- CWAIT_TIMEOUT: a waiting CWAIT whose deadline has come below its threshold (R291). -/
def execCwaitTimeout (g : Agent) (s : State) : Res := s.lateHold g fun i => i matches .cwait ..

end Sys2Proof.Machine
end

