-- ==== Sys2Proof/Machine/Power.lean ====
section
/-! DEFINITION. Power, heat, permits, scrubbing, and the boot of the package (R103, R249, R347 to R352, R358). -/

namespace Sys2Proof.Machine

/-! ### Permits and the registers with behaviour of their own (R35, R253, R256, R352) -/

/-- The permit counts of a cluster, each risen by its rate up to its depth. -/
def Cluster.refill (c : Cluster) : Cluster :=
  { c with permits := allPermits.map fun k => (k.idx, min (c.depth k) (c.held k + c.rate k)) }

/-- PERMIT_REFILL, once at each 64-cycle boundary of CCNT, which may stand still there (R352). -/
def execPermitRefill (die cl : Nat) (s : State) : Res :=
  let n := s.ccnt die cl
  .next (if n % 64 = 0 ∧ (s.cluster die cl).refilled ≠ n then s.modCluster die cl fun c => { c.refill with refilled := n } else s)

/-- PERMIT_WRITE. -/
def execPermitWrite (die cl : Nat) (v : BitVec 64) (s : State) : Res := .next (s.writePermit die cl v)

/-- FINJ_WRITE. -/
def execFinjWrite (die cl : Nat) (v : BitVec 32) (s : State) : Res := .next (s.writeFinj die cl v)

/-- FIDTHR_WRITE. -/
def execFidthrWrite (die cl : Nat) (v : BitVec 16) (s : State) : Res := .next (s.writeFidthr die cl v)

/-- LFSRSEED_WRITE. -/
def execLfsrseedWrite (die cl : Nat) (v : BitVec 32) (s : State) : Res := .next (s.writeLfsr die cl v)

/-! ### Droop and heat (R350, R351) -/

/-- DROOP_DETECT: the cluster's clock loses cycles, which its window counts as they pass (R350). -/
def execDroopDetect (die cl cycles : Nat) (s : State) : Res :=
  .next (s.modCluster die cl fun c => { c with clockStop := c.clockStop + cycles, droop := c.droop + cycles })

/-- The four RATE fields of PERMIT taken from another value, or halved. -/
def withRates (v : BitVec 64) (rate : Nat → Nat) : BitVec 64 :=
  BitVec.ofNat 64 (((List.range 4).map fun k =>
    (field v (16 * k + 8) 8 * 256 + rate k) * 2 ^ (16 * k)).sum)

/-- A rate halved; it stays at least 1 (log entry 22). -/
def halfRate (v : BitVec 64) (k : Nat) : Nat := max 1 (field v (16 * k) 8 / 2)

/-- A change of every cluster of an island. -/
def State.modIsland (s : State) (die island : Nat) (f : Cluster → Cluster) : State :=
  (List.range 18).foldl (fun a n => a.modCluster die (18 * island + n) f) s

def State.islandAt (s : State) (die island : Nat) : Island := Tbl.get {} s.islands (die * 3 + island)

def State.setIsland (s : State) (die island : Nat) (v : Island) : State :=
  { s with islands := Tbl.put s.islands (die * 3 + island) v }

/-- THERMAL_LIMIT: the island's permit rates are halved. -/
def execThermalLimit (die island : Nat) (s : State) : Res :=
  let v := s.islandAt die island
  if v.hot then .next s
  else
    let cool (c : Cluster) : Cluster :=
      { c with coolRates := some c.permit, permit := withRates c.permit (halfRate c.permit) }
    .next (((s.setIsland die island { v with hot := true }).modIsland die island cool).post die { cause := .thermalLimit })

/-- THERMAL_RECOVER: the rates of before are restored. -/
def execThermalRecover (die island : Nat) (s : State) : Res :=
  let v := s.islandAt die island
  if !v.hot then .next s
  else
    let warm (c : Cluster) : Cluster := match c.coolRates with
      | some p => { c with coolRates := none, permit := withRates c.permit fun k => field p (16 * k) 8 }
      | none => c
    .next ((s.setIsland die island { v with hot := false }).modIsland die island warm)

/-! ### Rails (R249, R347, R348) -/

/-- LOGIC_RAIL_SWITCH: the cluster's clock is stopped for 12 cycles. -/
def execLogicRailSwitch (die cl : Nat) (s : State) : Res :=
  .next (s.modCluster die cl fun c => { c with logicLow := !c.logicLow, clockStop := c.clockStop + 12 })

/-- TRIM_RAIL_PARK: the island's trim rail is parked, or goes to VTRIM. -/
def execTrimRailPark (die island : Nat) (parked : Bool) (s : State) : Res :=
  .next (s.setIsland die island { s.islandAt die island with parked := parked })

/-! ### The patrol scrubber (R103) -/

/-- SCRUB_READ: a word with a correctable error is corrected, one with an uncorrectable error is reported. -/
def execScrubRead (pa : Nat) (s : State) : Res :=
  match s.badAt pa 1 with
  | some w => .next (s.post (w / 0x80000000) { cause := .sramUncorr, detail := BitVec.ofNat 64 w })
  | none => .next (s.corrected pa 1)

/-! ### Boot (R262, R358) -/

/-- A measurement extended by a digest. -/
def extendMeas (m : List Byte) (digest : List Byte) : List Byte := padTo 64 (Config.sha3 (m ++ padTo 64 digest))

/-- The default lane plan of a lane of a die: its use, and its channel when it is no chain lane (R262). -/
def defaultLane (die lane : Nat) : BitVec 2 × Nat :=
  let f := lane / 8
  let ch := 4 * die + (f - 28)
  if f < 28 then (1, 0) else if ch = 0 then (0, 0) else (if lane % 8 = 0 then 2 else 3, ch)

/-- The channel by which this package reaches its successor. -/
def Chain.succChannel (c : Chain) : BitVec 5 :=
  match c.successor with
  | none => 0
  | some mid => ((((List.range 32).map c.entry).find? fun e => derV e && derMid e == mid).map derCh).getD 0

/-- The default plan on every die. -/
def State.setLanePlan (s : State) : State :=
  let chain := s.chain.succChannel
  let lane (d n : Nat) : Nat × Lane :=
    let (use, ch) := defaultLane d n
    (n, { use := use, ch := if use = 1 then chain else BitVec.ofNat 5 ch })
  (List.range 8).foldl (fun a d => a.modDie d fun v => { v with lanes := (List.range 256).map (lane d) }) s

/-- BOOT: each stage is measured before it runs; firmware whose signature does not check does not run.  The record of a boot that has
failed waits for the next one that succeeds (R358). -/
def State.boot (s : State) : State :=
  let meas (n : Nat) : Nat × List Byte := (n, extendMeas (zeros 64) (Config.stageDigest n))
  if Config.firmwareGood s.mailbox.boots then
    (s.modMail fun m => { m with boot := .running, boots := m.boots + 1, meas := (List.range 4).map meas }).setLanePlan
  else s.modMail fun m => { m with boot := .failed, boots := m.boots + 1, authPending := true, meas := [meas 0] }

/-- The package after a reset, which keeps what lies outside it and what is no register of it: its index on the optical
core and the places of its areas in the slab (log entry 7). -/
def State.afterReset (s : State) : State :=
  { State.reset with
    inputs := s.inputs, outbox := s.outbox, frameBase := s.frameBase, cadenceBase := s.cadenceBase
    mailbox := { authPending := s.mailbox.authPending, boots := s.mailbox.boots }
    chain := { self := s.chain.self, ringBase := s.chain.ringBase, ringFrames := s.chain.ringFrames,
               frameBytes := s.chain.frameBytes } }

/-- COLD_RESET. -/
def execColdReset (s : State) : Res := .next s.afterReset.boot

end Sys2Proof.Machine
end

