-- ==== Sys2Proof/Machine/HostPort.lean ====
section
/-! DEFINITION. The host port: BAR0 with the mailbox doorbell and the event-queue registers, BAR2, and the writes of
device registers (R94, R261, R353 to R355, R357). -/

namespace Sys2Proof.Machine

/-! ### The mailbox (R354, R355) -/

/-- Request bytes as a number. -/
def State.request (s : State) (o n : Nat) : Nat := leNat (Tbl.readRun 0 s.mailbox.request o n)

/-- Whether every request byte that no listed run (offset, length) covers is zero. -/
def State.onlyListed (s : State) (runs : List (Nat × Nat)) : Bool :=
  s.mailbox.request.all fun p => p.2 == 0 || runs.any fun r => decide (r.1 ≤ p.1) && decide (p.1 < r.1 + r.2)

def State.mailBusy (s : State) : Bool := s.mailbox.doorbell.getLsbD 16
def State.mailCmd (s : State) : Nat := field s.mailbox.doorbell 0 8

/-- Whether the chief hub serves a command of this code. -/
def State.serving (s : State) (cmd : Nat) : Bool := s.mailBusy && s.mailCmd == cmd

/-- The outcome of a command. -/
inductive MailStatus where
  | ok | badCmd | full | auth | launchHeader | notFound
deriving DecidableEq, Repr

def MailStatus.code : MailStatus → Nat
  | .ok => 0 | .badCmd => 1 | .full => 2 | .auth => 3 | .launchHeader => 4 | .notFound => 5

/-- A command is done: RESULT and STATUS, BUSY clear, vector 8 (R355). -/
def State.finishMail (s : State) (st : MailStatus) (result : Nat) : State :=
  (s.modMail fun m => { m with doorbell := BitVec.ofNat 64 (result * 2 ^ 32 + st.code * 2 ^ 24) }).send (.vector 8)

/-- The command event of a code, with the request bytes that choose among two. -/
def State.mailEvent (s : State) (cmd : Nat) : Instr :=
  match cmd with
  | 0x01 => .submit
  | 0x02 => .abort
  | 0x03 => .region
  | 0x04 => .pubkey
  | 0x05 => .model
  | 0x06 => .attest
  | 0x07 => if s.request 1 1 = 1 then .contextDestroy else .contextCreate
  | 0x08 => .pages
  | 0x09 => .posmap
  | 0x0A => .lqcfg
  | 0x0B => if s.request 4 1 = 1 then .assignRelease else .assign
  | c => .mailboxUnknownCmd (BitVec.ofNat 8 c)

/-- A write of the doorbell: a non-zero code starts its command unless one is being served. -/
def State.ring (s : State) (v : BitVec 64) : State :=
  let cmd := field v 0 8
  if cmd = 0 ∨ s.mailBusy then s
  else
    let s1 := s.modMail fun m =>
      { m with doorbell := (m.doorbell &&& 0xFFFFFFFFFF000000#64) ||| BitVec.ofNat 64 (2 ^ 16 + cmd), stopped := 0 }
    (s1.modDie 0 fun d => { d with hub := { d.hub with mail := true } }).soon [s1.mailEvent cmd]

/-! ### Event-queue registers (R357) -/

/-- FIRMWARE_AUTH of an earlier boot is posted by a boot that has succeeded, once die 0's queue has its ring (R358; log entry
10). -/
def State.postAuth (s : State) : State :=
  if s.mailbox.authPending && s.mailbox.boot == .running && decide (4 ≤ (s.die 0).events.size.toNat) then
    (s.modMail fun m => { m with authPending := false }).post 0 { cause := .firmwareAuth }
  else s

/-- A write of 8 bytes at an offset of a die's event-queue registers; SIZE outside 4 to 20 is not taken (log entry 23). -/
def State.writeEventQ (s : State) (die off : Nat) (v : BitVec 64) : State :=
  State.postAuth <| s.modDie die fun d =>
    let q := d.events
    { d with events := match off with
      | 0 => { q with base := v &&& ~~~0xFFF#64 }
      | 8 => if 4 ≤ field v 0 8 ∧ field v 0 8 ≤ 20 then { q with size := v.setWidth 8 } else q
      | 24 => { q with head := low32 v }
      | _ => q }

def EventQ.read (q : EventQ) (off : Nat) : BitVec 64 :=
  match off with
  | 0 => q.base
  | 8 => q.size.setWidth 64
  | 16 => zext32 q.tail
  | 24 => zext32 q.head
  | 32 => zext32 q.drops
  | _ => 0

/-! ### BAR0 (R354) -/

/-- The identity bytes. -/
def identity : List Byte := natBytes 4 0x5A430008 ++ (List.range 16).map Config.serial ++ natBytes 4 Config.fwVersion.toNat

/-- Eight bytes of BAR0 at a multiple of 8, as the host reads them; after a failed boot only the identity and
STATUS = AUTH. -/
def State.bar0 (s : State) (off : Nat) : BitVec 64 :=
  let m := s.mailbox
  if off < 64 then le64 ((padTo 64 identity).drop off |>.take 8)
  else if m.boot ≠ .running then (if off = 0x4000 then 0x3000000 else 0)
  else if 0x1000 ≤ off ∧ off < 0x2000 then le64 (Tbl.readRun 0 m.request (off - 0x1000) 8)
  else if 0x2000 ≤ off ∧ off < 0x4000 then le64 (Tbl.readRun 0 m.response (off - 0x2000) 8)
  else if off = 0x4000 then m.doorbell &&& ~~~0xFF#64
  else if 0x5000 ≤ off ∧ off < 0x5200 then (s.die ((off - 0x5000) / 64)).events.read (off % 64)
  else if 0x100000 ≤ off ∧ off < 0x100200 then
    le64 (((Tbl.get (zeros 64) m.meas ((off - 0x100000) / 64)).drop (off % 64)).take 8)
  else 0

/-- Eight bytes written at an offset of BAR0; read-only places ignore the write. -/
def State.writeBar0 (s : State) (off : Nat) (v : BitVec 64) : State :=
  if s.mailbox.boot ≠ .running then s
  else if 0x1000 ≤ off ∧ off < 0x2000 then
    s.modMail fun m => { m with request := Tbl.writeRun 0 m.request (off - 0x1000) ((bytes64 v).take (0x2000 - off)) }
  else if off = 0x4000 then s.ring v
  else if 0x5000 ≤ off ∧ off < 0x5200 then s.writeEventQ ((off - 0x5000) / 64) (off % 64) v
  else s

/-! ### Writes of device registers (R94, R261, R339) -/

/-- A derailleur entry written; when the successor changes, the chain lanes are aimed at the new one (R262). -/
def State.writeDerail (s : State) (i : Nat) (v : BitVec 64) : State :=
  let s1 := s.modChain fun c => 
    { c with derail := Tbl.set 0 c.derail i (low32 v &&& 0x1FFF#32), badDerail := c.badDerail.filter (· != i) }
  if s1.chain.successor = s.chain.successor then s1
  else (List.range 8).foldl (fun a d => a.retuneChain d s1.chain.succChannel) s1

/-- A control register written from outside: those of a hub, then those of cluster scope. -/
def State.writeDevCsr (s : State) (die cl : Nat) (num : BitVec 12) (v : BitVec 64) : State :=
  if num = 0x010 ∨ num = 0x018 ∨ num = 0x019 ∨ num = 0x01A ∨ num = 0x040 then s.hubWrite die num.toNat v
  else if cl ≤ 53 then s.writeClusterCsr die cl num.toNat v
  else s

/-- REGISTER_WRITE. -/
def execRegisterWrite (dr : DevReg) (v : BitVec 64) (s : State) : Res :=
  .next (match dr with
    | .csr die cl num => s.writeDevCsr die cl num v
    | .lanePlan die lane =>
      if lane < 256 then s.writeLane die lane (v.extractLsb' 14 2) (v.extractLsb' 9 5) else s
    | .derailleur i => if i < 32 then s.writeDerail i v else s
    | .eventQueue die off => s.writeEventQ die off v
    | .island die n => s.setIsland die n { s.islandAt die n with millivolt := field v 0 16, megahertz := field v 32 16 }
    | .bar0 off => s.writeBar0 off v)

/-! ### BAR2 (R353) -/

/-- HOST_BAR2_WRITE: the bytes that lie in the slab are written, the cadence table among them. -/
def execHostBar2Write (pa : Nat) (data : List (BitVec 8)) (s : State) : Res :=
  .next (s.writeCtl (pa / 0x80000000) pa (data.take (slabSize - pa)))

/-- HOST_BAR2_READ: the bytes go to the host, with the poisoned bit and a record where a word is uncorrectable (R103). -/
def execHostBar2Read (pa len : Nat) (s : State) : Res :=
  let n := min len (slabSize - pa)
  match s.badAt pa n with
  | some w =>
    .next ((s.post (w / 0x80000000) { cause := .sramUncorr, detail := BitVec.ofNat 64 w }).send
      (.hostRead pa (s.readCtl pa n) true))
  | none => .next ((s.corrected pa n).send (.hostRead pa (s.readCtl pa n) false))

end Sys2Proof.Machine
end

