-- ==== Sys2Proof/Machine/Mailbox.lean ====
section
/-! DEFINITION. The mailbox commands (R98, R120, R322, R355, R356, R358 to R360). -/

namespace Sys2Proof.Machine

def State.context (s : State) (ctx : Nat) : Context := Tbl.get {} s.ctxs ctx

def State.modContext (s : State) (ctx : Nat) (f : Context → Context) : State :=
  { s with ctxs := Tbl.put s.ctxs ctx (f (Tbl.get {} s.ctxs ctx)) }

/-- What a command comes to: the next state with its outcome. -/
abbrev Served := State × MailStatus × Nat

def turnDown (s : State) (st : MailStatus) : Served := (s, st, 0)

/-- A command is performed if the hub serves it: `listed` are the request bytes that may be non-zero (R355). -/
def State.serve1 (s : State) (cmd : Nat) (listed : List (Nat × Nat)) (f : State → Served) : Res :=
  if !s.serving cmd then .next s
  else
    let (s1, st, n) := if s.onlyListed listed then f s else turnDown s .badCmd
    .next (s1.finishMail st n)

/-! ### SUBMIT (R322, R355) -/

/-- A run of bytes read through a context's page list: the translation cause where a page is not listed or no readable
PLAIN page. -/
def State.listedRead (s : State) (ctx : BitVec 4) (va n : Nat) : Except Cause (List Byte) :=
  ((pieces va n (n / 0x200000 + 2)).mapM fun (v, m) =>
    match s.listed ctx (v / 0x200000) with
    | none => (.error .xlateMiss : Except Cause (List Byte))
    | some e => (checkPlace .read (entryPlace e (v % 0x200000))).map fun pa => s.readMem pa m).map List.flatten

/-- SUBMIT. -/
def State.submit (s : State) : Served :=
  let qn := s.request 0 1
  let ctx := s.request 1 1
  let va := s.request 8 8
  let q := s.queue qn
  let fail (c : Cause) : Served := turnDown (s.post 0 { cause := c }) .launchHeader
  if 64 ≤ qn ∨ 16 ≤ ctx ∨ va % 64 ≠ 0 then turnDown s .badCmd
  else if !(s.context ctx).live || !q.valid then turnDown s .notFound
  else if q.ctx.toNat ≠ ctx then turnDown s .badCmd
  else match s.listedRead q.ctx va 192 with
    | .error c => fail c
    | .ok hdr =>
      if headerBad hdr then fail .launchHeader
      else if q.full then turnDown s .full
      else
        let (s1, id) := s.append q.ctx qn hdr
        (s1, .ok, id.toNat)

def execSubmit (s : State) : Res := s.serve1 0x01 [(0, 2), (8, 8)] State.submit

/-! ### ABORT (R329, R355) -/

/-- Teams of a launch with a strand that runs. -/
def State.runningTeams (s : State) (id : BitVec 32) : Nat :=
  ((s.teamsOf id).filter fun p => p.2.started && p.2.strands.any fun st => (s.strand st).stop == .running).length

/-- ABORT: the launch is terminated with HOST_ABORT; BUSY clears once it is gone. -/
def execAbort (s : State) : Res :=
  let id := BitVec.ofNat 32 (s.request 0 4)
  if !s.serving 0x02 then .next s
  else if !s.onlyListed [(0, 4)] then .next (s.finishMail .badCmd 0)
  else match s.mailbox.stopped, s.launch? id with
    | 0, none => .next (s.finishMail .notFound 0)
    | n + 1, none => .next (s.finishMail .ok n)
    | n + 1, some _ => .next (s.modMail fun m => { m with stopped := n + 1 })
    | 0, some _ =>
      let n := s.runningTeams id
      let s1 := (s.abortLaunch id).modMail fun m => { m with stopped := n + 1 }
      .next (if (s1.launch? id).isNone then s1.finishMail .ok n else s1)

/-! ### REGION (R120) -/

/-- A region removed: its tuples are discarded, its parked requests complete with CANCELLED. -/
def State.removeRegion (s : State) (die rid : Nat) : State :=
  let g : Region := Tbl.get {} (s.die die).regions rid
  if !g.v then s
  else
    let base := g.vpn.toNat * 0x200000
    let hit (p : TupReq) : Bool := p.base.toNat == base && p.ctx == g.ctx
    let parked := (s.die die).slices.flatMap fun x => x.2.parked.filter hit
    let strip (x : Nat × Slice) : Nat × Slice :=
      (x.1, { x.2 with stored := x.2.stored.filter fun t => t.rid != rid, parked := x.2.parked.filter fun p => !hit p })
    let s1 := s.modDie die fun d => { d with regions := Tbl.put d.regions rid {}, slices := d.slices.map strip }
    parked.foldl (fun a p => a.answer p.who p.req (.done (tupStatus 0 0 true 3) [])) s1

/-- REGION. -/
def State.setRegion (s : State) : Served :=
  let die := s.request 0 1
  let rid := s.request 1 1
  let w : Word := BitVec.ofNat 64 (s.request 16 8)
  let g : Region :=
    { v := w.getLsbD 0, cap := BitVec.ofNat 32 (s.request 24 4), ctx := w.extractLsb' 48 4, vpn := w.extractLsb' 21 27
      npg := w.extractLsb' 12 9 }
  let good := !g.v || (g.npg != 0 && g.cap != 0 && decide (g.cap.toNat ≤ 26214 * g.npg.toNat))
  if 8 ≤ die ∨ 64 ≤ rid ∨ !good then turnDown s .badCmd
  else if !(s.context g.ctx.toNat).live then turnDown s .notFound
  else
    let s1 := s.removeRegion die rid
    (if g.v then s1.modDie die fun d => 
      { d with regions := Tbl.put d.regions rid g, badRegions := d.badRegions.filter (· != rid) } else s1, .ok, 0)

def execRegion (s : State) : Res := s.serve1 0x03 [(0, 2), (16, 16)] State.setRegion

/-! ### PUBKEY, MODEL, ATTEST (R358 to R360) -/

/-- PUBKEY: the key is stored and measured into MEAS7. -/
def State.setKey (s : State) : Served :=
  let slot := s.request 0 1
  let key := Tbl.readRun 0 s.mailbox.request 16 2592
  if 8 ≤ slot then turnDown s .badCmd
  else (s.modMail fun m =>
    { m with keys := Tbl.put m.keys slot key
             meas := Tbl.put m.meas 7 (extendMeas (Tbl.get (zeros 64) m.meas 7) (Config.sha3 key)) }, .ok, 0)

def execPubkey (s : State) : Res := s.serve1 0x04 [(0, 1), (16, 2592)] State.setKey

/-- An index put in the order of departure of its segment, by which the origin sends (R80, R98; log entry 23). -/
def State.insertDue (s : State) (model n : Nat) : List Nat → List Nat
  | [] => [n]
  | k :: r =>
    let dep (i : Nat) : Nat := ((s.cadence? (BitVec.ofNat 32 (model * 2 ^ 24 + i))).map fun e => e.depoff.toNat).getD (2 ^ 32)
    if dep n ≤ dep k then n :: k :: r else k :: s.insertDue model n r

/-- The segments of a model, each verified and sent, in cadence order (R98). -/
def State.injectAll (s : State) (model : Nat) (m : Model) : State × Nat :=
  ((List.range m.count).foldr (s.insertDue model) []).foldl (fun a n =>
    let (s1, k) := a.1.injectOne m (BitVec.ofNat 32 (model * 2 ^ 24 + n)) 0
    (s1, a.2 + k)) (s, 0)

/-- Bytes of an ML-DSA-87 signature. -/
def sigBytes : Nat := 4627

/-- MODEL; a manifest or an image that the slab does not hold, or that does not fit R360 or R93, gives BADCMD (log
entry 23). -/
def State.injectModel (s : State) : Served :=
  let model := s.request 0 1
  let slot := s.request 1 1
  let mf := s.request 8 8
  let image := s.request 16 8
  let h := s.readMem mf 64
  let size := nat h 1 1
  let count := nat h 4 4
  let signed := 64 + 64 * count
  let layout := nat h 0 1 == model && nat h 2 2 == 0 && nat h 8 56 == 0 && decide (1 ≤ size) && decide (size ≤ 64)
  if 8 ≤ slot ∨ slabSize < mf + signed + sigBytes ∨ slabSize < image + count * size * 0x100000
      ∨ image % 65536 ≠ 0 then turnDown s .badCmd
  else match Tbl.get? s.mailbox.keys slot with
  | none => turnDown s .auth
  | some key =>
    if !Config.mldsaVerify key (s.readMem mf signed) (s.readMem (mf + signed) sigBytes) then turnDown s .auth
    else if !layout || !s.chain.isOrigin then turnDown s .badCmd
    else
      let m : Model := { size := size, count := count, image := image, manifest := mf }
      let (s1, n) := (s.modMail fun b => { b with models := Tbl.put b.models model m }).injectAll model m
      (s1, .ok, n)

def execModel (s : State) : Res := s.serve1 0x05 [(0, 2), (8, 16)] State.injectModel

/-- The attestation report without its signature. -/
def State.report (s : State) : List Byte :=
  natBytes 4 0x5454415A ++ natBytes 2 1 ++ zeros 10 ++ (List.range 16).map Config.serial
    ++ Tbl.readRun 0 s.mailbox.request 0 64 ++ padTo 64 (Config.sha3 Config.identityKey)
    ++ (List.range 8).flatMap (fun n => padTo 64 (Tbl.get (zeros 64) s.mailbox.meas n)) ++ natBytes 8 (s.tsc 0) ++ zeros 24

/-- ATTEST. -/
def State.attest (s : State) : Served :=
  let r := s.report ++ padTo sigBytes (Config.mldsaSign s.report)
  (s.modMail fun m => { m with response := Tbl.writeRun 0 m.response 0 r }, .ok, r.length)

def execAttest (s : State) : Res := s.serve1 0x06 [(0, 64)] State.attest

/-! ### CONTEXT (R356) -/

/-- CONTEXT create. -/
def State.createContext (s : State) : Served :=
  let ctx := s.request 0 1
  if 16 ≤ ctx ∨ s.request 1 1 ≠ 0 ∨ (s.context ctx).live then turnDown s .badCmd
  else (s.modContext ctx fun _ => { live := true }, .ok, 0)

def execContextCreate (s : State) : Res := s.serve1 0x07 [(0, 2)] State.createContext

/-- The launches of a context. -/
def State.launchesOf (s : State) (ctx : Nat) : List (BitVec 32) :=
  (s.sched.launches.filter fun p => p.2.ctx.toNat == ctx).map fun p => BitVec.ofNat 32 p.1

/-- What a die holds for a context, removed; its tuple regions go before. -/
def Die.forget (d : Die) (ctx : Nat) : Die :=
  let ours (c : Option (BitVec 4)) : Bool := c.any fun k => k.toNat == ctx
  { d with
    tm := d.tm.filter fun p => !(p.2.getLsbD 12 && field p.2 33 4 == ctx)
    pm := d.pm.filter fun p => !(p.2.getLsbD 59 && (p.2.extractLsb' 88 4).toNat == ctx)
    qps := d.qps.map fun (n, q) =>
      (n, { q with entries := q.entries.filter fun w => w.ctx.toNat != ctx, ctx := if ours q.ctx then none else q.ctx })
    counters := d.counters.map fun (n, c) => (n, { c with ctx := if ours c.ctx then none else c.ctx }) }

/-- A context whose launches are gone loses all that it has. -/
def State.dropContext (s : State) (ctx : Nat) : State :=
  let s1 := (List.range 8).foldl (fun a d =>
    (((a.die d).regions.filter fun p => p.2.v && p.2.ctx.toNat == ctx).map (·.1)).foldl (fun b rid => b.removeRegion d rid) a) s
  let s2 := (List.range 8).foldl (fun a d => a.modDie d fun v => v.forget ctx) s1
  let shut (p : Nat × LQueue) : Nat × LQueue :=
    (p.1, if p.2.ctx.toNat = ctx then { p.2 with cfg := p.2.cfg &&& ~~~0x8000000000#64 } else p.2)
  (s2.modSched fun c => { c with queues := c.queues.map shut }).modContext ctx fun _ => {}

/-- CONTEXT destroy: its launches are aborted; once they are gone, so is what it had. -/
def execContextDestroy (s : State) : Res :=
  let ctx := s.request 0 1
  if !s.serving 0x07 then .next s
  else if !s.onlyListed [(0, 2)] ∨ 16 ≤ ctx ∨ s.request 1 1 ≠ 1 then .next (s.finishMail .badCmd 0)
  else if !(s.context ctx).live then .next (s.finishMail .notFound 0)
  else
    let s1 := (s.launchesOf ctx).foldl (fun a id => a.abortLaunch id) s
    .next (if (s1.launchesOf ctx).isEmpty then (s1.dropContext ctx).finishMail .ok 0 else s1)

/-! ### PAGES and POSMAP (R356) -/

/-- The words of a list in the slab. -/
def State.words (s : State) (pa n : Nat) : List Word := (List.range n).map fun k => le64 (s.readMem (pa + 8 * k) 8)

/-- Entries loaded into a die's translation memory, each in the place of an older entry of its page, if there is one, even a locked
one; `none` where it cannot hold them all. -/
def State.loadLocked (s : State) (die : Nat) : List (BitVec 64) → Option State
  | [] => some s
  | e :: rest =>
    if tmLookup (s.die die).goodTm (e.extractLsb' 33 4) (field e 37 27) = some e then s.loadLocked die rest
    else
      let older := (s.die die).tm.find? fun p => p.2.getLsbD 12 && field p.2 33 31 == field e 33 31
      let (s1, w) := s.tld die e (older.map fun p => BitVec.ofNat 12 p.1)
      if w = notLoaded then none else s1.loadLocked die rest

def State.loadEverywhere (s : State) (es : List (BitVec 64)) : List Nat → Option State
  | [] => some s
  | d :: rest => (s.loadLocked d es).bind fun t => t.loadEverywhere es rest

/-- PAGES. -/
def State.setPages (s : State) : Served :=
  let ctx := s.request 0 1
  let load := s.request 1 1
  let n := s.request 4 4
  let pa := s.request 8 8
  if 16 ≤ ctx ∨ 1 < load ∨ 65536 < n ∨ pa % 8 ≠ 0 ∨ (0 < n ∧ slabSize < pa + 8 * n) then turnDown s .badCmd
  else if !(s.context ctx).live then turnDown s .notFound
  else
    let es := s.words pa n
    if es.any fun e => !e.getLsbD 12 || field e 0 12 != 0 || decide (4 ≤ entryClass e) || field e 33 4 != ctx then
      turnDown s .badCmd
    else
      let s1 := s.modContext ctx fun c => { c with pages := if n = 0 then none else some (pa, n) }
      if load = 0 then (s1, .ok, n)
      else match s1.loadEverywhere (es.filter (·.getLsbD 13)) (List.range 8) with
        | some s2 => (s2, .ok, n)
        | none => turnDown s1 .full

def execPages (s : State) : Res := s.serve1 0x08 [(0, 2), (4, 12)] State.setPages

/-- Whether a slab address lies in a PLAIN page of a context's list. -/
def State.inPlainPage (s : State) (ctx pa : Nat) : Bool :=
  match (s.context ctx).pages with
  | none => false
  | some (at_, n) => (s.words at_ n).any fun e => entryClass e == 0 && field e 20 13 == pa / 0x200000

/-- POSMAP. -/
def State.setPosmap (s : State) : Served :=
  let ctx := s.request 0 1
  let req := s.request 4 4
  let n := s.request 8 4
  let pa := s.request 16 8
  if 16 ≤ ctx ∨ 0xFFFFF < req ∨ 65536 < n ∨ pa % 8 ≠ 0 ∨ (0 < n ∧ slabSize < pa + 8 * n) then turnDown s .badCmd
  else if !(s.context ctx).live then turnDown s .notFound
  else if n = 0 then
    let keep (p : Nat × BitVec 128) : Bool := !(p.2.getLsbD 59 && (p.2.extractLsb' 88 4).toNat == ctx
      && (p.2.extractLsb' 108 20).toNat == req)
    ((List.range 8).foldl (fun a d => a.modDie d fun v => { v with pm := v.pm.filter keep })
      (s.modContext ctx fun c => { c with tokens := Tbl.erase c.tokens req }), .ok, 0)
  else if (s.words pa n).any fun a => a != 0 && (a.toNat % 64 != 0 || !s.inPlainPage ctx a.toNat) then turnDown s .badCmd
  else (s.modContext ctx fun c => { c with tokens := Tbl.put c.tokens req (pa, n) }, .ok, n)

def execPosmap (s : State) : Res := s.serve1 0x09 [(0, 1), (4, 8), (16, 8)] State.setPosmap

/-! ### LQCFG and ASSIGN (R308, R356) -/

/-- LQCFG; the read-only fields are ignored. -/
def State.setQueue (s : State) : Served :=
  let qn := s.request 0 1
  let v : Word := BitVec.ofNat 64 (s.request 8 8) &&& 0xFFFF0FF0FFFFF000#64
  let q := s.queue qn
  if 64 ≤ qn then turnDown s .badCmd
  else if !(s.context (field v 40 4)).live then turnDown s .notFound
  else if !q.ids.isEmpty ∧ q.ctx.toNat ≠ field v 40 4 then turnDown s .badCmd
  else (s.modQueue qn fun q =>
    { q with cfg := v, level := if q.readySince.isSome then q.level else field v 36 3 }, .ok, 0)

def execLqcfg (s : State) : Res := s.serve1 0x0A [(0, 1), (8, 8)] State.setQueue

/-- The counters of this package that a handle names. -/
def State.handleHits (s : State) (h : Word) (die n : Nat) : Bool :=
  let k := Handle.of h
  k.v && (!k.rmt || k.mid == s.chain.self) && k.die == die && k.num == n

/-- Whether a posted entry uses a counter. -/
def State.entryUses (s : State) (at_ : Nat) (w : WorkEntry) (die n : Nat) : Bool :=
  let e := Entry.of w.image
  (at_ == die && e.armc == n && !w.fired) || s.handleHits e.lcnt die n || s.handleHits e.rcnt die n
    || (e.op == 3 && s.handleHits e.dst die n)

/-- Whether a launch or a posted entry uses a counter. -/
def State.counterUsed (s : State) (die n : Nat) : Bool :=
  (s.sched.launches.any fun p => s.handleHits (hdrDonec p.2.hdr) die n
    || (hdrDepc p.2.hdr && s.handleHits (BitVec.ofNat 64 (nat p.2.hdr 128 8)) die n))
  || s.dies.any fun d => d.2.qps.any fun q => q.2.entries.any fun w => s.entryUses d.1 w die n

/-- The resource that ASSIGN names: kind, die, number, context; `none` where a value is out of range. -/
def State.resource (s : State) : Option (Bool × Nat × Nat × Nat) :=
  let kind := s.request 0 1
  let die := s.request 1 1
  let n := s.request 2 1
  let ctx := s.request 3 1
  if 1 < kind ∨ 8 ≤ die ∨ (kind = 1 ∧ 64 ≤ n) ∨ 16 ≤ ctx ∨ 1 < s.request 4 1 then none else some (kind == 1, die, n, ctx)

/-- The context that holds a resource. -/
def State.holder (s : State) (qp : Bool) (die n : Nat) : Option (BitVec 4) :=
  if qp then (s.qpair die n).ctx else (s.counter die n).ctx

/-- ASSIGN with operation 0. -/
def State.assignTo (s : State) : Served :=
  match s.resource with
  | none => turnDown s .badCmd
  | some (qp, die, n, ctx) =>
    if !(s.context ctx).live then turnDown s .notFound
    else match s.holder qp die n with
    | some c => if c.toNat = ctx then (s, .ok, 0) else turnDown s .badCmd
    | none =>
      let c := BitVec.ofNat 4 ctx
      (if qp then s.modQpair die n fun q => { q with ctx := some c, posted := 0 }
       else s.modCounter die n fun k => { k with ctx := some c }, .ok, 0)

def execAssign (s : State) : Res := s.serve1 0x0B [(0, 5)] State.assignTo

/-- ASSIGN with operation 1. -/
def State.releaseFrom (s : State) : Served :=
  match s.resource with
  | none => turnDown s .badCmd
  | some (qp, die, n, ctx) =>
    if !(s.context ctx).live then turnDown s .notFound
    else
      let used := if qp then !(s.qpair die n).entries.isEmpty else s.counterUsed die n
      if (s.holder qp die n).map (·.toNat) ≠ some ctx ∨ used then turnDown s .badCmd
      else (if qp then s.modQpair die n fun q => { q with ctx := none }
            else s.modCounter die n fun k => { k with ctx := none }, .ok, 0)

def execAssignRelease (s : State) : Res := s.serve1 0x0B [(0, 5)] State.releaseFrom

/-- MAILBOX_UNKNOWN_CMD. -/
def execMailboxUnknownCmd (cmd : BitVec 8) (s : State) : Res :=
  .next (if s.serving cmd.toNat then s.finishMail .badCmd 0 else s)

end Sys2Proof.Machine
end

