-- ==== Sys2Proof/Machine/Vector.lean ====
section
/-! DEFINITION. The vector unit and the reduction slot (R199 to R221). -/

namespace Sys2Proof.Machine

/-! ### Regions (R200, R205) -/

/-- A region of the scratchpad: base, stride code, bytes of an element. -/
structure Rgn where
  base : Word
  code : Nat
  esz : Nat
deriving DecidableEq, Repr

/-- Stride(c) of R71. -/
def strideOf (c : Nat) : Nat := if c = 0 then 0 else 2 ^ (c - 1)

/-- Offset of element `i` from the base (R200). -/
def Rgn.off (g : Rgn) (i : Nat) : Nat := i * strideOf g.code * g.esz

/-- Bytes from the base to the end of element `n - 1`. -/
def Rgn.len (g : Rgn) (n : Nat) : Nat := g.off (n - 1) + g.esz

/-- Offset of a region in the cluster's scratchpad. -/
def Rgn.spad (g : Rgn) (t : Option Team) : Nat := ((t.map (·.spadBase)).getD 0) + (g.base.toNat - windowBase)

/-- The encodings of elements of a region. -/
def Rgn.read (g : Rgn) (t : Option Team) (c : Cluster) (is : List Nat) : List Nat :=
  is.map fun i => leNat (Tbl.readRun 0 c.spad (g.spad t + g.off i) g.esz)

/-- Encodings written to elements of a region, in order. -/
def Rgn.write (g : Rgn) (t : Option Team) (c : Cluster) (ws : List (Nat × Nat)) : Cluster :=
  ws.foldl (fun c w => c.putSpad (g.spad t + g.off w.1) (natBytes g.esz w.2)) c

/-- The place check of a region: row 4 of R205. -/
def Rgn.placeCause (g : Rgn) (t : Option Team) : Option Cause :=
  let off := g.base.toNat - windowBase
  if g.base.toNat < windowBase then some .xlateClass
  else if (0x200000 ≤ off ∧ off < 0x280000) ∨ (0x300000 ≤ off ∧ off < 0x304000) then some .xlateClass
  else if t.any fun t => decide (off < t.spb) then none
  else some .addrRange

/-- A region of a command with the elements its span covers, and whether its code may not be 0. -/
structure Use where
  rgn : Rgn
  n : Nat
  dst : Bool
deriving DecidableEq, Repr

/-- Rows 2 to 6 of R205. -/
def regionCause (t : Option Team) (us : List Use) : Option Cause :=
  if us.any fun u => decide (16 < u.rgn.code) || (u.dst && u.rgn.code == 0) then some .strideCode
  else if us.any fun u => decide (2 ^ 48 ≤ u.rgn.base.toNat) then some .addrRange
  else (us.findSome? fun u => u.rgn.placeCause t).orElse fun _ =>
    if us.any fun u => u.rgn.base.toNat % 64 != 0 then some .align
    else if us.all fun u => t.any fun t => decide (u.rgn.base.toNat - windowBase + u.rgn.len u.n ≤ t.spb) then none
    else some .addrRange

/-! ### Elements (R205, R208 to R215) -/

/-- What an element gives: its encoding, and the cause it raises. -/
structure VRes where
  bits : Nat
  cause : Option Cause := none
deriving DecidableEq, Repr

/-- An exact floating result rounded once into `f`, with the causes of R205; `nan` says that an operand is NaN. -/
def vFloat (f : Fmt) (r : Rnd) (sat nan : Bool) (x : ExtNum) : VRes :=
  let e := f.encode r sat x
  ⟨e.bits, if sat then none else if x.isNaN && !nan then some .fpInvalid else if e.beyond then some .fpOverflow else none⟩

/-- An exact integer result, wrapped or clamped (R208). -/
def vInt (f : Fmt) (sat : Bool) (v : Int) : VRes := ⟨intBits f.elemBits (if sat then (intClamp f.elemBits v).1 else v), none⟩

def vIntOf (f : Fmt) (a : Nat) : Int := intDecode f.elemBits a

/-- The minors of VBIN (R209). -/
inductive VBin where
  | add | sub | mul | min | max | and | or | xor | shl | shr
deriving DecidableEq, Repr

/-- The lesser or greater encoding, not rounded (R209). -/
def vPick (f : Fmt) (greater : Bool) (a b : Nat) : VRes :=
  let x := f.decode a
  let y := f.decode b
  if x.isNaN || y.isNaN then ⟨f.nanBits, none⟩
  else
    let aFirst := if x.lt y then !greater else if y.lt x then greater else (x.sign != greater)
    ⟨if aFirst then a else b, none⟩

def VBin.eval (op : VBin) (f : Fmt) (rm : RMode) (sat : Bool) (a b : Nat) : VRes :=
  let x := f.decode a
  let y := f.decode b
  let flt (z : ExtNum) : VRes := vFloat f (.det rm) sat (x.isNaN || y.isNaN) z
  let i := vIntOf f a
  let j := vIntOf f b
  let n := b % f.elemBits
  match op with
  | .add => if f.isInt then vInt f sat (i + j) else flt (x.add y)
  | .sub => if f.isInt then vInt f sat (i - j) else flt (x.sub y)
  | .mul => if f.isInt then vInt f sat (i * j) else flt (x.mul y)
  | .min => vPick f false a b
  | .max => vPick f true a b
  | .and => ⟨a &&& b, none⟩
  | .or => ⟨a ||| b, none⟩
  | .xor => ⟨a ^^^ b, none⟩
  | .shl => vInt f false (i * 2 ^ n)
  | .shr => vInt f false (i / 2 ^ n)

/-- VFMA and VFMS (R210). -/
def vFma (f : Fmt) (rm : RMode) (sat minus : Bool) (a b c : Nat) : VRes :=
  let x := f.decode a
  let y := f.decode b
  let z := f.decode c
  if f.isInt then
    vInt f sat (vIntOf f a * vIntOf f b + (if minus then -vIntOf f c else vIntOf f c))
  else vFloat f (.det rm) sat (x.isNaN || y.isNaN || z.isNaN) ((x.mul y).add (if minus then z.neg else z))

/-- VABS and VNEG (R211). -/
def vSign (f : Fmt) (sat neg : Bool) (a : Nat) : VRes :=
  if f.isInt then vInt f sat (if neg then -vIntOf f a else (vIntOf f a).natAbs)
  else if (f.decode a).isNaN then ⟨f.nanBits, none⟩
  else
    let top := 2 ^ (f.elemBits - 1)
    ⟨if neg then a ^^^ top else a % top, none⟩

/-- VCVT (R36, R211). -/
def vConvert (f g : Fmt) (r : Rnd) (sat : Bool) (a : Nat) : VRes :=
  if f = g then ⟨a, none⟩
  else
    let x := f.decode a
    if g.isInt then ⟨(g.encode r sat x).bits, none⟩ else vFloat g r sat x.isNaN x

/-- The minors of VSF (R212). -/
inductive VSf where
  | exp2 | log2 | rcp | rsq | tanh | silu
deriving DecidableEq, Repr

def VSf.fn : VSf → ExtNum → BitVec 32
  | .exp2 => fExp2
  | .log2 => fLog2
  | .rcp => fRcp
  | .rsq => fRsqrt
  | .tanh => fTanh
  | .silu => fSilu

/-- An element of VSF: the FP32 result rounded once into `f`, with the causes of R212 alone (log entry 16). -/
def VSf.eval (op : VSf) (f : Fmt) (rm : RMode) (sat : Bool) (a : Nat) : VRes :=
  let x := f.decode a
  let e := f.encode (.det rm) sat (fp32 (op.fn x))
  let cause : Option Cause := match op with
    | .exp2 => if x.isFin && (f.decode e.bits).isInf then some .fpOverflow else none
    | .log2 => if x.lt .zero then some .fpInvalid else none
    | .rsq => if x.lt .zero then some .fpInvalid else none
    | _ => none
  ⟨e.bits, if sat then none else cause⟩

/-- The comparisons of VCMP (R213). -/
inductive VCmpOp where
  | eq | lt | le
deriving DecidableEq, Repr

def VCmpOp.eval (op : VCmpOp) (f : Fmt) (a b : Nat) : VRes :=
  let x := f.decode a
  let y := f.decode b
  let t := match op with
    | .eq => x.eq y
    | .lt => x.lt y
    | .le => x.lt y || x.eq y
  ⟨if t then 1 else 0, none⟩

/-! ### Commands -/

/-- The work of a command's units: element by element from its operands, prefix sums, a permutation, amax. -/
inductive VBody where
  | each (f : Nat → List Nat → VRes)
  | psum (rm : RMode) (sat : Bool)
  | perm
  | amx (tid : Nat)

/-- A vector command: its format, whether R201 accepts it, its lanes, count, destination and operands with the elements
their spans cover; `third` where the destination is operand C as well (VTER). -/
structure VCmd where
  fmt : Fmt
  ok : Bool
  lanes : Nat
  count : Nat
  dst : Option Rgn
  ops : List (Rgn × Nat)
  mask : Option Rgn := none
  sfu : Bool := false
  third : Bool := false
  body : VBody

/-- The regions that R205 checks, in its order. -/
def VCmd.uses (v : VCmd) : List Use :=
  (v.dst.toList.map fun g => ⟨g, v.count, true⟩) ++ (v.ops.map fun (g, n) => ⟨g, n, false⟩)
    ++ (v.mask.toList.map fun g => ⟨g, v.count, true⟩)

def vOk (f : Fmt) : Bool := !f.blocked
def sfOk (f : Fmt) : Bool := f == .fp32 || f == .bf16 || f == .fp16

/-- A command of three regions and one format. -/
def v3 (f : Fmt) (ok : Bool) (v : VecLit) (xd xa xb : Word) (g : Nat → Nat → VRes) : VCmd :=
  { fmt := f, ok := ok, lanes := lanesOf f, count := v.count.toNat, dst := some ⟨xd, v.sd.toNat, f.size⟩,
    ops := [(⟨xa, v.sa.toNat, f.size⟩, v.count.toNat), (⟨xb, v.sb.toNat, f.size⟩, v.count.toNat)],
    body := .each fun _ a => g (a.getD 0 0) (a.getD 1 0) }

/-- A command of a destination and one operand of one format. -/
def v2 (f : Fmt) (ok : Bool) (v : VecLit2) (xd xa : Word) (g : Nat → VRes) : VCmd :=
  { fmt := f, ok := ok, lanes := lanesOf f, count := v.count.toNat, dst := some ⟨xd, v.sd.toNat, f.size⟩,
    ops := [(⟨xa, v.sa.toNat, f.size⟩, v.count.toNat)], body := .each fun _ a => g (a.getD 0 0) }

def vBin (op : VBin) (f : Fmt) (rm : RMode) (sat : Bool) (v : VecLit) (xd xa xb : Word) : VCmd :=
  let shift := op == .shl || op == .shr
  v3 f (if shift then f.isInt else vOk f) v xd xa xb (op.eval f rm sat)

def vTer (minus : Bool) (f : Fmt) (rm : RMode) (sat : Bool) (v : VecLit) (xd xa xb : Word) : VCmd :=
  { v3 f (vOk f) v xd xa xb fun _ _ => ⟨0, none⟩ with
    third := true
    body := .each fun _ a => vFma f rm sat minus (a.getD 0 0) (a.getD 1 0) (a.getD 2 0) }

def vSf (op : VSf) (f : Fmt) (rm : RMode) (sat : Bool) (v : VecLit2) (xd xa : Word) : VCmd :=
  { v2 f (sfOk f) v xd xa (op.eval f rm sat) with sfu := true }

def vCmp (op : VCmpOp) (f : Fmt) (v : VecLit) (xd xa xb : Word) : VCmd :=
  { v3 f (vOk f) v xd xa xb (op.eval f) with dst := some ⟨xd, v.sd.toNat, 1⟩ }

def vCvt (f g : Fmt) (rm : RMode) (sat sr : Bool) (lfsr : BitVec 32) (v : VecLit2) (xd xa : Word) : VCmd :=
  { v2 f (vOk f && vOk g) v xd xa fun a => ⟨a, none⟩ with
    lanes := min (lanesOf f) (lanesOf g)
    dst := some ⟨xd, v.sd.toNat, g.size⟩
    body := .each fun i a => vConvert f g (rndAt sr rm lfsr i) sat (a.getD 0 0) }

def vSel (f : Fmt) (moff : BitVec 15) (v : VecLit) (xd xa xb : Word) : VCmd :=
  { v3 f (vOk f) v xd xa xb fun _ _ => ⟨0, none⟩ with
    mask := some ⟨BitVec.ofNat 64 (windowBase + moff.toNat * 64), v.sd.toNat, 1⟩
    body := .each fun _ a => ⟨if a.getD 2 0 = 0 then a.getD 1 0 else a.getD 0 0, none⟩ }

def vPerm (f : Fmt) (v : VecLit) (xd xa xb : Word) : VCmd :=
  { v3 f (vOk f) v xd xa xb fun _ _ => ⟨0, none⟩ with
    ops := [(⟨xa, v.sa.toNat, f.size⟩, (v.count.toNat + 255) / 256 * 256), (⟨xb, v.sb.toNat, 1⟩, v.count.toNat)]
    body := .perm }

def vFill (f : Fmt) (v : VecLitD) (xd xa : Word) : VCmd :=
  { fmt := f, ok := vOk f, lanes := lanesOf f, count := v.count.toNat, dst := some ⟨xd, v.sd.toNat, f.size⟩, ops := [],
    body := .each fun _ _ => ⟨xa.toNat % 2 ^ f.elemBits, none⟩ }

def vAmx (f : Fmt) (tid : BitVec 8) (v : VecLitA) (xa : Word) : VCmd :=
  { fmt := f, ok := vOk f, lanes := lanesOf f, count := v.count.toNat, dst := none,
    ops := [(⟨xa, v.sa.toNat, f.size⟩, v.count.toNat)], body := .amx tid.toNat }

def vScan (f : Fmt) (rm : RMode) (sat : Bool) (v : VecLit2) (xd xa : Word) : VCmd :=
  { v2 f (vOk f) v xd xa fun a => ⟨a, none⟩ with body := .psum rm sat }

/-- The command that an instruction issues, from its registers and its reserved LFSR state. -/
def vecOf (i : Instr) (xd xa xb : Word) (lfsr : BitVec 32) : Option VCmd :=
  match i with
  | .vadd _ f rm sat _ _ _ v => some (vBin .add f rm sat v xd xa xb)
  | .vsub _ f rm sat _ _ _ v => some (vBin .sub f rm sat v xd xa xb)
  | .vmul _ f rm sat _ _ _ v => some (vBin .mul f rm sat v xd xa xb)
  | .vmin _ f rm sat _ _ _ v => some (vBin .min f rm sat v xd xa xb)
  | .vmax _ f rm sat _ _ _ v => some (vBin .max f rm sat v xd xa xb)
  | .vand _ f rm sat _ _ _ v => some (vBin .and f rm sat v xd xa xb)
  | .vor _ f rm sat _ _ _ v => some (vBin .or f rm sat v xd xa xb)
  | .vxor _ f rm sat _ _ _ v => some (vBin .xor f rm sat v xd xa xb)
  | .vshl _ f rm sat _ _ _ v => some (vBin .shl f rm sat v xd xa xb)
  | .vshr _ f rm sat _ _ _ v => some (vBin .shr f rm sat v xd xa xb)
  | .vfma _ f rm sat _ _ _ v => some (vTer false f rm sat v xd xa xb)
  | .vfms _ f rm sat _ _ _ v => some (vTer true f rm sat v xd xa xb)
  | .vabs _ f _ sat _ _ v => some (v2 f (vOk f) v xd xa (vSign f sat false))
  | .vneg _ f _ sat _ _ v => some (v2 f (vOk f) v xd xa (vSign f sat true))
  | .vcvt _ f g rm sat sr _ _ v => some (vCvt f g rm sat sr lfsr v xd xa)
  | .vmov _ f _ _ v => some (v2 f (vOk f) v xd xa fun a => ⟨a, none⟩)
  | .vexp2 _ f rm sat _ _ v => some (vSf .exp2 f rm sat v xd xa)
  | .vlog2 _ f rm sat _ _ v => some (vSf .log2 f rm sat v xd xa)
  | .vrcp _ f rm sat _ _ v => some (vSf .rcp f rm sat v xd xa)
  | .vrsq _ f rm sat _ _ v => some (vSf .rsq f rm sat v xd xa)
  | .vtanh _ f rm sat _ _ v => some (vSf .tanh f rm sat v xd xa)
  | .vsilu _ f rm sat _ _ v => some (vSf .silu f rm sat v xd xa)
  | .vceq _ f _ _ _ v => some (vCmp .eq f v xd xa xb)
  | .vclt _ f _ _ _ v => some (vCmp .lt f v xd xa xb)
  | .vcle _ f _ _ _ v => some (vCmp .le f v xd xa xb)
  | .vsel _ f moff _ _ _ v => some (vSel f moff v xd xa xb)
  | .vpsum _ f rm sat _ _ v => some (vScan f rm sat v xd xa)
  | .vamx _ f tid _ v => some (vAmx f tid v xa)
  | .vfill _ f _ _ v => some (vFill f v xd xa)
  | .vperm _ f _ _ _ v => some (vPerm f v xd xa xb)
  | _ => none

/-- The checks of R205 on words and registers; of a count of 0 the format alone (R204). -/
def VCmd.early (v : VCmd) (t : Option Team) : Option Cause :=
  if !v.ok then some .formatIllegal else if v.count = 0 then none else regionCause t v.uses

/-- Row 7 of R205. -/
def VCmd.late (v : VCmd) (s : State) (r : SeqRef) : Option Cause :=
  match v.body with
  | .amx tid =>
    if v.count = 0 then none
    else if (s.tidEntry r tid).any (·.getLsbD 9) then none else some .tidInvalid
  | _ => none

/-- LFSR words that a command reserves (R211). -/
def vecWords : Instr → Nat
  | .vcvt _ _ _ _ _ sr _ _ v => if sr then v.count.toNat else 0
  | _ => 0

/-- A vector command at issue (R199, R203 to R205). -/
def State.vecCmd (s : State) (i : Instr) (h : Hdr) (d a b : Reg) : Res :=
  match s.cur with
  | .hub _ => s.issue i h {} .next
  | .seq r =>
    match vecOf i (s.X d) (s.X a) (s.X b) 0 with
    | none => s.issue i h {} .next
    | some v =>
      s.issue i h
        { permit := some (if v.sfu then .sfu else .vec)
          early := fun s => v.early (s.team? (strandOf r))
          room := State.engineRoom r .vector 8
          late := fun s => v.late s r } fun t =>
        let (t1, x) := if vecWords i = 0 then (t, 0) else t.reserve r (vecWords i)
        .next (t1.enqueue r .vector i h (s.X d) (s.X a) (s.X b) [] x)

/-- VADD. -/
def execVadd (h : Hdr) (fmt : Fmt) (rm : RMode) (sat : Bool) (d a b : Reg) (v : VecLit) (s : State) : Res :=
  s.vecCmd (.vadd h fmt rm sat d a b v) h d a b

/-- VSUB. -/
def execVsub (h : Hdr) (fmt : Fmt) (rm : RMode) (sat : Bool) (d a b : Reg) (v : VecLit) (s : State) : Res :=
  s.vecCmd (.vsub h fmt rm sat d a b v) h d a b

/-- VMUL. -/
def execVmul (h : Hdr) (fmt : Fmt) (rm : RMode) (sat : Bool) (d a b : Reg) (v : VecLit) (s : State) : Res :=
  s.vecCmd (.vmul h fmt rm sat d a b v) h d a b

/-- VMIN. -/
def execVmin (h : Hdr) (fmt : Fmt) (rm : RMode) (sat : Bool) (d a b : Reg) (v : VecLit) (s : State) : Res :=
  s.vecCmd (.vmin h fmt rm sat d a b v) h d a b

/-- VMAX. -/
def execVmax (h : Hdr) (fmt : Fmt) (rm : RMode) (sat : Bool) (d a b : Reg) (v : VecLit) (s : State) : Res :=
  s.vecCmd (.vmax h fmt rm sat d a b v) h d a b

/-- VAND. -/
def execVand (h : Hdr) (fmt : Fmt) (rm : RMode) (sat : Bool) (d a b : Reg) (v : VecLit) (s : State) : Res :=
  s.vecCmd (.vand h fmt rm sat d a b v) h d a b

/-- VOR. -/
def execVor (h : Hdr) (fmt : Fmt) (rm : RMode) (sat : Bool) (d a b : Reg) (v : VecLit) (s : State) : Res :=
  s.vecCmd (.vor h fmt rm sat d a b v) h d a b

/-- VXOR. -/
def execVxor (h : Hdr) (fmt : Fmt) (rm : RMode) (sat : Bool) (d a b : Reg) (v : VecLit) (s : State) : Res :=
  s.vecCmd (.vxor h fmt rm sat d a b v) h d a b

/-- VSHL. -/
def execVshl (h : Hdr) (fmt : Fmt) (rm : RMode) (sat : Bool) (d a b : Reg) (v : VecLit) (s : State) : Res :=
  s.vecCmd (.vshl h fmt rm sat d a b v) h d a b

/-- VSHR. -/
def execVshr (h : Hdr) (fmt : Fmt) (rm : RMode) (sat : Bool) (d a b : Reg) (v : VecLit) (s : State) : Res :=
  s.vecCmd (.vshr h fmt rm sat d a b v) h d a b

/-- VFMA. -/
def execVfma (h : Hdr) (fmt : Fmt) (rm : RMode) (sat : Bool) (d a b : Reg) (v : VecLit) (s : State) : Res :=
  s.vecCmd (.vfma h fmt rm sat d a b v) h d a b

/-- VFMS. -/
def execVfms (h : Hdr) (fmt : Fmt) (rm : RMode) (sat : Bool) (d a b : Reg) (v : VecLit) (s : State) : Res :=
  s.vecCmd (.vfms h fmt rm sat d a b v) h d a b

/-- VABS. -/
def execVabs (h : Hdr) (fmt : Fmt) (rm : RMode) (sat : Bool) (d a : Reg) (v : VecLit2) (s : State) : Res :=
  s.vecCmd (.vabs h fmt rm sat d a v) h d a 0

/-- VNEG. -/
def execVneg (h : Hdr) (fmt : Fmt) (rm : RMode) (sat : Bool) (d a : Reg) (v : VecLit2) (s : State) : Res :=
  s.vecCmd (.vneg h fmt rm sat d a v) h d a 0

/-- VCVT. -/
def execVcvt (h : Hdr) (fmt dfmt : Fmt) (rm : RMode) (sat sr : Bool) (d a : Reg) (v : VecLit2) (s : State) : Res :=
  s.vecCmd (.vcvt h fmt dfmt rm sat sr d a v) h d a 0

/-- VMOV. -/
def execVmov (h : Hdr) (fmt : Fmt) (d a : Reg) (v : VecLit2) (s : State) : Res :=
  s.vecCmd (.vmov h fmt d a v) h d a 0

/-- VEXP2. -/
def execVexp2 (h : Hdr) (fmt : Fmt) (rm : RMode) (sat : Bool) (d a : Reg) (v : VecLit2) (s : State) : Res :=
  s.vecCmd (.vexp2 h fmt rm sat d a v) h d a 0

/-- VLOG2. -/
def execVlog2 (h : Hdr) (fmt : Fmt) (rm : RMode) (sat : Bool) (d a : Reg) (v : VecLit2) (s : State) : Res :=
  s.vecCmd (.vlog2 h fmt rm sat d a v) h d a 0

/-- VRCP. -/
def execVrcp (h : Hdr) (fmt : Fmt) (rm : RMode) (sat : Bool) (d a : Reg) (v : VecLit2) (s : State) : Res :=
  s.vecCmd (.vrcp h fmt rm sat d a v) h d a 0

/-- VRSQ. -/
def execVrsq (h : Hdr) (fmt : Fmt) (rm : RMode) (sat : Bool) (d a : Reg) (v : VecLit2) (s : State) : Res :=
  s.vecCmd (.vrsq h fmt rm sat d a v) h d a 0

/-- VTANH. -/
def execVtanh (h : Hdr) (fmt : Fmt) (rm : RMode) (sat : Bool) (d a : Reg) (v : VecLit2) (s : State) : Res :=
  s.vecCmd (.vtanh h fmt rm sat d a v) h d a 0

/-- VSILU. -/
def execVsilu (h : Hdr) (fmt : Fmt) (rm : RMode) (sat : Bool) (d a : Reg) (v : VecLit2) (s : State) : Res :=
  s.vecCmd (.vsilu h fmt rm sat d a v) h d a 0

/-- VCEQ. -/
def execVceq (h : Hdr) (fmt : Fmt) (d a b : Reg) (v : VecLit) (s : State) : Res :=
  s.vecCmd (.vceq h fmt d a b v) h d a b

/-- VCLT. -/
def execVclt (h : Hdr) (fmt : Fmt) (d a b : Reg) (v : VecLit) (s : State) : Res :=
  s.vecCmd (.vclt h fmt d a b v) h d a b

/-- VCLE. -/
def execVcle (h : Hdr) (fmt : Fmt) (d a b : Reg) (v : VecLit) (s : State) : Res :=
  s.vecCmd (.vcle h fmt d a b v) h d a b

/-- VSEL. -/
def execVsel (h : Hdr) (fmt : Fmt) (moff : BitVec 15) (d a b : Reg) (v : VecLit) (s : State) : Res :=
  s.vecCmd (.vsel h fmt moff d a b v) h d a b

/-- VPSUM. -/
def execVpsum (h : Hdr) (fmt : Fmt) (rm : RMode) (sat : Bool) (d a : Reg) (v : VecLit2) (s : State) : Res :=
  s.vecCmd (.vpsum h fmt rm sat d a v) h d a 0

/-- VAMX. -/
def execVamx (h : Hdr) (fmt : Fmt) (tid : BitVec 8) (a : Reg) (v : VecLitA) (s : State) : Res :=
  s.vecCmd (.vamx h fmt tid a v) h 0 a 0

/-- VFILL. -/
def execVfill (h : Hdr) (fmt : Fmt) (d a : Reg) (v : VecLitD) (s : State) : Res :=
  s.vecCmd (.vfill h fmt d a v) h d a 0

/-- VPERM. -/
def execVperm (h : Hdr) (fmt : Fmt) (d a b : Reg) (v : VecLit) (s : State) : Res :=
  s.vecCmd (.vperm h fmt d a b v) h d a b

/-! ### Units (R202) -/

/-- Element indices of unit `u`. -/
def VCmd.indices (v : VCmd) (u : Nat) : List Nat :=
  (List.range (min v.lanes (v.count - u * v.lanes))).map fun k => u * v.lanes + k

def VCmd.units (v : VCmd) : Nat := (v.count + v.lanes - 1) / v.lanes

/-- Prefix sums of a group: from the value carried in and the elements before (R215). -/
def psumGroup (f : Fmt) (rm : RMode) (sat : Bool) (c : ExtNum) : ExtNum → Bool → List Nat → List VRes
  | _, _, [] => []
  | sum, nan, a :: r =>
    let x := f.decode a
    let sum' := sum.add x
    let nan' := nan || x.isNaN
    let res := if f.isInt then vInt f sat (sum'.roundInt (.det .rz)) else vFloat f (.det rm) sat nan' sum'
    res :: psumGroup f rm sat c sum' nan' r

/-- Groups of 16, each beginning from the rounded last element of the group before it; `n` bounds the groups. -/
def psumGroups (f : Fmt) (rm : RMode) (sat : Bool) (c : ExtNum) (as : List Nat) : Nat → List VRes
  | 0 => []
  | n + 1 =>
    if as.isEmpty then []
    else
      let g := psumGroup f rm sat c c c.isNaN (as.take 16)
      g ++ psumGroups f rm sat ((g.getLast?.map fun r => f.decode r.bits).getD c) (as.drop 16) n

/-- The results of a unit, from the reads of all its operand elements. -/
def VCmd.results (v : VCmd) (t : Option Team) (c : Cluster) (u : Nat) : List VRes :=
  let is := v.indices u
  let cols := (v.ops.map (·.1)) ++ v.mask.toList
  match v.body with
  | .each f =>
    let third := if v.third then v.dst.toList else []
    let read := (cols ++ third).map fun g => g.read t c is
    is.zipIdx.map fun (i, k) => f i (read.map fun l => l.getD k 0)
  | .psum rm sat =>
    let a := (cols.head?.map fun g => g.read t c is).getD []
    let carry := if u = 0 then ExtNum.zero
      else v.fmt.decode ((v.dst.map fun g => (g.read t c [u * v.lanes - 1]).getD 0 0).getD 0)
    psumGroups v.fmt rm sat carry a (a.length + 1)
  | .perm =>
    match cols with
    | [ga, gb] => is.map fun i =>
        let ix := (gb.read t c [i]).getD 0 0
        ⟨(ga.read t c [i / 256 * 256 + ix]).getD 0 0, none⟩
    | _ => []
  | .amx _ => []

/-- The elements that a unit reads, region by region (R202, R214). -/
def VCmd.reads (v : VCmd) (t : Option Team) (c : Cluster) (u : Nat) : List (Rgn × List Nat) :=
  let is := v.indices u
  let all := (v.ops.map fun g => (g.1, is)) ++ (v.mask.toList.map fun g => (g, is))
  match v.body with
  | .each _ => if v.third then all ++ (v.dst.toList.map fun g => (g, is)) else all
  | .psum .. => if u = 0 then all else all ++ (v.dst.toList.map fun g => (g, [u * v.lanes - 1]))
  | .perm =>
    match v.ops with
    | [(ga, _), (gb, _)] => [(gb, is), (ga, is.map fun i => i / 256 * 256 + (gb.read t c [i]).getD 0 0)]
    | _ => []
  | .amx _ => all

/-- A unit of a vector command. -/
def vecUnit (v : VCmd) : EM Bool := do
  let e ← get
  let t ← getTeam
  let c ← getCl
  let is := v.indices e.c.pix
  (v.reads t c e.c.pix).forM fun (g, ks) => ks.forM fun i => spadCheck (g.spad t + g.off i) g.esz
  match v.body with
  | .amx tid =>
    let a := ((v.ops.head?.map fun g => g.1.read t c is).getD [])
    a.forM fun x => amaxUpdate tid (v.fmt.decode x)
    pure false
  | _ =>
    let rs := v.results t c e.c.pix
    match rs.findSome? fun r => r.cause.filter fun k => !e.s.masked (strandOf e.r) k with
    | some k => fail k
    | none =>
      match v.dst with
      | some g => modCl fun c => g.write t c (is.zip (rs.map (·.bits)))
      | none => pure ()
      pure false

def Cmd.vec (c : Cmd) : Option VCmd := vecOf c.ins c.xd c.xa c.xb c.lfsr

/-- VECTOR_UNIT: one unit of the command at the head of a sequencer's vector queue (R199, R202). -/
def execVectorUnit (g : Agent) (s : State) : Res :=
  match g with
  | .hub _ => .next s
  | .seq r => .next (s.doUnit r .vector (fun c => (c.vec.map (·.units)).getD 0) (fun _ => 1) do
      match (← get).c.vec with
      | some v => vecUnit v
      | none => pure false)

/-! ### The reduction slot (R219 to R221) -/

/-- Groups of 16 values; `n` bounds them. -/
def groups16 (vs : List ExtNum) : Nat → List (List ExtNum)
  | 0 => []
  | n + 1 => if vs.isEmpty then [] else vs.take 16 :: groups16 (vs.drop 16) n

/-- T of a VRSUM (R220). -/
def redSum (rm : RMode) (vs : List ExtNum) : BitVec 32 :=
  (groups16 vs (vs.length + 1)).foldl (fun t g =>
    let sum := ExtNum.sum g
    if sum.isNaN || (fp32 t).isNaN then fpNaN
    else if sum.isZero then t
    else roundFP32 (.det rm) ((fp32 t).add sum)) 0

/-- T of a VRMAX or VRMIN (R220). -/
def redPick (rm : RMode) (greater : Bool) : List ExtNum → BitVec 32
  | [] => 0
  | v :: vs => roundFP32 (.det rm) (vs.foldl (fun a b => if greater then a.greatest b else a.least b) v)

/-- VRED: the checks of R205 for its operand, T formed from the elements at issue, and its landing (R220). -/
def State.vred (s : State) (i : Instr) (h : Hdr) (fmt : Fmt) (z : BitVec 2) (a : Reg) (v : VecLitA) (op : LandOp)
    (form : List ExtNum → BitVec 32) : Res :=
  match s.cur with
  | .hub _ => s.issue i h {} .next
  | .seq r =>
    let n := v.count.toNat
    let g : Rgn := ⟨s.X a, v.sa.toNat, fmt.size⟩
    let early (s : State) : Option Cause :=
      if !vOk fmt then some .formatIllegal
      else if n = 0 then none else regionCause (s.team? (strandOf r)) [⟨g, n, false⟩]
    s.issue i h { permit := some .vec, fixed := n != 0, early := early } fun t =>
      if n = 0 then .next (t.finish h)
      else
        let tm := t.team? (strandOf r)
        let c := t.cluster r.die r.cl
        match (List.range n).findSome? fun i => wordHit c.badSpad (g.spad tm + g.off i) g.esz with
        | some w => .next (t.raise r .sramUncorr .a 0 0 (softDetail .spad r.die r.cl w))
        | none =>
        let vs := (g.read tm c (List.range n)).map fmt.decode
        t.launchOp i h (.z z) (8 + (n + lanesOf fmt - 1) / lanesOf fmt) (zext32 (form vs)) (zext32 (form vs)) 0 0 op

/-- VRSUM. -/
def execVrsum (h : Hdr) (fmt : Fmt) (rm : RMode) (z : BitVec 2) (a : Reg) (v : VecLitA) (s : State) : Res :=
  s.vred (.vrsum h fmt rm z a v) h fmt z a v (.vsum rm) (redSum rm)

/-- VRMAX. -/
def execVrmax (h : Hdr) (fmt : Fmt) (rm : RMode) (z : BitVec 2) (a : Reg) (v : VecLitA) (s : State) : Res :=
  s.vred (.vrmax h fmt rm z a v) h fmt z a v .vmax (redPick rm true)

/-- VRMIN. -/
def execVrmin (h : Hdr) (fmt : Fmt) (rm : RMode) (z : BitVec 2) (a : Reg) (v : VecLitA) (s : State) : Res :=
  s.vred (.vrmin h fmt rm z a v) h fmt z a v .vmin (redPick rm false)

/-- A latch of the executing sequencer's cluster. -/
def State.latch (s : State) (z : BitVec 2) : BitVec 32 :=
  match s.cur with
  | .seq r => Tbl.get 0 (s.cluster r.die r.cl).z z.toNat
  | .hub _ => 0

/-- ZGET. -/
def execZget (h : Hdr) (d : Reg) (z : BitVec 2) (s : State) : Res :=
  s.issue (.zget h d z) h { fixed := true } fun t =>
    t.launchOp (.zget h d z) h (.x d) 1 (zext32 (s.latch z)) (zext32 (s.latch z)) 0 0

/-- ZSET. -/
def execZset (h : Hdr) (z : BitVec 2) (a : Reg) (s : State) : Res :=
  s.issue (.zset h z a) h { fixed := true } fun t => t.launchOp (.zset h z a) h (.z z) 1 (s.X a) (s.X a) 0 0

/-- ZCLR. -/
def execZclr (h : Hdr) (z : BitVec 2) (s : State) : Res :=
  s.issue (.zclr h z) h { fixed := true } fun t => t.launchOp (.zclr h z) h (.z z) 1 0 0 0 0

end Sys2Proof.Machine
end

