-- ==== Sys2Proof/Machine/Dispatch.lean ====
section
/-! DEFINITION. Which meaning each instruction and event has: one arm for each constructor of `Instr`. -/

namespace Sys2Proof.Machine

def exec (i : Instr) (s : State) : Host.Outcome State Fault Refusal :=
  match i with
  | .add h d a b => Sys2Proof.Machine.execAdd h d a b s
  | .sub h d a b => Sys2Proof.Machine.execSub h d a b s
  | .and h d a b => Sys2Proof.Machine.execAnd h d a b s
  | .or h d a b => Sys2Proof.Machine.execOr h d a b s
  | .xor h d a b => Sys2Proof.Machine.execXor h d a b s
  | .andn h d a b => Sys2Proof.Machine.execAndn h d a b s
  | .shl h d a b => Sys2Proof.Machine.execShl h d a b s
  | .shr h d a b => Sys2Proof.Machine.execShr h d a b s
  | .sra h d a b => Sys2Proof.Machine.execSra h d a b s
  | .rol h d a b => Sys2Proof.Machine.execRol h d a b s
  | .min h d a b => Sys2Proof.Machine.execMin h d a b s
  | .max h d a b => Sys2Proof.Machine.execMax h d a b s
  | .minu h d a b => Sys2Proof.Machine.execMinu h d a b s
  | .maxu h d a b => Sys2Proof.Machine.execMaxu h d a b s
  | .mul h d a b => Sys2Proof.Machine.execMul h d a b s
  | .mulh h d a b => Sys2Proof.Machine.execMulh h d a b s
  | .mulhu h d a b => Sys2Proof.Machine.execMulhu h d a b s
  | .div h d a b => Sys2Proof.Machine.execDiv h d a b s
  | .divu h d a b => Sys2Proof.Machine.execDivu h d a b s
  | .rem h d a b => Sys2Proof.Machine.execRem h d a b s
  | .remu h d a b => Sys2Proof.Machine.execRemu h d a b s
  | .clz h d a => Sys2Proof.Machine.execClz h d a s
  | .popc h d a => Sys2Proof.Machine.execPopc h d a s
  | .abs h d a => Sys2Proof.Machine.execAbs h d a s
  | .addi h d a imm => Sys2Proof.Machine.execAddi h d a imm s
  | .andi h d a imm => Sys2Proof.Machine.execAndi h d a imm s
  | .ori h d a imm => Sys2Proof.Machine.execOri h d a imm s
  | .xori h d a imm => Sys2Proof.Machine.execXori h d a imm s
  | .shli h d a sh => Sys2Proof.Machine.execShli h d a sh s
  | .shri h d a sh => Sys2Proof.Machine.execShri h d a sh s
  | .srai h d a sh => Sys2Proof.Machine.execSrai h d a sh s
  | .roli h d a sh => Sys2Proof.Machine.execRoli h d a sh s
  | .mini h d a imm => Sys2Proof.Machine.execMini h d a imm s
  | .maxi h d a imm => Sys2Proof.Machine.execMaxi h d a imm s
  | .muli h d a imm => Sys2Proof.Machine.execMuli h d a imm s
  | .liz h d lit => Sys2Proof.Machine.execLiz h d lit s
  | .lis h d lit => Sys2Proof.Machine.execLis h d lit s
  | .lih h d lit => Sys2Proof.Machine.execLih h d lit s
  | .eq h pd a b => Sys2Proof.Machine.execEq h pd a b s
  | .ne h pd a b => Sys2Proof.Machine.execNe h pd a b s
  | .lt h pd a b => Sys2Proof.Machine.execLt h pd a b s
  | .ltu h pd a b => Sys2Proof.Machine.execLtu h pd a b s
  | .ge h pd a b => Sys2Proof.Machine.execGe h pd a b s
  | .geu h pd a b => Sys2Proof.Machine.execGeu h pd a b s
  | .eqi h pd a imm => Sys2Proof.Machine.execEqi h pd a imm s
  | .nei h pd a imm => Sys2Proof.Machine.execNei h pd a imm s
  | .lti h pd a imm => Sys2Proof.Machine.execLti h pd a imm s
  | .ltui h pd a imm => Sys2Proof.Machine.execLtui h pd a imm s
  | .gei h pd a imm => Sys2Proof.Machine.execGei h pd a imm s
  | .geui h pd a imm => Sys2Proof.Machine.execGeui h pd a imm s
  | .pand h pd pa pb => Sys2Proof.Machine.execPand h pd pa pb s
  | .por h pd pa pb => Sys2Proof.Machine.execPor h pd pa pb s
  | .pxor h pd pa pb => Sys2Proof.Machine.execPxor h pd pa pb s
  | .pnot h pd pa => Sys2Proof.Machine.execPnot h pd pa s
  | .pmov h pd pa => Sys2Proof.Machine.execPmov h pd pa s
  | .sel h pk d a b => Sys2Proof.Machine.execSel h pk d a b s
  | .ldb h d a off => Sys2Proof.Machine.execLdb h d a off s
  | .ldh h d a off => Sys2Proof.Machine.execLdh h d a off s
  | .ldw h d a off => Sys2Proof.Machine.execLdw h d a off s
  | .ldd h d a off => Sys2Proof.Machine.execLdd h d a off s
  | .ldbs h d a off => Sys2Proof.Machine.execLdbs h d a off s
  | .ldhs h d a off => Sys2Proof.Machine.execLdhs h d a off s
  | .ldws h d a off => Sys2Proof.Machine.execLdws h d a off s
  | .stb h a b off => Sys2Proof.Machine.execStb h a b off s
  | .sth h a b off => Sys2Proof.Machine.execSth h a b off s
  | .stw h a b off => Sys2Proof.Machine.execStw h a b off s
  | .std h a b off => Sys2Proof.Machine.execStd h a b off s
  | .fadd h d a b rm => Sys2Proof.Machine.execFadd h d a b rm s
  | .fsub h d a b rm => Sys2Proof.Machine.execFsub h d a b rm s
  | .fmul h d a b rm => Sys2Proof.Machine.execFmul h d a b rm s
  | .ffma h d a b rm => Sys2Proof.Machine.execFfma h d a b rm s
  | .fmin h d a b => Sys2Proof.Machine.execFmin h d a b s
  | .fmax h d a b => Sys2Proof.Machine.execFmax h d a b s
  | .fabs h d a => Sys2Proof.Machine.execFabs h d a s
  | .fneg h d a => Sys2Proof.Machine.execFneg h d a s
  | .fcmpeq h d a b => Sys2Proof.Machine.execFcmpeq h d a b s
  | .fcmplt h d a b => Sys2Proof.Machine.execFcmplt h d a b s
  | .fcmple h d a b => Sys2Proof.Machine.execFcmple h d a b s
  | .fcvti h d a rm => Sys2Proof.Machine.execFcvti h d a rm s
  | .fcvtf h d a rm => Sys2Proof.Machine.execFcvtf h d a rm s
  | .exp2 h d a => Sys2Proof.Machine.execExp2 h d a s
  | .log2 h d a => Sys2Proof.Machine.execLog2 h d a s
  | .rcp h d a => Sys2Proof.Machine.execRcp h d a s
  | .rsqrt h d a => Sys2Proof.Machine.execRsqrt h d a s
  | .sqrt h d a => Sys2Proof.Machine.execSqrt h d a s
  | .tanh h d a => Sys2Proof.Machine.execTanh h d a s
  | .sin h d a => Sys2Proof.Machine.execSin h d a s
  | .cos h d a => Sys2Proof.Machine.execCos h d a s
  | .pbr h bd tgt => Sys2Proof.Machine.execPbr h bd tgt s
  | .brt h bd pa => Sys2Proof.Machine.execBrt h bd pa s
  | .brf h bd pa => Sys2Proof.Machine.execBrf h bd pa s
  | .bra h bd => Sys2Proof.Machine.execBra h bd s
  | .call h bd => Sys2Proof.Machine.execCall h bd s
  | .ret h => Sys2Proof.Machine.execRet h s
  | .endI h => Sys2Proof.Machine.execEndI h s
  | .yield h => Sys2Proof.Machine.execYield h s
  | .nop h => Sys2Proof.Machine.execNop h s
  | .brk h => Sys2Proof.Machine.execBrk h s
  | .tkp h q n => Sys2Proof.Machine.execTkp h q n s
  | .tkw h q n => Sys2Proof.Machine.execTkw h q n s
  | .tkq h d q => Sys2Proof.Machine.execTkq h d q s
  | .winit h w base cfg => Sys2Proof.Machine.execWinit h w base cfg s
  | .wclm h d w => Sys2Proof.Machine.execWclm h d w s
  | .wpub h w => Sys2Proof.Machine.execWpub h w s
  | .wwf h d w => Sys2Proof.Machine.execWwf h d w s
  | .wwe h d w => Sys2Proof.Machine.execWwe h d w s
  | .wrel h w => Sys2Proof.Machine.execWrel h w s
  | .phase h scope => Sys2Proof.Machine.execPhase h scope s
  | .fenceE h => Sys2Proof.Machine.execFenceE h s
  | .tagb h bd a b => Sys2Proof.Machine.execTagb h bd a b s
  | .tagbClr h bd => Sys2Proof.Machine.execTagbClr h bd s
  | .wtag h d tmo => Sys2Proof.Machine.execWtag h d tmo s
  | .tagq h d a which => Sys2Proof.Machine.execTagq h d a which s
  | .tdep h nb d a b => Sys2Proof.Machine.execTdep h nb d a b s
  | .tcpy h nb d a b tmo label => Sys2Proof.Machine.execTcpy h nb d a b tmo label s
  | .ttak h nb d a b tmo label => Sys2Proof.Machine.execTtak h nb d a b tmo label s
  | .tcnl h d a b => Sys2Proof.Machine.execTcnl h d a b s
  | .cpy h d a b => Sys2Proof.Machine.execCpy h d a b s
  | .cpyt h tn tm d a b => Sys2Proof.Machine.execCpyt h tn tm d a b s
  | .gath h pos tn tm d a b => Sys2Proof.Machine.execGath h pos tn tm d a b s
  | .scat h pos tn tm d a b => Sys2Proof.Machine.execScat h pos tn tm d a b s
  | .cpyx h sr sat rm pos app tr tn tm d a b => Sys2Proof.Machine.execCpyx h sr sat rm pos app tr tn tm d a b s
  | .cpyr h acc rm fmt d a b => Sys2Proof.Machine.execCpyr h acc rm fmt d a b s
  | .land h fmt d a b mac slot cnt => Sys2Proof.Machine.execLand h fmt d a b mac slot cnt s
  | .fwd h reinj audit d a b size => Sys2Proof.Machine.execFwd h reinj audit d a b size s
  | .lds h sz sg d a off => Sys2Proof.Machine.execLds h sz sg d a off s
  | .vadd h fmt rm sat d a b v => Sys2Proof.Machine.execVadd h fmt rm sat d a b v s
  | .vsub h fmt rm sat d a b v => Sys2Proof.Machine.execVsub h fmt rm sat d a b v s
  | .vmul h fmt rm sat d a b v => Sys2Proof.Machine.execVmul h fmt rm sat d a b v s
  | .vmin h fmt rm sat d a b v => Sys2Proof.Machine.execVmin h fmt rm sat d a b v s
  | .vmax h fmt rm sat d a b v => Sys2Proof.Machine.execVmax h fmt rm sat d a b v s
  | .vand h fmt rm sat d a b v => Sys2Proof.Machine.execVand h fmt rm sat d a b v s
  | .vor h fmt rm sat d a b v => Sys2Proof.Machine.execVor h fmt rm sat d a b v s
  | .vxor h fmt rm sat d a b v => Sys2Proof.Machine.execVxor h fmt rm sat d a b v s
  | .vshl h fmt rm sat d a b v => Sys2Proof.Machine.execVshl h fmt rm sat d a b v s
  | .vshr h fmt rm sat d a b v => Sys2Proof.Machine.execVshr h fmt rm sat d a b v s
  | .vfma h fmt rm sat d a b v => Sys2Proof.Machine.execVfma h fmt rm sat d a b v s
  | .vfms h fmt rm sat d a b v => Sys2Proof.Machine.execVfms h fmt rm sat d a b v s
  | .vabs h fmt rm sat d a v => Sys2Proof.Machine.execVabs h fmt rm sat d a v s
  | .vneg h fmt rm sat d a v => Sys2Proof.Machine.execVneg h fmt rm sat d a v s
  | .vcvt h fmt dfmt rm sat sr d a v => Sys2Proof.Machine.execVcvt h fmt dfmt rm sat sr d a v s
  | .vmov h fmt d a v => Sys2Proof.Machine.execVmov h fmt d a v s
  | .vexp2 h fmt rm sat d a v => Sys2Proof.Machine.execVexp2 h fmt rm sat d a v s
  | .vlog2 h fmt rm sat d a v => Sys2Proof.Machine.execVlog2 h fmt rm sat d a v s
  | .vrcp h fmt rm sat d a v => Sys2Proof.Machine.execVrcp h fmt rm sat d a v s
  | .vrsq h fmt rm sat d a v => Sys2Proof.Machine.execVrsq h fmt rm sat d a v s
  | .vtanh h fmt rm sat d a v => Sys2Proof.Machine.execVtanh h fmt rm sat d a v s
  | .vsilu h fmt rm sat d a v => Sys2Proof.Machine.execVsilu h fmt rm sat d a v s
  | .vceq h fmt d a b v => Sys2Proof.Machine.execVceq h fmt d a b v s
  | .vclt h fmt d a b v => Sys2Proof.Machine.execVclt h fmt d a b v s
  | .vcle h fmt d a b v => Sys2Proof.Machine.execVcle h fmt d a b v s
  | .vsel h fmt moff d a b v => Sys2Proof.Machine.execVsel h fmt moff d a b v s
  | .vrsum h fmt rm z a v => Sys2Proof.Machine.execVrsum h fmt rm z a v s
  | .vrmax h fmt rm z a v => Sys2Proof.Machine.execVrmax h fmt rm z a v s
  | .vrmin h fmt rm z a v => Sys2Proof.Machine.execVrmin h fmt rm z a v s
  | .vpsum h fmt rm sat d a v => Sys2Proof.Machine.execVpsum h fmt rm sat d a v s
  | .vamx h fmt tid a v => Sys2Proof.Machine.execVamx h fmt tid a v s
  | .vfill h fmt d a v => Sys2Proof.Machine.execVfill h fmt d a v s
  | .vperm h fmt d a b v => Sys2Proof.Machine.execVperm h fmt d a b v s
  | .zget h d z => Sys2Proof.Machine.execZget h d z s
  | .zset h z a => Sys2Proof.Machine.execZset h z a s
  | .zclr h z => Sys2Proof.Machine.execZclr h z s
  | .mma h lst zr rm tA tB a b ml => Sys2Proof.Machine.execMma h lst zr rm tA tB a b ml s
  | .mmak h lst zr rm tA tB d a b ml off => Sys2Proof.Machine.execMmak h lst zr rm tA tB d a b ml off s
  | .aclr h a b => Sys2Proof.Machine.execAclr h a b s
  | .adrn h sr sat rm clr tr tn d a b lda => Sys2Proof.Machine.execAdrn h sr sat rm clr tr tn d a b lda s
  | .atq h tq d a => Sys2Proof.Machine.execAtq h tq d a s
  | .ats h tk tv a b => Sys2Proof.Machine.execAts h tk tv a b s
  | .atf h u a b => Sys2Proof.Machine.execAtf h u a b s
  | .aadd h stg a b => Sys2Proof.Machine.execAadd h stg a b s
  | .aaddf h stg rm a b => Sys2Proof.Machine.execAaddf h stg rm a b s
  | .awr h stg a b => Sys2Proof.Machine.execAwr h stg a b s
  | .aaddx h stg d a b => Sys2Proof.Machine.execAaddx h stg d a b s
  | .aaddfx h stg rm d a b => Sys2Proof.Machine.execAaddfx h stg rm d a b s
  | .awrx h stg d a b => Sys2Proof.Machine.execAwrx h stg d a b s
  | .setfid h f => Sys2Proof.Machine.execSetfid h f s
  | .fcrd h d which => Sys2Proof.Machine.execFcrd h d which s
  | .fcclr h d => Sys2Proof.Machine.execFcclr h d s
  | .rwr h d a b => Sys2Proof.Machine.execRwr h d a b s
  | .rrd h d a b => Sys2Proof.Machine.execRrd h d a b s
  | .rwrr h acc rm fmt d a b => Sys2Proof.Machine.execRwrr h acc rm fmt d a b s
  | .qpost h nb d a qp => Sys2Proof.Machine.execQpost h nb d a qp s
  | .carm h a b => Sys2Proof.Machine.execCarm h a b s
  | .cadd h a b => Sys2Proof.Machine.execCadd h a b s
  | .cwait h d a b tmo => Sys2Proof.Machine.execCwait h d a b tmo s
  | .crd h d a => Sys2Proof.Machine.execCrd h d a s
  | .qslot h acc clr a b => Sys2Proof.Machine.execQslot h acc clr a b s
  | .csrr h d csr => Sys2Proof.Machine.execCsrr h d csr s
  | .csrw h csr a => Sys2Proof.Machine.execCsrw h csr a s
  | .trap h n m => Sys2Proof.Machine.execTrap h n m s
  | .eret h d => Sys2Proof.Machine.execEret h d s
  | .tld h d b idx => Sys2Proof.Machine.execTld h d b idx s
  | .tlk h a l => Sys2Proof.Machine.execTlk h a l s
  | .tinv h d a mode => Sys2Proof.Machine.execTinv h d a mode s
  | .pmld h d a b way => Sys2Proof.Machine.execPmld h d a b way s
  | .rply h a => Sys2Proof.Machine.execRply h a s
  | .ctxs h rel d a b => Sys2Proof.Machine.execCtxs h rel d a b s
  | .ctxl h d a b => Sys2Proof.Machine.execCtxl h d a b s
  | .tsr h d => Sys2Proof.Machine.execTsr h d s
  | .lnch h nb d a lq => Sys2Proof.Machine.execLnch h nb d a lq s
  | .idle h d => Sys2Proof.Machine.execIdle h d s
  | .fixedLatencyLanding g => Sys2Proof.Machine.execFixedLatencyLanding g s
  | .waitSatisfied g => Sys2Proof.Machine.execWaitSatisfied g s
  | .ldsComplete g => Sys2Proof.Machine.execLdsComplete g s
  | .copyUnit g => Sys2Proof.Machine.execCopyUnit g s
  | .vectorUnit g => Sys2Proof.Machine.execVectorUnit g s
  | .mmaUnit g => Sys2Proof.Machine.execMmaUnit g s
  | .fidRailSwitchDone die cl => Sys2Proof.Machine.execFidRailSwitchDone die cl s
  | .mmakTargetChoice g => Sys2Proof.Machine.execMmakTargetChoice g s
  | .mmakStartTime g => Sys2Proof.Machine.execMmakStartTime g s
  | .drainUnit g => Sys2Proof.Machine.execDrainUnit g s
  | .aclrUnit g => Sys2Proof.Machine.execAclrUnit g s
  | .attentionPerform g => Sys2Proof.Machine.execAttentionPerform g s
  | .landTile g => Sys2Proof.Machine.execLandTile g s
  | .aatPerformed g => Sys2Proof.Machine.execAatPerformed g s
  | .cpyrAdd g => Sys2Proof.Machine.execCpyrAdd g s
  | .roundTimeout rr => Sys2Proof.Machine.execRoundTimeout rr s
  | .workEntryFire die qp => Sys2Proof.Machine.execWorkEntryFire die qp s
  | .workEntryComplete die qp => Sys2Proof.Machine.execWorkEntryComplete die qp s
  | .remoteUnitDeadline die req => Sys2Proof.Machine.execRemoteUnitDeadline die req s
  | .remoteUnitUnreached req => Sys2Proof.Machine.execRemoteUnitUnreached req s
  | .tupleTakeService die slice => Sys2Proof.Machine.execTupleTakeService die slice s
  | .tupleDepositService die slice => Sys2Proof.Machine.execTupleDepositService die slice s
  | .tupleCancelService die slice => Sys2Proof.Machine.execTupleCancelService die slice s
  | .tupleParkExpire die slice => Sys2Proof.Machine.execTupleParkExpire die slice s
  | .tupleComplete req => Sys2Proof.Machine.execTupleComplete req s
  | .tupleRemoteTimeout req => Sys2Proof.Machine.execTupleRemoteTimeout req s
  | .tupleResend req => Sys2Proof.Machine.execTupleResend req s
  | .strandStop r c => Sys2Proof.Machine.execStrandStop r c s
  | .watchdog r => Sys2Proof.Machine.execWatchdog r s
  | .queueAgeing q => Sys2Proof.Machine.execQueueAgeing q s
  | .teamStart team => Sys2Proof.Machine.execTeamStart team s
  | .teamRetire team => Sys2Proof.Machine.execTeamRetire team s
  | .permitRefill die cl => Sys2Proof.Machine.execPermitRefill die cl s
  | .memberLost mid => Sys2Proof.Machine.execMemberLost mid s
  | .stripeSendStart die => Sys2Proof.Machine.execStripeSendStart die s
  | .dwellExpire die fslot => Sys2Proof.Machine.execDwellExpire die fslot s
  | .lostStandin tag => Sys2Proof.Machine.execLostStandin tag s
  | .laneTrainDone die lane => Sys2Proof.Machine.execLaneTrainDone die lane s
  | .bktDecay die lane => Sys2Proof.Machine.execBktDecay die lane s
  | .laneRetuneDone die lane => Sys2Proof.Machine.execLaneRetuneDone die lane s
  | .wtagTimeout g => Sys2Proof.Machine.execWtagTimeout g s
  | .cwaitTimeout g => Sys2Proof.Machine.execCwaitTimeout g s
  | .mailboxUnknownCmd cmd => Sys2Proof.Machine.execMailboxUnknownCmd cmd s
  | .notAnInstruction c => Sys2Proof.Machine.execNotAnInstruction c s
  | .preemptRequest launch team => Sys2Proof.Machine.execPreemptRequest launch team s
  | .launchPass => Sys2Proof.Machine.execLaunchPass s
  | .windowBoundary => Sys2Proof.Machine.execWindowBoundary s
  | .dataFlit die lane fl => Sys2Proof.Machine.execDataFlit die lane fl s
  | .ack die lane flit => Sys2Proof.Machine.execAck die lane flit s
  | .nak die lane flit => Sys2Proof.Machine.execNak die lane flit s
  | .train die lane => Sys2Proof.Machine.execTrain die lane s
  | .laneLos die light => Sys2Proof.Machine.execLaneLos die light s
  | .lightReturn die lane => Sys2Proof.Machine.execLightReturn die lane s
  | .sync mid t2 => Sys2Proof.Machine.execSync mid t2 s
  | .follow mid t1 => Sys2Proof.Machine.execFollow mid t1 s
  | .dreq mid t4 => Sys2Proof.Machine.execDreq mid t4 s
  | .drsp mid t4 => Sys2Proof.Machine.execDrsp mid t4 s
  | .seghdr die hd => Sys2Proof.Machine.execSeghdr die hd s
  | .freefr die count => Sys2Proof.Machine.execFreefr die count s
  | .propose pr => Sys2Proof.Machine.execPropose pr s
  | .accept mid window => Sys2Proof.Machine.execAccept mid window s
  | .reject mid window => Sys2Proof.Machine.execReject mid window s
  | .commit mid window => Sys2Proof.Machine.execCommit mid window s
  | .tspreq mid rq => Sys2Proof.Machine.execTspreq mid rq s
  | .tsprsp mid rs => Sys2Proof.Machine.execTsprsp mid rs s
  | .wrhdr mid die wr => Sys2Proof.Machine.execWrhdr mid die wr s
  | .wrack req unit => Sys2Proof.Machine.execWrack req unit s
  | .wrnack req unit status => Sys2Proof.Machine.execWrnack req unit status s
  | .rdreq mid die rd => Sys2Proof.Machine.execRdreq mid die rd s
  | .redhdr mid die rh => Sys2Proof.Machine.execRedhdr mid die rh s
  | .redgo req => Sys2Proof.Machine.execRedgo req s
  | .cntadd mid die ca => Sys2Proof.Machine.execCntadd mid die ca s
  | .droopDetect die cl cycles => Sys2Proof.Machine.execDroopDetect die cl cycles s
  | .thermalLimit die island => Sys2Proof.Machine.execThermalLimit die island s
  | .thermalRecover die island => Sys2Proof.Machine.execThermalRecover die island s
  | .logicRailSwitch die cl => Sys2Proof.Machine.execLogicRailSwitch die cl s
  | .scrubRead pa => Sys2Proof.Machine.execScrubRead pa s
  | .coldReset => Sys2Proof.Machine.execColdReset s
  | .finjWrite die cl v => Sys2Proof.Machine.execFinjWrite die cl v s
  | .fidthrWrite die cl v => Sys2Proof.Machine.execFidthrWrite die cl v s
  | .lfsrseedWrite die cl v => Sys2Proof.Machine.execLfsrseedWrite die cl v s
  | .permitWrite die cl v => Sys2Proof.Machine.execPermitWrite die cl v s
  | .registerWrite dr v => Sys2Proof.Machine.execRegisterWrite dr v s
  | .hostBar2Write pa data => Sys2Proof.Machine.execHostBar2Write pa data s
  | .hostBar2Read pa len => Sys2Proof.Machine.execHostBar2Read pa len s
  | .submit => Sys2Proof.Machine.execSubmit s
  | .abort => Sys2Proof.Machine.execAbort s
  | .region => Sys2Proof.Machine.execRegion s
  | .pubkey => Sys2Proof.Machine.execPubkey s
  | .model => Sys2Proof.Machine.execModel s
  | .attest => Sys2Proof.Machine.execAttest s
  | .contextCreate => Sys2Proof.Machine.execContextCreate s
  | .contextDestroy => Sys2Proof.Machine.execContextDestroy s
  | .pages => Sys2Proof.Machine.execPages s
  | .posmap => Sys2Proof.Machine.execPosmap s
  | .lqcfg => Sys2Proof.Machine.execLqcfg s
  | .assign => Sys2Proof.Machine.execAssign s
  | .assignRelease => Sys2Proof.Machine.execAssignRelease s
  | .unlistedControlFlit die lane flit => Sys2Proof.Machine.execUnlistedControlFlit die lane flit s
  | .trimRailPark die island parked => Sys2Proof.Machine.execTrimRailPark die island parked s

end Sys2Proof.Machine
end

