-- ==== Sys2Proof/Machine/Cycle.lean ====
section
/-! DEFINITION. How the package runs: fetching and issuing (R46, R47, R51, R59, R62, R317, R325), what firmware does with
a stopped strand (R329, R333, R356), and the turns of a cycle (log entry 3). -/

namespace Sys2Proof.Machine

/-! ### Fetching (R46, R47, R103) -/

/-- What a fetch brings: a decoded instruction, or the cause that fails first, with its detail; `uncorr` an uncorrectable
word. -/
inductive Fetched where
  | got (d : Decoded)
  | fails (c : Cause) (detail : Word)
  | uncorr (w : Nat)
deriving DecidableEq, Repr

/-- The slab address of a word of a sequencer's stream; no address of the local window holds one (R46, log entry 98). -/
def State.fetchAddr (s : State) (r : SeqRef) (va : Nat) : Except Cause Nat :=
  if windowBase ≤ va then .error .xlateClass
  else (s.page r.die (s.ctxOf (strandOf r)) va).bind (checkPlace .fetch)

/-- One word of a sequencer's stream: the word, or why there is none. -/
def State.fetchWord (s : State) (r : SeqRef) (va : Nat) : Except Fetched (BitVec 32) :=
  match s.fetchAddr r va with
  | .error c => .error (.fails c (if c = .xlateMiss then BitVec.ofNat 64 (va / 0x200000) else 0))
  | .ok pa =>
    match s.badAt pa 4 with
    | some w => .error (.uncorr w)
    | none => .ok (leWord (s.readMem pa 4))

/-- The words behind the first, as many as its length names; a missing one reads as zero. -/
def State.fetchRest (s : State) (r : SeqRef) (va n : Nat) : Except Fetched (BitVec 32 × BitVec 32) :=
  match n with
  | 0 => .ok (0, 0)
  | 1 => (s.fetchWord r va).map fun w => (w, 0)
  | _ => (s.fetchWord r va).bind fun w1 => (s.fetchWord r (va + 4)).map fun w2 => (w1, w2)

/-- Checks 2 to 5 of R47, which stand before the other words are fetched. -/
def earlyBad : Decoded → Bool
  | .bad .zeroWord => true
  | .bad .lenIllegal => true
  | .bad .majUnassigned => true
  | _ => false

/-- The instruction at a sequencer's program counter, checked in the order of R47. -/
def State.fetch (s : State) (r : SeqRef) : Fetched :=
  let va := (s.seq r).pc.toNat
  match s.fetchWord r va with
  | .error f => f
  | .ok w0 =>
    let first := decodeWords w0 0 0
    if earlyBad first then .got first
    else match s.fetchRest r (va + 4) (lengthOf w0 - 1) with
      | .error f => f
      | .ok (w1, w2) => .got (decodeWords w0 w1 w2)

/-- The correctable words that a fetch reads are written back and counted (R103). -/
def State.fetchReads (s : State) (r : SeqRef) : State :=
  let va := (s.seq r).pc.toNat
  let n := match s.fetchWord r va with
    | .ok w0 => if earlyBad (decodeWords w0 0 0) then 1 else lengthOf w0
    | .error _ => 1
  (List.range n).foldl (fun a k => match a.fetchAddr r (va + 4 * k) with
    | .ok pa => a.corrected pa 4
    | .error _ => a) s

/-- What the executing agent does with a decoded word: a word that is no instruction traps (R47). -/
def State.perform (s : State) (d : Decoded) : Res :=
  match d with
  | .ok i => exec i s
  | .bad c => execNotAnInstruction c s
  | .reserved maj f imm =>
    let a := match s.cur with
      | .seq r => mayExecute maj.toNat f.toNat imm r.cls
      | .hub _ => accessHub maj.toNat
    execNotAnInstruction (match a with
      | .priv => .privileged
      | .wrong => .wrongSequencer
      | .yes => .operandReserved) s

/-- A sequencer executes the instruction at its program counter. -/
def State.runOne (s : State) (r : SeqRef) : Res :=
  let s1 := s.fetchReads r
  match s.fetch r with
  | .got d => { s1 with cur := .seq r }.perform d
  | .fails c detail => { s1 with cur := .seq r }.trapHere c detail
  | .uncorr w => .next (s1.raise r .sramUncorr .a 0 0 (BitVec.ofNat 64 w))

/-! ### Issuing (R59, R62, R317, R325) -/

/-- Whether an instruction is a fixed-latency operation (R60); a VRED of no elements lands nothing. -/
def isFixed (i : Instr) : Bool :=
  let empty := match i with
    | .vrsum _ _ _ _ _ v => v.count == 0
    | .vrmax _ _ _ _ _ v => v.count == 0
    | .vrmin _ _ _ _ _ v => v.count == 0
    | _ => false
  !empty && (replayLanding (wordOf i 0) (modOf i) 0 0 0).isSome

/-- Whether the next instruction of a sequencer would be its ninth fixed-latency operation in flight, even behind the
landings of this step (R62).  The idle steps stand before its further checks and its waits (log entry 99). -/
def State.overfull (s : State) (r : SeqRef) : Bool :=
  decide (8 ≤ ((s.seq r).flights.filter fun f => decide (1 < f.rem)).length) &&
  match s.fetch r with
  | .got (.ok i) => isFixed i
  | _ => false

/-- Whether the clock of a cluster runs in this cycle (R348, R350). -/
def State.clocked (s : State) (r : SeqRef) : Bool := (s.cluster r.die r.cl).clockStop == 0

/-- Whether a sequencer may take a step in this cycle. -/
def State.mayStep (s : State) (r : SeqRef) : Bool :=
  let q := s.seq r
  q.live && s.acts (strandOf r) && s.clocked r && q.stepReady (s.tsc r.die)

/-- Whether a sequencer is eligible, as far as it can be told before its instruction is tried (R317). -/
def State.eligible (s : State) (r : SeqRef) : Bool :=
  let q := s.seq r
  s.mayStep r && !q.ended && q.wait.isNone && q.gap == 0 && !s.overfull r

/-- Under STEP, SINGLE_STEP behind the first instruction, unless it is masked (R324, R325); at an instruction that still holds
its sequencer it comes when the sequencer would issue again. -/
def State.afterIssue (s : State) (r : SeqRef) : State :=
  let q := s.seq r
  if !q.step then s
  else if q.wait.isSome then s.modSeq r fun q => { q with stepDone := true }
  else
    let s1 := s.modSeq r fun q => { q with step := false, stepDone := false }
    if s.masked (strandOf r) .singleStep then s1 else s1.raise r .singleStep .d q.pc 0 0

/-- What a try to issue comes to. -/
inductive Tried where
  | issued (a : Res)
  | waits (s : State)

/-- A sequencer waits: its wait began in the try `u`, which also may have popped WQ (R194); nothing else of the try
remains but its fetch. -/
def State.beginWait (s u : State) (r : SeqRef) : State :=
  let z := u.seq r
  let s1 := match (s.seq r).popped, z.popped with
    | none, some q => ((s.fetchReads r).popQ r q 1).modSeq r fun q' => { q' with popped := some q }
    | _, _ => s.fetchReads r
  s1.modSeq r fun q => { q with wait := z.wait, held := z.held }

/-- The stop that the step from `s` to `u` has brought about at a sequencer's instruction, before it issued. -/
def State.stoppedAt (s u : State) (r : SeqRef) : Option StopInfo :=
  let old := (s.strand (strandOf r)).stop
  match (u.strand (strandOf r)).stop with
  | .stopping i => if old ≠ .stopping i ∧ i.cls = r.cls ∧ (u.seq r).no = (s.seq r).no then some i else none
  | _ => none

/-- A sequencer takes a step and issues, or waits (R59).  A step whose landings overflow a queue ends there; one whose
instruction traps before it issues is not taken (R330). -/
def State.tryIssue (s : State) (r : SeqRef) : Tried :=
  let stepped := (s.seq r).stepDone
  let s := if stepped then s.afterIssue r else s
  if stepped && !s.masked (strandOf r) .singleStep then .issued (.next s)
  else
    let (a, ok) := s.stepFlights r
    if !ok then .issued (.next a)
    else match a.runOne r with
      | .next u =>
        match s.stoppedAt u r with
        | some i => .issued (.next ((s.fetchReads r).raise r i.cause i.point i.tepc 0 i.detail))
        | none =>
          if (u.seq r).no ≠ (s.seq r).no then .issued (.next (u.afterIssue r))
          else match (u.seq r).wait with
            | none => .issued (.next s)
            | some .held => .issued (.next (u.afterIssue r))
            | some _ => .waits (s.beginWait u r)
      | a => .issued a

/-- LAST and RUN of a class. -/
def Cluster.lastOf (c : Cluster) (k : Cls) : Nat := Tbl.get 3 c.last k.code
def Cluster.runOf (c : Cluster) (k : Cls) : Nat := Tbl.get 0 c.run k.code

def State.choose1 (s : State) (r : SeqRef) (run : Nat) : State :=
  s.modCluster r.die r.cl fun c =>
    { c with last := Tbl.put c.last r.cls.code r.slot, run := Tbl.put c.run r.cls.code run }

/-- The slots of a class in the order of R317, with the RUN that each would have. -/
def State.issueOrder (s : State) (die cl : Nat) (k : Cls) : List (Nat × Nat) :=
  let c := s.cluster die cl
  let last := c.lastOf k
  let run := c.runOf k
  let stays := decide (1 ≤ run) && decide (run < 64) && !(s.seq ⟨die, cl, last, k⟩).sw
  (if stays then [(last, run + 1)] else []) ++ (List.range 4).map fun n => ((last + 1 + n) % 4, 1)

/-- Whether an instruction that holds its sequencer has come to its end, or takes something on its way (R57, R59, R88). -/
def State.holdReady (s : State) (r : SeqRef) : Bool :=
  let q := s.seq r
  q.live && s.runs r && s.clocked r && q.wait.any Wait.holds && s.holdDue (.seq r)

/-- A sequencer chosen to issue in this cycle, the RUN that it then has, what it pops, and whether its instruction is of a
family whose operations of one cycle are performed by strand slot, then class: WHL and FDL (R175, R259). -/
structure Pick where
  r : SeqRef
  run : Nat
  pops : List (BitVec 3 × Nat) := []
  bySlot : Bool := false
deriving DecidableEq, Repr

/-- Whether the instruction at a sequencer's program counter is of WHL or FDL. -/
def State.bySlot (s : State) (r : SeqRef) : Bool :=
  match s.fetch r with
  | .got (.ok i) => majOf i == 0x15 || majOf i == 0x50
  | _ => false

/-- The queues of a strand with room for whatever a cycle pushes, and every token that it pops: what a sequencer issues does
not depend on the room that its pushes find. -/
def Strand.roomy (t : Strand) : Strand :=
  let cap (l : Tbl Nat) : Tbl Nat := l.map fun p => (p.1, min p.2 128)
  { t with q := cap t.q, qFree := cap t.qFree }

/-- What a sequencer popped from `d` to `u`. -/
def popsOf (d u : State) (r : SeqRef) : List (BitVec 3 × Nat) :=
  ((List.range 8).map fun n =>
    let q := BitVec.ofNat 3 n
    (q, (d.strand (strandOf r)).free q - (u.strand (strandOf r)).free q)).filter fun p => p.2 != 0

/-- The first slot of the order that can issue is chosen.  `d` is the state that the choices before it would leave; a sequencer
that comes to wait does so in `s` too. -/
def State.pickFrom (s d : State) (die cl : Nat) (k : Cls) : List (Nat × Nat) → State × State × List Pick
  | [] => (s, d, [])
  | (slot, run) :: rest =>
    let r : SeqRef := ⟨die, cl, slot, k⟩
    if !d.eligible r then s.pickFrom d die cl k rest
    else match d.tryIssue r with
      | .issued (.next u) => (s, u, [⟨r, run, popsOf d u r, d.bySlot r⟩])
      | .issued _ => (s, d, [⟨r, run, [], false⟩])
      | .waits u => (s.beginWait u r).pickFrom u die cl k rest

/-- What a cluster issues in a cycle: at most one instruction of each class (R317). -/
def State.picks (s : State) (die cl : Nat) : State × List Pick :=
  let d := (List.range 4).foldl (fun a n => a.modStrand ⟨die, cl, n⟩ Strand.roomy) s
  let (s1, _, ps) := allCls.foldl (fun (a, d, ps) k =>
    let (a1, d1, p) := a.pickFrom d die cl k (a.issueOrder die cl k)
    (a1, d1, ps ++ p)) (s, d, ([] : List Pick))
  (s1, ps)

/-- The turns of a cycle in their order: the instructions chosen, L, C, S, K; behind them WHL and FDL by strand slot, then class,
the FDL instructions that end with the others (R35, R169, R175, R259). -/
def State.inOrder (s : State) (die cl : Nat) (ps : List Pick) : List Turn :=
  let turn (p : Pick) : Turn := .issue p.r p.run
  (ps.filter (!·.bySlot)).map turn ++ (List.range 4).flatMap fun n => allCls.flatMap fun k =>
    let r : SeqRef := ⟨die, cl, n, k⟩
    match ps.find? fun p => p.bySlot && p.r == r with
    | some p => [turn p]
    | none => if (s.seq r).wait == some .matrix && s.holdReady r then [.event (.waitSatisfied (.seq r))] else []

/-- The tokens that an instruction of this cycle pops are taken before any push (R169). -/
def State.takeAhead (s : State) (ps : List Pick) : State :=
  ps.foldl (fun a p => (p.pops.foldl (fun b x => b.modStrand (strandOf p.r) fun t => t.pop x.1 x.2) a).modSeq p.r fun q =>
    { q with pre := p.pops }) s

/-- A token taken ahead is back in its queue, which never holds more than 255 (R57). -/
def Strand.takeBack (t : Strand) (x : BitVec 3 × Nat) : Strand :=
  let n := min x.2 (255 - t.count x.1)
  { t.push x.1 n with qFree := Tbl.set 0 t.qFree x.1.toNat (t.free x.1 + n) }

/-- Tokens taken ahead that an instruction did not pop, because it trapped, are back in their queues. -/
def State.giveBack (s : State) (r : SeqRef) : State :=
  ((s.seq r).pre.foldl (fun a x => a.modStrand (strandOf r) fun t => t.takeBack x) s).modSeq r fun q => { q with pre := [] }

/-- A chosen sequencer tries to issue. -/
def State.tryPick (s : State) (r : SeqRef) : Tried :=
  if s.eligible r then s.tryIssue r else .waits s

/-- The choices with the pops that come about: an instruction that a full queue makes trap pops nothing, and so leaves no room to
the others (R57, R169). -/
def State.settlePicks (s : State) (ps : List Pick) : Nat → List Pick
  | 0 => ps
  | n + 1 =>
    if ps.all (·.pops.isEmpty) then ps
    else
      let t := (ps.filter (!·.bySlot) ++ ps.filter (·.bySlot)).foldl (fun a p => match a.tryPick p.r with
        | .issued (.next u) => u
        | _ => a) (s.takeAhead ps)
      let traps (p : Pick) : Bool := !(t.seq p.r).pre.isEmpty
      if ps.any traps then s.settlePicks (ps.map fun p => if traps p then { p with pops := [] } else p) n else ps

/-- The issue turn of a chosen sequencer (R317). -/
def State.issueTurn (s : State) (r : SeqRef) (run : Nat) : Res :=
  match s.tryPick r with
  | .issued (.next u) => .next ((u.giveBack r).choose1 r run)
  | .issued a => a
  | .waits u => .next (u.giveBack r)

/-- Idle steps: owed by GAP, behind END, or for the ninth operation (R59, R62). -/
def State.dueIdle (s : State) (r : SeqRef) : List Turn :=
  let q := s.seq r
  let idles := (q.wait.isNone && decide (0 < q.gap)) || (q.ended && !q.flights.isEmpty)
    || (!q.ended && q.wait.isNone && s.overfull r)
  if s.mayStep r && idles then [.event (.fixedLatencyLanding (.seq r))] else []

/-- A cluster's turn in a cycle: what it issues, with its pops made first, and the idle steps of its other sequencers; those of
class C in ascending slot order, as they land in the z latches (R169, R219, R317). -/
def State.clusterTurn (s : State) (die cl : Nat) : State :=
  let (s1, ps0) := s.picks die cl
  let ps := s1.settlePicks ps0 4
  let idle (k : Cls) (ns : List Nat) : List Turn := ns.flatMap fun n => s1.dueIdle ⟨die, cl, n, k⟩
  let c := ((ps.find? fun p => p.r.cls == .C).map fun p => p.r.slot).getD 0
  let before := idle .C ((List.range 4).filter fun n => decide (n < c))
  let after := idle .C ((List.range 4).filter fun n => decide (c ≤ n))
  let others := [Cls.L, .S, .K].flatMap fun k => idle k (List.range 4)
  let s2 := s1.takeAhead ps
  { s2 with agenda := before ++ s1.inOrder die cl ps ++ after ++ others ++ s2.agenda }

/-- Whether a waiting sequencer's instruction would no longer wait, or would go on to wait for something else with WQ
popped. -/
def State.waitOver (s : State) (r : SeqRef) : Bool :=
  s.mayStep r && match (s.modSeq r fun q => { q with wait := none }).tryIssue r with
    | .issued _ => true
    | .waits u => (u.seq r).popped != (s.seq r).popped

/-! ### Firmware (R323, R329, R333, R342, R356) -/

/-- A stopped strand's launch ends with a cause: its record is posted, the launch terminated (R329). -/
def State.giveUp (s : State) (die : Nat) (st : StrandRef) (i : StopInfo) : State :=
  let id := (s.strand st).launchId
  (((s.post die (i.record s st)).terminate id i.cause).hubRelease die).endLaunch id

/-- The held strand resumes, or its launch ends where its frame fails (R342). -/
def State.goOn (s : State) (die : Nat) (st : StrandRef) (i : StopInfo) : State :=
  match s.eret die with
  | (s1, 0) => s1
  | (s1, _) => s1.giveUp die st { i with cause := .replayInvalid }

/-- A missing page loaded from the context's list; `none` where the list does not hold it or no entry is free. -/
def State.servePageMiss (s : State) (die : Nat) (ctx : BitVec 4) (vpn : Nat) : Option State :=
  if (tmLookup (s.die die).goodTm ctx vpn).isSome then some s
  else (s.listed ctx vpn).bind fun e =>
    let (s1, w) := s.tld die e none
    if w = notLoaded then none else some s1

/-- A missing token page loaded from the request's list. -/
def State.servePosMiss (s : State) (die : Nat) (ctx : BitVec 4) (req tpg : Nat) : Option State :=
  match Tbl.get? (s.context ctx.toNat).tokens req with
  | none => none
  | some (pa, n) =>
    let a := le64 (s.readMem (pa + 8 * tpg) 8)
    if n ≤ tpg ∨ a = 0 then none
    else
      let v : BitVec 128 := BitVec.ofNat 128
        (req * 2 ^ 108 + tpg * 2 ^ 92 + ctx.toNat * 2 ^ 88 + field a 6 28 * 2 ^ 60 + 2 ^ 59)
      let (s1, w) := s.pmld die v none
      if w = notLoaded then none else some s1

/-- Whether a strand of the team is still to stop (R326, R333). -/
def State.teamStopping (s : State) (st : StrandRef) : Bool :=
  (s.team? st).any fun t => t.strands.any fun x =>
    match (s.strand x).stop with
    | .running => (s.strand x).preempt
    | .stopping _ => true
    | .stopped _ => false

/-- Firmware reschedules a pre-empted team that has stopped whole: no strand of it is to stop any more (R329, R333). -/
def State.rescheduled (s : State) (st : StrandRef) : State :=
  (((s.team? st).map (·.strands)).getD []).foldl (fun a x => a.modStrand x fun t => { t with preempt := false }) s

/-- Firmware of a die with the strand that its hub handles. -/
def State.serveTrap (s : State) (die : Nat) (st : StrandRef) (i : StopInfo) : State :=
  let id := (s.strand st).launchId
  let ctx := s.ctxOf st
  if (s.launch? id).any (·.ending.isSome) then (s.hubRelease die).endLaunch id
  else match i.cause with
    | .xlateMiss =>
      match s.servePageMiss die ctx i.detail.toNat with
      | some s1 => s1.goOn die st i
      | none => s.giveUp die st i
    | .posmapMiss =>
      match s.servePosMiss die ctx (i.detail.toNat / 65536) (i.detail.toNat % 65536) with
      | some s1 => s1.goOn die st i
      | none => s.giveUp die st i
    | .preempt => if s.teamStopping st then s else (s.rescheduled st).goOn die st i
    | .breakpoint => if s.mailbox.debugger then s.goOn die st i else s.giveUp die st i
    | .singleStep => if s.mailbox.debugger then s.goOn die st i else s.giveUp die st i
    | _ => s.giveUp die st i

/-- A hub runs firmware of its own, in place of an instruction stream (log entry 6). -/
def State.firmware (s : State) (die : Nat) : State :=
  let s1 := s.loadTrap die
  match (s1.die die).hub.held with
  | none => s1
  | some st =>
    match (s1.strand st).stop with
    | .stopped i => s1.serveTrap die st i
    | _ => s1.hubRelease die

/-- The instruction at a hub's program counter, a physical address (R101). -/
def State.hubFetch (s : State) (die : Nat) : Decoded := decodeBytes (s.readMem (s.seqAt (hubKey die)).pc.toNat 12)

/-- The bytes that a hub's fetch reads. -/
def State.hubSize (s : State) (die : Nat) : Nat := 4 * lengthOf (leWord (s.readMem (s.seqAt (hubKey die)).pc.toNat 4))

/-- A hub fetches: outside the slab there is nothing to fetch (R101); a word that cannot be corrected is reported and ends its
stream (R103, log entry 6); else it executes what it has fetched. -/
def State.hubRun (s : State) (die : Nat) : Res :=
  let pc := (s.seqAt (hubKey die)).pc.toNat
  if slabSize < pc + 4 ∨ slabSize < pc + s.hubSize die then .fault (.hubAddress die pc)
  else match s.badAt pc (s.hubSize die) with
    | some w => .next ((s.modSeqAt (hubKey die) fun q => { q with live := false }).post die
        { cause := .sramUncorr, detail := BitVec.ofNat 64 w })
    | none => { ((s.corrected pc (s.hubSize die)).modSeqAt (hubKey die) fun q => { q with wait := none }) with
        cur := .hub die }.perform (s.hubFetch die)

/-- The turn of a hub: an idle step of its gap, the instruction that holds it, an instruction of its stream, or firmware
(R51). -/
def State.hubTurn (s : State) (die : Nat) : Res :=
  let q := s.seqAt (hubKey die)
  if !q.live then .next (s.firmware die)
  else if q.wait.any Wait.holds then .next (s.holdEnd (.hub die))
  else if q.ended then .next s
  else if q.gap ≠ 0 then .next (s.modSeqAt (hubKey die) fun q => { q with gap := q.gap - 1 })
  else s.hubRun die

/-! ### What is due in a cycle -/

/-- The sequencers that live. -/
def State.liveSeqs (s : State) : List SeqRef :=
  s.seqs.filterMap fun p => if p.1 < 16384 && p.2.live then some (refOfKey p.1) else none

def State.strandRefs (s : State) : List StrandRef := s.strands.map fun p => ⟨p.1 / 256, p.1 / 4 % 64, p.1 % 4⟩

/-- Stops that go on: pre-empted strands, and stopping ones that may have settled (R326, R333). -/
def State.dueStops (s : State) : List Instr :=
  s.strandRefs.filterMap fun st =>
    let t := s.strand st
    match t.stop with
    | .running => if t.preempt then some (.strandStop st .preempt) else if s.starved st then some (.watchdog st) else none
    | .stopping i => some (.strandStop st i.cause)
    | .stopped _ => none

/-- The unit that the head of a matrix queue is ready for. -/
def matrixUnits (g : Agent) (i : Instr) : List Instr :=
  match i with
  | .mma .. => [.mmaUnit g]
  | .mmak .. => [.mmaUnit g]
  | .aclr .. => [.aclrUnit g]
  | .adrn .. => [.drainUnit g]
  | _ => [.attentionPerform g]

/-- One unit of each engine for a sequencer with work (R141, R199, R225, R282). -/
def State.dueUnits (s : State) (r : SeqRef) : List Instr :=
  let q := s.seq r
  let g := Agent.seq r
  let lds := if q.lds.isEmpty then [] else [.ldsComplete g]
  let copy := match q.copyQ.head? with
    | some c => if c.ins matches .cpyr .. then [.cpyrAdd g] else [.copyUnit g]
    | none => []
  let coll := if q.collQ.isEmpty || (q.copyQ.head?.any fun c => c.ins matches .cpyr ..) then [] else [.cpyrAdd g]
  let vec := if q.vecQ.isEmpty then [] else [.vectorUnit g]
  let mat := match q.matQ.head? with
    | some c => matrixUnits g c.ins
    | none => []
  let land := if q.landQ.isEmpty then [] else [.landTile g]
  let aat := match q.held with
    | some c => if q.wait == some .held && (atomicOf c.ins).isSome then [.aatPerformed g] else []
    | none => []
  if s.runs r && s.clocked r then lds ++ copy ++ coll ++ vec ++ mat ++ land ++ aat
  else match (s.strand (strandOf r)).stop with
    | .stopping _ => aat
    | _ => []

/-- The events of an MMAK at the head of its queue, which no stopped clock delays (R232, R350). -/
def State.dueKeyed (s : State) (r : SeqRef) : List Instr :=
  match (s.seq r).matQ.head? with
  | some c => if c.ins matches .mmak .. then [.mmakTargetChoice (.seq r), .mmakStartTime (.seq r)] else []
  | none => []

/-- Whether a waiting sequencer's deadline has come. -/
def State.timedOut (s : State) (r : SeqRef) : Bool :=
  (s.seq r).wait.isSome && (s.seq r).held.any fun c => c.head.any fun d => decide (d ≤ s.tsc r.die)

/-- Satisfied waits of instructions that have not issued (R59). -/
def State.dueWaits (s : State) (r : SeqRef) : List Instr :=
  match (s.seq r).wait with
  | some w => if !w.holds && w != .held && s.waitOver r then [.waitSatisfied (.seq r)] else []
  | none => []

/-- Instructions that hold their sequencer and have come to their end, or that take an arrival (R57, R59, R88). -/
def State.dueHolds (s : State) (r : SeqRef) : List Instr :=
  if (s.seq r).wait != some .matrix && s.holdReady r then [.waitSatisfied (.seq r)] else []

/-- Timeouts of waits (R88, R291). -/
def State.dueLate (s : State) (r : SeqRef) : List Instr :=
  if !s.timedOut r then []
  else match (s.seq r).wait with
    | some (.arrival _) => [.wtagTimeout (.seq r)]
    | some (.counter _) => [.cwaitTimeout (.seq r)]
    | _ => []

/-- Tuple requests that wait for time to pass (R135, R136). -/
def State.dueTuples (s : State) (r : SeqRef) : List Instr :=
  (s.seq r).tup.filterMap fun o =>
    if o.done.isNone && o.resendAt.any fun t => decide (t ≤ s.tsc r.die) then some (.tupleResend o.req)
    else if o.overdue (s.tsc r.die) then some (.tupleRemoteTimeout o.req)
    else none

/-- Service and expiry at the home slices (R127, R130). -/
def State.dueSlices (s : State) : List Instr :=
  s.dies.flatMap fun (d, v) => v.slices.flatMap fun (k, sl) =>
    let expire := if sl.parked.any fun p => p.deadline.any fun t => decide (t ≤ v.tsc) then [.tupleParkExpire d k] else []
    expire ++ match sl.queue with
      | [] => []
      | q :: _ =>
        if q.kind = 0 then [.tupleDepositService d k]
        else if q.kind = 3 then [.tupleCancelService d k] else [.tupleTakeService d k]

/-- Work entries that can fire or go on (R276). -/
def State.dueEntries (s : State) : List Instr :=
  s.dies.flatMap fun (d, v) => v.qps.flatMap fun (k, q) =>
    let fire := (q.entries.find? fun w => !w.fired).any (·.armed)
    (if fire then [.workEntryFire d k] else []) ++ if q.entries.any (·.fired) then [.workEntryComplete d k] else []

/-- Whether the round of a range has run out (R284). -/
def Range.out (g : Range) (now : Nat) : Bool :=
  g.v && g.tmo != 0 && !g.tmd && (g.expired || g.started.any fun t => decide (t + 4096 * g.tmo.toNat ≤ now))

def State.dueRanges (s : State) : List Instr :=
  let of (m : RMem) (t : Tbl Range) : List Instr :=
    t.filterMap fun p => if p.2.out (s.tsc m.die) then some (.roundTimeout (m.ref p.1)) else none
  (s.clusters.flatMap fun (k, c) => of (.acc (k / 64) (k % 64)) c.ranges) ++ s.dies.flatMap fun (k, d) => of (.stg k) d.ranges

/-- Remote units whose time is over, here and at the sender (R271). -/
def State.dueRemote (s : State) : List Instr :=
  let now (die : Nat) : Nat := windowOf (s.tsc die)
  let here := (List.range 8).flatMap fun die => (List.range 32).flatMap fun mid =>
    (s.link (.data die) mid).expect.filterMap fun e => match e with
      | .write d w =>
        if w.window + 2 ≤ now die && !s.refused.contains (mid, w.req) then some (.remoteUnitDeadline d w.req) else none
      | .read _ _ _ => none
      | .refused _ _ => none
  let mine := s.seqs.flatMap fun p =>
    let t := now (refOfKey p.1).die
    ((p.2.collQ.filter (Cmd.old t)) ++ p.2.held.toList.filter fun c => c.remote.old t).map fun c => .remoteUnitUnreached c.req
  let entries := s.dies.flatMap fun (d, v) => v.qps.flatMap fun (_, q) => q.entries.filterMap fun w =>
    if w.remote.old (now d) then some (.remoteUnitUnreached w.req) else none
  here ++ mine ++ entries

/-- Stripes that may begin, dwell limits, stand-ins (R78, R83, R373). -/
def State.dueChain (s : State) : List Instr :=
  let send := s.dies.filterMap fun (d, v) =>
    let f : Frame := Tbl.get {} v.frames v.nextSend
    let ready := (v.fwd.any fun j => j.lastSeq.isNone) || (decide (0 < f.got) && !f.sending)
    if 0 < v.credits && ready then some (.stripeSendStart d) else none
  let dwell := (List.range 8).flatMap fun n =>
    match s.chain.fslot n with
    | none => []
    | some k =>
      let limit := ((s.cadence? k.tag).map fun e => e.dwell.toNat).getD 0
      s.dies.filterMap fun (d, v) =>
        let arr := (Tbl.get? v.lastArr k.tag.toNat).filter fun a => a.1 == k.rot
        if !k.expired.contains d && arr.any fun a => decide (a.2 + limit ≤ v.tsc) then some (.dwellExpire d n) else none
  let lost := s.chain.cadence.filterMap fun e => if e.valid && e.lost then some (.lostStandin e.tag) else none
  send ++ dwell ++ lost

/-- Lanes whose training, retuning or decay is due (R260, R267), and a successor that has not acknowledged for two
windows (R97). -/
def State.dueLanes (s : State) : List Instr :=
  let lanes := s.dies.flatMap fun (d, v) => v.lanes.flatMap fun (n, l) =>
    (if l.trn && decide (l.busy ≤ v.tsc) then [.laneTrainDone d n] else [])
      ++ (if l.retune && decide (l.tuned ≤ v.tsc) then [.laneRetuneDone d n] else [])
      ++ if decide (0 < l.bkt) && decide (l.bktAt + bktCycles ≤ v.tsc) then [.bktDecay d n] else []
  let old (f : SentFlit) : Bool := decide (f.window + 2 ≤ s.window)
  let silent (mid : Nat) : Bool := s.dies.any fun (d, v) =>
    (v.lanes.any fun (_, l) => l.use == 1 && l.unacked.any old) || (s.link (.chain d) mid).pending.any old
  let dead := match s.chain.successor with
    | some mid => if silent mid && !s.chain.member.dead.contains mid then [.memberLost mid] else []
    | none => []
  lanes ++ dead

/-- Passes, ageing and retirement (R309, R310, R318). -/
def State.dueLaunches (s : State) : List Instr :=
  let now := s.tsc 0
  let pass := if (s.die 0).crossed 64 then [.launchPass] else []
  let age := s.sched.queues.filterMap fun (n, q) =>
    let period := field q.cfg 48 16 * 600
    match q.readySince with
    | some t => if period ≠ 0 ∧ period ≤ q.aged + (now - t) then some (.queueAgeing n) else none
    | none => none
  let done := s.sched.teams.filterMap fun (k, t) => if s.teamEnded t then some (.teamRetire k) else none
  age ++ pass ++ done

/-- What a cluster has due: its permits, its rails. -/
def State.dueClusters (s : State) : List Instr :=
  s.clusters.flatMap fun (k, c) =>
    let d := k / 64
    let n := k % 64
    (if c.clockStop == 0 && s.ccnt d n % 64 == 0 && c.refilled != s.ccnt d n then [.permitRefill d n] else [])
      ++ if c.switching == 1 then [.fidRailSwitchDone d n] else []

/-- The place of a slab word among the words of its slice, 2^22 of them (R103). -/
def scrubIndex (w : Nat) : Nat := w % 0x80000000 / 16384 * 32 + w % 256 / 8

/-- The patrol scrubber of each slice reads its words in ascending order, one in 1,024 cycles (R103, log entry 97); a word that is
sound is read without effect. -/
def State.dueScrubs (s : State) : List Turn :=
  (s.weak ++ s.bad).eraseDups.filterMap fun w =>
    let d := s.die (w / 0x80000000)
    if d.crossed 1024 && scrubIndex w == d.tsc / 1024 % 2 ^ 22 then some (.scrub w) else none

/-- A mailbox command that is served over many cycles (R355, R356). -/
def State.dueMail (s : State) : List Instr :=
  if s.serving 0x02 then [.abort] else if s.serving 0x07 && s.request 1 1 == 1 then [.contextDestroy] else []

/-- The clusters in which a sequencer lives. -/
def State.issueTurns (s : State) : List Turn :=
  (s.liveSeqs.map fun r => clKey r.die r.cl).eraseDups.map fun k => .cluster (k / 64) (k % 64)

/-- The hubs that have something to do. -/
def State.hubTurns (s : State) : List Turn :=
  (List.range 8).filterMap fun d =>
    let h := (s.die d).hub
    if (s.seqAt (hubKey d)).live || h.held.isSome || !h.trapQ.isEmpty then some (.hub d) else none

/-- The turns of a cycle: what must stand before instructions issue, their issue with its pops and pushes, then
instructions that end and completions (R169, log entry 3). -/
def State.turns (s : State) : List Turn :=
  let seqs := s.liveSeqs
  let first := (if (List.range 8).any fun d => (s.die d).crossed 4096 then [.windowBoundary] else []) ++ s.dueClusters ++ s.dueStops ++ seqs.flatMap s.dueWaits
  let last := seqs.flatMap s.dueHolds ++ seqs.flatMap s.dueLate ++ seqs.flatMap s.dueKeyed ++ seqs.flatMap s.dueUnits
    ++ s.dueSlices ++ seqs.flatMap s.dueTuples ++ s.dueEntries ++ s.dueRanges ++ s.dueRemote ++ s.dueChain ++ s.dueLanes
    ++ s.dueLaunches ++ s.dueMail
  first.map Turn.event ++ s.issueTurns ++ last.map Turn.event ++ s.dueScrubs ++ s.hubTurns

/-! ### A new cycle -/

/-- A cluster when a cycle has ended: its wheels as they stand, a clock that stood still for one cycle less, by a droop counted in
its window, a rail switch that goes on (R175, R348, R350). -/
def Cluster.tick (c : Cluster) : Cluster :=
  { c with
    wheels0 := c.wheels
    lag := if c.clockStop = 0 then c.lag else c.lag + 1
    clockStop := c.clockStop - 1
    droop := c.droop - 1
    droopLost := if c.clockStop = 0 ∨ c.droop = 0 then c.droopLost else c.droopLost + 1
    switching := if 1 < c.switching then c.switching - 1 else c.switching }

/-- A die when a cycle begins: TSC goes on, by more counts where it was steered since the last cycle (R270). -/
def Die.tick (d : Die) : Die :=
  { d with tsc := d.tsc + 1, span := max 1 (d.tsc + 1 - d.looked), looked := d.tsc + 1 }

/-- A new cycle: time goes on, tokens of the last cycle are there, commands to other members and contributions go on as
far as they can, and the turns of the cycle are set (log entry 3). -/
def State.tick (s : State) : State :=
  let s1 : State := { s with
    cycles := s.cycles + 1
    clusters := s.clusters.map fun p => (p.1, p.2.tick)
    strands := s.strands.map fun p => (p.1, { p.2 with qStart := p.2.q, qFree := p.2.q }) }
  let s2 := (List.range 8).foldl (fun a d => a.modDie d Die.tick) s1
  let s3 := (s2.liveSeqs.foldl State.pumpSeq s2).grantAll
  let s4 := (List.range 8).foldl (fun a d => a.release d) s3
  let s5 := (s4.sched.queues.map (·.1)).foldl State.noteReady s4
  { s5 with agenda := s5.turns }

/-! ### One step -/

/-- The events that come from outside the package: the host, other members, the power manager, faults of the physical
world (log entry 4). -/
def external : Instr → Bool
  | .preemptRequest .. => true
  | .dataFlit .. => true
  | .ack .. => true
  | .nak .. => true
  | .train .. => true
  | .laneLos .. => true
  | .lightReturn .. => true
  | .sync .. => true
  | .follow .. => true
  | .dreq .. => true
  | .drsp .. => true
  | .seghdr .. => true
  | .freefr .. => true
  | .propose .. => true
  | .accept .. => true
  | .reject .. => true
  | .commit .. => true
  | .tspreq .. => true
  | .tsprsp .. => true
  | .wrhdr .. => true
  | .wrack .. => true
  | .wrnack .. => true
  | .rdreq .. => true
  | .redhdr .. => true
  | .redgo .. => true
  | .cntadd .. => true
  | .unlistedControlFlit .. => true
  | .droopDetect .. => true
  | .thermalLimit .. => true
  | .thermalRecover .. => true
  | .logicRailSwitch .. => true
  | .trimRailPark .. => true
  | .coldReset => true
  | .finjWrite .. => true
  | .fidthrWrite .. => true
  | .lfsrseedWrite .. => true
  | .permitWrite .. => true
  | .registerWrite .. => true
  | .hostBar2Write .. => true
  | .hostBar2Read .. => true
  | .strandStop _ c => c == .hostAbort
  | _ => false

/-- One turn. -/
def State.turn (s : State) (t : Turn) : Res :=
  match t with
  | .event i => exec i s
  | .cluster d c => .next (s.clusterTurn d c)
  | .issue r run => s.issueTurn r run
  | .hub d => s.hubTurn d
  | .scrub pa => execScrubRead pa s

/-- What the package does next: it boots; it takes what comes from outside, before anything of its own; it takes the
next turn of its cycle, or begins a new one. -/
def State.advanceOne (s : State) : Res :=
  if s.mailbox.boot = .cold then .next s.boot
  else match s.inputs with
    | i :: rest => if external i then exec i { s with inputs := rest } else .next { s with inputs := rest }
    | [] =>
      match s.agenda with
      | t :: rest => { s with agenda := rest }.turn t
      | [] => .next s.tick

end Sys2Proof.Machine
end

