-- ==== Sys2Proof/Machine/Step.lean ====
section
/-! DEFINITION. One step of the package, and the placing of one instruction where the next step fetches it. -/

namespace Sys2Proof.Machine

/-- ONE STEP (log entries 3 and 12). -/
def step (s : State) : Host.Outcome State Fault Refusal := s.advanceOne

/-- The agent that R50 lets execute the instruction of a word: a sequencer class, or the hub. -/
def agentClass (bs : List Byte) : Option Cls :=
  match decodeBytes bs with
  | .ok i => [Cls.K, .C, .L, .S].find? fun c => mayExecute (majOf i) (minOf i) (immOf i) c == .yes
  | _ => some .K

/-- The header of the launch that `withFetchWord` places: one strand with every queue bound to the one class, the whole
scratchpad, every TID entry and wheel, and the attention pipe. -/
def probeHeader (c : Cls) : List Byte :=
  natBytes 2 1 ++ natBytes 1 0 ++ natBytes 1 1 ++ zeros 7 ++ natBytes 1 6 ++ natBytes 2 256 ++ natBytes 2 0xFFFF
    ++ List.replicate 8 (BitVec.ofNat 8 (128 + 5 * c.code)) ++ zeros 8 ++ natBytes 4 0x200000 ++ natBytes 4 1 ++ zeros 152

/-- The team of that launch, in slot 0 of cluster 0 of die 0. -/
def probeTeam : Team :=
  { launch := 1, index := 0, die := 0, cl := 0, slots := [0], ctx := 0, spadBase := 0, spb := 0x200000, tidBase := 0,
    ntid := 256, wheels := (List.range 16).map fun n => (n, n), pipe := true, started := true }

/-- The state with an instruction at slab address 0 and its agent about to fetch it there: the hub of die 0, or a
sequencer of a team placed and started, whose page 0 leads to the slab's first page; the next turn is that agent's. -/
def State.withFetchWord (s : State) (nbits w : Nat) : State :=
  let bs := tableBytes nbits w
  let s1 := ({ s with inputs := [] }.modMail fun m => { m with boot := .running }).writeMem 0 bs
  match agentClass bs with
  | none => { s1.setSeqAt (hubKey 0) { live := true } with agenda := [.hub 0] }
  | some c =>
    let r : SeqRef := ⟨0, 0, 0, c⟩
    let launch : Launch :=
      { ctx := 0, queue := 0, hdr := probeHeader c, dispatched := true, nteams := 1, placed := 1, resident := true }
    let s2 := s1.modSched fun x =>
      { x with launches := Tbl.put x.launches 1 launch, teams := Tbl.put x.teams 1 probeTeam, nextTeam := 2, nextId := 2 }
    let s3 := s2.setStrandAt 0 { team := 1, launchId := 1 }
    let s4 := s3.modDie 0 fun d => { d with tm := Tbl.set 0 d.tm 0 0x1D000#64 }
    { s4.setSeqAt (seqKey r) { live := true } with agenda := [.issue r 1] }

end Sys2Proof.Machine
end

