-- ==== Sys2Proof/Safety.lean ====
section
/-! DEFINITION. The terms in which the statements speak of the machine: what a safe state is, when an agent may issue,
the state in which an instruction has issued, and what two states have in common. -/

namespace Sys2Proof

open Sys2Proof.Machine

/-- Memory is in canonical form (what every memory operation keeps). -/
def Safe (s : State) : Prop := Memory.wf s.mem = true

namespace Machine

/-! ### When an instruction issues (R47, R50 to R52, R57, R58, R64) -/

/-- The majors that a team without PIPE may not execute (R52). -/
def needsPipe (i : Instr) : Bool := majOf i == 0x36 || majOf i == 0x3B || majOf i == 0x42

/-- Sequencer `r` executes `i` of header `h`, and nothing keeps it from issuing: its strand runs, `i` is well formed, R50
lets the class execute it, the team has the pipe if `i` needs it, the header binds the queues of its clauses as R58
asks, a token is there for WQ (or has been popped already), and a permit of class `k` is there. -/
def State.mayIssue (s : State) (r : SeqRef) (i : Instr) (h : Hdr) (k : Option Permit) : Bool :=
  decide (s.cur = .seq r) && decide ((s.strand (strandOf r)).stop = .running) && i.wf
    && mayExecute (majOf i) (minOf i) (immOf i) r.cls == .yes
    && (!needsPipe i || (s.team? (strandOf r)).any (·.pipe))
    && h.wq.all (fun q => s.isConsumer r q
        && ((s.seq r).popped.isSome || decide (0 < s.tokens r q)))
    && h.pq.all (fun q => s.isProducer r q)
    && k.all (fun c => decide (0 < (s.cluster r.die r.cl).held c))

/-- Room for one more fixed-latency operation (R62). -/
def State.roomInFlight (s : State) (r : SeqRef) : Bool := decide ((s.seq r).flights.length < 8)

/-- The hub of die `d` executes `i`, and nothing keeps it from issuing: R50 lets a hub execute it, it is well formed and
names no token queue (R51). -/
def State.hubMay (s : State) (d : Nat) (i : Instr) (h : Hdr) : Bool :=
  decide (s.cur = .hub d) && accessHub (majOf i) == .yes && i.wf && h.wq.isNone && h.pq.isNone

/-- The state in which an instruction of sequencer `r` has issued, before its own effect: WQ popped, a permit taken, the
program counter past it. -/
def State.issued (s : State) (r : SeqRef) (h : Hdr) (k : Option Permit) : State :=
  State.advance
    (match k with
     | some c => (s.popWq r h).modCluster r.die r.cl fun v => v.takePermit c
     | none => s.popWq r h) h

/-! ### Fixed-latency operations (R60, R61) -/

/-- A fixed-latency operation in flight on a sequencer, behind those already there. -/
def State.inFlight (s : State) (r : SeqRef) (f : Flight) : State :=
  s.modSeq r fun q => { q with flights := q.flights ++ [f] }

/-- A strand that begins to stop for a cause (R326). -/
def State.stopsFor (s : State) (st : StrandRef) (i : StopInfo) : State :=
  s.modStrand st fun t => { t with stop := .stopping i }

/-- An event record of a cause with a number as its detail (R336). -/
def eventOf (c : Cause) (n : Nat) : EvRec := { cause := c, detail := BitVec.ofNat 64 n }

/-- A result written at once, as a hub, which interlocks its results, sees it (R51). -/
def State.resultNow (s : State) (dest : Dest) (v : Word) : State :=
  match dest with
  | .x d => s.modMe fun q => q.setX d v
  | .p d => s.modMe fun q => q.setP d (v != 0)
  | .b d => s.modMe fun q => q.setB d ⟨v.setWidth 48, true⟩
  | _ => s

/-- Where `ok` holds, `i` puts a fixed-latency operation of sequencer `r` in flight that lands `v s` in `dest` after `lat`
steps. -/
def LandsOnSeq (i : Instr) (h : Hdr) (k : Option Permit) (dest : Dest) (lat : Nat) (ok : State → SeqRef → Bool)
    (v : State → SeqRef → Word) (op : LandOp := .set) : Prop :=
  ∀ (s : State) (r : SeqRef), s.mayIssue r i h k = true → s.roomInFlight r = true → ok s r = true →
    ∃ o1 o2 o3, exec i s = .next ((s.issued r h k).inFlight r
      ⟨(s.seq r).pc, wordOf i 0, modOf i, lat, o1, o2, o3, dest, op, v s r, 0, h.pq, (s.seq r).no + 1⟩)

/-- The same on a hub: the result is there at once. -/
def LandsOnHub (i : Instr) (h : Hdr) (dest : Dest) (ok : State → Bool) (v : State → Word) : Prop :=
  ∀ (s : State) (d : Nat), s.hubMay d i h = true → ok s = true →
    exec i s = .next ((s.advance h).resultNow dest (v s))

/-- A fixed-latency instruction that a sequencer and a hub may execute and that no operand makes trap. -/
def Lands (i : Instr) (h : Hdr) (k : Option Permit) (dest : Dest) (lat : Nat) (v : State → Word) : Prop :=
  LandsOnSeq i h k dest lat (fun _ _ => true) (fun s _ => v s) ∧ LandsOnHub i h dest (fun _ => true) v

/-- Where `ok` holds, `i` issues on a sequencer and its effect, from the issued state, is `act`; its token comes later, at
its completion (R57). -/
def IssuesOnSeq (i : Instr) (h : Hdr) (k : Option Permit) (ok : State → SeqRef → Prop)
    (act : State → SeqRef → State → State) : Prop :=
  ∀ (s : State) (r : SeqRef), s.mayIssue r i h k = true → ok s r → exec i s = .next (act s r (s.issued r h k))

/-- Where `ok` holds, `i` does not issue but waits for `w`; nothing else changes, and its WQ is not popped. -/
def WaitsOnSeq (i : Instr) (h : Hdr) (k : Option Permit) (w : Wait) (ok : State → SeqRef → Prop) : Prop :=
  ∀ (s : State) (r : SeqRef), s.mayIssue r i h k = true → ok s r → exec i s = .next (s.waits r i w)

/-- What is kept of an instruction that has issued and holds its agent: its two operands, its deadline. -/
def State.heldOf (s : State) (g : Agent) (i : Instr) (xa xb : Word) (deadline : Option Nat) : Cmd :=
  { ins := i, seqNo := 0, addr := (s.seqAt (agentKey g)).pc, xd := 0, xa := xa, xb := xb, head := deadline,
    no := (s.seqAt (agentKey g)).no + 1 }

/-- An agent held by `w` in the instruction `c`. -/
def State.heldBy (s : State) (g : Agent) (w : Wait) (c : Cmd) : State :=
  s.modSeqAt (agentKey g) fun q => { q with wait := some w, held := some c }

/-- Where `ok` holds, `i` issues on a sequencer and holds it by `w`, with the operands and the deadline of `kept`; `act` is what
it does before that (R57, R59). -/
def HoldsOnSeq (i : Instr) (h : Hdr) (k : Option Permit) (w : State → SeqRef → Wait)
    (kept : State → SeqRef → Word × Word × Option Nat) (ok : State → SeqRef → Prop)
    (act : State → SeqRef → State → State := fun _ _ u => u) : Prop :=
  ∀ (s : State) (r : SeqRef), s.mayIssue r i h k = true → ok s r →
    exec i s = .next ((act s r (s.issued r h k)).heldBy (.seq r) (w s r)
      (s.heldOf (.seq r) i (kept s r).1 (kept s r).2.1 (kept s r).2.2))

/-- The register of an instruction written as it ends: a result of a later instruction that came in the same cycle stays
(R63). -/
def State.putOn (s : State) (r : SeqRef) (d : Reg) (v : Word) (no : Nat) : State :=
  s.modSeq r fun q => q.putX d v no s.cycles

/-- The executing sequencer acquires what others have released (R171, R297). -/
def State.acquires (s : State) (r : SeqRef) : State := s.modSeq r fun q => { q with acq := s.tsc r.die }

/-- Where `ok` holds, `i` issues on a sequencer and its effect, from the issued state, is `act`; its token is pushed in the
same step (R57). -/
def DoesOnSeq (i : Instr) (h : Hdr) (k : Option Permit) (ok : State → SeqRef → Prop)
    (act : State → SeqRef → State → State) : Prop :=
  ∀ (s : State) (r : SeqRef), s.mayIssue r i h k = true → ok s r →
    exec i s = .next ((act s r (s.issued r h k)).finishAt h (s.seq r).pc)

/-- The same on a hub, which has no token to push. -/
def DoesOnHub (i : Instr) (h : Hdr) (ok : State → Nat → Prop) (act : State → Nat → State → State) : Prop :=
  ∀ (s : State) (d : Nat), s.hubMay d i h = true → ok s d → exec i s = .next (act s d (s.advance h))

/-- Where `ok` holds, `i` does not issue: it raises `c` at point I with the program counter at it, and nothing else
changes. -/
def TrapsOnSeq (i : Instr) (h : Hdr) (k : Option Permit) (c : Cause) (ok : State → SeqRef → Prop) : Prop :=
  ∀ (s : State) (r : SeqRef), s.mayIssue r i h k = true → s.roomInFlight r = true → ok s r →
    exec i s = .next (s.raise r c .i (s.seq r).pc 0 0)

/-! ### Engine commands (R35, R141, R199, R225) -/

/-- `n` LFSR words reserved on the cluster of a sequencer (R35). -/
def State.reserved (s : State) (r : SeqRef) (n : Nat) : State :=
  if n = 0 then s else s.modCluster r.die r.cl fun c => { c with lfsr := lfsrWords c.lfsr n }

/-- A command behind those already in a queue of a sequencer. -/
def State.queued (s : State) (r : SeqRef) (e : Engine) (c : Cmd) : State :=
  ({ s with nextCmd := s.nextCmd + 1 } : State).modSeq r fun q => q.setQueue e (q.queue e ++ [c])

/-- Where `ok` holds and the queue of engine `e` holds fewer than `limit` commands, `i` issues: it reserves `n` LFSR words
and puts a command with the three registers and the TID entries `tids` behind the queue. -/
def QueuesOnSeq (i : Instr) (h : Hdr) (k : Option Permit) (e : Engine) (limit : Nat) (ok : State → SeqRef → Prop)
    (regs : State → Word × Word × Word) (tids : List (BitVec 512)) (n : Nat) : Prop :=
  ∀ (s : State) (r : SeqRef), s.mayIssue r i h k = true → ((s.seq r).queue e).length < limit → ok s r →
    exec i s = .next (((s.issued r h k).reserved r n).queued r e
      { ins := i, seqNo := s.nextCmd, addr := (s.seq r).pc, xd := (regs s).1, xa := (regs s).2.1, xb := (regs s).2.2,
        tids := tids, lfsr := if n = 0 then 0 else (s.cluster r.die r.cl).lfsr, fid := (s.strand (strandOf r)).fid,
        since := ((s.issued r h k).seq r).fresh, no := (s.seq r).no + 1 })

/-- X[D], X[A], X[B]. -/
def regs3 (d a b : Reg) (s : State) : Word × Word × Word := (s.X d, s.X a, s.X b)

/-- The vector instructions that queue a command, with the registers D, A and B of each (R199). -/
def vectorInstrs (h : Hdr) (f g : Fmt) (rm : RMode) (sat sr : Bool) (moff : BitVec 15) (tid : BitVec 8) (d a b : Reg)
    (v : VecLit) (u : VecLit2) (w : VecLitA) (y : VecLitD) : List (Instr × Reg × Reg × Reg) :=
  [(.vadd h f rm sat d a b v, d, a, b), (.vsub h f rm sat d a b v, d, a, b), (.vmul h f rm sat d a b v, d, a, b),
   (.vmin h f rm sat d a b v, d, a, b), (.vmax h f rm sat d a b v, d, a, b), (.vand h f rm sat d a b v, d, a, b),
   (.vor h f rm sat d a b v, d, a, b), (.vxor h f rm sat d a b v, d, a, b), (.vshl h f rm sat d a b v, d, a, b),
   (.vshr h f rm sat d a b v, d, a, b), (.vfma h f rm sat d a b v, d, a, b), (.vfms h f rm sat d a b v, d, a, b),
   (.vabs h f rm sat d a u, d, a, 0), (.vneg h f rm sat d a u, d, a, 0), (.vcvt h f g rm sat sr d a u, d, a, 0),
   (.vmov h f d a u, d, a, 0), (.vexp2 h f rm sat d a u, d, a, 0), (.vlog2 h f rm sat d a u, d, a, 0),
   (.vrcp h f rm sat d a u, d, a, 0), (.vrsq h f rm sat d a u, d, a, 0), (.vtanh h f rm sat d a u, d, a, 0),
   (.vsilu h f rm sat d a u, d, a, 0), (.vceq h f d a b v, d, a, b), (.vclt h f d a b v, d, a, b),
   (.vcle h f d a b v, d, a, b), (.vsel h f moff d a b v, d, a, b), (.vpsum h f rm sat d a u, d, a, 0),
   (.vamx h f tid a w, 0, a, 0), (.vfill h f d a y, d, a, 0), (.vperm h f d a b v, d, a, b)]

/-- A unit of the head `c` of a queue, given the outcome of its body: it traps and nothing else of it remains, or it is
committed, and behind the last one the command leaves (R142, R143). -/
def State.unitDone (s : State) (r : SeqRef) (e : Engine) (c : Cmd) (units : Cmd → Nat) (step : Nat) :
    Except (Cause × Word) (Bool × Eng) → State
  | .error (k, d) => s.unitTrap r c k d
  | .ok (beyond, g) =>
    let c' := { g.c with pix := c.pix + step }
    let u := g.s.setHead r e c'
    if beyond = true ∧ u.masked (strandOf r) .scaleOverflow = false then u.raise r .scaleOverflow .u c'.addr c'.pix 0
    else if units c' ≤ c'.pix then u.completeCmd r e c' else u

/-! ### Handles and pointers (R272, R275, R291) -/

/-- A handle of counter `n` of die `die` of this package: by RMT = 0, or by this member's own number (R275). -/
def State.namesCounter (s : State) (v : Word) (die n : Nat) : Prop :=
  v.getLsbD 62 = true ∧ field v 53 9 = 0 ∧ field v 43 5 = 0 ∧ field v 8 32 = 0 ∧ field v 40 3 = die ∧ field v 0 8 = n
    ∧ ((v.getLsbD 63 = false ∧ field v 48 5 = 0)
      ∨ (v.getLsbD 63 = true ∧ field v 48 5 = s.chain.self ∧ s.chain.knows s.chain.self = true))

/-- Whether a counter is assigned to the context of a sequencer. -/
def State.assigned (s : State) (r : SeqRef) (die n : Nat) : Prop :=
  (s.counter die n).ctx = some (s.ctxOf (strandOf r))

/-- A handle of counter `n` of the die of sequencer `r`, assigned to its context. -/
def State.ownCounter (s : State) (r : SeqRef) (v : Word) (n : Nat) : Prop :=
  v.getLsbD 63 = false ∧ s.namesCounter v r.die n ∧ s.assigned r r.die n

/-- A handle or pointer of another member that this one may name, `m`. -/
def State.farName (s : State) (v : Word) (m : Nat) : Prop :=
  v.getLsbD 63 = true ∧ field v 48 5 = m ∧ s.chain.knows m = true ∧ m ≠ s.chain.self

/-- A counter of a die changed; the oldest unfired entry of each work queue of the die is armed if its counter has come to its
threshold (R276). -/
def State.putCounter (s : State) (die n : Nat) (f : Counter → Counter) : State :=
  s.modDie die fun d => { d with
    counters := Tbl.put d.counters n (f (Tbl.get {} d.counters n))
    qps := d.qps.map fun p => (p.1, QPair.arm p.2 (Tbl.put d.counters n (f (Tbl.get {} d.counters n)))) }

/-- An entry behind those of a queue pair of a die. -/
def State.posted (s : State) (die qp : Nat) (e : WorkEntry) : State :=
  s.modDie die fun d =>
    let q : QPair := Tbl.get {} d.qps qp
    let q' : QPair := { q with posted := q.posted + 1, entries := q.entries ++ [e] }
    { d with qps := Tbl.put d.qps qp (q'.arm d.counters) }

/-! ### Mailbox commands (R355) -/

/-- Where `ok` holds of a request whose other bytes are zero, command `i` of code `cmd`, once the hub serves it, does `act` and ends
with a status and a result. -/
def MailDoes (i : Instr) (cmd : Nat) (listed : List (Nat × Nat)) (st : MailStatus) (ok : State → Prop)
    (act : State → State := id) (result : State → Nat := fun _ => 0) : Prop :=
  ∀ s : State, s.serving cmd = true → s.onlyListed listed = true → ok s →
    exec i s = .next ((act s).finishMail st (result s))

/-- The bytes that a command's request may use. -/
def mailBytes : List (Instr × Nat × List (Nat × Nat)) :=
  [(.submit, 0x01, [(0, 2), (8, 8)]), (.abort, 0x02, [(0, 4)]), (.region, 0x03, [(0, 2), (16, 16)]),
   (.pubkey, 0x04, [(0, 1), (16, 2592)]), (.model, 0x05, [(0, 2), (8, 16)]), (.attest, 0x06, [(0, 64)]),
   (.contextCreate, 0x07, [(0, 2)]), (.contextDestroy, 0x07, [(0, 2)]), (.pages, 0x08, [(0, 2), (4, 12)]),
   (.posmap, 0x09, [(0, 1), (4, 8), (16, 8)]), (.lqcfg, 0x0A, [(0, 1), (8, 8)]), (.assign, 0x0B, [(0, 5)]),
   (.assignRelease, 0x0B, [(0, 5)])]

/-! ### Local addresses (R105, R186, R315) -/

/-- Bytes of a scratchpad from an offset. -/
def Cluster.spadBytes (c : Cluster) (o n : Nat) : List Byte := (List.range n).map fun j => Tbl.get 0 c.spad (o + j)

/-- Bytes of the slab from an address. -/
def State.slabBytes (s : State) (pa n : Nat) : List Byte := (List.range n).map fun j => s.memByte (pa + j)

/-- The parts of the local window that a team's header assigns: its scratchpad extent, the accumulator, its TID run. -/
def inSpad (t : Team) (o : Nat) : Bool := decide (o < 0x200000 ∧ o < t.spb)
def inAcc (o : Nat) : Bool := decide (0x200000 ≤ o ∧ o < 0x280000)
def inTid (t : Team) (o : Nat) : Bool := decide (0x300000 ≤ o ∧ o < 0x304000 ∧ o < 0x300000 + 64 * t.ntid)

/-- The table of R186: the first check that an access of `n` bytes at `va` fails; `words` for LDW and LDD. -/
def windowCheck (t : Team) (va : Word) (n : Nat) (words : Bool) : Option Cause :=
  let o := va.toNat - 0xFF0000000000
  if va.toNat / 2 ^ 48 ≠ 0 then some .addrRange
  else if va.toNat < 0xFF0000000000 then some .xlateClass
  else if !(inSpad t o || inAcc o || inTid t o) then some .addrRange
  else if inAcc o && !words then some .xlateClass
  else if inTid t o && n != 8 then some .align
  else if va.toNat % n ≠ 0 then some .align
  else none

/-- The loads, with their bytes and whether they extend the sign; the stores, with their bytes (R186). -/
def loads (h : Hdr) (d a : Reg) (off : BitVec 16) : List (Instr × Nat × Bool) :=
  [(.ldb h d a off, 1, false), (.ldh h d a off, 2, false), (.ldw h d a off, 4, false), (.ldd h d a off, 8, false),
   (.ldbs h d a off, 1, true), (.ldhs h d a off, 2, true), (.ldws h d a off, 4, true)]
def stores (h : Hdr) (a b : Reg) (off : BitVec 16) : List (Instr × Nat) :=
  [(.stb h a b off, 1), (.sth h a b off, 2), (.stw h a b off, 4), (.std h a b off, 8)]

/-! ### Values (R179, R187) -/

/-- Leading zero bits, counted from bit 63 down. -/
def leadingZeros (a : Word) : Nat := ((List.range 64).takeWhile fun n => !a.getLsbD (63 - n)).length

/-- One bits, counted. -/
def oneBits (a : Word) : Nat := ((List.range 64).filter fun n => a.getLsbD n).length

/-- The low 32 bits of a register as the FP32 value they stand for (R188). -/
def fpOf (v : Word) : ExtNum := fp32 (low32 v)

/-- An FP32 result in a register (R188). -/
def fpTo (b : BitVec 32) : Word := zext32 b

/-- 1 or 0 in a register. -/
def bitTo (b : Bool) : Word := if b then 1 else 0

/-- A number of `n` bytes, extended to a register with zeros or with its sign (R187). -/
def extended (n : Nat) (signed : Bool) (v : Nat) : Word :=
  if signed && decide (2 ^ (8 * n - 1) ≤ v) then BitVec.ofInt 64 ((v : Int) - 2 ^ (8 * n)) else BitVec.ofNat 64 v

/-! ### Instructions that do more than start something as they issue -/

/-- The register that an instruction of a sequencer writes as it issues (R88, R89, R259, R289, R291, R321). -/
def resultAtIssue : Instr → Option Reg
  | .wtag _ d _ => some d
  | .tagq _ d _ _ => some d
  | .fcrd _ d _ => some d
  | .fcclr _ d => some d
  | .qpost _ _ d _ _ => some d
  | .cwait _ d _ _ _ => some d
  | .crd _ d _ => some d
  | .lnch _ _ d _ _ => some d
  | _ => none

/-- Whether an instruction changes its cluster's memories or engine state as it issues: stores, wheels, QSLOT, and the
commands that reserve LFSR words (R35, R187, R195, R290). -/
def writesCluster : Instr → Bool
  | .stb .. => true
  | .sth .. => true
  | .stw .. => true
  | .std .. => true
  | .winit .. => true
  | .wclm .. => true
  | .wpub .. => true
  | .wrel .. => true
  | .qslot .. => true
  | .vcvt .. => true
  | .cpyx .. => true
  | .adrn .. => true
  | _ => false

/-! ### Counts (R57, R173, R352) -/

/-- Every token count is at most 255, and every permit count at most its depth. -/
def State.CountsHold (s : State) : Prop :=
  (∀ k q, (s.strandAt k).count q ≤ 255)
    ∧ ∀ (k : Nat) (p : Permit), (Tbl.get {} s.clusters k : Cluster).held p ≤ (Tbl.get {} s.clusters k : Cluster).depth p

/-- What R173 says of every wheel state. -/
def Wheel.Sound (w : Wheel) : Prop := w.nfill + w.nclm ≤ w.nb ∧ w.tail = (w.head + w.nfill + w.nclm) % w.nb

def State.WheelsHold (s : State) : Prop :=
  ∀ k n : Nat, (Wheel.ofWord (Tbl.get 0 (Tbl.get {} s.clusters k : Cluster).wheels n)).Sound

/-! ### What two states have in common -/

/-- The general, predicate and branch-target registers of every agent. -/
def SameRegs (s t : State) : Prop :=
  ∀ k, (t.seqAt k).x = (s.seqAt k).x ∧ (t.seqAt k).p = (s.seqAt k).p ∧ (t.seqAt k).b = (s.seqAt k).b

/-- Every byte of the slab. -/
def SameMem (s t : State) : Prop := ∀ a, t.memByte a = s.memByte a

/-- The memories and engine state of a cluster: scratchpad, accumulator and poison, TID table, wheels, z latches, tile
slots, attention pipe, reduction ranges, the LFSR. -/
def SameEngines (c e : Cluster) : Prop :=
  e.spad = c.spad ∧ e.acc = c.acc ∧ e.poison = c.poison ∧ e.tid = c.tid ∧ e.wheels = c.wheels ∧ e.z = c.z
    ∧ e.tiles = c.tiles ∧ e.pipe = c.pipe ∧ e.ranges = c.ranges ∧ e.lfsr = c.lfsr

/-- The strand-wide registers: identity, cause mask, FID, arrival registers, tag bindings. -/
def SameStrandRegs (t u : Strand) : Prop :=
  u.wid = t.wid ∧ u.launchId = t.launchId ∧ u.cmask = t.cmask ∧ u.fid = t.fid ∧ u.arrTag = t.arrTag
    ∧ u.arrRot = t.arrRot ∧ u.arrTsc = t.arrTsc ∧ u.binds = t.binds

/-- Whatever a die holds but its time and its hub: translation, caches, tuples, counters, queue pairs, staging. -/
def SameDie (d e : Die) : Prop :=
  e.tm = d.tm ∧ e.pm = d.pm ∧ e.cache = d.cache ∧ e.regions = d.regions ∧ e.slices = d.slices ∧ e.counters = d.counters
    ∧ e.qps = d.qps ∧ e.stg = d.stg ∧ e.ranges = d.ranges

end Machine

end Sys2Proof
end

