-- ==== Sys2Proof/Certificates/Slice0/Obligations.lean ====
section
/-! DEFINITION. What is claimed of the model: one proposition for each claim. -/

open Sys2Proof Sys2Proof.Machine

/-! ### The scalar families (R179 to R189) -/

/-- R179, R180: every minor of ALU on a sequencer and on a hub: its value lands in xD after the latency of R60. -/
def Obligations.AluResults : Prop :=
  ∀ (h : Hdr) (d a b : Reg),
    Lands (.add h d a b) h none (.x d) 1 (fun s => s.X a + s.X b)
    ∧ Lands (.sub h d a b) h none (.x d) 1 (fun s => s.X a - s.X b)
    ∧ Lands (.and h d a b) h none (.x d) 1 (fun s => s.X a &&& s.X b)
    ∧ Lands (.or h d a b) h none (.x d) 1 (fun s => s.X a ||| s.X b)
    ∧ Lands (.xor h d a b) h none (.x d) 1 (fun s => s.X a ^^^ s.X b)
    ∧ Lands (.andn h d a b) h none (.x d) 1 (fun s => s.X a &&& ~~~(s.X b))
    ∧ Lands (.shl h d a b) h none (.x d) 1 (fun s => s.X a <<< ((s.X b).toNat % 64))
    ∧ Lands (.shr h d a b) h none (.x d) 1 (fun s => s.X a >>> ((s.X b).toNat % 64))
    ∧ Lands (.sra h d a b) h none (.x d) 1 (fun s => (s.X a).sshiftRight ((s.X b).toNat % 64))
    ∧ Lands (.rol h d a b) h none (.x d) 1 (fun s => (s.X a).rotateLeft ((s.X b).toNat % 64))
    ∧ Lands (.min h d a b) h none (.x d) 1 (fun s => BitVec.ofInt 64 (Min.min (s.X a).toInt (s.X b).toInt))
    ∧ Lands (.max h d a b) h none (.x d) 1 (fun s => BitVec.ofInt 64 (Max.max (s.X a).toInt (s.X b).toInt))
    ∧ Lands (.minu h d a b) h none (.x d) 1 (fun s => BitVec.ofNat 64 (Min.min (s.X a).toNat (s.X b).toNat))
    ∧ Lands (.maxu h d a b) h none (.x d) 1 (fun s => BitVec.ofNat 64 (Max.max (s.X a).toNat (s.X b).toNat))
    ∧ Lands (.mul h d a b) h none (.x d) 3 (fun s => BitVec.ofNat 64 ((s.X a).toNat * (s.X b).toNat))
    ∧ Lands (.mulh h d a b) h none (.x d) 3 (fun s => BitVec.ofInt 64 (((s.X a).toInt * (s.X b).toInt) / 2 ^ 64))
    ∧ Lands (.mulhu h d a b) h none (.x d) 3 (fun s => BitVec.ofNat 64 ((s.X a).toNat * (s.X b).toNat / 2 ^ 64))
    ∧ Lands (.div h d a b) h none (.x d) 18 (fun s =>
        if s.X b = 0 then BitVec.allOnes 64 else BitVec.ofInt 64 ((s.X a).toInt.tdiv (s.X b).toInt))
    ∧ Lands (.divu h d a b) h none (.x d) 18 (fun s =>
        if s.X b = 0 then BitVec.allOnes 64 else BitVec.ofNat 64 ((s.X a).toNat / (s.X b).toNat))
    ∧ Lands (.rem h d a b) h none (.x d) 18 (fun s =>
        if s.X b = 0 then s.X a else BitVec.ofInt 64 ((s.X a).toInt.tmod (s.X b).toInt))
    ∧ Lands (.remu h d a b) h none (.x d) 18 (fun s =>
        if s.X b = 0 then s.X a else BitVec.ofNat 64 ((s.X a).toNat % (s.X b).toNat))
    ∧ Lands (.clz h d a) h none (.x d) 1 (fun s => BitVec.ofNat 64 (leadingZeros (s.X a)))
    ∧ Lands (.popc h d a) h none (.x d) 1 (fun s => BitVec.ofNat 64 (oneBits (s.X a)))
    ∧ Lands (.abs h d a) h none (.x d) 1 (fun s => BitVec.ofInt 64 |(s.X a).toInt|)

/-- R181, R182: ALUI takes the sign-extended immediate, or a shift amount, in place of B; LI builds X[D] from its literal. -/
def Obligations.ImmediateResults : Prop :=
  (∀ (h : Hdr) (d a : Reg) (imm : BitVec 16),
    Lands (.addi h d a imm) h none (.x d) 1 (fun s => s.X a + imm.signExtend 64)
    ∧ Lands (.andi h d a imm) h none (.x d) 1 (fun s => s.X a &&& imm.signExtend 64)
    ∧ Lands (.ori h d a imm) h none (.x d) 1 (fun s => s.X a ||| imm.signExtend 64)
    ∧ Lands (.xori h d a imm) h none (.x d) 1 (fun s => s.X a ^^^ imm.signExtend 64)
    ∧ Lands (.mini h d a imm) h none (.x d) 1 (fun s => BitVec.ofInt 64 (Min.min (s.X a).toInt imm.toInt))
    ∧ Lands (.maxi h d a imm) h none (.x d) 1 (fun s => BitVec.ofInt 64 (Max.max (s.X a).toInt imm.toInt))
    ∧ Lands (.muli h d a imm) h none (.x d) 3 (fun s => BitVec.ofInt 64 ((s.X a).toInt * imm.toInt)))
  ∧ (∀ (h : Hdr) (d a : Reg) (n : BitVec 6),
    Lands (.shli h d a n) h none (.x d) 1 (fun s => s.X a <<< n.toNat)
    ∧ Lands (.shri h d a n) h none (.x d) 1 (fun s => s.X a >>> n.toNat)
    ∧ Lands (.srai h d a n) h none (.x d) 1 (fun s => (s.X a).sshiftRight n.toNat)
    ∧ Lands (.roli h d a n) h none (.x d) 1 (fun s => (s.X a).rotateLeft n.toNat))
  ∧ ∀ (h : Hdr) (d : Reg) (lit : BitVec 32),
    Lands (.liz h d lit) h none (.x d) 1 (fun _ => BitVec.ofNat 64 lit.toNat)
    ∧ Lands (.lis h d lit) h none (.x d) 1 (fun _ => BitVec.ofInt 64 lit.toInt)
    ∧ Lands (.lih h d lit) h none (.x d) 1 (fun s => BitVec.ofNat 64 (lit.toNat * 2 ^ 32 + (s.X d).toNat % 2 ^ 32))

/-- R183 to R185: the relations of CMP and CMPI and the functions of PLOG land in pD after one step, SEL's choice in xD. -/
def Obligations.PredicateResults : Prop :=
  (∀ (h : Hdr) (pd : BitVec 3) (a b : Reg),
    Lands (.eq h pd a b) h none (.p pd) 1 (fun s => bitTo (decide (s.X a = s.X b)))
    ∧ Lands (.ne h pd a b) h none (.p pd) 1 (fun s => bitTo (decide (s.X a ≠ s.X b)))
    ∧ Lands (.lt h pd a b) h none (.p pd) 1 (fun s => bitTo (decide ((s.X a).toInt < (s.X b).toInt)))
    ∧ Lands (.ltu h pd a b) h none (.p pd) 1 (fun s => bitTo (decide ((s.X a).toNat < (s.X b).toNat)))
    ∧ Lands (.ge h pd a b) h none (.p pd) 1 (fun s => bitTo (decide ((s.X b).toInt ≤ (s.X a).toInt)))
    ∧ Lands (.geu h pd a b) h none (.p pd) 1 (fun s => bitTo (decide ((s.X b).toNat ≤ (s.X a).toNat))))
  ∧ (∀ (h : Hdr) (pd : BitVec 3) (a : Reg) (imm : BitVec 16),
    Lands (.eqi h pd a imm) h none (.p pd) 1 (fun s => bitTo (decide (s.X a = imm.signExtend 64)))
    ∧ Lands (.nei h pd a imm) h none (.p pd) 1 (fun s => bitTo (decide (s.X a ≠ imm.signExtend 64)))
    ∧ Lands (.lti h pd a imm) h none (.p pd) 1 (fun s => bitTo (decide ((s.X a).toInt < imm.toInt)))
    ∧ Lands (.ltui h pd a imm) h none (.p pd) 1 (fun s => bitTo (decide ((s.X a).toNat < (imm.signExtend 64).toNat)))
    ∧ Lands (.gei h pd a imm) h none (.p pd) 1 (fun s => bitTo (decide (imm.toInt ≤ (s.X a).toInt)))
    ∧ Lands (.geui h pd a imm) h none (.p pd) 1 (fun s => bitTo (decide ((imm.signExtend 64).toNat ≤ (s.X a).toNat))))
  ∧ (∀ (h : Hdr) (pd pa pb : BitVec 3),
    Lands (.pand h pd pa pb) h none (.p pd) 1 (fun s => bitTo (s.P pa && s.P pb))
    ∧ Lands (.por h pd pa pb) h none (.p pd) 1 (fun s => bitTo (s.P pa || s.P pb))
    ∧ Lands (.pxor h pd pa pb) h none (.p pd) 1 (fun s => bitTo (xor (s.P pa) (s.P pb)))
    ∧ Lands (.pnot h pd pa) h none (.p pd) 1 (fun s => bitTo (!s.P pa))
    ∧ Lands (.pmov h pd pa) h none (.p pd) 1 (fun s => bitTo (s.P pa)))
  ∧ ∀ (h : Hdr) (pk : BitVec 3) (d a b : Reg),
    Lands (.sel h pk d a b) h none (.x d) 1 (fun s => if s.P pk then s.X a else s.X b)

/-- R188, R189: scalar floating point rounds the exact result once; the functions of FSF take a special-function permit
on a sequencer (R64). -/
def Obligations.FloatResults : Prop :=
  (∀ (h : Hdr) (d a b : Reg) (rm : RMode),
    Lands (.fadd h d a b rm) h none (.x d) 4 (fun s => fpTo (roundFP32 (.det rm) ((fpOf (s.X a)).add (fpOf (s.X b)))))
    ∧ Lands (.fsub h d a b rm) h none (.x d) 4 (fun s => fpTo (roundFP32 (.det rm) ((fpOf (s.X a)).sub (fpOf (s.X b)))))
    ∧ Lands (.fmul h d a b rm) h none (.x d) 4 (fun s => fpTo (roundFP32 (.det rm) ((fpOf (s.X a)).mul (fpOf (s.X b)))))
    ∧ Lands (.ffma h d a b rm) h none (.x d) 4 (fun s =>
        fpTo (roundFP32 (.det rm) (((fpOf (s.X a)).mul (fpOf (s.X b))).add (fpOf (s.X d)))))
    ∧ Lands (.fcvti h d a rm) h none (.x d) 4 (fun s => BitVec.ofNat 64 (intEncode 64 (.det rm) (fpOf (s.X a))).bits)
    ∧ Lands (.fcvtf h d a rm) h none (.x d) 4 (fun s => fpTo (roundFP32 (.det rm) (ExtNum.ofInt (s.X a).toInt))))
  ∧ (∀ (h : Hdr) (d a b : Reg),
    Lands (.fmin h d a b) h none (.x d) 4 (fun s => fpTo (roundFP32 (.det .rne) ((fpOf (s.X a)).least (fpOf (s.X b)))))
    ∧ Lands (.fmax h d a b) h none (.x d) 4 (fun s => fpTo (roundFP32 (.det .rne) ((fpOf (s.X a)).greatest (fpOf (s.X b)))))
    ∧ Lands (.fcmpeq h d a b) h none (.x d) 4 (fun s => bitTo ((fpOf (s.X a)).eq (fpOf (s.X b))))
    ∧ Lands (.fcmplt h d a b) h none (.x d) 4 (fun s => bitTo ((fpOf (s.X a)).lt (fpOf (s.X b))))
    ∧ Lands (.fcmple h d a b) h none (.x d) 4 (fun s =>
        bitTo ((fpOf (s.X a)).lt (fpOf (s.X b)) || (fpOf (s.X a)).eq (fpOf (s.X b)))))
  ∧ ∀ (h : Hdr) (d a : Reg),
    Lands (.fabs h d a) h none (.x d) 4 (fun s =>
        fpTo (if (fpOf (s.X a)).isNaN then 0x7FC00000#32 else low32 (s.X a) &&& 0x7FFFFFFF#32))
    ∧ Lands (.fneg h d a) h none (.x d) 4 (fun s =>
        fpTo (if (fpOf (s.X a)).isNaN then 0x7FC00000#32 else low32 (s.X a) ^^^ 0x80000000#32))
    ∧ Lands (.exp2 h d a) h (some .sfu) (.x d) 12 (fun s => fpTo (fExp2 (fpOf (s.X a))))
    ∧ Lands (.log2 h d a) h (some .sfu) (.x d) 12 (fun s => fpTo (fLog2 (fpOf (s.X a))))
    ∧ Lands (.rcp h d a) h (some .sfu) (.x d) 12 (fun s => fpTo (fRcp (fpOf (s.X a))))
    ∧ Lands (.rsqrt h d a) h (some .sfu) (.x d) 12 (fun s => fpTo (fRsqrt (fpOf (s.X a))))
    ∧ Lands (.sqrt h d a) h (some .sfu) (.x d) 12 (fun s => fpTo (fSqrt (fpOf (s.X a))))
    ∧ Lands (.tanh h d a) h (some .sfu) (.x d) 12 (fun s => fpTo (fTanh (fpOf (s.X a))))
    ∧ Lands (.sin h d a) h (some .sfu) (.x d) 12 (fun s => fpTo (fSin (fpOf (s.X a))))
    ∧ Lands (.cos h d a) h (some .sfu) (.x d) 12 (fun s => fpTo (fCos (fpOf (s.X a))))

/-! ### Local loads and stores (R105, R106, R186, R187) -/

/-- R186: the checks of a local load or store in the order of its table; the first that fails is raised at the
instruction, and nothing else changes. R233: a load of a poisoned accumulator word traps when it would issue. -/
def Obligations.LocalAccessTraps : Prop :=
  (((∀ (h : Hdr) (d a : Reg) (off : BitVec 16) (x : Instr × Nat × Bool), x ∈ loads h d a off → ∀ (c : Cause) (t : Team),
    TrapsOnSeq x.1 h (some .mem) c fun s r =>
      s.team? (strandOf r) = some t
        ∧ windowCheck t (s.X a + off.signExtend 64) x.2.1 (decide (4 ≤ x.2.1) && !x.2.2) = some c)
  ∧ ∀ (h : Hdr) (a b : Reg) (off : BitVec 16) (x : Instr × Nat), x ∈ stores h a b off → ∀ (c : Cause) (t : Team),
    TrapsOnSeq x.1 h (some .mem) c fun s r =>
      s.team? (strandOf r) = some t ∧ windowCheck t (s.X a + off.signExtend 64) x.2 false = some c)
  ∧ (∀ (h : Hdr) (d a : Reg) (off : BitVec 16) (x : Instr × Nat × Bool), x ∈ loads h d a off →
    4 ≤ x.2.1 → x.2.2 = false → ∀ (t : Team) (o : Nat),
    TrapsOnSeq x.1 h (some .mem) .accPoison fun s r =>
      s.team? (strandOf r) = some t ∧ (s.X a + off.signExtend 64).toNat = 0xFF0000200000 + o ∧ o < 0x80000
        ∧ o % x.2.1 = 0 ∧ ∃ j < x.2.1 / 4, (s.cluster r.die r.cl).isPoisoned (o / 4 + j) = true))

/-- R187: a load samples its bytes in its issue step and lands them, extended, three steps later, from the scratchpad,
from accumulator words that are not poisoned, or from the TID table; on a hub from the slab (R104); from words without an
uncorrectable error: a load of a scratchpad word that has one stops its strand with SRAM_UNCORR at point A (R103).  The model's
choice (log entry 6): on a hub, an address that is not aligned or not in the slab gives a free value. -/
def Obligations.LoadResults : Prop :=
  ∀ (h : Hdr) (d a : Reg) (off : BitVec 16) (x : Instr × Nat × Bool), x ∈ loads h d a off → ∀ (t : Team) (o : Nat),
    LandsOnSeq x.1 h (some .mem) (.x d) 3
      (fun s r => decide (s.team? (strandOf r) = some t ∧ (s.X a + off.signExtend 64).toNat = 0xFF0000000000 + o)
        && inSpad t o && decide (o % x.2.1 = 0)
        && (wordHit (s.cluster r.die r.cl).badSpad (t.spadBase + o) x.2.1).isNone)
      (fun s r => extended x.2.1 x.2.2 (leNat ((s.cluster r.die r.cl).spadBytes (t.spadBase + o) x.2.1)))
    ∧ (x.2.1 = 4 ∧ x.2.2 = false → LandsOnSeq x.1 h (some .mem) (.x d) 3
      (fun s r => decide (s.team? (strandOf r) = some t ∧ (s.X a + off.signExtend 64).toNat = 0xFF0000200000 + o)
        && decide (o < 0x80000 ∧ o % 4 = 0) && !(s.cluster r.die r.cl).isPoisoned (o / 4)
        && (pairHit (s.cluster r.die r.cl).badAcc (o / 4) 1).isNone)
      (fun s r => zext32 ((s.cluster r.die r.cl).accWord (o / 4))))
    ∧ (x.2.1 = 8 → LandsOnSeq x.1 h (some .mem) (.x d) 3
      (fun s r => decide (s.team? (strandOf r) = some t ∧ (s.X a + off.signExtend 64).toNat = 0xFF0000200000 + o)
        && decide (o < 0x80000 ∧ o % 8 = 0) && !(s.cluster r.die r.cl).isPoisoned (o / 4)
        && !(s.cluster r.die r.cl).isPoisoned (o / 4 + 1) && (pairHit (s.cluster r.die r.cl).badAcc (o / 4) 2).isNone)
      (fun s r => (s.cluster r.die r.cl).accWord (o / 4 + 1) ++ (s.cluster r.die r.cl).accWord (o / 4)))
    ∧ (x.2.1 = 8 → LandsOnSeq x.1 h (some .mem) (.x d) 3
      (fun s r => decide (s.team? (strandOf r) = some t ∧ (s.X a + off.signExtend 64).toNat = 0xFF0000300000 + o)
        && decide (o < 0x4000 ∧ o < 64 * t.ntid ∧ o % 8 = 0)
        && (wordHit (s.cluster r.die r.cl).badTid (64 * t.tidBase + o) 8).isNone)
      (fun s r => (s.cluster r.die r.cl).readTid (64 * t.tidBase + o)))
    ∧ LandsOnHub x.1 h (.x d)
      (fun s => decide ((s.X a + off.signExtend 64).toNat % x.2.1 = 0
        ∧ (s.X a + off.signExtend 64).toNat + x.2.1 ≤ slabSize ∧ s.weak = [])
        && (s.badAt (s.X a + off.signExtend 64).toNat x.2.1).isNone
        && !s.hitsTable (s.X a + off.signExtend 64).toNat x.2.1)
      (fun s => extended x.2.1 x.2.2 (leNat (s.slabBytes (s.X a + off.signExtend 64).toNat x.2.1)))
    ∧ DoesOnHub x.1 h
      (fun s _ => (s.X a + off.signExtend 64).toNat % x.2.1 ≠ 0 ∨ slabSize < (s.X a + off.signExtend 64).toNat + x.2.1)
      (fun s _ u => ({ u with free := u.free + 1 } : State).resultNow (.x d) (Config.freeValue s.free))
    ∧ ∀ (s : State) (r : SeqRef) (w : Nat), s.mayIssue r x.1 h (some .mem) = true → s.roomInFlight r = true →
        s.team? (strandOf r) = some t → (s.X a + off.signExtend 64).toNat = 0xFF0000000000 + o → inSpad t o = true →
        o % x.2.1 = 0 → wordHit (s.cluster r.die r.cl).badSpad (t.spadBase + o) x.2.1 = some w →
        exec x.1 s = .next ((s.issued r h (some .mem)).raise r .sramUncorr .a 0 0 (softDetail .spad r.die r.cl w))

/-- R187: a store writes the low bytes of X[B] in its issue step, to the scratchpad, to a TID entry (STD), or on a hub to
the slab, where the line that its die's cache holds of another die's memory takes the bytes too (R116).  The model's choice (log
entry 6): a hub's store to an address that is not aligned or not in the slab stores nothing. -/
def Obligations.StoreResults : Prop :=
  ∀ (h : Hdr) (a b : Reg) (off : BitVec 16) (x : Instr × Nat), x ∈ stores h a b off → ∀ (t : Team) (o : Nat),
    DoesOnSeq x.1 h (some .mem)
      (fun s r => s.team? (strandOf r) = some t ∧ (s.X a + off.signExtend 64).toNat = 0xFF0000000000 + o
        ∧ inSpad t o = true ∧ o % x.2 = 0)
      (fun s r u => u.modCluster r.die r.cl fun c => c.putSpad (t.spadBase + o) (natBytes x.2 (s.X b).toNat))
    ∧ (x.2 = 8 → DoesOnSeq x.1 h (some .mem)
      (fun s r => s.team? (strandOf r) = some t ∧ (s.X a + off.signExtend 64).toNat = 0xFF0000300000 + o
        ∧ o < 0x4000 ∧ o < 64 * t.ntid ∧ o % 8 = 0)
      (fun s r u => u.modCluster r.die r.cl fun c => c.writeTid (64 * t.tidBase + o) (s.X b)))
    ∧ DoesOnHub x.1 h
      (fun s d => (s.X a + off.signExtend 64).toNat % x.2 = 0 ∧ (s.X a + off.signExtend 64).toNat + x.2 ≤ slabSize
        ∧ s.hitsTable (s.X a + off.signExtend 64).toNat x.2 = false ∧ (s.X a + off.signExtend 64).toNat / 0x80000000 = d)
      (fun s _ u => u.writeMem (s.X a + off.signExtend 64).toNat (natBytes x.2 (s.X b).toNat))
    ∧ DoesOnHub x.1 h
      (fun s d => (s.X a + off.signExtend 64).toNat % x.2 = 0 ∧ (s.X a + off.signExtend 64).toNat + x.2 ≤ slabSize
        ∧ s.hitsTable (s.X a + off.signExtend 64).toNat x.2 = false ∧ (s.X a + off.signExtend 64).toNat / 0x80000000 ≠ d)
      (fun s d u => (u.writeMem (s.X a + off.signExtend 64).toNat (natBytes x.2 (s.X b).toNat)).modDie d fun v =>
        { v with cache := v.cache.map fun c => { c with
            data := mergeLine c.line (s.X a + off.signExtend 64).toNat (natBytes x.2 (s.X b).toNat) c.data } })
    ∧ DoesOnHub x.1 h
      (fun s _ => (s.X a + off.signExtend 64).toNat % x.2 ≠ 0 ∨ slabSize < (s.X a + off.signExtend 64).toNat + x.2)
      (fun _ _ u => u)

/-! ### Branches and control (R190 to R193) -/

/-- R190: PBR prepares bD with its target after two steps; a misaligned target of the 96-bit form traps on a
sequencer.  The model's choice (log entry 6): on a hub it is a free value. -/
def Obligations.PrepareResults : Prop :=
  ∀ (h : Hdr) (bd : BitVec 2),
    (∀ off : BitVec 16, Lands (.pbr h bd (.rel off)) h none (.b bd) 2
      fun s => (s.me.pc + BitVec.ofInt 48 (4 * off.toInt)).setWidth 64)
    ∧ ∀ (a : Reg) (lit : BitVec 32),
      LandsOnSeq (.pbr h bd (.abs a lit)) h none (.b bd) 2
        (fun s _ => decide (((s.X a).toNat + lit.toNat) % 4 = 0))
        (fun s _ => BitVec.ofNat 64 (((s.X a).toNat + lit.toNat) % 2 ^ 48))
      ∧ LandsOnHub (.pbr h bd (.abs a lit)) h (.b bd)
        (fun s => decide (((s.X a).toNat + lit.toNat) % 4 = 0))
        (fun s => BitVec.ofNat 64 (((s.X a).toNat + lit.toNat) % 2 ^ 48))
      ∧ DoesOnHub (.pbr h bd (.abs a lit)) h (fun s _ => ((s.X a).toNat + lit.toNat) % 4 ≠ 0)
        (fun s _ u => ({ u with free := u.free + 1 } : State).resultNow (.b bd) (Config.freeValue s.free))
      ∧ TrapsOnSeq (.pbr h bd (.abs a lit)) h none .align fun s _ => ((s.X a).toNat + lit.toNat) % 4 ≠ 0

/-- R191, R192: a branch with bD prepared continues at its target if it is taken, and behind itself if not; CALL also lands
the address behind it in x31; RET continues at X[31].  BRANCH_UNPREPARED is raised whether or not the branch would be taken,
and RET has two checks of its own.  The model's choice (log entry 6): on a hub, which has no traps for its operands, a branch
taken through a register that is not prepared, and a RET that fails a check, continue at a free address. -/
def Obligations.BranchResults : Prop :=
  (∀ (h : Hdr) (bd : BitVec 2) (pa : BitVec 3),
    (DoesOnSeq (.brt h bd pa) h none (fun s _ => (s.B bd).prep = true)
        (fun s _ u => if s.P pa then u.jump (s.B bd).target else u)
      ∧ DoesOnHub (.brt h bd pa) h (fun s _ => (s.B bd).prep = true)
        (fun s _ u => if s.P pa then u.jump (s.B bd).target else u))
    ∧ (DoesOnSeq (.brf h bd pa) h none (fun s _ => (s.B bd).prep = true)
        (fun s _ u => if s.P pa then u else u.jump (s.B bd).target)
      ∧ DoesOnHub (.brf h bd pa) h (fun s _ => (s.B bd).prep = true)
        (fun s _ u => if s.P pa then u else u.jump (s.B bd).target))
    ∧ (DoesOnSeq (.bra h bd) h none (fun s _ => (s.B bd).prep = true) (fun s _ u => u.jump (s.B bd).target)
      ∧ DoesOnHub (.bra h bd) h (fun s _ => (s.B bd).prep = true) (fun s _ u => u.jump (s.B bd).target))
    ∧ ((∀ (s : State) (r : SeqRef), s.mayIssue r (.call h bd) h none = true → s.roomInFlight r = true →
          (s.B bd).prep = true →
          ∃ o1 o2 o3, exec (.call h bd) s = .next (((s.issued r h none).inFlight r
            ⟨(s.seq r).pc, wordOf (.call h bd) 0, modOf (.call h bd), 1, o1, o2, o3, .x 31, .set,
              ((s.seq r).pc + BitVec.ofNat 48 (4 * h.form.words)).setWidth 64, 0, h.pq, (s.seq r).no + 1⟩).jump (s.B bd).target))
      ∧ DoesOnHub (.call h bd) h (fun s _ => (s.B bd).prep = true)
        (fun s _ u => (u.resultNow (.x 31) ((s.me.pc + BitVec.ofNat 48 (4 * h.form.words)).setWidth 64)).jump
          (s.B bd).target))
    ∧ (DoesOnSeq (.ret h) h none (fun s _ => (s.X 31).toNat < 2 ^ 48 ∧ (s.X 31).toNat % 4 = 0)
        (fun s _ u => u.jump ((s.X 31).setWidth 48))
      ∧ DoesOnHub (.ret h) h (fun s _ => (s.X 31).toNat < 2 ^ 48 ∧ (s.X 31).toNat % 4 = 0)
        (fun s _ u => u.jump ((s.X 31).setWidth 48))))
  ∧ (∀ (h : Hdr) (bd : BitVec 2) (pa : BitVec 3),
    (∀ x ∈ [(Instr.brt h bd pa, true), (.brf h bd pa, false)],
      DoesOnHub x.1 h (fun s _ => (s.B bd).prep = false ∧ s.P pa = x.2)
        (fun s _ u => ({ u with free := u.free + 1 } : State).jump ((Config.freeValue s.free).setWidth 48))
      ∧ DoesOnHub x.1 h (fun s _ => (s.B bd).prep = false ∧ s.P pa = !x.2) (fun _ _ u => u))
    ∧ DoesOnHub (.bra h bd) h (fun s _ => (s.B bd).prep = false)
        (fun s _ u => ({ u with free := u.free + 1 } : State).jump ((Config.freeValue s.free).setWidth 48))
    ∧ DoesOnHub (.ret h) h (fun s _ => ¬ ((s.X 31).toNat < 2 ^ 48 ∧ (s.X 31).toNat % 4 = 0))
        (fun s _ u => ({ u with free := u.free + 1 } : State).jump ((Config.freeValue s.free).setWidth 48)))
  ∧ (∀ (h : Hdr) (bd : BitVec 2) (pa : BitVec 3),
    (∀ i ∈ [Instr.brt h bd pa, .brf h bd pa, .bra h bd, .call h bd],
      TrapsOnSeq i h none .branchUnprepared fun s _ => (s.B bd).prep = false)
    ∧ TrapsOnSeq (.ret h) h none .addrRange (fun s _ => 2 ^ 48 ≤ (s.X 31).toNat)
    ∧ TrapsOnSeq (.ret h) h none .align (fun s _ => (s.X 31).toNat < 2 ^ 48 ∧ (s.X 31).toNat % 4 ≠ 0))

/-- R193: END, YIELD, NOP and BRK.  The model's choice (log entry 6): on a hub, which has no traps, BRK does nothing. -/
def Obligations.ControlResults : Prop :=
  ∀ h : Hdr,
    (DoesOnSeq (.endI h) h none (fun _ _ => True) (fun _ r u => u.modSeq r fun q => { q with ended := true })
      ∧ DoesOnHub (.endI h) h (fun _ _ => True) (fun _ d u => u.modSeqAt (hubKey d) fun q => { q with ended := true }))
    ∧ (DoesOnSeq (.nop h) h none (fun _ _ => True) (fun _ _ u => u) ∧ DoesOnHub (.nop h) h (fun _ _ => True) (fun _ _ u => u))
    ∧ (DoesOnSeq (.yield h) h none (fun s r => (s.strand (strandOf r)).preempt = false)
        (fun _ r u => u.modSeq r fun q => { q with sw := true })
      ∧ DoesOnHub (.yield h) h (fun _ _ => True) (fun _ d u => u.modSeqAt (hubKey d) fun q => { q with sw := true }))
    ∧ (∀ (s : State) (r : SeqRef), s.mayIssue r (.yield h) h none = true → (s.strand (strandOf r)).preempt = true →
        exec (.yield h) s = .next ((((s.issued r h none).modSeq r fun q => { q with sw := true }).finishAt h
          (s.seq r).pc).raise r .preempt .a 0 0 0))
    ∧ DoesOnHub (.brk h) h (fun _ _ => True) (fun _ _ u => u)
    ∧ DoesOnSeq (.brk h) h none (fun s r => s.masked (strandOf r) .breakpoint = true) (fun _ _ u => u)
    ∧ ∀ (s : State) (r : SeqRef), s.mayIssue r (.brk h) h none = true → s.masked (strandOf r) .breakpoint = false →
        exec (.brk h) s = .next (((s.issued r h none).finishAt h (s.seq r).pc).raise r .breakpoint .d (s.seq r).pc 0 0)

/-! ### Tokens and wheels (R57, R169, R173 to R176, R194, R195) -/

/-- R194: TKP pushes its tokens; TKW pops its own behind WQ's as it issues, and waits for them before, WQ's popped; TKQ lands the count at the start of the cycle. -/
def Obligations.TokenResults : Prop :=
  ∀ (h : Hdr) (q : BitVec 3) (n d : Reg),
    DoesOnSeq (.tkp h q n) h none
      (fun s r => s.isProducer r q = true ∧ ((s.popWq r h).strand (strandOf r)).count q + n.toNat ≤ 255)
      (fun _ r u => u.modStrand (strandOf r) fun t => t.push q n.toNat)
    ∧ TrapsOnSeq (.tkp h q n) h none .tokenOverflow
      (fun s r => s.isProducer r q = true ∧ 255 < ((s.popWq r h).strand (strandOf r)).count q + n.toNat)
    ∧ (∀ (s : State) (r : SeqRef), s.mayIssue r (.tkw h q n) h none = true → s.isConsumer r q = true →
        (n.toNat ≤ (s.popWq r h).tokens r q →
          exec (.tkw h q n) s = .next ((((s.popWq r h).popQ r q n.toNat).advance h).finishAt h (s.seq r).pc))
        ∧ ((s.popWq r h).tokens r q < n.toNat →
          exec (.tkw h q n) s = .next ((s.popWq r h).waits r (.tkw h q n) .tokens)))
    ∧ (∀ i ∈ [Instr.tkp h q n, .tkw h q n], TrapsOnSeq i h none .operandReserved fun s r =>
        s.isProducer r q = false ∧ s.isConsumer r q = false)
    ∧ TrapsOnSeq (.tkq h d q) h none .operandReserved (fun s r => s.binding (strandOf r) q = none)
    ∧ LandsOnSeq (.tkq h d q) h none (.x d) 1 (fun s r => (s.binding (strandOf r) q).isSome)
      (fun s r => BitVec.ofNat 64 (Tbl.get 0 (s.strand (strandOf r)).qStart q.toNat))

/-- R174 to R176, R195: the wheel instructions, on wheel `n` of the cluster that the team calls `w`; WWF and WWE wait on the state
at the start of the cycle and, as WCLM, acquire what was released; WHEEL_STATE for a wheel that the
launch does not declare, for one that is not active, and where the counts do not allow the operation. -/
def Obligations.WheelResults : Prop :=
  (∀ (h : Hdr) (w : BitVec 4) (d base cfg : Reg) (v : Wheel),
    DoesOnSeq (.winit h w base cfg) h none
      (fun s r => (s.wheelNo r w).isSome = true ∧ (s.X base).toNat % 64 = 0
        ∧ (s.X cfg).toNat < 2 ^ 21 ∧ 1 ≤ field (s.X cfg) 0 16 ∧ field (s.X cfg) 0 16 ≤ 32768
        ∧ 1 ≤ field (s.X cfg) 16 5 ∧ field (s.X cfg) 16 5 ≤ 16
        ∧ (s.X base).toNat + 64 * field (s.X cfg) 0 16 * field (s.X cfg) 16 5 ≤ 2 ^ 21)
      (fun s r u => u.setWheel r w
        { base := (s.X base).toNat / 64, size := field (s.X cfg) 0 16, nb := field (s.X cfg) 16 5, act := true,
          head := 0, tail := 0, nclm := 0, nfill := 0 })
    ∧ (∀ (s : State) (r : SeqRef), s.mayIssue r (.wclm h d w) h none = true → s.roomInFlight r = true →
        (s.wheelNo r w).isSome = true → s.wheel r w = v → v.act = true → 0 < v.nfree →
        ∃ o1 o2 o3, exec (.wclm h d w) s = .next
          ((((s.issued r h none).setWheel r w { v with tail := (v.tail + 1) % v.nb, nclm := v.nclm + 1 }).acquires r).inFlight
            r ⟨(s.seq r).pc, wordOf (.wclm h d w) 0, modOf (.wclm h d w), 1, o1, o2, o3, .x d, .set, v.addr v.tail, 0,
              h.pq, (s.seq r).no + 1⟩))
    ∧ DoesOnSeq (.wpub h w) h none
      (fun s r => (s.wheelNo r w).isSome = true ∧ s.wheel r w = v ∧ v.act = true ∧ 0 < v.nclm)
      (fun _ r u => u.setWheel r w { v with nclm := v.nclm - 1, nfill := v.nfill + 1 })
    ∧ DoesOnSeq (.wrel h w) h none
      (fun s r => (s.wheelNo r w).isSome = true ∧ s.wheel r w = v ∧ v.act = true ∧ 0 < v.nfill)
      (fun _ r u => u.setWheel r w { v with head := (v.head + 1) % v.nb, nfill := v.nfill - 1 })
    ∧ ∀ x ∈ [(Instr.wwf h d w, v.nfill, v.head), (.wwe h d w, v.nfree, v.tail)],
      (∀ (s : State) (r : SeqRef), s.mayIssue r x.1 h none = true → s.roomInFlight r = true →
        (s.wheelNo r w).isSome = true → (s.wheel r w).act = true → s.wheel r w true = v → v.act = true → 0 < x.2.1 →
        ∃ o1 o2 o3, exec x.1 s = .next (((s.issued r h none).acquires r).inFlight r
          ⟨(s.seq r).pc, wordOf x.1 0, modOf x.1, 1, o1, o2, o3, .x d, .set, v.addr x.2.2, 0, h.pq, (s.seq r).no + 1⟩))
      ∧ WaitsOnSeq x.1 h none .wheel fun s r => s.roomInFlight r = true ∧ (s.wheelNo r w).isSome = true
          ∧ (s.wheel r w).act = true ∧ s.wheel r w true = v ∧ (v.act = false ∨ x.2.1 = 0))
  ∧ (∀ (h : Hdr) (w : BitVec 4) (d base cfg : Reg),
    (∀ i ∈ [Instr.winit h w base cfg, .wclm h d w, .wpub h w, .wwf h d w, .wwe h d w, .wrel h w],
      TrapsOnSeq i h none .wheelState fun s r => s.wheelNo r w = none)
    ∧ (∀ i ∈ [Instr.wclm h d w, .wpub h w, .wwf h d w, .wwe h d w, .wrel h w],
      TrapsOnSeq i h none .wheelState fun s r => (s.wheelNo r w).isSome = true ∧ (s.wheel r w).act = false)
    ∧ TrapsOnSeq (.wclm h d w) h none .wheelState (fun s r => (s.wheelNo r w).isSome = true ∧ (s.wheel r w).nfree = 0)
    ∧ TrapsOnSeq (.wpub h w) h none .wheelState (fun s r => (s.wheelNo r w).isSome = true ∧ (s.wheel r w).nclm = 0)
    ∧ TrapsOnSeq (.wrel h w) h none .wheelState (fun s r => (s.wheelNo r w).isSome = true ∧ (s.wheel r w).nfill = 0))

/-- R115, R171, R196, R197: PHASE ends its wait at once here and notes the TSC of a boundary at die scope or wider, or of an
acquire at a narrower one; FENCE.E issues, holds its agent until nothing of it is under way, and is an acquire then. -/
def Obligations.OrderResults : Prop :=
  ∀ h : Hdr,
    (∀ sc : Scope,
      DoesOnSeq (.phase h sc) h none (fun _ _ => True)
        (fun s r u => u.modSeq r fun q =>
          if sc = .strand ∨ sc = .cluster then { q with acq := s.tsc r.die } else { q with phase := s.tsc r.die })
      ∧ DoesOnHub (.phase h sc) h (fun _ _ => True)
        (fun s d u => u.modSeqAt (hubKey d) fun q =>
          if sc = .strand ∨ sc = .cluster then { q with acq := s.tsc d } else { q with phase := s.tsc d }))
    ∧ DoesOnSeq (.fenceE h) h none (fun s r => (s.seq r).lds = [] ∧ (s.seq r).cmds = []) (fun s r u =>
        u.modSeq r fun q => { q with acq := s.tsc r.die })
    ∧ DoesOnHub (.fenceE h) h (fun s d => (s.die d).fwd = []) (fun s d u =>
        u.modSeqAt (hubKey d) fun q => { q with acq := s.tsc d })
    ∧ HoldsOnSeq (.fenceE h) h none (fun _ _ => .fence) (fun _ _ => (0, 0, none))
        (fun s r => ¬ ((s.seq r).lds = [] ∧ (s.seq r).cmds = []))
    ∧ DoesOnHub (.fenceE h) h (fun s d => (s.die d).fwd ≠ []) (fun s d u =>
        u.heldBy (.hub d) .fence (s.heldOf (.hub d) (.fenceE h) 0 0 none))

/-! ### Tags (R84 to R89) -/

/-- R87: TAGB lands a binding one step later, TAGB.clr an inactive one. R89: TAGQ writes what the cadence entry of the tag
says, or all ones where there is none.  The model's choice (log entries 28 and 50): X[D] is written as TAGQ issues; selector 0 gives
ROTBASE + n * TROT + ARROFF modulo 2^64, with n = 0 for a tag that has never arrived. -/
def Obligations.TagResults : Prop :=
  ∀ (h : Hdr) (bd : BitVec 2) (d a b : Reg),
    LandsOnSeq (.tagb h bd a b) h none (.tag bd true) 1 (fun _ _ => true)
      (fun s _ => low32 (s.X b) ++ low32 (s.X a))
    ∧ LandsOnSeq (.tagbClr h bd) h none (.tag bd false) 1 (fun _ _ => true) (fun _ _ => 0)
    ∧ (∀ which : BitVec 2,
      DoesOnSeq (.tagq h d a which) h none (fun s _ => s.cadence? (low32 (s.X a)) = none)
        (fun s r u => u.putOn r d (BitVec.allOnes 64) ((s.seq r).no + 1))
      ∧ ∀ e : Cadence, DoesOnSeq (.tagq h d a which) h none (fun s _ => s.cadence? (low32 (s.X a)) = some e)
        (fun s r u => u.putOn r d
          (if which = 0 then BitVec.ofNat 64
              (s.chain.rotBase + (if e.seen then (e.lastRot.toNat + 1) % 2 ^ 32 else 0) * s.chain.trot + e.arroff.toNat)
           else if which = 1 then zext32 e.dwell
           else if which = 2 then BitVec.ofNat 64 (e.lastRot.toNat * 2 ^ 32 + e.size.toNat * 2 ^ 24
              + (if e.valid then 1 else 0) * 2 ^ 16 + (if e.missed then 1 else 0) * 2 ^ 17
              + (if e.lost then 1 else 0) * 2 ^ 18 + (if e.audit then 1 else 0) * 2 ^ 19 + e.nreg.toNat)
           else e.lastTsc) ((s.seq r).no + 1)))

/-- R88: WTAG delivers the first record that a binding matches: the arrival registers, the status word in X[D], and a branch to
the target of the binding, or BRANCH_UNPREPARED where that is not prepared; the records before it are gone.  With none it holds its
sequencer until its deadline, and with a timeout of 0 it ends with NONE at once. -/
def Obligations.ArrivalResults : Prop :=
  ∀ (h : Hdr) (d : Reg) (tmo : BitVec 16) (pre : List Arrival),
    let bound (s : State) (r : SeqRef) : Prop :=
      (∃ k < 4, (Tbl.get {} (s.strand (strandOf r)).binds k : Binding).active = true)
        ∧ ∀ y ∈ pre, s.bindingOf (strandOf r) y.tag = none
    (∀ (x : Arrival) (rest : List Arrival) (n : Nat),
      DoesOnSeq (.wtag h d tmo) h none
        (fun s r => bound s r ∧ (s.strand (strandOf r)).arrivals = pre ++ x :: rest ∧ s.bindingOf (strandOf r) x.tag = some n
          ∧ ((s.seq r).getB (BitVec.ofNat 2 n)).prep = true)
        (fun s r u => ((u.modStrand (strandOf r) fun t => { t with
              arrTag := x.tag, arrRot := x.rot, arrTsc := x.tsc, arrOvf := false, arrivals := rest }).modSeq r fun q =>
            { q with pc := ((s.seq r).getB (BitVec.ofNat 2 n)).target }).putOn r d
          ((zext32 x.tag <<< 32) |||
            BitVec.ofNat 64 (n * 16 + (if (s.strand (strandOf r)).arrOvf then 4 else 0) + s.arrivalStatus x))
          ((s.seq r).no + 1))
      ∧ TrapsOnSeq (.wtag h d tmo) h none .branchUnprepared fun s r =>
          bound s r ∧ (s.strand (strandOf r)).arrivals = pre ++ x :: rest ∧ s.bindingOf (strandOf r) x.tag = some n
            ∧ ((s.seq r).getB (BitVec.ofNat 2 n)).prep = false)
    ∧ HoldsOnSeq (.wtag h d tmo) h none
        (fun s r => .arrival (if tmo = 0xFFFF then none else some (s.tsc r.die + 64 * tmo.toNat)))
        (fun s r => (0, 0, if tmo = 0xFFFF then none else some (s.tsc r.die + 64 * tmo.toNat)))
        (fun s r => bound s r ∧ (s.strand (strandOf r)).arrivals = pre ∧ 0 < tmo.toNat)
        (fun _ r u => u.modStrand (strandOf r) fun t => { t with arrivals := [] })
    ∧ DoesOnSeq (.wtag h d 0) h none (fun s r => bound s r ∧ (s.strand (strandOf r)).arrivals = pre)
        (fun s r u => (u.modStrand (strandOf r) fun t => { t with arrivals := [] }).putOn r d 3 ((s.seq r).no + 1))
    ∧ TrapsOnSeq (.wtag h d tmo) h none .tagUnbound fun s r =>
        ∀ k < 4, (Tbl.get {} (s.strand (strandOf r)).binds k : Binding).active = false

/-! ### LDS and tuple requests (R118, R119, R126, R133, R139, R140) -/

/-- R103, R119: LDS translates its address before it issues and is then in flight, at most 16 to a sequencer; the oldest completes:
X[D] takes its bytes, extended, and its token is pushed, from a slab word of the sequencer's own die without an error; a word
that cannot be corrected stops the strand, and nothing is delivered. -/
def Obligations.LdsResults : Prop :=
  (∀ (h : Hdr) (sz : BitVec 2) (sg : Bool) (d a : Reg) (off : LdsOff) (pa : Nat),
    IssuesOnSeq (.lds h sz sg d a off) h (some .mem)
      (fun s r => s.translate (strandOf r) (s.X a + LdsOff.value off) (2 ^ sz.toNat) .read = .ok pa
        ∧ (s.seq r).lds.length < 16)
      (fun s r u => u.modSeq r fun q => { q with
        lds := q.lds ++ [⟨(s.seq r).pc, d, (s.X a + LdsOff.value off).setWidth 48, pa, 2 ^ sz.toNat, sg, h.pq,
          (s.seq r).no + 1⟩] })
    ∧ WaitsOnSeq (.lds h sz sg d a off) h (some .mem) .room (fun s r =>
        s.translate (strandOf r) (s.X a + LdsOff.value off) (2 ^ sz.toNat) .read = .ok pa ∧ 16 ≤ (s.seq r).lds.length)
    ∧ ∀ c : Cause, c ≠ .xlateMiss → TrapsOnSeq (.lds h sz sg d a off) h (some .mem) c fun s r =>
        s.translate (strandOf r) (s.X a + LdsOff.value off) (2 ^ sz.toNat) .read = .error c)
  ∧ ∀ (s : State) (r : SeqRef) (q : LdsReq) (rest : List LdsReq), (s.seq r).lds = q :: rest →
    (∀ t, q.pa / 0x80000000 = r.die → (1 ≤ q.size ∧ q.size ≤ 8) →
      (∀ w ∈ s.bad ++ s.weak, ¬ (w < q.pa + q.size ∧ q.pa < w + 8)) →
      ((s.modSeq r fun z => { z with lds := rest }).putOn r q.d
          (extended q.size q.sg (leNat (s.slabBytes q.pa q.size))) q.no).pushTok (strandOf r) q.post = some t →
      exec (.ldsComplete (.seq r)) s = .next t)
    ∧ ∀ w, s.badAt q.pa q.size = some w → exec (.ldsComplete (.seq r)) s = .next
        ((s.modSeq r fun z => { z with lds := rest }).raise r .sramUncorr .a 0 0 (BitVec.ofNat 64 w))

/-- R110, R126: TDEP, TCPY and TTAK send their request to the home slice of its class, or to the member that the handle
names, and hold their sequencer, WQ still unpopped, until it is accepted (R133); TCNL does so behind its WQ (R140).  A ninth request waits
for room, and a tuple or a pattern that is not well formed traps. -/
def Obligations.TupleRequests : Prop :=
  (∀ (h : Hdr) (nb : Bool) (d a b : Reg) (tmo label : BitVec 16)
      (x : Instr × BitVec 2 × AccKind × Nat × Nat × BitVec 16 × BitVec 16),
    x ∈ [(Instr.tdep h nb d a b, 0#2, AccKind.deposit, 128, 64, 0#16, 0#16),
         (.tcpy h nb d a b tmo label, 1, .copyTuple, 192, 72, tmo, label),
         (.ttak h nb d a b tmo label, 2, .take, 192, 72, tmo, label)] →
    ∀ (s : State) (r : SeqRef) (o : Nat) (bs : List Byte) (out : TupOut), s.mayIssue r x.1 h (some .mem) = true →
      s.tupleBlock (strandOf r) (s.X b) x.2.2.2.1 = .ok o →
      bs = (s.cluster r.die r.cl).spadBytes o x.2.2.2.2.1 →
      (s.seq r).tupCount < 8 → (if x.2.1 = 0 then tupleOk bs else patternOk bs) = true →
      out = { req := s.nextReq, ins := x.1, addr := (s.seq r).pc, cls := BitVec.ofNat 16 (nat bs 0 2), captA := s.X a,
              captB := s.X b, accepted := false, no := (s.seq r).no + 1 } →
        (∀ die rid, s.handle (strandOf r) (s.X a) x.2.2.1 = .ok (.home die rid) →
            exec x.1 s = .next ((({ (s.modCluster r.die r.cl fun c => c.takePermit .mem) with
                nextReq := s.nextReq + 1 }.waits r x.1 .held).modSeq r fun q => { q with tup := q.tup ++ [out] }).reach die rid
              ⟨x.2.1, nb, out.cls, x.2.2.2.2.2.1, x.2.2.2.2.2.2, (s.X a).setWidth 48, s.ctxOf (strandOf r), .seq r,
                s.nextReq, bs, s.tsc die, none⟩))
        ∧ ∀ mid, s.handle (strandOf r) (s.X a) x.2.2.1 = .ok (.far mid) →
            exec x.1 s = .next ((({ (s.modCluster r.die r.cl fun c => c.takePermit .mem) with
                nextReq := s.nextReq + 1 }.waits r x.1 .held).modSeq r fun q => { q with
                  tup := q.tup ++ [{ out with remote := some mid, since := s.tsc r.die }] }).send
              (.tspreq mid ⟨x.2.1, nb, out.cls, x.2.2.2.2.2.1, x.2.2.2.2.2.2, (s.X a).setWidth 48, s.ctxOf (strandOf r),
                s.rqid r, BitVec.ofNat 32 s.nextReq, bs⟩)))
  ∧ (∀ (h : Hdr) (nb : Bool) (d a b : Reg) (tmo label : BitVec 16) (x : Instr × AccKind × Nat × Nat),
    x ∈ [(Instr.tdep h nb d a b, AccKind.deposit, 128, 64), (.tcpy h nb d a b tmo label, .copyTuple, 192, 72),
         (.ttak h nb d a b tmo label, .take, 192, 72)] →
    ∀ (tg : Target) (o : Nat),
      WaitsOnSeq x.1 h (some .mem) .room (fun s r => s.handle (strandOf r) (s.X a) x.2.1 = .ok tg
        ∧ s.tupleBlock (strandOf r) (s.X b) x.2.2.1 = .ok o ∧ 8 ≤ (s.seq r).tupCount)
      ∧ TrapsOnSeq x.1 h (some .mem) .tuplePattern fun s r => s.handle (strandOf r) (s.X a) x.2.1 = .ok tg
        ∧ s.tupleBlock (strandOf r) (s.X b) x.2.2.1 = .ok o ∧ (s.seq r).tupCount < 8
        ∧ (let bs := (s.cluster r.die r.cl).spadBytes o x.2.2.2
           (if x.2.1 = .deposit then tupleOk bs else patternOk bs) = false))
  ∧ ∀ (h : Hdr) (d a b : Reg) (die rid : Nat),
    IssuesOnSeq (.tcnl h d a b) h (some .mem)
      (fun s r => s.handle (strandOf r) (s.X a) .cancel = .ok (.home die rid) ∧ field (s.X b) 0 16 ≠ 0
        ∧ field (s.X b) 32 32 = 0)
      (fun s r u => ((({ u with nextReq := s.nextReq + 1 } : State).waits r (.tcnl h d a b) .held).modSeq r fun q => { q with
          tup := q.tup ++ [{ req := s.nextReq, ins := .tcnl h d a b, addr := (s.seq r).pc, cls := (s.X b).setWidth 16,
                             captA := s.X a, captB := s.X b, accepted := false, no := (s.seq r).no + 1 }] }).reach die rid
        ⟨3, false, (s.X b).setWidth 16, 0, (s.X b).extractLsb' 16 16, (s.X a).setWidth 48, s.ctxOf (strandOf r), .seq r,
          s.nextReq, [], s.tsc die, none⟩)

/-- R120, R124, R127 to R130, R140: what a home slice does with the request at its head: one whose region has gone completes with
CANCELLED, one whose region has come back with another home goes on there; a match is copied or taken, an unmatched
request parks until its deadline or answers NONE, a deposit serves the parked requests that it matches or is stored, a
cancellation completes the parked requests of its strand and label; an expired one completes with NONE. -/
def Obligations.TupleService : Prop :=
  ∀ (s : State) (die sl : Nat) (q : TupReq) (rest : List TupReq) (rid : Nat) (g : Region),
    ((s.slice die sl).queue = q :: rest → (s.slice die sl).badTuples = [] →
      ((s.modSlice die sl fun x => { x with queue := rest }).regionOf die q = none → q.kind ≠ 3 →
        ∀ i ∈ [Instr.tupleTakeService die sl, .tupleDepositService die sl],
          (i = .tupleDepositService die sl ↔ q.kind = 0) → exec i s = .next
            ((s.modSlice die sl fun x => { x with queue := rest }).answer q.who q.req (.done 3 [])))
      ∧ (∀ d, (s.modSlice die sl fun x => { x with queue := rest }).regionOf die q = some (d, rid, g) →
        (d ≠ die ∨ homeSlice q.cls rid ≠ sl) →
        ∀ i ∈ [Instr.tupleTakeService die sl, .tupleDepositService die sl, .tupleCancelService die sl],
          (i = .tupleDepositService die sl ↔ q.kind = 0) → (i = .tupleCancelService die sl ↔ q.kind = 3) →
          exec i s = .next ((s.modSlice die sl fun x => { x with queue := rest }).reach d rid { q with came := s.tsc d }))
      ∧ ((s.modSlice die sl fun x => { x with queue := rest }).regionOf die q = some (die, rid, g) →
        homeSlice q.cls rid = sl →
        (∀ t, (q.kind = 1 ∨ q.kind = 2) → (s.slice die sl).oldest rid q.block = some t →
          exec (.tupleTakeService die sl) s = .next
            ((if q.kind = 2 then
                (((s.modSlice die sl fun x => { x with queue := rest }).modSlice die sl fun x =>
                  { x with stored := x.stored.filter fun u => u != t }).addCount die rid (· - 1))
              else s.modSlice die sl fun x => { x with queue := rest }).answer q.who q.req
              (.done (BitVec.ofNat 64 (t.seq.toNat * 2 ^ 32)) (stampBytes t.tsc.toNat t.seq sl die ++ t.tuple))))
        ∧ ((q.kind = 1 ∨ q.kind = 2) → (s.slice die sl).oldest rid q.block = none → q.timeout = 0 →
          exec (.tupleTakeService die sl) s = .next
            ((s.modSlice die sl fun x => { x with queue := rest }).answer q.who q.req (.done 1 [])))
        ∧ ((q.kind = 1 ∨ q.kind = 2) → (s.slice die sl).oldest rid q.block = none → q.timeout ≠ 0 →
          (s.slice die sl).parked.length < 256 →
          exec (.tupleTakeService die sl) s = .next
            (((s.modSlice die sl fun x => { x with queue := rest }).modSlice die sl fun x => { x with parked := x.parked ++
                [{ q with deadline := if q.timeout = 0xFFFF then none else some (s.tsc die + 64 * q.timeout.toNat) }] }).answer
              q.who q.req .parked))
        ∧ (q.kind = 0 → (∀ p ∈ (s.slice die sl).parked, ¬ (p.base = q.base ∧ p.ctx = q.ctx
              ∧ tupleMatches q.block p.block = true)) → g.count < g.cap.toNat →
          exec (.tupleDepositService die sl) s = .next
            ((((s.modSlice die sl fun x => { x with queue := rest }).modSlice die sl fun x => { x with
                seq := x.seq + 1, stored := x.stored ++ [⟨rid, BitVec.ofNat 64 (s.tsc die), x.seq, q.block, sl⟩] }).addCount
                die rid (· + 1)).answer q.who q.req
              (.done (BitVec.ofNat 64 ((s.slice die sl).seq.toNat * 2 ^ 32))
                (stampBytes (s.tsc die) (s.slice die sl).seq sl die))))
        ∧ ∀ p, q.kind = 0 → (s.slice die sl).parked.find? (fun p => p.kind == 2 && (p.base == q.base && p.ctx == q.ctx
              && tupleMatches q.block p.block)) = some p →
          (∀ y ∈ (s.slice die sl).parked, y.kind = 1 → ¬ (y.base = q.base ∧ y.ctx = q.ctx
              ∧ tupleMatches q.block y.block = true)) →
          exec (.tupleDepositService die sl) s = .next
            ((((s.modSlice die sl fun x => { x with queue := rest }).modSlice die sl fun x => { x with
                seq := x.seq + 1, parked := x.parked.filter fun y => y != p }).answer p.who p.req
                (.done (BitVec.ofNat 64 ((s.slice die sl).seq.toNat * 2 ^ 32 + 8))
                  (stampBytes (s.tsc die) (s.slice die sl).seq sl die ++ q.block))).answer q.who q.req
              (.done (BitVec.ofNat 64 ((s.slice die sl).seq.toNat * 2 ^ 32 + 8))
                (stampBytes (s.tsc die) (s.slice die sl).seq sl die))))
      ∧ (q.kind = 3 →
          ((s.modSlice die sl fun x => { x with queue := rest }).regionOf die q = none
            ∨ ((s.modSlice die sl fun x => { x with queue := rest }).regionOf die q = some (die, rid, g)
              ∧ homeSlice q.cls rid = sl)) →
          exec (.tupleCancelService die sl) s = .next
            ((((s.slice die sl).parked.filter fun p =>
                p.who.strandId s.chain.self == q.who.strandId s.chain.self && (q.label == 0 || p.label == q.label)).foldl
              (fun a p => a.answer p.who p.req (.done 11 []))
              ((s.modSlice die sl fun x => { x with queue := rest }).modSlice die sl fun x => { x with
                parked := x.parked.filter fun p => !(p.who.strandId s.chain.self == q.who.strandId s.chain.self
                  && (q.label == 0 || p.label == q.label)) })).answer q.who q.req
              (.done (BitVec.ofNat 64 ((s.slice die sl).parked.filter fun p =>
                p.who.strandId s.chain.self == q.who.strandId s.chain.self
                  && (q.label == 0 || p.label == q.label)).length) []))))
    ∧ exec (.tupleParkExpire die sl) s = .next
        (((s.slice die sl).parked.filter fun p => p.deadline.any fun d => decide (d ≤ s.tsc die)).foldl
          (fun a p => a.answer p.who p.req (.done 9 []))
          (s.modSlice die sl fun x => { x with
            parked := x.parked.filter fun p => !(p.deadline.any fun d => decide (d ≤ s.tsc die)) }))

/-- R133, R135, R136: a completion writes the status word to X[D] and a request DONE its block, and an unmasked UNREACH stops its
strand; a request to another member that hears nothing for two windows completes with UNREACH; a refused one is sent again after 64
cycles, accepted as it was. -/
def Obligations.TupleCompletions : Prop :=
  ∀ (s : State) (req : Nat) (r : SeqRef) (o : TupOut), s.findTup req = some (r, o) →
    (∀ (st : BitVec 64) (out : List Byte) (t : State) (tm : Team), o.done = some (st, out) →
      s.team? (strandOf r) = some tm →
      ((if st.toNat % 8 ≠ 0 ∨ (o.ins matches .tcnl ..) = true then s
        else s.modCluster r.die r.cl fun c =>
          let k := c.putSpad (tm.spadBase + (o.captB.toNat - windowBase) + 80) (out.take 16)
          if (o.ins matches .tcpy .. | .ttak ..) = true then
            k.putSpad (tm.spadBase + (o.captB.toNat - windowBase) + 128) ((out.drop 16).take 64)
          else k).modSeq r fun z =>
        ({ z with tup := z.tup.filter fun t => t.req != o.req }).putX ((o.ins.toRaw.map Raw.d).getD 0) st o.no
          s.cycles).pushTok (strandOf r) (hdrOf o.ins).pq = some t →
      exec (.tupleComplete req) s = .next
        (if st.toNat % 8 = 4 ∧ (o.ins matches .tcnl ..) = false ∧ t.masked (strandOf r) .remoteTimeout = false then
          t.raise r .remoteTimeout .d o.addr 0 0
         else t))
    ∧ (∀ mid, o.remote = some mid → o.done = none → o.heard = false → o.stopping = false → o.since + 8192 ≤ s.tsc r.die →
      exec (.tupleRemoteTimeout req) s = .next
        (s.answerTup r req (.done (if (o.ins matches .tcnl ..) = true then 0 else 4) [])))
    ∧ ∀ d, o.resendAt = some d → o.done = none → d ≤ s.tsc r.die → exec (.tupleResend req) s = .next (s.resendTup r o)

/-! ### The copy engine (R141 to R161) -/

/-- R149, R151, R153, R157, R166: a copy instruction whose checks hold issues into the copy queue of its sequencer, with its
registers and TID entries; CPY of two runs that meet traps. -/
def Obligations.CopyQueueResults : Prop :=
  ∀ (h : Hdr) (d a b : Reg) (tn tm : BitVec 8) (x y : BitVec 512) (ts : List (BitVec 512)),
    QueuesOnSeq (.cpy h d a b) h (some .mem) .copy 16
      (fun s _ => field (s.X b) 0 32 = 0 ∨ (s.X a).toNat + field (s.X b) 0 32 ≤ (s.X d).toNat
        ∨ (s.X d).toNat + field (s.X b) 0 32 ≤ (s.X a).toNat) (regs3 d a b) [] 0
    ∧ TrapsOnSeq (.cpy h d a b) h (some .mem) .regionOverlap
      (fun s _ => field (s.X b) 0 32 ≠ 0 ∧ (s.X d).toNat < (s.X a).toNat + field (s.X b) 0 32
        ∧ (s.X a).toNat < (s.X d).toNat + field (s.X b) 0 32)
    ∧ QueuesOnSeq (.cpyt h tn tm d a b) h (some .mem) .copy 16
      (fun s r => s.boxTids r tn tm = .ok ts ∧ cpytCheck (boxOf ts (s.X d) (s.X a) (s.X b)) = none) (regs3 d a b) ts 0
    ∧ (∀ pos : Bool,
      QueuesOnSeq (.gath h pos tn tm d a b) h (some .mem) .copy 16
        (fun s r => s.rowEarly r pos (s.X a) (field (s.X b) 0 32) = none ∧ s.useTid r tn.toNat = .ok x
          ∧ s.useTid r tm.toNat = .ok y
          ∧ rowLate (rowOf true pos [x, y]) (s.X d) (s.X a) (field (s.X b) 0 32) = none) (regs3 d a b) [x, y] 0
      ∧ QueuesOnSeq (.scat h pos tn tm d a b) h (some .mem) .copy 16
        (fun s r => s.rowEarly r pos (s.X a) (field (s.X b) 0 32) = none ∧ s.useTid r tn.toNat = .ok x
          ∧ s.useTid r tm.toNat = .ok y
          ∧ rowLate (rowOf false pos [x, y]) (s.X d) (s.X a) (field (s.X b) 0 32) = none) (regs3 d a b) [x, y] 0)
    ∧ (∀ (sr sat : Bool) (rm : RMode) (pos app tr : Bool) (n : Nat),
      QueuesOnSeq (.cpyx h sr sat rm pos app tr tn tm d a b) h (some .mem) .copy 16
        (fun s r => (pos && posStray (s.X b)) = false ∧ s.boxTids r tn tm = .ok ts
          ∧ xCheck (xOf sr sat rm pos app tr ts (s.X d) (s.X a) (s.X b)) (s.X b) = none
          ∧ n = (if sr then (boxOf ts (s.X d) (s.X a) (s.X b)).e.foldl (· * ·) 1 else 0)) (regs3 d a b) ts n)
    ∧ ∀ (acc : Bool) (rm : RMode) (f : Fmt), f = .fp32 ∨ f = .bf16 →
      QueuesOnSeq (.cpyr h acc rm f d a b) h (some .mem) .copy 16
        (fun s _ => (s.X a).toNat % f.size = 0 ∧ (acc = false → (s.X d).toNat % 4 = 0)) (regs3 d a b) [] 0

/-- R92: a LAND that its checks let through issues, and with an arrival of its tag on its die it has its target rotation
from then on. -/
def Obligations.LandIssues : Prop :=
  ∀ (h : Hdr) (f : Fmt) (d a b : Reg) (mac : BitVec 6) (slot cnt : BitVec 3) (l : LandCmd),
    landOf (.land h f d a b mac slot cnt) = some l →
    IssuesOnSeq (.land h f d a b mac slot cnt) h (some .mem)
      (fun s r => l.early = none ∧ s.landLate (strandOf r) l (low32 (s.X a)) (s.X b).toNat = none)
      (fun s r u => ({ u with nextCmd := s.nextCmd + 1 } : State).modSeq r fun q => { q with landQ := q.landQ ++
        [{ ins := .land h f d a b mac slot cnt, seqNo := s.nextCmd, addr := (s.seq r).pc, xd := 0, xa := s.X a, xb := s.X b,
           target := s.landTarget r.die (low32 (s.X a)), head := some (s.tsc r.die), no := (s.seq r).no + 1 }] })
    ∧ (∀ c, l.early = some c → TrapsOnSeq (.land h f d a b mac slot cnt) h (some .mem) c fun _ _ => True)
    ∧ (l.early = none → ∀ c, TrapsOnSeq (.land h f d a b mac slot cnt) h (some .mem) c fun s r =>
        s.landLate (strandOf r) l (low32 (s.X a)) (s.X b).toNat = some c)

/-- R141 to R143, R199, R202, R225: the unit events of the engines: a command without units left completes; else one unit
of the head of the queue is performed by its body, and traps or is committed; the units of a copy or a drain that hold one MX group
among them are performed at one moment (R293). -/
def Obligations.UnitResults : Prop :=
  ∀ (s : State) (r : SeqRef) (c : Cmd) (rest : List Cmd), (s.strand (strandOf r)).stop = .running →
    (∀ (n : Nat) (c' : Cmd) (t : State), (s.seq r).copyQ = c :: rest → (c.ins matches .cpyr ..) = false →
      copyRun c = n + 1 → t = (if copyUnits c ≤ c.pix then s.completeCmd r .copy c
        else s.unitDone r .copy c copyUnits (copyStep c) ((copyBody c.ins).run ⟨s, r, c⟩)) →
      (t.seq r).copyQ.head? = some c' → c'.seqNo = c.seqNo → c.pix < c'.pix → c'.pix % (n + 1) ≠ 0 →
      exec (.copyUnit (.seq r)) s = .next (t.doUnits r .copy copyUnits copyStep (copyBody c.ins) (n + 1) n))
    ∧ ∀ (i : Instr) (e : Engine) (units step : Cmd → Nat) (body : EM Bool),
      (i = .copyUnit (.seq r) ∧ e = .copy ∧ units = copyUnits ∧ step = copyStep ∧ body = copyBody c.ins
          ∧ (c.ins matches .cpyr ..) = false ∧ copyRun c = 1)
        ∨ (∃ v, i = .vectorUnit (.seq r) ∧ e = .vector
            ∧ (units = fun k => (k.vec.map VCmd.units).getD 0) ∧ (step = fun _ => 1) ∧ c.vec = some v ∧ body = vecUnit v)
        ∨ (i = .aclrUnit (.seq r) ∧ e = .matrix ∧ (c.ins matches .aclr ..) = true
            ∧ (units = fun k => (field k.xb 0 18 + 255) / 256) ∧ (step = fun _ => 1) ∧ body = aclrUnit)
        ∨ (∃ h sr sat rm clr tr tn d a b lda, i = .drainUnit (.seq r) ∧ e = .matrix
            ∧ c.ins = .adrn h sr sat rm clr tr tn d a b lda
            ∧ (units = fun _ => (drainOf (c.tids.getD 0 0) c.xd c.xa c.xb tr lda).units) ∧ (step = fun _ => 1)
            ∧ body = drainUnit (drainOf (c.tids.getD 0 0) c.xd c.xa c.xb tr lda) sr sat rm clr tn.toNat
            ∧ ((drainOf (c.tids.getD 0 0) c.xd c.xa c.xb tr lda).t.fmt.isMx = false
              ∨ (drainOf (c.tids.getD 0 0) c.xd c.xa c.xb tr lda).rows = 1))
        ∨ (∃ h tq d a, i = .attentionPerform (.seq r) ∧ e = .matrix ∧ c.ins = .atq h tq d a ∧ (units = fun _ => 1)
            ∧ (step = fun _ => 1) ∧ body = atqUnit)
        ∨ (∃ h tk tv a b, i = .attentionPerform (.seq r) ∧ e = .matrix ∧ c.ins = .ats h tk tv a b ∧ (units = fun _ => 1)
            ∧ (step = fun _ => 1) ∧ body = atsUnit)
        ∨ (∃ h u a b, i = .attentionPerform (.seq r) ∧ e = .matrix ∧ c.ins = .atf h u a b ∧ (units = fun _ => 1)
            ∧ (step = fun _ => 1) ∧ body = atfUnit u) →
      (s.seq r).queue e = c :: rest →
      exec i s = .next (if units c ≤ c.pix then s.completeCmd r e c
        else s.unitDone r e c units (step c) (body.run ⟨s, r, c⟩))

/-- R150, R234: a unit of CPY between two runs of the scratchpad copies its up to 256 bytes; a unit of ACLR writes its up
to 256 accumulator words +0.0, clears their poison, and leaves the others. -/
def Obligations.UnitBytes : Prop :=
  (∀ (s : State) (r : SeqRef) (c : Cmd) (rest : List Cmd) (h : Hdr) (d a b : Reg) (t : Team) (x y n : Nat),
    (s.strand (strandOf r)).stop = .running → (s.seq r).copyQ = c :: rest → c.ins = .cpy h d a b →
    s.team? (strandOf r) = some t → t.spb ≤ 0x200000 → n = field c.xb 0 32 → 256 * c.pix < n →
    c.xa.toNat = 0xFF0000000000 + x → c.xd.toNat = 0xFF0000000000 + y → x + n ≤ t.spb → y + n ≤ t.spb →
    wordHit (s.cluster r.die r.cl).badSpad (t.spadBase + (x + 256 * c.pix)) (min 256 (n - 256 * c.pix)) = none →
    exec (.copyUnit (.seq r)) s = .next
      (let u := (s.modCluster r.die r.cl fun k => k.putSpad (t.spadBase + (y + 256 * c.pix))
            (k.spadBytes (t.spadBase + (x + 256 * c.pix)) (min 256 (n - 256 * c.pix)))).setHead r .copy
          { c with pix := c.pix + 1 }
       if n ≤ 256 * (c.pix + 1) then u.completeCmd r .copy { c with pix := c.pix + 1 } else u))
  ∧ ∀ (s : State) (r : SeqRef) (c : Cmd) (rest : List Cmd) (h : Hdr) (a b : Reg) (lo n : Nat),
    (s.strand (strandOf r)).stop = .running → (s.seq r).matQ = c :: rest → c.ins = .aclr h a b →
    lo = field c.xa 0 17 → n = field c.xb 0 18 → 256 * c.pix < n →
    ∃ t, exec (.aclrUnit (.seq r)) s = .next t ∧ SameMem s t ∧ ∀ w,
      ((t.cluster r.die r.cl).accWord w, (t.cluster r.die r.cl).isPoisoned w) =
        if lo + 256 * c.pix ≤ w ∧ w < lo + min n (256 * (c.pix + 1)) then (0, false)
        else ((s.cluster r.die r.cl).accWord w, (s.cluster r.die r.cl).isPoisoned w)

/-! ### The vector unit (R199 to R221) -/

/-- R199, R203 to R205: every vector instruction that queues a command does so where its format, its regions and, for VAMX,
its TID pass, with a special-function permit for VSF and a vector permit for the others; VCVT.sr reserves a word for each
element (R211); of a count of 0 the format alone is checked (R204). -/
def Obligations.VectorQueueResults : Prop :=
  ∀ (h : Hdr) (f g : Fmt) (rm : RMode) (sat sr : Bool) (moff : BitVec 15) (tid : BitVec 8) (d a b : Reg) (v : VecLit)
    (u : VecLit2) (w : VecLitA) (y : VecLitD),
    ∀ x ∈ vectorInstrs h f g rm sat sr moff tid d a b v u w y, ∀ m : VCmd → Permit,
      (m = fun k => if k.sfu then Permit.sfu else Permit.vec) →
      (∀ k : VCmd,
        QueuesOnSeq x.1 h (some (m k)) .vector 8
          (fun s r => vecOf x.1 (s.X x.2.1) (s.X x.2.2.1) (s.X x.2.2.2) 0 = some k ∧ k.early (s.team? (strandOf r)) = none
            ∧ k.late s r = none)
          (regs3 x.2.1 x.2.2.1 x.2.2.2) []
          (match x.1 with
            | .vcvt _ _ _ _ _ true _ _ l => l.count.toNat
            | _ => 0))
      ∧ (∀ s : State, (vecOf x.1 (s.X x.2.1) (s.X x.2.2.1) (s.X x.2.2.2) 0).isSome = true)
      ∧ ∀ (k : VCmd) (c : Cause), TrapsOnSeq x.1 h (some (m k)) c fun s r =>
          vecOf x.1 (s.X x.2.1) (s.X x.2.2.1) (s.X x.2.2.2) 0 = some k ∧ k.early (s.team? (strandOf r)) = some c

/-- R208, R209, R211: what the vector unit computes of integer elements of `n` bits: sums, differences and products wrap, or
clamp with .sat to the ends of the signed range; AND, OR and XOR are bitwise; shifts take the amount modulo `n`, to the right with the
sign; and of floating elements: the lesser and the
greater encoding, the canonical NaN where one is NaN, absolute value and negation. -/
def Obligations.VectorValues : Prop :=
  (∀ (f : Fmt) (n : Nat) (rm : RMode) (a b : Nat), (f = .i32 ∧ n = 32) ∨ (f = .i8 ∧ n = 8) → a < 2 ^ n → b < 2 ^ n →
    VBin.eval .add f rm false a b = ⟨(a + b) % 2 ^ n, none⟩
    ∧ VBin.eval .sub f rm false a b = ⟨(a + 2 ^ n - b) % 2 ^ n, none⟩
    ∧ VBin.eval .mul f rm false a b = ⟨a * b % 2 ^ n, none⟩
    ∧ VBin.eval .shl f rm false a b = ⟨a * 2 ^ (b % n) % 2 ^ n, none⟩
    ∧ (∀ sat, VBin.eval .and f rm sat a b = ⟨a &&& b, none⟩ ∧ VBin.eval .or f rm sat a b = ⟨a ||| b, none⟩
        ∧ VBin.eval .xor f rm sat a b = ⟨a ^^^ b, none⟩)
    ∧ (∀ (sg : Nat → Int) (clamp : Int → Nat),
        (∀ x, sg x = if x < 2 ^ (n - 1) then (x : Int) else x - 2 ^ n) →
        (∀ z : Int, clamp z = if 2 ^ (n - 1) ≤ z then 2 ^ (n - 1) - 1 else if z < -2 ^ (n - 1) then 2 ^ (n - 1)
          else if 0 ≤ z then z.toNat else (z + 2 ^ n).toNat) →
        VBin.eval .add f rm true a b = ⟨clamp (sg a + sg b), none⟩
        ∧ VBin.eval .sub f rm true a b = ⟨clamp (sg a - sg b), none⟩
        ∧ VBin.eval .mul f rm true a b = ⟨clamp (sg a * sg b), none⟩)
    ∧ (∀ sat, VBin.eval .shr f rm sat a b =
        ⟨if a < 2 ^ (n - 1) then a / 2 ^ (b % n) else 2 ^ n - 2 ^ (n - b % n) + a / 2 ^ (b % n), none⟩)
    ∧ (a = 2 ^ (n - 1) → vSign f true false a = ⟨2 ^ (n - 1) - 1, none⟩ ∧ vSign f false false a = ⟨a, none⟩))
  ∧ ∀ (f : Fmt) (rm : RMode) (sat : Bool) (a b : Nat), f = .fp32 ∨ f = .bf16 ∨ f = .fp16 ∨ f = .e4m3 ∨ f = .e5m2 →
    ((f.decode a).isNaN = true ∨ (f.decode b).isNaN = true →
      VBin.eval .min f rm sat a b = ⟨f.nanBits, none⟩ ∧ VBin.eval .max f rm sat a b = ⟨f.nanBits, none⟩)
    ∧ ((f.decode a).isNaN = false → (f.decode b).isNaN = false → (f.decode a).lt (f.decode b) = true →
      VBin.eval .min f rm sat a b = ⟨a, none⟩ ∧ (f.decode b).lt (f.decode a) = false ∧
      VBin.eval .max f rm sat a b = ⟨b, none⟩)
    ∧ ((f.decode a).isNaN = true → vSign f sat false a = ⟨f.nanBits, none⟩ ∧ vSign f sat true a = ⟨f.nanBits, none⟩)
    ∧ ((f.decode a).isNaN = false →
      vSign f sat false a = ⟨a % 2 ^ (f.elemBits - 1), none⟩ ∧ vSign f sat true a = ⟨a ^^^ 2 ^ (f.elemBits - 1), none⟩)

/-- R219 to R221: VRED reads its elements and forms T at issue, and combines it with its latch 8 steps and one for each
group of lanes later, or does nothing for a count of 0; ZGET reads a latch, ZSET and ZCLR write one, after one step. -/
def Obligations.LatchResults : Prop :=
  ∀ (h : Hdr) (f : Fmt) (rm : RMode) (z : BitVec 2) (d a : Reg) (v : VecLitA),
    (∀ x ∈ [(Instr.vrsum h f rm z a v, LandOp.vsum rm, redSum rm), (.vrmax h f rm z a v, .vmax, redPick rm true),
            (.vrmin h f rm z a v, .vmin, redPick rm false)],
      LandsOnSeq x.1 h (some .vec) (.z z) (8 + (v.count.toNat + lanesOf f - 1) / lanesOf f)
        (fun s r => decide (v.count ≠ 0) && !f.blocked
          && (regionCause (s.team? (strandOf r)) [⟨⟨s.X a, v.sa.toNat, f.size⟩, v.count.toNat, false⟩]).isNone
          && (List.range v.count.toNat).all fun n => (wordHit (s.cluster r.die r.cl).badSpad
            ((⟨s.X a, v.sa.toNat, f.size⟩ : Rgn).spad (s.team? (strandOf r)) + (⟨s.X a, v.sa.toNat, f.size⟩ : Rgn).off n)
            f.size).isNone)
        (fun s r => zext32 (x.2.2 (((⟨s.X a, v.sa.toNat, f.size⟩ : Rgn).read (s.team? (strandOf r))
          (s.cluster r.die r.cl) (List.range v.count.toNat)).map f.decode))) x.2.1
      ∧ DoesOnSeq x.1 h (some .vec) (fun _ _ => v.count = 0 ∧ f.blocked = false) (fun _ _ u => u)
      ∧ TrapsOnSeq x.1 h (some .vec) .formatIllegal fun _ _ => f.blocked = true)
    ∧ LandsOnSeq (.zget h d z) h none (.x d) 1 (fun _ _ => true)
        (fun s r => zext32 (Tbl.get 0 (s.cluster r.die r.cl).z z.toNat))
    ∧ LandsOnSeq (.zset h z a) h none (.z z) 1 (fun _ _ => true) (fun s _ => s.X a)
    ∧ LandsOnSeq (.zclr h z) h none (.z z) 1 (fun _ _ => true) (fun _ _ => 0)

/-! ### The matrix engine (R222 to R241, R257 to R259) -/

/-- R227, R229, R234 to R236, R238 to R241: a matrix instruction whose checks hold issues into the matrix queue of its
sequencer; the model's choice (log entries 18 and 78): an ATF is checked at issue for the alignment of its bases alone; MMAK without popping its WQ; ACLR and ADRN without a permit. -/
def Obligations.MatrixQueueResults : Prop :=
  ∀ (h : Hdr) (a b d : Reg) (tA tB : BitVec 8) (ts : List (BitVec 512)) (lst zr : Bool) (rm : RMode) (ml : MmaLit)
    (off : BitVec 11) (m : MmCmd) (e : BitVec 512),
    (mmOf (.mma h lst zr rm tA tB a b ml) = some m →
      QueuesOnSeq (.mma h lst zr rm tA tB a b ml) h (some .mat) .matrix 8
        (fun s r => (field (s.X b) 0 16 = 0 ∧ ts = [])
          ∨ (field (s.X b) 0 16 ≠ 0 ∧ m.mac0 + m.kt * m.nt ≤ 64
            ∧ s.mmCheck r m tA tB (low32 (s.X 0)) (s.X a) (s.X b) = .ok ts)) (regs3 0 a b) ts 0
      ∧ TrapsOnSeq (.mma h lst zr rm tA tB a b ml) h (some .mat) .operandReserved
        fun s _ => field (s.X b) 0 16 ≠ 0 ∧ 64 < m.mac0 + m.kt * m.nt)
    ∧ (mmOf (.mmak h lst zr rm tA tB d a b ml off) = some m →
      QueuesOnSeq (.mmak h lst zr rm tA tB d a b ml off) { h with wq := none } (some .mat) .matrix 8
        (fun s r => h.wq.all (fun q => s.isConsumer r q) = true
          ∧ ((field (s.X b) 0 16 = 0 ∧ ts = [])
            ∨ (field (s.X b) 0 16 ≠ 0 ∧ m.mac0 + m.kt * m.nt ≤ 64
              ∧ s.mmCheck r m tA tB (low32 (s.X d)) (s.X a) (s.X b) = .ok ts))) (regs3 d a b) ts 0)
    ∧ QueuesOnSeq (.aclr h a b) h none .matrix 8 (fun s _ => field (s.X a) 0 17 + field (s.X b) 0 18 ≤ 131072)
        (fun s => (0, s.X a, s.X b)) [] 0
    ∧ TrapsOnSeq (.aclr h a b) h none .addrRange (fun s _ => 131072 < field (s.X a) 0 17 + field (s.X b) 0 18)
    ∧ (∀ (sr sat clr tr : Bool) (tn : BitVec 8) (lda : BitVec 17) (n : Nat),
      QueuesOnSeq (.adrn h sr sat rm clr tr tn d a b lda) h none .matrix 8
        (fun s r => s.useTid r tn.toNat = .ok e
          ∧ (drainOf e (s.X d) (s.X a) (s.X b) tr lda).check (s.team? (strandOf r)) = none
          ∧ n = (if sr then field (s.X b) 0 16 * field (s.X b) 16 16 else 0)) (regs3 d a b) [e] n)
    ∧ QueuesOnSeq (.atq h tA d a) h (some .mat) .matrix 8
        (fun s r => s.attnCheck r [tA] (field (s.X a) 0 32) (field (s.X a) 32 7) = .ok ts) (regs3 d a 0) ts 0
    ∧ QueuesOnSeq (.ats h tA tB a b) h (some .mat) .matrix 8
        (fun s r => s.attnCheck r [tA, tB] (field (s.X a) 0 32) (field (s.X b) 0 32) = .ok ts) (regs3 0 a b) ts 0
    ∧ ∀ u : Bool, QueuesOnSeq (.atf h u a b) h (some .mat) .matrix 8
        (fun s _ => field (s.X a) 0 17 % 64 = 0 ∧ field (s.X b) 0 17 % 2 = 0) (regs3 0 a b) [] 0

/-- R222, R223, R225, R230 to R232, R249, R250, R253: a unit of MMA, or of an MMAK that has begun and whose tiles have landed, is
performed by its body on rails that stand as its FID asks; another FID moves the rails first, for one unit at a time.  A resumed
command whose tiles have gone, and an MMAK whose slots do not come any more, trap with LAND_SLOT.  An MMAK at the head of its queue
takes the rotation that arrived last if its start time has not passed, else the next; at its start time it pops WQ and begins, or
completes with SCHEDULE_MISS; of a rotation that is LOST or MISSED it completes with that. -/
def Obligations.MatrixEvents : Prop :=
  ∀ (s : State) (r : SeqRef) (c c' : Cmd) (rest : List Cmd) (m : MmCmd) (f : BitVec 2) (s' : State),
    (s.strand (strandOf r)).stop = .running → (s.seq r).matQ = c :: rest → mmOf c.ins = some m →
    f = (if (s.cluster r.die r.cl).raised then 0 else c.fid) →
    c' = (if c.tiles = [] ∧ (m.keys.all fun k => ((s.cluster r.die r.cl).tile k).v) = true then
        { c with tiles := tileKeys m (s.cluster r.die r.cl) } else c) →
    s' = (s.setHead r .matrix c').modCluster r.die r.cl (fun k => { k with lastFid := f, railFor := none }) →
    let done : State → Cmd → State := fun t k => if m.keyed then t.mmakEnd r k m 0 none else t.completeCmd r .matrix k
    let gone : Prop := c.recheck = true ∧ c.tiles ≠ [] ∧ c.tiles ≠ tileKeys m (s.cluster r.die r.cl)
    let landed : Prop := m.landed (s.cluster r.die r.cl) (low32 c.xd) (c.target.getD 0) = true
    let other : Prop := ∃ w, (s.cluster r.die r.cl).railFor = some w ∧ w.1 ≠ r.slot
      ∧ s.railUnit ⟨r.die, r.cl, w.1, .C⟩ = true
    let ready : Prop := c.pix < mmRows c.xb ∧ ¬ gone ∧ (m.keyed = true → c.begun = true ∧ landed)
    (mmRows c.xb ≤ c.pix → exec (.mmaUnit (.seq r)) s = .next (done s c))
    ∧ (c.pix < mmRows c.xb → (m.keyed = true → c.begun = true) → gone →
        exec (.mmaUnit (.seq r)) s = .next (s.unitTrap r c .landSlot 0))
    ∧ (c.pix < mmRows c.xb → ¬ gone → m.keyed = true → c.begun = true → ¬ landed →
        s.chain.slotOf (low32 c.xd) (c.target.getD 0) = none →
        exec (.mmaUnit (.seq r)) s = .next (s.unitTrap r c .landSlot 0))
    ∧ (ready → ((s.cluster r.die r.cl).switching ≠ 0 ∨ other) → exec (.mmaUnit (.seq r)) s = .next s)
    ∧ (ready → (s.cluster r.die r.cl).switching = 0 → ¬ other → (s.cluster r.die r.cl).lastFid ≠ f →
        (s.cluster r.die r.cl).railFor ≠ some (r.slot, f) →
        exec (.mmaUnit (.seq r)) s = .next (s.modCluster r.die r.cl fun k =>
          { k with switching := 13, railFor := some (r.slot, f) }))
    ∧ (ready → (s.cluster r.die r.cl).switching = 0 → ¬ other →
        ((s.cluster r.die r.cl).lastFid = f ∨ (s.cluster r.die r.cl).railFor = some (r.slot, f)) →
        (∀ cause detail,
          (mmUnit m f.toNat (s.island (islandOf r.die r.cl)).parked).run ⟨s', r, c'⟩ = .error (cause, detail) →
          exec (.mmaUnit (.seq r)) s = .next (s'.unitTrap r c' cause detail))
        ∧ ∀ (g : Eng) (t : State), (mmUnit m f.toNat (s.island (islandOf r.die r.cl)).parked).run ⟨s', r, c'⟩ = .ok (false, g) →
          t = g.s.setHead r .matrix { g.c with pix := c.pix + 1 } →
          (c.pix + 1 < mmRows c.xb → exec (.mmaUnit (.seq r)) s = .next t)
          ∧ (c.pix + 1 = mmRows c.xb → t.runs r = true → g.c.seqNo = c.seqNo → (mmOf g.c.ins).isSome = true →
            exec (.mmaUnit (.seq r)) s = .next (done t { g.c with pix := c.pix + 1 })))
    ∧ (m.keyed = true → c.begun = false → c.target = none → mmRows c.xb ≠ 0 → ∀ a : BitVec 32 × Nat,
        (s.die r.die).lastOf (low32 c.xd) = some a → s.residentSince (strandOf r) ≤ a.2 →
        exec (.mmakTargetChoice (.seq r)) s = .next (s.setHead r .matrix { c with
          head := some (c.head.getD (s.tsc r.die))
          target := some (if c.head.isSome ∨ s.tsc r.die ≤ a.2 + 16 * m.off then a.1 else a.1 + 1) }))
    ∧ (m.keyed = true → c.begun = false → ∀ rot : BitVec 32, c.target = some rot →
        (s.rotState r.die (low32 c.xd) rot = .lost →
          exec (.mmakStartTime (.seq r)) s = .next (s.mmakEnd r c m 2 none))
        ∧ (s.rotState r.die (low32 c.xd) rot = .missed →
          exec (.mmakStartTime (.seq r)) s = .next (s.mmakEnd r c m 1 (some .segmentMissed)))
        ∧ ∀ arr : Nat, s.rotState r.die (low32 c.xd) rot = .here arr → (s.die r.die).arrivedAt (low32 c.xd) rot = some arr →
          arr + 16 * m.off ≤ s.tsc r.die →
          ((hdrOf c.ins).wq = none →
            exec (.mmakStartTime (.seq r)) s = .next (s.setHead r .matrix { c with begun := true }))
          ∧ ∀ q, (hdrOf c.ins).wq = some q →
            (0 < (s.strand (strandOf r)).free q →
              exec (.mmakStartTime (.seq r)) s = .next ((s.popQ r q 1).setHead r .matrix { c with begun := true }))
            ∧ ((s.strand (strandOf r)).free q = 0 →
              exec (.mmakStartTime (.seq r)) s = .next (s.mmakEnd r c m 3 (some .scheduleMiss))))
    ∧ ∀ die cl, (s.cluster die cl).switching = 1 →
        exec (.fidRailSwitchDone die cl) s = .next (s.modCluster die cl fun k => { k with switching := 0 })

/-- R243, R244: an atomic whose word its address names issues and holds its sequencer; performed, it replaces the word or the pair
by the sum, the rounded sum or X[B] and gives the X form its old value, which without a post clause is an acquire; an X form that
meets a poisoned word traps at its instruction, taken back. -/
def Obligations.AtomicResults : Prop :=
  (∀ (h : Hdr) (stg : Bool) (rm : RMode) (d a b : Reg) (k : Atomic) (p : Nat),
    ∀ i ∈ [Instr.aadd h stg a b, .aaddf h stg rm a b, .awr h stg a b, .aaddx h stg d a b, .aaddfx h stg rm d a b,
        .awrx h stg d a b], atomicOf i = some k →
      HoldsOnSeq i h none (fun _ _ => .held) (fun s _ => (BitVec.ofNat 64 p, s.X b, none)) (fun s r =>
        s.atomicAt r k (s.X a) = .ok (.acc p) ∨ ∃ die w, s.atomicAt r k (s.X a) = .ok (.stg die w) ∧ p = die * 2 ^ 32 + w)
      ∧ TrapsOnSeq i h none .addrRange (fun s _ => stg = false ∧ 131072 ≤ (s.X a).toNat)
      ∧ ∀ c : Cause, c ≠ .xlateMiss → TrapsOnSeq i h none c fun s r => s.atomicAt r k (s.X a) = .error c)
  ∧ ∀ (s : State) (r : SeqRef) (c : Cmd) (k : Atomic) (lo hi : BitVec 32) (ws : List (BitVec 32)),
    (s.seq r).held = some c → atomicOf c.ins = some k →
    (lo, hi) = (if k.stg then (Tbl.get 0 (s.die (c.xa.toNat / 2 ^ 32)).stg (c.xa.toNat % 2 ^ 32),
        Tbl.get 0 (s.die (c.xa.toNat / 2 ^ 32)).stg (c.xa.toNat % 2 ^ 32 + 1))
      else ((s.cluster r.die r.cl).accWord c.xa.toNat, (s.cluster r.die r.cl).accWord (c.xa.toNat + 1))) →
    (k.ret = true → k.stg = false → (s.cluster r.die r.cl).anyPoison c.xa.toNat (if k.pair then 2 else 1) = true →
      exec (.aatPerformed (.seq r)) s = .next ((s.recall r c).raise r .accPoison .i c.addr 0 0))
    ∧ ((k.ret = true → k.stg = false →
        (s.cluster r.die r.cl).anyPoison c.xa.toNat (if k.pair then 2 else 1) = false) →
      s.atomicSoft r k c.xa.toNat = none →
      ws = (if k.pair then [(hi ++ lo + c.xb).setWidth 32, (hi ++ lo + c.xb).extractLsb' 32 32]
        else if k.put then [low32 c.xb] else [accAdd lo (fpOf c.xb) k.rm]) →
      exec (.aatPerformed (.seq r)) s = .next
        (((s.putWords r k c.xa.toNat ws).modSeq r fun q => { q with wait := none, held := none }).asSeq r fun t =>
          (if k.ret then
            (if (hdrOf c.ins).pq = none then t.acquires r else t).putOn r k.d (if k.pair then hi ++ lo else zext32 lo) c.no
          else t).pushPost r (hdrOf c.ins).pq c.addr))

/-- R257 to R259: SETFID lands the strand's FID after one step; FCRD reads a counter of the residue checks and FCCLR reads
FIDERR and clears it with FIDCHK, once no MMA of the sequencer is under way; they hold it until then. -/
def Obligations.FidelityResults : Prop :=
  ∀ (h : Hdr) (f which : BitVec 2) (d : Reg),
    LandsOnSeq (.setfid h f) h none .fid 1 (fun _ _ => true) (fun _ _ => f.setWidth 64)
    ∧ DoesOnSeq (.fcrd h d which) h none (fun s r => ∀ c ∈ (s.seq r).matQ, mmOf c.ins = none)
        (fun s r u => u.putOn r d
          (if which = 0 then zext32 (s.cluster r.die r.cl).fidErr
           else if which = 1 then (s.cluster r.die r.cl).fidChk.setWidth 64
           else BitVec.ofNat 64 ((if (s.cluster r.die r.cl).raised then 65536 else 0) + (s.cluster r.die r.cl).wcnt.toNat))
          ((s.seq r).no + 1))
    ∧ DoesOnSeq (.fcclr h d) h none (fun s r => ∀ c ∈ (s.seq r).matQ, mmOf c.ins = none)
        (fun s r u => (u.modCluster r.die r.cl fun c => { c with fidErr := 0, fidChk := 0 }).putOn r d
          (zext32 (s.cluster r.die r.cl).fidErr) ((s.seq r).no + 1))
    ∧ ∀ i ∈ [Instr.fcrd h d which, .fcclr h d],
        HoldsOnSeq i h none (fun _ _ => .matrix) (fun _ _ => (0, 0, none))
          (fun s r => ∃ c ∈ (s.seq r).matQ, (mmOf c.ins).isSome = true)

/-! ### The fabric (R271 to R291) -/

/-- R272, R287, R288: RWR, RRD and RWRR to a member that they may name, with their scratchpad run in the extent, issue into
the queue of remote commands; RWRR also to this package; a reserved pointer bit and a member that is not known trap. -/
def Obligations.RemoteQueueResults : Prop :=
  ∀ (h : Hdr) (d a b : Reg),
    let known : State → Prop := fun s => (s.X a).getLsbD 63 = true ∧ s.chain.knows (field (s.X a) 48 5) = true
    (∀ i ∈ [Instr.rwr h d a b, .rrd h d a b],
      QueuesOnSeq i h (some .mem) .coll 16
        (fun s r => known s ∧ field (s.X a) 53 10 = 0
          ∧ spadSpan (s.team? (strandOf r)) (runSpan (s.X b) (field (s.X d) 0 32)) = none) (regs3 d a b) [] 0
      ∧ TrapsOnSeq i h (some .mem) .addrRange
        (fun s _ => field (s.X a) 53 10 ≠ 0 ∨ (s.X a).getLsbD 63 = false
          ∨ s.chain.knows (field (s.X a) 48 5) = false))
    ∧ ∀ (acc : Bool) (rm : RMode) (f : Fmt),
      (f = .fp32 ∨ f = .bf16 →
        QueuesOnSeq (.rwrr h acc rm f d a b) h (some .mem) .coll 16
          (fun s r => (known s ∨ ((s.X a).getLsbD 63 = false ∧ field (s.X a) 48 5 = 0)) ∧ field (s.X a) 53 10 = 0
            ∧ (acc = true → field (s.X a) 43 5 = 0 ∧ field (s.X a) 38 2 = 0 ∧ field (s.X a) 17 15 = 0)
            ∧ spadSpan (s.team? (strandOf r)) (runSpan (s.X b) (field (s.X d) 0 32 * f.size)) = none
            ∧ (s.X b).toNat % f.size = 0 ∧ (acc = false → (s.X a).toNat % 4 = 0)) (regs3 d a b) [] 0)
      ∧ (f ≠ .fp32 → f ≠ .bf16 → TrapsOnSeq (.rwrr h acc rm f d a b) h (some .mem) .formatIllegal fun _ _ => True)

/-- R273 to R276, R286, R291: the counter instructions on a counter that is assigned to the context: CARM sets it and clears OVF,
CRD reads both, CADD adds, to a counter of any die of the package; CWAIT ends once the counter holds its threshold, or with bit 63 at
its deadline, as a phase boundary, and holds its sequencer until then; CADD to another member sends its addend and holds its
sequencer, behind the remote commands to that member, and does nothing where the member has been bypassed.  A handle that names no
counter raises ADDR_RANGE, and a counter of another context XLATE_PERM. -/
def Obligations.CounterResults : Prop :=
  ∀ (h : Hdr) (d a b : Reg) (tmo : BitVec 16) (die n m : Nat),
    DoesOnSeq (.carm h a b) h (some .mem) (fun s r => s.ownCounter r (s.X a) n)
      (fun s r u => u.putCounter r.die n fun c => { c with value := low32 (s.X b), ovf := false })
    ∧ DoesOnSeq (.crd h d a) h (some .mem) (fun s r => s.ownCounter r (s.X a) n)
      (fun s r u => u.putOn r d (BitVec.ofNat 64
        ((if (s.counter r.die n).ovf then 2 ^ 32 else 0) + (s.counter r.die n).value.toNat)) ((s.seq r).no + 1))
    ∧ DoesOnSeq (.cadd h a b) h (some .mem)
      (fun s r => s.namesCounter (s.X a) die n ∧ s.assigned r die n
        ∧ (s.counter die n).value.toNat + (low32 (s.X b)).toNat < 2 ^ 32)
      (fun s _ u => u.putCounter die n fun c => { c with value := c.value + low32 (s.X b) })
    ∧ DoesOnSeq (.cadd h a b) h (some .mem)
      (fun s r => s.namesCounter (s.X a) die n ∧ s.assigned r die n
        ∧ 2 ^ 32 ≤ (s.counter die n).value.toNat + (low32 (s.X b)).toNat)
      (fun _ _ u => (u.putCounter die n fun c => { c with value := 0xFFFFFFFF, ovf := true }).post die
        { cause := .counterOverflow, detail := BitVec.ofNat 64 n })
    ∧ (∀ (s : State) (r : SeqRef), s.mayIssue r (.cadd h a b) h (some .mem) = true →
        s.farName (s.X a) m → (s.X a).getLsbD 62 = true → field (s.X a) 53 9 = 0 → field (s.X a) 43 5 = 0 →
        field (s.X a) 8 32 = 0 →
        ((∃ c ∈ (s.seq r).collQ, s.ptrFar c.xa = true ∧ field c.xa 48 5 = m) →
          exec (.cadd h a b) s = .next (s.waits r (.cadd h a b) .room))
        ∧ ((∀ c ∈ (s.seq r).collQ, ¬ (s.ptrFar c.xa = true ∧ field c.xa 48 5 = m)) →
          (s.chain.skipped m = true →
            exec (.cadd h a b) s = .next ((s.issued r h (some .mem)).finishAt h (s.seq r).pc))
          ∧ (s.chain.skipped m = false →
            exec (.cadd h a b) s = .next
              ((({ s.issued r h (some .mem) with nextReq := s.nextReq + 1 } : State).heldBy (.seq r) .held
                { s.heldOf (.seq r) (.cadd h a b) (s.X a) (s.X b) none with
                  req := s.nextReq, remote := .sent 0 (windowOf (s.tsc r.die)) }).send
                (.cntadd m ⟨s.nextReq, windowOf (s.tsc r.die), s.ctxOf (strandOf r), s.X a, low32 (s.X b)⟩)))))
    ∧ DoesOnSeq (.cwait h d a b tmo) h (some .mem)
      (fun s r => s.ownCounter r (s.X a) n ∧ low32 (s.X b) ≤ (s.counter r.die n).value)
      (fun s r u => (u.modSeq r fun q => { q with phase := s.tsc r.die }).putOn r d
        (BitVec.ofNat 64 (s.counter r.die n).value.toNat) ((s.seq r).no + 1))
    ∧ DoesOnSeq (.cwait h d a b 0) h (some .mem)
      (fun s r => s.ownCounter r (s.X a) n ∧ (s.counter r.die n).value < low32 (s.X b))
      (fun s r u => (u.modSeq r fun q => { q with phase := s.tsc r.die }).putOn r d
        (BitVec.ofNat 64 (2 ^ 63 + (s.counter r.die n).value.toNat)) ((s.seq r).no + 1))
    ∧ HoldsOnSeq (.cwait h d a b tmo) h (some .mem)
      (fun s r => .counter (if tmo = 0xFFFF then none else some (s.tsc r.die + 64 * tmo.toNat)))
      (fun s r => (s.X a, s.X b, if tmo = 0xFFFF then none else some (s.tsc r.die + 64 * tmo.toNat)))
      (fun s r => s.ownCounter r (s.X a) n ∧ (s.counter r.die n).value < low32 (s.X b) ∧ tmo ≠ 0)
    ∧ (∀ i ∈ [Instr.carm h a b, .crd h d a, .cadd h a b, .cwait h d a b tmo],
        TrapsOnSeq i h (some .mem) .addrRange fun s _ => (s.X a).getLsbD 62 = false ∨ field (s.X a) 53 9 ≠ 0
          ∨ field (s.X a) 43 5 ≠ 0 ∨ field (s.X a) 8 32 ≠ 0
          ∨ ((s.X a).getLsbD 63 = false ∧ field (s.X a) 48 5 ≠ 0)
          ∨ ((s.X a).getLsbD 63 = true ∧ s.chain.knows (field (s.X a) 48 5) = false))
    ∧ (∀ i ∈ [Instr.carm h a b, .crd h d a, .cwait h d a b tmo],
        TrapsOnSeq i h (some .mem) .addrRange (fun s r => (s.X a).getLsbD 63 = true ∨ field (s.X a) 40 3 ≠ r.die)
        ∧ TrapsOnSeq i h (some .mem) .xlatePerm (fun s r =>
            (s.X a).getLsbD 63 = false ∧ s.namesCounter (s.X a) r.die n ∧ ¬ s.assigned r r.die n))
    ∧ TrapsOnSeq (.cadd h a b) h (some .mem) .xlatePerm fun s r =>
        s.namesCounter (s.X a) die n ∧ ¬ s.assigned r die n

/-- R289, R290: QPOST reads its 64 bytes, puts its own id into them, and posts them at the position that X[D] takes, or
answers a full queue pair with 6 (.nb) or QP_OVERFLOW; QSLOT replaces a reduction range on which no round stands, and with .clr
clears its words; it waits while one stands. -/
def Obligations.QueuePairResults : Prop :=
  (∀ (h : Hdr) (nb : Bool) (d a : Reg) (qp : BitVec 6) (b : List Byte) (full : Bool),
    let ok : State → SeqRef → Prop := fun s r => s.imageAt r (s.X a) 64 64 = .ok b ∧ s.entryCheck r b = none
      ∧ (s.qpair r.die qp.toNat).ctx = some (s.ctxOf (strandOf r))
      ∧ full = (s.qpair r.die qp.toNat).entries.any fun e => e.pos == (s.qpair r.die qp.toNat).posted % 64
    (full = false → DoesOnSeq (.qpost h nb d a qp) h (some .mem) ok
      (fun s r u => (u.posted r.die qp.toNat
        { pos := (s.qpair r.die qp.toNat).posted % 64, image := putNat 56 4 (s.rqid r).toNat b,
          ctx := s.ctxOf (strandOf r) }).putOn r d (BitVec.ofNat 64 ((s.qpair r.die qp.toNat).posted % 64))
        ((s.seq r).no + 1)))
    ∧ (full = true → nb = true → DoesOnSeq (.qpost h nb d a qp) h (some .mem) ok
      (fun s r u => u.putOn r d 6 ((s.seq r).no + 1)))
    ∧ (full = true → nb = false → TrapsOnSeq (.qpost h nb d a qp) h (some .mem) .qpOverflow ok)
    ∧ TrapsOnSeq (.qpost h nb d a qp) h (some .mem) .xlatePerm fun s r =>
        s.imageAt r (s.X a) 64 64 = .ok b ∧ s.entryCheck r b = none
          ∧ (s.qpair r.die qp.toNat).ctx ≠ some (s.ctxOf (strandOf r)))
  ∧ ∀ (h : Hdr) (acc clr : Bool) (a b : Reg) (img : List Byte) (m : RMem) (n : Nat),
    DoesOnSeq (.qslot h acc clr a b) h (some .mem)
      (fun s r => n = field (s.X a) 0 6 ∧ (acc = true → n < 16) ∧ m = (if acc then .acc r.die r.cl else .stg r.die)
        ∧ s.imageAt r (s.X b) 160 32 = .ok img ∧ s.imageCheck m n img = none
        ∧ ((s.range (m.ref n)).tmd = true
          ∨ ((s.range (m.ref n)).filled = 0 ∧ (s.range (m.ref n)).contribs = [])))
      (fun _ _ u => if clr
        then (u.modRange (m.ref n) fun _ => imageRange img).clearWords m (imageRange img).base.toNat
          (imageRange img).len.toNat
        else u.modRange (m.ref n) fun _ => imageRange img)
    ∧ (∀ c : Cause, TrapsOnSeq (.qslot h acc clr a b) h (some .mem) c fun s r =>
        n = field (s.X a) 0 6 ∧ (acc = true → n < 16) ∧ m = (if acc then .acc r.die r.cl else .stg r.die)
        ∧ s.imageAt r (s.X b) 160 32 = .ok img ∧ s.imageCheck m n img = some c
        ∧ ((s.range (m.ref n)).tmd = true
          ∨ ((s.range (m.ref n)).filled = 0 ∧ (s.range (m.ref n)).contribs = [])))
    ∧ WaitsOnSeq (.qslot h acc clr a b) h (some .mem) .range
      (fun s r => n = field (s.X a) 0 6 ∧ (acc = true → n < 16) ∧ m = (if acc then .acc r.die r.cl else .stg r.die)
        ∧ s.imageAt r (s.X b) 160 32 = .ok img ∧ s.imageCheck m n img = none ∧ (s.range (m.ref n)).tmd = false
        ∧ ((s.range (m.ref n)).filled ≠ 0 ∨ (s.range (m.ref n)).contribs ≠ []))
    ∧ TrapsOnSeq (.qslot h acc clr a b) h (some .mem) .addrRange fun s _ => acc = true ∧ 16 ≤ field (s.X a) 0 6


/-! ### System instructions (R54, R321, R325 to R344) -/

/-- R54, R55, R250, R337, R339, R341: CSRR and TSR land the register that they name after one step, CSRW its value; a hub
reads and writes its registers and the time of its die. -/
def Obligations.CsrResults : Prop :=
  ∀ (h : Hdr) (d a : Reg),
    (∀ p ∈ [((0x000#12 : BitVec 12), fun (s : State) (r : SeqRef) => (s.strand (strandOf r)).wid),
        (0x001, fun s r => zext32 (s.strand (strandOf r)).launchId),
        (0x002, fun _ r => BitVec.ofNat 64 (r.die * 2 ^ 16 + r.cl * 2 ^ 8 + r.slot)),
        (0x003, fun _ r => BitVec.ofNat 64 r.cls.code),
        (0x008, fun s r => (s.strand (strandOf r)).cmask),
        (0x011, fun s r => BitVec.ofNat 64 (s.cycles - (s.cluster r.die r.cl).lag)),
        (0x012, fun s r => zext32 (s.seq r).pix),
        (0x021, fun s r => zext32 (s.cluster r.die r.cl).fidErr),
        (0x022, fun s r => (s.cluster r.die r.cl).fidChk.setWidth 64),
        (0x025, fun s r => zext32 (s.cluster r.die r.cl).finj),
        (0x030, fun s r => zext32 (s.strand (strandOf r)).arrTag),
        (0x031, fun s r => zext32 (s.strand (strandOf r)).arrRot),
        (0x032, fun s r => (s.strand (strandOf r)).arrTsc),
        (0x038, fun s r => zext32 (s.cluster r.die r.cl).lfsr)],
      LandsOnSeq (.csrr h d p.1) h none (.x d) 1 (fun _ _ => true) p.2)
    ∧ (∀ p ∈ [((0x010#12 : BitVec 12), fun (s : State) => BitVec.ofNat 64 (s.tsc (agentDie s.cur))),
        (0x018, fun s => (s.die (agentDie s.cur)).hub.regs.tcause),
        (0x019, fun s => (s.die (agentDie s.cur)).hub.regs.tepc),
        (0x01A, fun s => (s.die (agentDie s.cur)).hub.regs.tframe)],
      LandsOnHub (.csrr h d p.1) h (.x d) (fun _ => true) p.2)
    ∧ (∀ csr : BitVec 12, LandsOnSeq (.csrw h csr a) h none (.csr csr) 1 (fun _ _ => true) (fun s _ => s.X a))
    ∧ DoesOnHub (.csrw h 0x010 a) h (fun _ _ => True) (fun s d u => u.modDie d fun v => { v with tsc := (s.X a).toNat })
    ∧ DoesOnHub (.csrw h 0x024 a) h
      (fun s d => (s.die d).hub.regs.csel.getLsbD 7 = true
        ∧ ((s.die d).hub.regs.csel.setWidth 6 : BitVec 6).toNat ≤ 53)
      (fun s d u => u.modCluster d ((s.die d).hub.regs.csel.setWidth 6 : BitVec 6).toNat fun c =>
        { c with fidThr := (s.X a).setWidth 16, raised := false })
    ∧ Lands (.tsr h d) h none (.x d) 1 (fun s => BitVec.ofNat 64 (s.tsc (agentDie s.cur)))

/-- R326, R327, R328, R340: TRAP issues, pops its WQ and raises USER_TRAP at point D; a cause makes its running strand begin
to stop; once nothing of the strand is unsettled, STRAND_STOP stops it, and a free hub of its die takes TEPC, TCAUSE and
TFRAME from it, here of a strand with no LDS and no tuple request under way; its requests at other members are cancelled first. -/
def Obligations.TrapEntry : Prop :=
  (∀ (h : Hdr) (n : BitVec 5) (m : BitVec 16),
    IssuesOnSeq (.trap h n m) h none (fun _ _ => True) fun s r u =>
      u.stopsFor (strandOf r)
        ⟨.userTrap, .d, r.cls, (s.seq r).pc, 0, BitVec.ofNat 64 (m.toNat * 32 + n.toNat), s.tsc r.die, 0⟩)
  ∧ (∀ (s : State) (r : SeqRef) (c : Cause) (pt : Point) (pc : BitVec 48) (pix : Nat) (w : Word),
      (s.strand (strandOf r)).stop = .running →
      (c ≠ .xlateMiss ∧ c ≠ .posmapMiss) ∨ ((s.die r.die).badTm = [] ∧ (s.die r.die).badPm = []) →
      s.raise r c pt pc pix w = s.stopsFor (strandOf r) ⟨c, pt, r.cls, pc, BitVec.ofNat 32 pix, w, s.tsc r.die, 0⟩)
  ∧ (∀ (s : State) (st : StrandRef) (c : Cause) (i : StopInfo), (s.strand st).stop = .stopping i →
      (s.askCancel st).unsettled st = true → exec (.strandStop st c) s = .next (s.askCancel st))
  ∧ ∀ (s : State) (st : StrandRef) (c : Cause) (i : StopInfo), (s.strand st).stop = .stopping i →
      s.unsettled st = false → (∀ k, (s.seq (seqOf st k)).lds = [] ∧ (s.seq (seqOf st k)).tup = []) →
      (s.die st.die).hub.held = none → (s.die st.die).hub.trapQ = [] →
      ∃ t, exec (.strandStop st c) s = .next t ∧ (t.strand st).stop = .stopped { i with at_ := s.tsc st.die }
        ∧ (t.die st.die).hub.held = some st ∧ (t.die st.die).hub.regs.tepc = i.tepc.setWidth 64
        ∧ (t.die st.die).hub.regs.tcause = BitVec.ofNat 64 (i.pix.toNat * 2 ^ 32 + i.cls.code * 2 ^ 22
            + i.point.code * 2 ^ 20 + st.die * 2 ^ 16 + st.cl * 2 ^ 8 + st.slot * 2 ^ 6 + i.cause.code.toNat)
        ∧ (t.die st.die).hub.regs.tframe = BitVec.ofNat 64 (s.frameArea st + 1)
        ∧ ∀ k, (t.seq (seqOf st k)).flights = [] ∧ (t.seq (seqOf st k)).cmds = [] ∧ (t.seq (seqOf st k)).wait = none

/-- R47, R50, R51, R58: the checks that come before an instruction's own: a class that may not execute it, a privileged
one, an ill-formed one and a queue that the header does not bind trap at the instruction, and nothing else changes.
R57, R59, R64: one whose checks pass waits for a token of WQ, then for a permit. -/
def Obligations.IssueOrder : Prop :=
  (∀ (s : State) (r : SeqRef) (h : Hdr) (i : Instr) (p : Plan) (act : State → Res), s.cur = .seq r →
    s.acts (strandOf r) = true → (p.fixed && decide (8 ≤ (s.seq r).flights.length)) = false →
    (mayExecute (majOf i) (minOf i) (immOf i) r.cls = .wrong →
      s.issue i h p act = .next (s.raise r .wrongSequencer .i (s.seq r).pc 0 0))
    ∧ (mayExecute (majOf i) (minOf i) (immOf i) r.cls = .priv →
      s.issue i h p act = .next (s.raise r .privileged .i (s.seq r).pc 0 0))
    ∧ (mayExecute (majOf i) (minOf i) (immOf i) r.cls = .yes →
      (i.wf = false ∨ (∃ q, h.wq = some q ∧ s.isConsumer r q = false) ∨ ∃ q, h.pq = some q ∧ s.isProducer r q = false) →
      s.issue i h p act = .next (s.raise r .operandReserved .i (s.seq r).pc 0 0)))
  ∧ (∀ (s : State) (r : SeqRef) (h : Hdr) (i : Instr) (p : Plan) (act : State → Res), s.cur = .seq r →
    s.acts (strandOf r) = true → (p.fixed && decide (8 ≤ (s.seq r).flights.length)) = false →
    s.precheck i h = none → p.early s = none → (s.seq r).popped = none →
    (∀ q, h.wq = some q → s.tokens r q = 0 →
      s.issue i h p act = .next (s.waits r i .queue))
    ∧ (∀ k, (∀ q, h.wq = some q → 0 < s.tokens r q) → p.tokens = none → p.permit = some k →
      (s.cluster r.die r.cl).held k = 0 → s.issue i h p act = .next (s.waits r i .permit)))

/-- R306, R321: LNCH reads 192 bytes, once, checks them, and appends a launch to its queue; X[D] holds the id above a status 0,
or 6 where the queue is full (.nb); without .nb it issues and holds its agent.  On a hub the address is physical, and a check that
fails is named in X[D] and in a record; the model's choice (log entry 6): a header that the slab does not hold fails with
ADDR_RANGE. -/
def Obligations.LaunchResult : Prop :=
  ∀ (h : Hdr) (nb : Bool) (d a : Reg) (lq : BitVec 6) (hdr : List Byte) (runs : List (Nat × Nat)) (pa : Nat),
    let mine : State → SeqRef → Prop := fun s r => (s.queue lq.toNat).valid = true
      ∧ (s.queue lq.toNat).ctx = s.ctxOf (strandOf r)
    let reads : State → SeqRef → Prop := fun s r => mine s r ∧ (s.X a).toNat % 64 = 0
      ∧ s.translate (strandOf r) (s.X a) 1 .read = .ok pa
      ∧ s.slabRuns r.die (s.ctxOf (strandOf r)) (s.X a).toNat 192 .read = .ok runs
      ∧ hdr = runs.flatMap fun p => s.readMem p.1 p.2
    let hubReads : State → Prop := fun s => (s.queue lq.toNat).valid = true ∧ (s.X a).toNat % 64 = 0
      ∧ (s.X a).toNat + 192 ≤ slabSize ∧ hdr = s.slabBytes (s.X a).toNat 192 ∧ headerBad hdr = false
    DoesOnSeq (.lnch h nb d a lq) h none
      (fun s r => reads s r ∧ headerBad hdr = false ∧ (s.queue lq.toNat).ids.length < 64)
      (fun s r u => (u.append (s.ctxOf (strandOf r)) lq.toNat hdr).1.putOn r d
        (zext32 (u.append (s.ctxOf (strandOf r)) lq.toNat hdr).2 <<< 32) ((s.seq r).no + 1))
    ∧ (nb = true → DoesOnSeq (.lnch h nb d a lq) h none
      (fun s r => reads s r ∧ headerBad hdr = false ∧ 64 ≤ (s.queue lq.toNat).ids.length)
      (fun s r u => u.putOn r d 6 ((s.seq r).no + 1)))
    ∧ (nb = false → ∀ (s : State) (r : SeqRef), s.mayIssue r (.lnch h nb d a lq) h none = true →
        reads s r → headerBad hdr = false → 64 ≤ (s.queue lq.toNat).ids.length →
        exec (.lnch h nb d a lq) s = .next ((s.issued r h none).heldBy (.seq r) .launch
          { s.heldOf (.seq r) (.lnch h nb d a lq) (s.X a) 0 none with data := hdr }))
    ∧ TrapsOnSeq (.lnch h nb d a lq) h none .launchHeader (fun s r => reads s r ∧ headerBad hdr = true)
    ∧ TrapsOnSeq (.lnch h nb d a lq) h none .xlatePerm (fun s r => ¬ mine s r)
    ∧ TrapsOnSeq (.lnch h nb d a lq) h none .align (fun s r => mine s r ∧ (s.X a).toNat % 64 ≠ 0)
    ∧ TrapsOnSeq (.lnch h nb d a lq) h none .addrRange
        (fun s r => mine s r ∧ (s.X a).toNat % 64 = 0 ∧ s.translate (strandOf r) (s.X a) 1 .read = .error .addrRange)
    ∧ DoesOnHub (.lnch h nb d a lq) h (fun s _ => hubReads s ∧ (s.queue lq.toNat).ids.length < 64)
      (fun s die u => (u.append (s.queue lq.toNat).ctx lq.toNat hdr).1.modSeqAt (hubKey die) fun q =>
        q.putX d (zext32 (u.append (s.queue lq.toNat).ctx lq.toNat hdr).2 <<< 32) ((s.seqAt (hubKey die)).no + 1) s.cycles)
    ∧ (nb = false → DoesOnHub (.lnch h nb d a lq) h (fun s _ => hubReads s ∧ 64 ≤ (s.queue lq.toNat).ids.length)
      (fun s die u => u.heldBy (.hub die) .launch
        { s.heldOf (.hub die) (.lnch h nb d a lq) (s.X a) 0 none with data := hdr }))
    ∧ ∀ c : Cause, DoesOnHub (.lnch h nb d a lq) h
      (fun s _ => c = (if (s.queue lq.toNat).valid = false then .xlatePerm else if (s.X a).toNat % 64 ≠ 0 then .align
          else if slabSize < (s.X a).toNat + 192 then .addrRange
          else if headerBad (s.readMem (s.X a).toNat 192) = true then .launchHeader else .noCause) ∧ c ≠ .noCause)
      (fun _ die u => (u.post die { cause := c }).modSeqAt (hubKey die) fun q =>
        q.setX d (BitVec.ofNat 64 (2 ^ 63 + c.code.toNat)))

/-- R344: TLD writes its entry at the literal index, at that of the entry of its page, at the lowest invalid index; TLK sets
LK; TINV removes what its mode says and counts it; PMLD writes the way named, or that of its key, or the lowest invalid. -/
def Obligations.TranslationResults : Prop :=
  ∀ (h : Hdr) (d a b : Reg),
    (∀ (idx : Option (BitVec 12)) (n : Nat),
      DoesOnHub (.tld h d b idx) h
        (fun s die => field (s.X b) 0 12 = 0 ∧ entryClass (s.X b) < 4
          ∧ (idx.map BitVec.toNat = some n
            ∨ (idx = none ∧ ∃ e, (s.die die).tm.find? (fun p => p.2.getLsbD 12 && field p.2 33 31 == field (s.X b) 33 31)
                = some (n, e) ∧ e.getLsbD 13 = false)
            ∨ (idx = none ∧ (∀ p ∈ (s.die die).tm, ¬ (p.2.getLsbD 12 = true ∧ field p.2 33 31 = field (s.X b) 33 31))
                ∧ n < 4096 ∧ ((Tbl.get 0 (s.die die).tm n : BitVec 64).getLsbD 12) = false
                ∧ ((Tbl.get 0 (s.die die).tm n : BitVec 64).getLsbD 13) = false
                ∧ ∀ m < n, (Tbl.get 0 (s.die die).tm m : BitVec 64).getLsbD 12 = true)))
        (fun s die u => (u.modDie die fun v => { v with
            tm := Tbl.set 0 v.tm n (s.X b), badTm := v.badTm.filter (· != n) }).modSeqAt (hubKey die) fun q =>
          q.setX d (BitVec.ofNat 64 n))
      ∧ DoesOnHub (.tld h d b idx) h (fun s _ => field (s.X b) 0 12 ≠ 0 ∨ 4 ≤ entryClass (s.X b))
        (fun _ die u => u.modSeqAt (hubKey die) fun q => q.setX d 0x8000000000000000))
    ∧ (∀ l : Bool, DoesOnHub (.tlk h a l) h (fun _ _ => True)
        (fun s die u => u.modDie die fun v => { v with
          tm := Tbl.set 0 v.tm (field (s.X a) 0 12)
            (if l then Tbl.get 0 v.tm (field (s.X a) 0 12) ||| 0x2000#64
             else Tbl.get 0 v.tm (field (s.X a) 0 12) &&& ~~~0x2000#64) }))
    ∧ (∀ (mode : BitVec 2) (gone : State → Nat × BitVec 64 → Bool),
        (gone = fun s p => p.2.getLsbD 12 && (if mode = 0 then p.1 == field (s.X a) 0 12
          else !p.2.getLsbD 13 && (if mode = 1 then field p.2 33 4 == field (s.X a) 0 4 else decide (mode = 2)))) →
        DoesOnHub (.tinv h d a mode) h (fun _ _ => True)
          (fun s die u => (u.modDie die fun v => { v with tm := v.tm.filter fun p => !gone s p }).modSeqAt (hubKey die) fun q =>
            q.setX d (BitVec.ofNat 64 ((s.die die).tm.filter (gone s)).length)))
    ∧ ∀ (way : Option (BitVec 2)) (set w : Nat) (v : State → BitVec 128), v = (fun s => s.X a ++ s.X b) →
      DoesOnHub (.pmld h d a b way) h
        (fun s die => (v s).extractLsb' 0 58 = 0
          ∧ set = posSet ((v s).extractLsb' 88 4).toNat ((v s).extractLsb' 108 20).toNat ((v s).extractLsb' 92 16).toNat
          ∧ ((way.map BitVec.toNat = some w)
            ∨ (way = none ∧ w < 4
              ∧ (∀ k < 4, ((Tbl.get 0 (s.die die).pm (set * 4 + k) : BitVec 128).getLsbD 59 = true
                  ∧ (Tbl.get 0 (s.die die).pm (set * 4 + k) : BitVec 128).extractLsb' 88 40 = (v s).extractLsb' 88 40)
                ↔ k = w) ∧ ((Tbl.get 0 (s.die die).pm (set * 4 + w) : BitVec 128).getLsbD 58) = false)
            ∨ (way = none ∧ w < 4 ∧ ((Tbl.get 0 (s.die die).pm (set * 4 + w) : BitVec 128).getLsbD 59) = false
              ∧ ((Tbl.get 0 (s.die die).pm (set * 4 + w) : BitVec 128).getLsbD 58) = false
              ∧ (∀ k < w, (Tbl.get 0 (s.die die).pm (set * 4 + k) : BitVec 128).getLsbD 59 = true)
              ∧ ∀ k < 4, ¬ ((Tbl.get 0 (s.die die).pm (set * 4 + k) : BitVec 128).getLsbD 59 = true
                  ∧ (Tbl.get 0 (s.die die).pm (set * 4 + k) : BitVec 128).extractLsb' 88 40 = (v s).extractLsb' 88 40))))
        (fun s die u => (u.modDie die fun x => { x with
            pm := Tbl.set 0 x.pm (set * 4 + w) (v s), badPm := x.badPm.filter (· != set * 4 + w) }).modSeqAt (hubKey die)
          fun q => q.setX d (BitVec.ofNat 64 (set * 4 + w)))

/-- R93, R331, R341 to R346: what a hub reports of strands and stripes: ERET 2 without a stopped strand that TFRAME names, 1 and a
record for a replay entry that fails its check, else 0 and the strand goes on from its frame; RPLY writes the results of a replay
queue into its frame; CTXS without a stopped team and CTXL of no image answer 2^63, CTXS of a team the size of its image, and frees
the team with .rel; IDLE names what waits, or holds its hub until something does; FWD queues a stripe.  The model's choices: a FWD of
no stripe's place gives a free status (log entry 6), which number CTXL's record gives a failed check is a free value (log entry
14), and tokens, places and translations that a frame has no field for are kept beside it (log entries 15, 64, 66). -/
def Obligations.HubResults : Prop :=
  ∀ (h : Hdr) (d a b : Reg),
    DoesOnHub (.eret h d) h (fun s die => s.hubStrand die = none
        ∨ ∃ st, s.hubStrand die = some st ∧ ∀ i, (s.strand st).stop ≠ .stopped i)
      (fun _ die u => u.modSeqAt (hubKey die) fun q => q.setX d 2)
    ∧ (∀ (st : StrandRef) (i : StopInfo),
      DoesOnHub (.eret h d) h
        (fun s die => s.hubStrand die = some st ∧ (s.strand st).stop = .stopped i
          ∧ (s.advance h).resume st (s.strand st) (s.frameBytes st) = none)
        (fun s die u => (u.post die
          { cause := .replayInvalid, cl := some st.cl, slot := some st.slot, launch := (s.strand st).launchId }).modSeqAt
            (hubKey die) fun q => q.setX d 1)
      ∧ ∀ (w : State) (fresh : List Nat), DoesOnHub (.eret h d) h
        (fun s die => s.hubStrand die = some st ∧ (s.strand st).stop = .stopped i
          ∧ (s.advance h).resume st (s.strand st) (s.frameBytes st) = some (w, fresh))
        (fun _ die _ => ((allCls.foldl (fun a c => (a.captureTids (seqOf st c) fresh).resendAll (seqOf st c)) w).hubRelease
          die).modSeqAt (hubKey die) fun q => q.setX d 0))
    ∧ (∀ (st : StrandRef) (c : Cls) (fs : List Flight), DoesOnHub (.rply h a) h
      (fun s die => s.hubStrand die = some st ∧ (s.X a).toNat % 4 = c.code
        ∧ parseFlights (s.readMem (s.frameArea st + 1024 + 1024 * c.code) 1024) 0
            ((s.besides (s.strand st).wid (s.strand st).launchId).flightsOf c) = fs.map some)
      (fun s _ u => fs.foldl (fun a f => a.rplyLand (seqOf st c) (s.frameArea st) f)
        (u.writeMem (s.frameArea st + 1024 + 1024 * c.code + 11) [0])))
    ∧ (∀ rel : Bool, DoesOnHub (.ctxs h rel d a b) h (fun s die => s.stoppedTeam die = none
          ∨ (s.X a).toNat % 64 ≠ 0 ∨ 131072 < field (s.X b) 0 17 + field (s.X b) 32 18)
        (fun _ die u => u.modSeqAt (hubKey die) fun q => q.setX d 0x8000000000000000))
    ∧ (∀ (rel : Bool) (k : Nat) (t : Team), DoesOnHub (.ctxs h rel d a b) h
        (fun s die => s.stoppedTeam die = some (k, t) ∧ (s.X a).toNat % 64 = 0
          ∧ field (s.X b) 0 17 + field (s.X b) 32 18 ≤ 131072
          ∧ (s.X a).toNat + 256 + (s.teamImage t (field (s.X b) 0 17) (field (s.X b) 32 18)).length ≤ slabSize)
        (fun s die u =>
          let body := s.teamImage t (field (s.X b) 0 17) (field (s.X b) 32 18)
          let v := u.writeSlab die (s.X a).toNat (imageHeader t (((s.launch? t.launch).map (·.hdr)).getD [])
            (field (s.X b) 0 17) (field (s.X b) 32 18) (256 + body.length) ++ body)
          (if rel then (v.dropTraps t).freeTeam k t else v).modSeqAt (hubKey die) fun q =>
            q.setX d (BitVec.ofNat 64 (256 + body.length))))
    ∧ DoesOnHub (.ctxl h d a b) h (fun s _ => (s.X a).toNat % 64 ≠ 0)
        (fun s die u => (({ u with free := s.free + 1 } : State).post die
          { cause := .ctxRestore, detail := Config.freeValue s.free }).modSeqAt (hubKey die) fun q =>
            q.setX d 0x8000000000000000)
    ∧ (∀ (w : State) (v : Word), DoesOnHub (.ctxl h d a b) h
        (fun s _ => (s.advance h).restoreTeam (s.X a).toNat (s.X b) = some (w, v))
        (fun _ die _ => w.modSeqAt (hubKey die) fun q => q.setX d v))
    ∧ (∀ w : Nat, DoesOnHub (.idle h d) h
      (fun s die => w = (if (s.die die).hub.held ≠ none ∨ (s.die die).hub.trapQ ≠ [] then 0
          else if (s.die die).hub.mail = true then 1 else 2)
        ∧ (w = 2 → (s.die die).hub.event = true))
      (fun _ die u => (u.modHub die fun b =>
        { b with mail := b.mail && w != 1, event := b.event && w != 2 }).modSeqAt (hubKey die) fun q =>
          q.setX d (BitVec.ofNat 64 w)))
    ∧ DoesOnHub (.idle h d) h (fun s die => (s.die die).hub.held = none ∧ (s.die die).hub.trapQ = []
          ∧ (s.die die).hub.mail = false ∧ (s.die die).hub.event = false)
        (fun s die u => u.heldBy (.hub die) .idle (s.heldOf (.hub die) (.idle h d) 0 0 none))
    ∧ ∀ (reinj audit : Bool) (size : BitVec 7),
      DoesOnHub (.fwd h reinj audit d a b size) h
        (fun s _ => (s.X a).toNat % 65536 = 0 ∧ (s.X a).toNat + size.toNat * 131072 ≤ slabSize)
        (fun s die u =>
          let flags : BitVec 8 := (if audit then 1 else 0) ||| (if reinj then 2 else 0)
          let job : FwdJob := ⟨(s.X a).toNat, low32 (s.X b), (s.X b).extractLsb' 32 32, size.toNat, flags, d, none, false⟩
          u.modDie die fun v => { v with fwd := insertJob job v.fwd })
      ∧ DoesOnHub (.fwd h reinj audit d a b size) h
        (fun s _ => (s.X a).toNat % 65536 ≠ 0 ∨ slabSize < (s.X a).toNat + size.toNat * 131072)
        (fun s die u => ({ u with free := u.free + 1 } : State).modSeqAt (hubKey die) fun q =>
          q.setX d (Config.freeValue s.free))

/-! ### Events of strands (R47, R59 to R62, R88, R291, R324, R325, R333) -/

/-- R59, R60, R61: in an idle step the operations in flight that are due land, in the order of their issue, and the others
come one step nearer; R63: of two results that come to a register in one cycle that of the later instruction stays; a wait before
issue that is over ends, and a hold with its instruction (R197, R259, R291); R325: a strand of which a sequencer waits and none has
taken a step for 2^24 cycles raises WATCHDOG, or has a record posted where that is masked; R333: a request to pre-empt a team reaches
each of its strands; R47: a word that is no instruction traps; R88, R291: WTAG and CWAIT end at their deadlines. -/
def Obligations.StrandEvents : Prop :=
  (∀ (s : State) (r : SeqRef), (s.strand (strandOf r)).stop = .running → (s.seq r).live = true →
      (s.seq r).stepReady (s.tsc r.die) = true → (∀ f ∈ (s.seq r).flights, f.rem ≤ 1 → f.post = none) →
      exec (.fixedLatencyLanding (.seq r)) s = .next
        (((((((s.seq r).flights.filter fun f => f.rem ≤ 1).foldl (fun a f => a.land r f)
            (s.modSeq r fun q => { q with flights := q.flights.filter fun f => !decide (f.rem ≤ 1) })).modStrand (strandOf r)
          fun t => { t with lastStep := s.tsc r.die }).modSeq r fun q =>
            { q with flights := q.flights.map fun f => { f with rem := f.rem - 1 } })).modSeq r fun q =>
              { q with gap := q.gap - 1 }))
  ∧ (∀ (s : State) (r : SeqRef) (f : Flight) (d : Reg), f.dest = .x d → s.land r f = s.putOn r d f.val f.no)
  ∧ (∀ (q : Seq) (d : Reg) (v w : Word) (m n now : Nat), d ≠ 0 →
      (n < m → ((q.putX d v m now).putX d w n now).getX d = (q.putX d v m now).getX d)
      ∧ (m ≤ n → (∀ x, Tbl.get (0, 0) q.wrote d.toNat = (now, x) → x ≤ m) →
        ((q.putX d v m now).putX d w n now).getX d = w))
  ∧ (∀ (s : State) (r : SeqRef) (w : Wait), (s.seq r).wait = some w → w.holds = false → w ≠ .held →
      exec (.waitSatisfied (.seq r)) s = .next (s.modSeq r fun q => { q with wait := none }))
  ∧ (∀ (s : State) (r : SeqRef) (c : Cmd) (h : Hdr), (s.seq r).held = some c →
      ((s.seq r).wait = some .fence → c.ins = .fenceE h → (s.seq r).lds = [] → (s.seq r).cmds = [] →
        exec (.waitSatisfied (.seq r)) s = .next (s.asSeq r fun t =>
          ((t.acquires r).pushPost r h.pq c.addr).modSeq r fun q => { q with wait := none, held := none }))
      ∧ (∀ d, (s.seq r).wait = some .matrix → c.ins = .fcclr h d → (∀ k ∈ (s.seq r).matQ, mmOf k.ins = none) →
        exec (.waitSatisfied (.seq r)) s = .next (s.asSeq r fun t =>
          (((t.modCluster r.die r.cl fun k => { k with fidErr := 0, fidChk := 0 }).putOn r d
            (zext32 (s.cluster r.die r.cl).fidErr) c.no).pushPost r h.pq c.addr).modSeq r fun q =>
              { q with wait := none, held := none }))
      ∧ ∀ d a b tmo x n, (s.seq r).wait = some (.counter x) → c.ins = .cwait h d a b tmo → field c.xa 40 3 = r.die →
        field c.xa 0 8 = n → low32 c.xb ≤ (s.counter r.die n).value →
        exec (.waitSatisfied (.seq r)) s = .next (s.asSeq r fun t =>
          (((t.modSeq r fun q => { q with phase := s.tsc r.die }).putOn r d
            (BitVec.ofNat 64 (s.counter r.die n).value.toNat) c.no).pushPost r h.pq c.addr).modSeq r fun q =>
              { q with wait := none, held := none }))
  ∧ (∀ (s : State) (r : SeqRef) (c : Cause), s.cur = .seq r → (s.strand (strandOf r)).stop = .running →
      c ≠ .xlateMiss → c ≠ .posmapMiss →
      exec (.notAnInstruction c) s = .next (s.stopsFor (strandOf r) ⟨c, .i, r.cls, (s.seq r).pc, 0, 0, s.tsc r.die, 0⟩))
  ∧ (∀ (s : State) (st : StrandRef) (k : Cls), (s.strand st).stop = .running →
      (s.strand st).lastStep + 16777216 ≤ s.tsc st.die → (s.seq (seqOf st k)).wait ≠ none →
      (s.masked st .watchdog = true →
        exec (.watchdog st) s = .next ((s.post st.die
          { cause := .watchdog, cl := some st.cl, slot := some st.slot, launch := (s.strand st).launchId }).modStrand st fun t => { t with lastStep := s.tsc st.die }))
      ∧ (s.masked st .watchdog = false → ∃ c : Cls, (s.seq (seqOf st c)).wait ≠ none ∧
        exec (.watchdog st) s = .next (s.stopsFor st ⟨.watchdog, .a, c, 0, 0, 0, s.tsc st.die, 0⟩)))
  ∧ (∀ (s : State) (launch team : Nat), exec (.preemptRequest launch team) s = .next
      (((s.sched.teams.filter fun p => p.2.launch.toNat == launch && p.2.index == team && p.2.started).flatMap
        fun p => p.2.slots.map fun n => (⟨p.2.die, p.2.cl, n⟩ : StrandRef)).foldl (fun a st =>
          a.modStrand st fun t => { t with preempt := true }) s))
  ∧ (∀ (s : State) (r : SeqRef) (c : Cmd) (h : Hdr) (d : Reg) (tmo : BitVec 16) (x : Nat) (y : Option Nat),
      (s.strand (strandOf r)).stop = .running → (s.seq r).wait = some (.arrival y) → (s.seq r).held = some c →
      c.ins = .wtag h d tmo → c.head = some x → x ≤ s.tsc r.die → s.pendingArrivals (strandOf r) = [] →
      exec (.wtagTimeout (.seq r)) s = .next (s.asSeq r fun t =>
        (((t.modStrand (strandOf r) fun z => { z with arrivals := [] }).putOn r d 3 c.no).pushPost r h.pq c.addr).modSeq r
          fun q => { q with wait := none, held := none }))
  ∧ ∀ (s : State) (r : SeqRef) (c : Cmd) (h : Hdr) (d a b : Reg) (tmo : BitVec 16) (x n : Nat) (y : Option Nat),
      (s.strand (strandOf r)).stop = .running → (s.seq r).wait = some (.counter y) → (s.seq r).held = some c →
      c.ins = .cwait h d a b tmo → c.head = some x → x ≤ s.tsc r.die → field c.xa 40 3 = r.die → field c.xa 0 8 = n →
      (s.counter r.die n).value < low32 c.xb →
      exec (.cwaitTimeout (.seq r)) s = .next (s.asSeq r fun t =>
        (((t.modSeq r fun q => { q with phase := s.tsc r.die }).putOn r d
          (BitVec.ofNat 64 (2 ^ 63 + (s.counter r.die n).value.toNat)) c.no).pushPost r h.pq c.addr).modSeq r fun q =>
            { q with wait := none, held := none })

/-! ### Lanes and flits (R260 to R268) -/

/-- R264 to R269: an acknowledged flit leaves the lane that holds it, and one that has moved or waits; one refused is sent again, up
to three times, then its lane retrains, or is retired where BKT is 8; training and retuning end at their time; BKT falls by 1 after
10 s; a lane whose light is lost leaves its set, and trains when it returns; a failed or unlisted control flit is counted; TRAIN has
no effect of its own; a data flit whose check fails is counted and refused, one whose check holds is acknowledged, kept while an
earlier one is missing, discarded where it has come before, and in its turn its bytes come to its die.  That a flit is named by
its die beside its SEQ is log entry 4, that a lane being retuned keeps its flits log entry 93. -/
def Obligations.LaneEvents : Prop :=
  ∀ (s : State) (die n src : Nat), ∀ l, l = s.lane die n →
    (∀ q : BitVec 32, die < 8 → l.use = 3 → ∃ t, exec (.ack die n ⟨src, q⟩) s = .next t
        ∧ (t.lane die n).unacked = l.unacked.filter (fun f => f.src != src || f.seq != q)
        ∧ (t.link (.data src) (s.peer l.ch)).pending = (s.link (.data src) (s.peer l.ch)).pending.filter
            (fun f => f.src != src || f.seq != q)
        ∧ SameMem s t ∧ t.outbox = s.outbox)
    ∧ (∀ (q : BitVec 32) (f : SentFlit), l.unacked.find? (fun g => g.src == src && g.seq == q) = some f → l.retune = false →
      (f.fails < 3 → exec (.nak die n ⟨src, q⟩) s = .next ((s.modLane die n fun l => { l with unacked := l.unacked.map fun g =>
          if g.src = src ∧ g.seq = q then { g with fails := g.fails + 1 } else g }).send (.data (s.peer l.ch) die n f.bytes)))
      ∧ (3 ≤ f.fails → exec (.nak die n ⟨src, q⟩) s = .next
          (((s.modLane die n fun l => { l with trn := true }).moveAll die n l).retrain die n l.unacked.length)))
    ∧ (∀ k, l.bkt ≠ 8 → s.retrain die n k = (s.modLane die n fun l =>
          { l with
            trn := true, bkt := l.bkt + 1, bktAt := if l.bkt = 0 then s.tsc die else l.bktAt
            busy := s.tsc die + 12000 }).send (.train die n))
    ∧ (∀ k u, l.bkt = 8 → l.use = 3 → u = s.modLane die n (fun l => { l with ret := true, trn := false }) →
        s.retrain die n k = u.post die (eventOf .linkRetired (k * 2 ^ 32
          + (u.laneSet (.data 0) (s.peer l.ch)).length * 2 ^ 16 + s.peer l.ch * 2 ^ 8 + n)))
    ∧ exec (.train die n) s = .next s
    ∧ (l.trn = true → l.busy ≤ s.tsc die →
      exec (.laneTrainDone die n) s = .next ((s.modLane die n fun l => { l with trn := false }).rejoin die n))
    ∧ (l.retune = true → l.tuned ≤ s.tsc die →
      exec (.laneRetuneDone die n) s = .next (l.unacked.foldl (fun a f => a.send (.data (s.peer l.ch) die n f.bytes))
        (s.modLane die n fun l => { l with retune := false })))
    ∧ (0 < l.bkt → l.bktAt + 6000000000 ≤ s.tsc die →
      exec (.bktDecay die n) s = .next (s.modLane die n fun l => { l with bkt := l.bkt - 1, bktAt := l.bktAt + 6000000000 }))
    ∧ exec (.laneLos die ⟨n, true⟩) s = .next (s.send (.losSignal die n))
    ∧ (l.los = false → l.use = 3 →
      ∀ u, u = (s.modLane die n fun l => { l with los := true, trn := false }).moveAll die n l → (u.lane die n).use = 3 →
      exec (.laneLos die ⟨n, false⟩) s = .next (u.post die (eventOf .laneLos (l.unacked.length * 2 ^ 32
        + (u.laneSet (.data 0) (s.peer l.ch)).length * 2 ^ 16 + s.peer l.ch * 2 ^ 8 + n))))
    ∧ (l.los = true → l.ret = false →
      exec (.lightReturn die n) s = .next ((s.modLane die n fun l => { l with los := false }).retrain die n 0))
    ∧ (∀ b, controlGood b = false →
      exec (.unlistedControlFlit die n b) s = .next (s.modLane die n fun l => { l with failed := l.failed + 1 }))
    ∧ (∀ fl : DataFlit, l.use = 3 → flitGood fl = false → exec (.dataFlit die n fl) s = .next
      ((((s.modLane die n fun l => { l with failed := l.failed + 1 }).send (.nak die n fl.src (flitSeq fl))).modLink
        (.data fl.src) fl.mid fun k => k).consumeAll fl.src fl.mid))
    ∧ ∀ (fl : DataFlit) (k : Link), l.use = 3 → flitGood fl = true → k = s.link (.data fl.src) fl.mid →
      ∀ u, u = s.send (.ack die n fl.src (flitSeq fl)) →
      (2 ^ 31 ≤ (flitSeq fl - k.next).toNat ∨ (∃ e ∈ k.early, e.1 = flitSeq fl) →
        exec (.dataFlit die n fl) s = .next ((u.modLink (.data fl.src) fl.mid fun k => k).consumeAll fl.src fl.mid))
      ∧ (0 < (flitSeq fl - k.next).toNat → (flitSeq fl - k.next).toNat < 2 ^ 31 → (∀ e ∈ k.early, e.1 ≠ flitSeq fl) →
        (∀ e ∈ k.early, e.1 ≠ k.next) →
        exec (.dataFlit die n fl) s = .next ((u.modLink (.data fl.src) fl.mid fun k =>
          { k with early := (flitSeq fl, fl.bytes.take 512) :: k.early }).consumeAll fl.src fl.mid))
      ∧ (flitSeq fl = k.next → k.early = [] →
        exec (.dataFlit die n fl) s = .next ((u.modLink (.data fl.src) fl.mid fun k =>
          { k with next := k.next + 1, inbox := k.inbox ++ fl.bytes.take 512 }).consumeAll fl.src fl.mid))

/-! ### The chain (R74 to R85, R373) -/

/-- R74, R76, R78, R79, R81, R83, R92, R373: a header that fits the cadence table announces its stripe, takes the lowest free
freewheel slot where a launch is registered, and is missed where none is free; one that does not fit makes the tag LOST, with a
record, and its stripe is discarded, as is one that has arrived before; FREEFR brings credits; a stripe begins with its first flit, its departure
time and a credit; a dwell limit expires, with a miss where no landing has begun; LAND_TILE serves the landings of a sequencer,
and one of a LOST tag ends with status 2; a LOST tag has records queued at the rotations that the cadence table expects.  That
every target is LOST while the mark stands is log entry 48, the detail of SEGMENT_AUTH log entry 53. -/
def Obligations.ChainEvents : Prop :=
  ∀ (s : State) (die : Nat),
    (∀ n, exec (.freefr die n) s = .next (s.modDie die fun d => { d with credits := d.credits + n }))
    ∧ (∀ hd : SegHdr, (s.die die).incoming = [] →
      (∀ e : Cadence, s.cadence? hd.tag = some e → hd.rsvZero = true → hd.die.toNat = die → 1 ≤ hd.size.toNat →
        hd.size.toNat ≤ 64 → hd.flags &&& 0xFC = 0 → e.size = hd.size →
        (∀ a, Tbl.get? (s.die die).lastArr hd.tag.toNat = some a → a.1 ≠ hd.rot) → e.hdrRot ≠ some hd.rot →
        ∀ u, u = (s.modCadence e.tag fun e =>
          { e with missed := false, lost := false, reinj := false, hdrRot := some hd.rot, hdrReg := e.nreg != 0 }) →
        (e.nreg = 0 → exec (.seghdr die hd) s = .next (u.modDie die fun d =>
          { d with incoming := [{ hdr := hd, slot := u.chain.slotOf hd.tag hd.rot, reg := false }] }))
        ∧ (∀ n w, e.nreg ≠ 0 → s.chain.freeSlot = some n → w = (u.modChain fun c =>
            { c with slots := Tbl.set none c.slots n (some ⟨e.tag, hd.rot, false, [], []⟩) }) →
          exec (.seghdr die hd) s = .next (w.modDie die fun d =>
            { d with incoming := [{ hdr := hd, slot := w.chain.slotOf hd.tag hd.rot, reg := true }] }))
        ∧ (∀ w, e.nreg ≠ 0 → s.chain.freeSlot = none → w = ((u.modCadence e.tag fun e =>
            { e with missed := true, missRot := hd.rot }).post die (eventOf .segmentMissed 1)) →
          exec (.seghdr die hd) s = .next (w.modDie die fun d =>
            { d with incoming := [{ hdr := hd, slot := w.chain.slotOf hd.tag hd.rot, reg := true }] })))
      ∧ (∀ e : Cadence, s.cadence? hd.tag = some e → (hd.rsvZero = false ∨ hd.die.toNat ≠ die ∨ hd.size.toNat = 0
            ∨ 64 < hd.size.toNat ∨ hd.flags &&& 0xFC ≠ 0 ∨ e.size ≠ hd.size) → s.chain.slotOf hd.tag hd.rot = none →
        exec (.seghdr die hd) s = .next ((((s.modCadence hd.tag fun e => { e with lost := true, hdrRot := some hd.rot }).post die
          { cause := .segmentAuth, detail := zext32 hd.tag }).modDie die fun d =>
            { d with incoming := [{ hdr := hd, drop := true, reg := false }] })))
      ∧ (s.cadence? hd.tag = none → exec (.seghdr die hd) s = .next
        ((s.post die { cause := .segmentAuth, detail := zext32 hd.tag }).modDie die fun d =>
          { d with incoming := [{ hdr := hd, drop := true, reg := false }] }))
      ∧ (∀ (e : Cadence) (a : BitVec 32 × Nat), s.cadence? hd.tag = some e → hd.rsvZero = true → hd.die.toNat = die →
        1 ≤ hd.size.toNat → hd.size.toNat ≤ 64 → hd.flags &&& 0xFC = 0 → e.size = hd.size →
        Tbl.get? (s.die die).lastArr hd.tag.toNat = some a → a.1 = hd.rot →
        exec (.seghdr die hd) s = .next (s.modDie die fun d =>
          { d with incoming := [{ hdr := hd, drop := true, reg := false }] })))
    ∧ (∀ (mid : Nat) (f : Frame) (e : Cadence), s.chain.successor = some mid → 0 < (s.die die).credits →
        (s.die die).fwd = [] → f = Tbl.get {} (s.die die).frames (s.die die).nextSend → 0 < f.got → f.sending = false →
        s.cadence? f.tag = some e → s.departs e f.rot.toNat ≤ s.tsc die →
        exec (.stripeSendStart die) s = .next
          ((((s.send (.seghdr mid ⟨BitVec.ofNat 8 die, BitVec.ofNat 8 f.size, f.flags, f.tag,
                if s.chain.isOrigin then f.rot + 1 else f.rot, BitVec.ofNat 64 (s.tsc die), true⟩)).modFrame die
              (s.die die).nextSend fun g => { g with sending := true }).modDie die fun d =>
                { d with credits := d.credits - 1 }).pushStripe die))
    ∧ (∀ (n : Nat) (k : FSlot) (e : Cadence) (a : BitVec 32 × Nat), s.chain.fslot n = some k → die ∉ k.expired →
        s.cadence? k.tag = some e → Tbl.get? (s.die die).lastArr k.tag.toNat = some a → a.1 = k.rot →
        a.2 + e.dwell.toNat ≤ s.tsc die →
        exec (.dwellExpire die n) s = .next ((if k.started
          then s.modFSlot n fun k => { k with expired := die :: k.expired }
          else (s.modFSlot n fun k => { k with expired := die :: k.expired }).modCadence k.tag fun e =>
            { e with missed := true, missRot := k.rot }).release die))
    ∧ (∀ (tag : BitVec 32) (e : Cadence), s.cadence? tag = some e → e.lost = true →
        (∀ d < 8, s.expectedNow e (s.tsc d) (s.die d).span = none) → exec (.lostStandin tag) s = .next s)
    ∧ (∀ (tag : BitVec 32) (e : Cadence) (n at_ : Nat), s.cadence? tag = some e → e.lost = true →
        s.expectedNow e (s.tsc 0) (s.die 0).span = some (n, at_) →
        (∀ d < 8, d ≠ 0 → s.expectedNow e (s.tsc d) (s.die d).span = none) → (s.die 0).lastOf tag = none →
        exec (.lostStandin tag) s = .next
          ((s.modDie 0 fun v => { v with standIn := Tbl.put v.standIn tag.toNat (BitVec.ofNat 32 n, at_) }).deliver 0
            ⟨tag, BitVec.ofNat 32 n, BitVec.ofNat 64 at_, true⟩))
    ∧ (∀ (e : Cadence) (n j span : Nat), j < s.chain.trot → n * s.chain.trot + j < 2 ^ 63 →
        s.expectedNow e (s.expected e 0 + n * s.chain.trot + j) span =
          if j < span then some (n, s.expected e 0 + n * s.chain.trot) else none)
    ∧ (∀ (r : SeqRef) (c : Cmd) (l : LandCmd) (rot : BitVec 32), (s.strand (strandOf r)).stop = .running →
        (s.seq r).landQ = [c] → landOf c.ins = some l → c.begun = true → c.target = some rot →
        exec (.landTile (.seq r)) s = .next (s.landTile r { c with head := some (s.tsc r.die) } l rot))
    ∧ ∀ (r : SeqRef) (c : Cmd) (f : Fmt) (h : Hdr) (d a b : Reg) (mac : BitVec 6) (slot cnt : BitVec 3) (rot : BitVec 32),
        (s.strand (strandOf r)).stop = .running → (s.seq r).landQ = [c] → c.ins = .land h f d a b mac slot cnt →
        c.begun = false → c.target = some rot → s.rotState r.die (low32 c.xa) rot = .lost →
        exec (.landTile (.seq r)) s = .next ((s.modSeq r fun q =>
          { q with landQ := q.landQ.filter fun k => k.seqNo != c.seqNo }.putX d 2 c.no s.cycles).pushPost r h.pq c.addr c.pix)

/-! ### Reduction ranges, work entries, remote units (R163 to R167, R271 to R291) -/

/-- R164, R166, R282, R284: a unit of a contribution whose turn it is adds its values, word by word, and the last one fills its
slot; a contribution that has kept its slot continues it wherever its strand stands; the timer of a round that has run out ends it:
the round's contributions complete with TIMEOUT, MISS names those that are missing, the round's counter rises.  That CPYR
rounds the sum where others keep a word to which zero is added is log entry 90. -/
def Obligations.RangeEvents : Prop :=
  (∀ (s : State) (rr : RangeRef) (t0 : Nat), (s.range rr).v = true → (s.range rr).tmo ≠ 0 → (s.range rr).tmd = false →
      (s.range rr).started = some t0 → t0 + 4096 * (s.range rr).tmo.toNat ≤ s.tsc (rangeMem rr).die →
      (∀ k ∈ (s.range rr).contribs, k.begun = false ∧ k.go = false) →
      ∃ t u, exec (.roundTimeout rr) s = .next t ∧ t = (s.range rr).contribs.foldl (fun a k => a.cut (s.range rr).missing k) u
        ∧ u = ((s.modRange rr fun g => { g with expired := true }).modRange rr fun g =>
          { g with tmd := true, miss := g.missing, contribs := [], started := none }).bumpRange rr)
  ∧ (∀ (s : State) (r : SeqRef) (c : Cmd) (rest : List Cmd) (h : Hdr) (acc : Bool) (rm : RMode) (f : Fmt) (d a b : Reg),
      (s.strand (strandOf r)).stop = .running → (s.seq r).copyQ = c :: rest → c.ins = .cpyr h acc rm f d a b →
      ((s.cpyrServe r c acc rm f).seq r).collQ = [] → exec (.cpyrAdd (.seq r)) s = .next (s.cpyrServe r c acc rm f))
  ∧ (∀ (s : State) (r : SeqRef) (c : Cmd) (rr : RangeRef) (k : Contrib) (n per w : Nat)
        (add : BitVec 32 → ExtNum → BitVec 32) (vs : List ExtNum),
      (s.range rr).tmd = false → (s.range rr).contribs.any (fun k => k.who == .seq r c.seqNo) = true →
      s.contrib? rr (.seq r c.seqNo) = some k → (s.range rr).ready k = true → c.pix * per < n →
      s.softWords (rangeMem rr) (w + c.pix * per) (min per (n - c.pix * per)) = none →
      (s.contribute r .copy c rr w n per add (pure vs)).1
        = (let c' := { c with pix := c.pix + 1, claim := k.claim }
           let u := ((s.addWords (rangeMem rr) (w + c.pix * per) vs add).modSeq r fun q =>
             q.setQueue .copy ((q.queue .copy).map fun y => if y.seqNo = c.seqNo then c' else y)).modContrib rr
               (.seq r c.seqNo) fun k => { k with begun := true }
           if n ≤ (c.pix + 1) * per then u.fillSlot rr (.seq r c.seqNo) else u))
  ∧ (∀ (s : State) (die w j : Nat) (vs : List ExtNum) (v : ExtNum) (add : BitVec 32 → ExtNum → BitVec 32), vs[j]? = some v →
      Tbl.get 0 ((s.addWords (.stg die) w vs add).die die).stg (w + j) = add (Tbl.get 0 (s.die die).stg (w + j)) v)
  ∧ (∀ (s : State) (die w j : Nat) (vs : List ExtNum) (add : BitVec 32 → ExtNum → BitVec 32), j < w ∨ w + vs.length ≤ j →
      Tbl.get 0 ((s.addWords (.stg die) w vs add).die die).stg j = Tbl.get 0 (s.die die).stg j)
  ∧ (∀ (rm : RMode) (a : BitVec 32) (v : ExtNum), redAdd rm a v = accAdd a v rm
      ∧ cpyrAdd rm a v = roundFP32 (.det rm) ((fp32 a).add v))
  ∧ ∀ (g : Range) (k : Contrib) (n : Nat) (x : BitVec 16), k.claim = some ⟨n, x⟩ → g.tmd = false →
      g.expired = false → (g.ready k = true ↔ ∀ j < n, g.filled.getLsbD j = true)

/-- R276, R278 to R281: the oldest unfired entry of a queue pair is armed when its counter comes to its threshold, and then fires:
STAT and, where the entry moves data, SRC are translated, once.  A fired entry completes: NOP at once, WRITE and WRITE_RED with their
data, here or unit by unit at another member, CADD with its add, SCLR with its range cleared, one that moves nothing without; one
whose outcome stands with that; a GROUP that R280 does not allow with FAULT.  Completing, it writes its status word, adds to
its counters and frees its position.  Which counters rise at a timeout is log entry 92. -/
def Obligations.WorkEntryEvents : Prop :=
  (∀ (cs : Tbl Counter) (q : QPair) (w : WorkEntry) (rest : List WorkEntry), q.entries = w :: rest → w.fired = false →
      (q.arm cs).entries = { w with armed := w.armed || decide ((Entry.of w.image).thresh
        ≤ (Tbl.get {} cs (Entry.of w.image).armc : Counter).value.toNat) } :: rest)
  ∧ ∀ (s : State) (die qp : Nat) (w : WorkEntry) (e : Entry) (u : State), e = Entry.of w.image →
    ((s.qpair die qp).entries.find? (fun w => !w.fired) = some w →
      (w.armed = false → exec (.workEntryFire die qp) s = .next s)
      ∧ (w.armed = true → u = ((s.modEntry die qp w.pos fun w => { w with fired := true }).modQpair die qp fun q =>
            q.arm (s.die die).counters) →
        (e.stat = 0 → e.moves s.chain.self = false → exec (.workEntryFire die qp) s = .next u)
        ∧ (∀ pa, e.stat ≠ 0 → e.moves s.chain.self = false → (s.place die w.ctx none e.stat 8).bind (checkPlace .write) = .ok pa →
          exec (.workEntryFire die qp) s = .next (u.modEntry die qp w.pos fun w => { w with stat := some pa }))
        ∧ (∀ c, e.stat ≠ 0 → (s.place die w.ctx none e.stat 8).bind (checkPlace .write) = .error c →
          exec (.workEntryFire die qp) s = .next ((u.post die { cause := c }).modEntry die qp w.pos fun w =>
            { w with outcome := some 5 }))
        ∧ (∀ src, e.stat = 0 → e.moves s.chain.self = true → u.sourceOf die w.ctx e.src e.bytes = .ok src →
          (e.op = 2 ∨ ∀ g, u.sourceRange src = some g → g.tmd = false) →
          exec (.workEntryFire die qp) s = .next (u.modEntry die qp w.pos fun w =>
            { w with source := some src, outcome := none }))
        ∧ (∀ src g, e.stat = 0 → e.op = 1 → e.moves s.chain.self = true → u.sourceOf die w.ctx e.src e.bytes = .ok src →
          u.sourceRange src = some g → g.tmd = true →
          exec (.workEntryFire die qp) s = .next (u.modEntry die qp w.pos fun w =>
            { w with source := some src, outcome := some (statusWord 3 0 g.miss.toNat) }))
        ∧ ∀ c, e.stat = 0 → e.moves s.chain.self = true → u.sourceOf die w.ctx e.src e.bytes = .error c →
          exec (.workEntryFire die qp) s = .next ((u.post die { cause := c }).modEntry die qp w.pos fun w =>
            { w with outcome := some 5 })))
    ∧ ((s.qpair die qp).entries = [w] → w.fired = true →
      (∀ st, w.outcome = some st →
        exec (.workEntryComplete die qp) s = .next (s.entryEnd die qp w st (e.op == 1)))
      ∧ (w.outcome = none → e.groupOk s.chain.self = false →
        exec (.workEntryComplete die qp) s = .next (s.entryEnd die qp w (statusWord 5 0 0) false))
      ∧ (w.outcome = none → e.groupOk s.chain.self = true →
        (e.op = 0 → exec (.workEntryComplete die qp) s = .next (s.entryEnd die qp w 0 true))
        ∧ (e.op = 1 → e.still s.chain.self = true →
          exec (.workEntryComplete die qp) s = .next (s.entryEnd die qp w 0 true))
        ∧ (∀ (src : Src) (t : State) (a : UnitAns), e.op = 1 → e.still s.chain.self = false → s.ptrFar e.dst = false →
          w.source = some src → s.sourceSoft src = none → s.weak = [] → s.lostOf e (s.sourceRange src) = 0 →
          s.writeLocal die w.ctx e (s.sourceBytes src 0 e.bytes) = (t, a) →
          exec (.workEntryComplete die qp) s = .next (match a with
            | .done => t.entryEnd die qp w 0 true
            | .status x => t.entryEnd die qp w x false))
        ∧ (∀ (src : Src) (wu : WrUnit), e.op = 1 → e.still s.chain.self = false → s.ptrFar e.dst = true →
          s.chain.skipped (ptrMid e.dst) = false → w.source = some src → s.sourceSoft src = none → s.weak = [] →
          s.lostOf e (s.sourceRange src) = 0 → w.req ≠ 0 → w.remote = .idle → 4096 * w.unit < e.count →
          wu.req = w.req → wu.unit = w.unit → wu.window = windowOf (s.tsc die) → wu.ctx = w.ctx →
          wu.dst = e.rem.at_ e.dst w.unit → wu.len = min 4096 (e.count - 4096 * w.unit) → wu.red = none → wu.acc = e.acc →
          wu.bf16 = false → wu.rm = e.rm → wu.last = decide (e.count ≤ 4096 * (w.unit + 1)) →
          wu.rcnt = (if e.rcnt.getLsbD 63 then e.rcnt else 0) →
          exec (.workEntryComplete die qp) s = .next (((s.modEntry die qp w.pos fun w =>
            { w with remote := .sent w.unit (windowOf (s.tsc die)) }).send (.wr (ptrMid e.dst) wu)).sendBytes (.data die)
              (ptrMid e.dst) (windowOf (s.tsc die)) (s.sourceBytes src (4096 * w.unit) wu.len)))
        ∧ (∀ (src : Src) (m : RMem) (at_ : Nat) (rr : RangeRef) (k : Contrib), e.op = 2 → e.still s.chain.self = false →
          s.ptrFar e.dst = false → w.source = some src → s.sourceSoft src = none → s.weak = [] →
          s.redTarget die w.ctx e.dst e.acc = .ok (m, at_) → s.findRange m at_ e.count = some rr → (s.range rr).tmd = false →
          (s.range rr).admits e.rqid = true → s.contrib? rr (.entry die qp w.pos) = some k → (s.range rr).ready k = true →
          s.softWords m at_ e.count = none →
          exec (.workEntryComplete die qp) s = .next (((s.addWords m at_ (redValues e.fmt (s.sourceBytes src 0 e.bytes))
            (redAdd e.rm)).fillSlot rr (.entry die qp w.pos)).entryEnd die qp w 0 true))
        ∧ (∀ (src : Src), e.op = 2 → e.still s.chain.self = false → s.ptrFar e.dst = true →
          s.chain.skipped (ptrMid e.dst) = false → w.source = some src → s.sourceSoft src = none → s.weak = [] → w.req ≠ 0 →
          w.remote = .idle →
          exec (.workEntryComplete die qp) s = .next ((s.modEntry die qp w.pos fun w => { w with remote := .askedGo }).send
            (.redhdr (ptrMid e.dst) ⟨w.req, e.rqid, w.ctx, e.dst, e.acc, BitVec.ofNat 32 e.count⟩)))
        ∧ (e.op = 2 → e.still s.chain.self = true → s.ptrFar e.dst = false →
          exec (.workEntryComplete die qp) s = .next (s.entryRed die qp w e 0 []))
        ∧ (e.op = 3 → (e.still s.chain.self = true ∨ e.dst.getLsbD 62 = false) →
          exec (.workEntryComplete die qp) s = .next (s.entryEnd die qp w 0 true))
        ∧ (∀ d n, e.op = 3 → e.still s.chain.self = false → s.namesCounter e.dst d n →
          exec (.workEntryComplete die qp) s = .next ((s.counterAdd d n e.count).entryEnd die qp w 0 true))
        ∧ (∀ m, e.op = 3 → e.still s.chain.self = false → e.dst.getLsbD 62 = true → s.farName e.dst m →
          (s.chain.skipped m = true → exec (.workEntryComplete die qp) s = .next (s.entryEnd die qp w (statusWord 2 0 0) false))
          ∧ (s.chain.skipped m = false → w.remote = .idle → exec (.workEntryComplete die qp) s = .next
            (({ s with nextReq := s.nextReq + 1 }.modEntry die qp w.pos fun w =>
              { w with req := s.nextReq, remote := .sent 0 (windowOf (s.tsc die)) }).send
                (.cntadd m ⟨s.nextReq, windowOf (s.tsc die), w.ctx, e.dst, BitVec.ofNat 32 e.count⟩))))
        ∧ (∀ (at_ : Nat) (p : Nat × Range), e.op = 4 → e.dst.toNat < 2 ^ 48 →
          s.redTarget die w.ctx e.dst false .clear = .ok (.stg die, at_) →
          ((s.die die).ranges.find? fun p => p.2.v && p.2.base.toNat == at_) = some p →
          exec (.workEntryComplete die qp) s = .next
            ((s.clearWords (.stg die) at_ p.2.len.toNat).entryEnd die qp w 0 true))
        ∧ (e.op = 4 → 2 ^ 48 ≤ e.dst.toNat → exec (.workEntryComplete die qp) s = .next
          ((s.post die { cause := .addrRange }).entryEnd die qp w (statusWord 5 0 0) false))))
    ∧ (∀ (st : BitVec 64) (pa : Nat) (rc : Bool), w.stat = some pa → st.toNat % 8 < 4 →
      s.entryEnd die qp w st rc = ((let v := s.writeSlab die pa (bytes64 (e.status st))
        ((if rc then v.bump die w.ctx e.rcnt 1 else v).bump die w.ctx e.lcnt 1).modQpair die qp fun q =>
          { q with entries := q.entries.filter fun x => x.pos != w.pos })))
    ∧ ∀ (bs : List Byte) (runs : List (Nat × Nat)), 0 < e.count → e.count ≤ 4096 → e.op = 1 → e.acc = false → bs.length = e.count →
      s.slabRuns die w.ctx (field e.dst 0 48) e.count .remote = .ok runs →
      s.writeLocal die w.ctx e bs = ((runs.foldl (fun (a : State × List Byte) p =>
        (a.1.writeSlab die p.1 (a.2.take p.2), a.2.drop p.2)) (s, bs)).1, .done)

/-- R271, R274, R284, R287, R288, R291: at their home, a unit's header waits for its bytes, a unit is performed before window N + 2
begins, and refused from then on or behind one that has been refused, with TIMEOUT where it is a contribution to a round whose timer
has expired; a read is answered with its bytes, or refused, and with it the later units of its command; a contribution claims a
slot, or is refused; a CADD adds, clamped at the top, or is refused at a counter of another context.  At the sender, an
acknowledged unit is committed in order, a refused one or one that is not answered until window N + 4 ends its command or traps.
A tuple request of another member is translated and checked at its home, and refused with words that are log entry 87; an increment
of LCNT or DONEC asks for no context, which is log entry 80. -/
def Obligations.RemoteEvents : Prop :=
  ∀ (s : State) (mid die : Nat),
    (∀ w : WrUnit, (s.link (.data die) mid).expect = [] → (s.link (.data die) mid).inbox.length < (w.len + 511) / 512 * 512 →
      exec (.wrhdr mid die w) s = .next (s.modLink (.data die) mid fun l => { l with expect := l.expect ++ [.write die w] }))
    ∧ (∀ (w : WrUnit) (runs : List (Nat × Nat)) (bs : List Byte), (mid, w.req) ∉ s.refused → windowOf (s.tsc die) < w.window + 2 →
      w.red = none → w.acc = false → w.last = false →
      s.slabRuns die w.ctx (field w.dst 0 48) bs.length .remote = .ok runs →
      s.performUnit die mid w bs = ((runs.foldl (fun (a : State × List Byte) p =>
        (a.1.writeSlab die p.1 (a.2.take p.2), a.2.drop p.2)) (s, bs)).1.send (.wrack mid w.req w.unit)))
    ∧ (∀ (w : WrUnit) (bs : List Byte), ((mid, w.req) ∈ s.refused ∨ w.window + 2 ≤ windowOf (s.tsc die)) →
      (s.farContrib mid w.req = none → (mid, w.req) ∈ s.refused →
        s.performUnit die mid w bs = s.send (.wrnack mid w.req w.unit (statusWord 1 w.unit 0)))
      ∧ (∀ rr, s.farContrib mid w.req = some rr → (mid, w.req) ∉ s.refused → ∀ u, u = ({ s with
            refused := (mid, w.req) :: s.refused } : State).send (.wrnack mid w.req w.unit
              (if (s.range rr).expired then statusWord 3 0 (s.range rr).missing.toNat else statusWord 1 w.unit 0)) →
        s.performUnit die mid w bs = (u.refuseRed rr mid w.req).settleRange rr))
    ∧ (∀ (w : WrUnit) (rest : List Expect), mid < 32 → (s.link (.data die) mid).expect = .write die w :: rest →
      (∀ m < 32, m ≠ mid → (s.link (.data die) m).expect = []) → (mid, w.req) ∉ s.refused →
      w.window + 2 ≤ windowOf (s.tsc die) → s.farContrib mid w.req = none →
      exec (.remoteUnitDeadline die w.req) s = .next (({ s with refused := (mid, w.req) :: s.refused } : State).send
        (.wrnack mid w.req w.unit (statusWord 1 w.unit 0))))
    ∧ (∀ (rd : RdUnit) (runs : List (Nat × Nat)), windowOf (s.tsc die) < rd.window + 2 → (mid, rd.req) ∉ s.refused →
      s.slabRuns die rd.ctx rd.va.toNat rd.len .read = .ok runs → s.bad = [] → s.weak = [] →
      exec (.rdreq mid die rd) s = .next ((s.send (.wrack mid rd.req rd.unit)).sendBytes (.data die) mid (windowOf (s.tsc die))
        (runs.flatMap fun p => s.readMem p.1 p.2)))
    ∧ (∀ rd : RdUnit, (mid, rd.req) ∈ s.refused → s.farContrib mid rd.req = none →
      exec (.rdreq mid die rd) s = .next (s.send (.wrnack mid rd.req rd.unit (statusWord 1 rd.unit 0))))
    ∧ (∀ rd : RdUnit, (mid, rd.req) ∉ s.refused → rd.window + 2 ≤ windowOf (s.tsc die) → s.farContrib mid rd.req = none →
      exec (.rdreq mid die rd) s = .next (({ s with refused := (mid, rd.req) :: s.refused } : State).send
        (.wrnack mid rd.req rd.unit (statusWord 1 rd.unit 0))))
    ∧ (∀ rh : RedHdr, s.farContrib mid rh.req = none → (mid, rh.req) ∉ s.refused →
      (∀ (m : RMem) (w : Nat) (rr : RangeRef), s.redTarget die rh.ctx rh.dst rh.acc = .ok (m, w) →
        s.findRange m w rh.count.toNat = some rr →
        ((s.range rr).tmd = false → (s.range rr).admits rh.requester = true → (s.range rr).contribs = [] →
          exec (.redhdr mid die rh) s = .next
            ((s.joinRange rr ⟨.member mid rh.req, rh.requester, rh.count.toNat, none, false, false⟩).grant rr))
        ∧ ((s.range rr).tmd = true → exec (.redhdr mid die rh) s = .next (({ s with refused := (mid, rh.req) :: s.refused } :
            State).send (.wrnack mid rh.req 0 (statusWord 3 0 (s.range rr).miss.toNat))))
        ∧ ((s.range rr).tmd = false → (s.range rr).admits rh.requester = false →
          exec (.redhdr mid die rh) s = .next (({ s with refused := (mid, rh.req) :: s.refused } : State).send
            (.wrnack mid rh.req 0 5))))
      ∧ ∀ (m : RMem) (w : Nat), s.redTarget die rh.ctx rh.dst rh.acc = .ok (m, w) → s.findRange m w rh.count.toNat = none →
        exec (.redhdr mid die rh) s = .next (({ s with refused := (mid, rh.req) :: s.refused } : State).send
          (.wrnack mid rh.req 0 5)))
    ∧ (∀ (ca : CntAdd) (d n : Nat), windowOf (s.tsc die) < ca.window + 2 → field ca.handle 40 3 = d → field ca.handle 0 8 = n →
      (ca.req = 0 ∨ (s.counter d n).ctx = some ca.ctx) →
      ((s.counter d n).value.toNat + ca.addend.toNat < 2 ^ 32 → exec (.cntadd mid die ca) s = .next
        ((s.putCounter d n fun c => { c with value := c.value + ca.addend }).send (.wrack mid ca.req 0)))
      ∧ (2 ^ 32 ≤ (s.counter d n).value.toNat + ca.addend.toNat → exec (.cntadd mid die ca) s = .next
        (((s.putCounter d n fun c => { c with value := 0xFFFFFFFF, ovf := true }).post d
          (eventOf .counterOverflow n)).send (.wrack mid ca.req 0))))
    ∧ (∀ ca : CntAdd, (ca.window + 2 ≤ windowOf (s.tsc die)
          ∨ (ca.req ≠ 0 ∧ (s.counter (field ca.handle 40 3) (field ca.handle 0 8)).ctx ≠ some ca.ctx)) →
      exec (.cntadd mid die ca) s = .next (s.send (.wrnack mid ca.req 0 1)))
    ∧ (∀ (r : SeqRef) (c : Cmd) (k : RemCmd) (req unit : Nat), s.lateReads = [] → s.findColl req = some (r, c) → remOf c = some k →
      k.read = false → c.sent ≠ [] →
      (unit = c.pix → exec (.wrack req unit) s = .next (let c' := { c with pix := c.pix + 1, sent := c.sent.drop 1 }
        if k.units ≤ c.pix + 1 then (s.modColl r c.seqNo fun _ => c').collEnd r c' 0 else s.modColl r c.seqNo fun _ => c'))
      ∧ (unit ≠ c.pix → exec (.wrack req unit) s = .next s))
    ∧ (∀ (r : SeqRef) (c : Cmd) (k : RemCmd) (req unit : Nat) (st : BitVec 64), s.lateReads = [] →
      s.findColl req = some (r, c) → remOf c = some k → k.read = false → st.toNat % 8 = 1 →
      (s.masked (strandOf r) .remoteNack = true → exec (.wrnack req unit st) s = .next (s.collEnd r c st))
      ∧ (s.masked (strandOf r) .remoteNack = false → exec (.wrnack req unit st) s = .next
        ((s.modColl r c.seqNo fun c => { c with sent := [], remote := .idle, req := 0 }).raise r .remoteNack .u c.addr c.pix 0)))
    ∧ (∀ (r : SeqRef) (c : Cmd) (k : RemCmd) (req win : Nat) (rest : List Nat), s.findColl req = some (r, c) → remOf c = some k →
      k.read = false → c.sent = win :: rest → win + 4 ≤ windowOf (s.tsc r.die) →
      (s.masked (strandOf r) .remoteTimeout = true →
        exec (.remoteUnitUnreached req) s = .next (s.collEnd r c (statusWord 2 c.pix 0)))
      ∧ (s.masked (strandOf r) .remoteTimeout = false → exec (.remoteUnitUnreached req) s = .next
        ((s.modColl r c.seqNo fun c => { c with sent := [] }).raise r .remoteTimeout .u c.addr c.pix 0)))
    ∧ (∀ (r : SeqRef) (c : Cmd) (req : Nat), s.findColl req = some (r, c) → c.remote = .askedGo →
      (s.strand (strandOf r)).stop = .running →
      exec (.redgo req) s = .next ((s.modColl r c.seqNo fun c => { c with remote := .granted }).pumpCmd r
        { c with remote := .granted }))
    ∧ (∀ rq : TspReq, (tmLookup (s.die 0).goodTm rq.ctx (rq.base.toNat / 0x200000)).isSome = true →
      (∀ (pa rid : Nat) (g : Region), (s.page 0 rq.ctx rq.base.toNat).bind (checkPlace (tupleKind rq.kind)) = .ok pa →
        (s.die (pa / 0x80000000)).region? rq.base.toNat rq.ctx = some (rid, g) →
        exec (.tspreq mid rq) s = .next (s.reach (pa / 0x80000000) rid ⟨rq.kind, rq.nb, rq.cls, rq.timeout, rq.label, rq.base,
          rq.ctx, .member mid rq.requester, rq.req.toNat, rq.block, s.tsc 0, none⟩))
      ∧ (∀ pa, (s.page 0 rq.ctx rq.base.toNat).bind (checkPlace (tupleKind rq.kind)) = .ok pa →
        (s.die (pa / 0x80000000)).region? rq.base.toNat rq.ctx = none →
        exec (.tspreq mid rq) s = .next (s.send (.tsprsp mid ⟨false, false, rq.req, 16, []⟩)))
      ∧ ∀ c w, (c, w) ∈ [(Cause.xlateClass, (32 : BitVec 64)), (.xlatePerm, 48)] →
        (s.page 0 rq.ctx rq.base.toNat).bind (checkPlace (tupleKind rq.kind)) = .error c →
        exec (.tspreq mid rq) s = .next (s.send (.tsprsp mid ⟨false, false, rq.req, w, []⟩)))
    ∧ ∀ (rs : TspRsp) (r : SeqRef) (o : TupOut), s.findTup rs.req.toNat = some (r, o) → o.remote = some mid →
      exec (.tsprsp mid rs) s = .next (s.answerTup r o.req (tspAnswer o.ins rs))

/-! ### Membership and time (R94 to R97, R270) -/

/-- R95 to R97, R270: a proposal is accepted, or rejected by a member that holds another for that window or an earlier one; the last
acceptance commits the own proposal, and an earlier one is kept; a rejected one is dropped, and made again for a later window; a
commit is kept until its window; the loss of the successor is posted, the stripes that FWD has queued end with 1, and a change that
bypasses the dead member is proposed for the window after next; a change puts its derailleur entries into the table; the origin
answers DREQ, a member asks after FOLLOW; on each die a window begins with its counts at 0.  The times of a new cadence table are
log entry 96, how a TSC is steered log entry 11. -/
def Obligations.MembershipEvents : Prop :=
  ∀ (s : State) (mid window : Nat),
    (∀ p : Proposal, (∀ q ∈ s.chain.member.own.toList ++ s.chain.member.held, q = p ∨ p.window < q.window) →
      p ∉ s.chain.member.held →
      exec (.propose p) s = .next ((s.modChain fun c =>
        { c with member := { c.member with held := c.member.held ++ [p] } }).send (.accept p.mid p.window)))
    ∧ (∀ p q : Proposal, q ∈ s.chain.member.own.toList ++ s.chain.member.held → q ≠ p → q.window ≤ p.window →
      exec (.propose p) s = .next (s.send (.reject p.mid p.window)))
    ∧ (∀ p : Proposal, s.chain.member.own = some p → p.window = window → mid ∉ s.chain.member.accepts →
      ((∀ m ∈ s.chain.live, m = mid ∨ m ∈ s.chain.member.accepts) →
        exec (.accept mid window) s = .next ((s.modChain fun c => { c with member := { c.member with
          own := none, accepts := [], committed := c.member.committed ++ [p] } }).send (.commit window)))
      ∧ (∀ m ∈ s.chain.live, m ≠ mid → m ∉ s.chain.member.accepts →
        exec (.accept mid window) s = .next (s.modChain fun c =>
          { c with member := { c.member with accepts := mid :: c.member.accepts } })))
    ∧ (∀ p : Proposal, s.chain.member.own = some p → p.window ≠ window → exec (.accept mid window) s = .next s)
    ∧ (∀ p : Proposal, s.chain.member.own = some p → p.window = window →
      ∀ u, u = (s.modChain fun c => { c with member := { c.member with own := none, accepts := [] } }) →
      exec (.reject mid window) s = .next (u.propose (windowOf (s.tsc 0) + 2 + s.chain.self) u.chain.repairs))
    ∧ (∀ p : Proposal, s.chain.member.own = some p → p.window ≠ window → exec (.reject mid window) s = .next s)
    ∧ (∀ p : Proposal, s.chain.member.held = [p] → p.mid = mid → p.window = window →
      exec (.commit mid window) s = .next (s.modChain fun c => { c with member := { c.member with
        held := []
        committed := if windowOf (s.tsc 0) + 1 < window then c.member.committed ++ [p] else c.member.committed } }))
    ∧ (s.chain.member.held = [] → exec (.commit mid window) s = .next s)
    ∧ (s.chain.successor = some mid → mid ∉ s.chain.member.dead →
      ∀ u, u = (List.range 8).foldl (fun a d => a.failJobs d) ((s.modChain fun c =>
        { c with member := { c.member with dead := mid :: c.member.dead } }).post 0 (eventOf .memberLost mid)) →
      (s.chain.member.own = none →
        exec (.memberLost mid) s = .next (u.propose (windowOf (u.tsc 0) + 2) u.chain.repairs))
      ∧ (∀ p, s.chain.member.own = some p → exec (.memberLost mid) s = .next u))
    ∧ ((s.chain.successor ≠ some mid ∨ mid ∈ s.chain.member.dead) → exec (.memberLost mid) s = .next s)
    ∧ (∀ (die : Nat) (j : FwdJob), (s.die die).fwd = [j] → j.own = false → ((s.failJobs die).die die).fwd = []
      ∧ (j.d ≠ 0 → ((s.failJobs die).seqAt (hubKey die)).getX j.d = 1))
    ∧ (∀ (w : Nat) (es : List (Nat × BitVec 32)), es ≠ [] → s.chain.live ≠ [] →
      s.propose w es = (s.modChain fun c => { c with member := { c.member with own := some ⟨c.self, w, es⟩, accepts := [] } }).send
        (.propose ⟨s.chain.self, w, es⟩))
    ∧ (∀ w, s.propose w [] = s)
    ∧ (∀ i e, s.chain.member.committed = [] → ((i, e) ∈ s.chain.repairs ↔ i < 32 ∧ derV (s.chain.entry i) = true
      ∧ derSkip (s.chain.entry i) = false ∧ derMid (s.chain.entry i) ∈ s.chain.member.dead ∧ e = s.chain.entry i ||| 0x400))
    ∧ (∀ (p : Proposal) (i : Nat) (e : BitVec 32) (u : State), p.entries = [(i, e)] →
      (derSkip e = false ∨ derSkip (s.chain.entry i) = true) →
      u = (s.modChain fun c => { c with derail := Tbl.set 0 c.derail i (e &&& 0x1FFF) }) →
      u.chain.successor = s.chain.successor → u.chain.predecessor = s.chain.predecessor → s.applyChange p = u.newTable)
    ∧ (∀ x, exec (.sync mid x) s = .next s)
    ∧ (∀ x, exec (.follow mid x) s = .next (if s.chain.isOrigin then s else s.send (.dreq mid (s.tsc 0))))
    ∧ (∀ x : BitVec 64, exec (.dreq mid x) s = .next (if s.chain.isOrigin then s.send (.drsp mid x.toNat) else s))
    ∧ (∀ x, ∃ t k, exec (.drsp mid x) s = .next t ∧ k ≤ 12
        ∧ (∀ p ∈ t.dies, ∃ d, (p.1, d) ∈ s.dies ∧ p.2 = { d with tsc := d.tsc + k }) ∧ t.mem = s.mem)
    ∧ (s.tablesSound = true → (∀ p ∈ s.clusters, p.2.droopLost ≤ 256) →
      ((∀ d < 8, (s.die d).crossed 4096 = false) → exec .windowBoundary s = .next s)
      ∧ (∀ (k : Nat) (u : State), k < 8 → (s.die k).crossed 4096 = true → (∀ d < 8, d ≠ k → (s.die d).crossed 4096 = false) →
        u = { s with clusters := s.clusters.map fun p =>
          (p.1, if p.1 / 64 = k then { p.2 with wcnt := 0, fidRecords := 0, droopLost := 0 } else p.2) } →
        (k ≠ 0 → exec .windowBoundary s = .next u)
        ∧ (k = 0 → s.chain.member = {} → s.chain.isOrigin = false →
          exec .windowBoundary s = .next (if Config.syncHeld (windowOf (s.tsc 0)) then u
            else u.post 0 { cause := .syncLoss }))))

/-! ### Power, permits, resets and the host port (R35, R103, R253, R256, R347 to R354, R358) -/

/-- R352: once at a boundary of 64 cycles each permit count rises by its rate, up to its depth; a PERMIT with a zero field is
refused with a record, any other is taken and clamps the counts. R256, R253, R35: FINJ, FIDTHR and LFSRSEED written. R350: the
cycles that a droop takes are counted in their window, and posted as it ends where they are more than 256. R351, R348, R249, R347:
heat, rails, operating points. R103: the scrubber. R353: the slab through BAR2.  That a halved rate stays 1 is log entry 22, that the
power manager writes an island's operating point log entry 95. -/
def Obligations.PowerEvents : Prop :=
  ∀ (s : State) (die cl : Nat),
    (∀ n, n = s.cycles - (s.cluster die cl).lag →
      (n % 64 = 0 → (s.cluster die cl).refilled ≠ n → ∃ t, exec (.permitRefill die cl) s = .next t ∧ SameMem s t ∧ SameRegs s t
        ∧ (t.cluster die cl).refilled = n ∧ (∀ k : Permit, (t.cluster die cl).held k
          = min ((s.cluster die cl).depth k) ((s.cluster die cl).held k + (s.cluster die cl).rate k)))
      ∧ ((n % 64 ≠ 0 ∨ (s.cluster die cl).refilled = n) → exec (.permitRefill die cl) s = .next s))
    ∧ (∀ v : BitVec 64, (∃ n < 8, field v (8 * n) 8 = 0) →
      exec (.permitWrite die cl v) s = .next (s.post die { cause := .permitConfig, cl := some cl }))
    ∧ (∀ v : BitVec 64, (∀ n < 8, field v (8 * n) 8 ≠ 0) → ∃ t, exec (.permitWrite die cl v) s = .next t
      ∧ (t.cluster die cl).permit = v
      ∧ ∀ k : Permit, (t.cluster die cl).held k = min ((s.cluster die cl).held k) (field v (k.lo + 8) 8))
    ∧ (∀ v : BitVec 32, exec (.finjWrite die cl v) s = .next (s.modCluster die cl fun c =>
        { c with finj := v &&& 0x80FFFFFF, finjLeft := (v.setWidth 24 : BitVec 24).toNat }))
    ∧ (∀ v, exec (.fidthrWrite die cl v) s = .next (s.modCluster die cl fun c => { c with fidThr := v, raised := false }))
    ∧ (∀ v, exec (.lfsrseedWrite die cl v) s = .next (s.modCluster die cl fun c =>
        { c with lfsr := if v = 0 then 1 else v }))
    ∧ (∀ n, exec (.droopDetect die cl n) s = .next (s.modCluster die cl fun c =>
        { c with clockStop := c.clockStop + n, droop := c.droop + n }))
    ∧ (∀ c : Cluster, c.clockStop ≠ 0 → c.droop ≠ 0 → c.tick.droopLost = c.droopLost + 1 ∧ c.tick.clockStop + 1 = c.clockStop
        ∧ c.tick.droop + 1 = c.droop ∧ c.tick.lag = c.lag + 1)
    ∧ (∀ c : Cluster, c.clockStop = 0 → c.tick.droopLost = c.droopLost ∧ c.tick.lag = c.lag)
    ∧ (∀ c : Cluster, s.clusters = [(64 * die + cl, c)] → cl < 64 → 256 < c.droopLost → ∀ u, u = s.post die
          { cause := .droopBudget, cl := some cl, detail := BitVec.ofNat 64 c.droopLost } →
        s.clusterWindow die = { u with clusters := [(64 * die + cl, { c with wcnt := 0, fidRecords := 0, droopLost := 0 })] })
    ∧ (∀ island, (s.islandAt die island).hot = false → exec (.thermalLimit die island) s = .next
        (((s.setIsland die island { s.islandAt die island with hot := true }).modIsland die island fun c =>
          { c with coolRates := some c.permit, permit := withRates c.permit (halfRate c.permit) }).post die
          { cause := .thermalLimit }))
    ∧ (∀ island, (s.islandAt die island).hot = true → ∃ t, exec (.thermalRecover die island) s = .next t
        ∧ (t.islandAt die island).hot = false ∧ SameMem s t ∧ SameRegs s t
        ∧ ∀ k < 18, (t.cluster die (18 * island + k)).coolRates = none)
    ∧ (∀ island, (s.islandAt die island).hot = true → exec (.thermalLimit die island) s = .next s)
    ∧ (∀ island, (s.islandAt die island).hot = false → exec (.thermalRecover die island) s = .next s)
    ∧ exec (.logicRailSwitch die cl) s = .next (s.modCluster die cl fun c =>
        { c with logicLow := !c.logicLow, clockStop := c.clockStop + 12 })
    ∧ (∀ island parked, exec (.trimRailPark die island parked) s = .next
        (s.setIsland die island { s.islandAt die island with parked := parked }))
    ∧ (∀ island (v : BitVec 64), exec (.registerWrite (.island die island) v) s = .next
        (s.setIsland die island { s.islandAt die island with millivolt := field v 0 16, megahertz := field v 32 16 }))
    ∧ (∀ pa, s.badAt pa 1 = none → exec (.scrubRead pa) s = .next (s.corrected pa 1))
    ∧ (∀ pa w, s.badAt pa 1 = some w → exec (.scrubRead pa) s = .next (s.post (w / 0x80000000) (eventOf .sramUncorr w)))
    ∧ (∀ pa bs, s.hitsTable pa (bs.take (slabSize - pa)).length = false →
        exec (.hostBar2Write pa bs) s = .next (s.writeMem pa (bs.take (slabSize - pa))))
    ∧ (∀ pa n, pa + n ≤ slabSize → s.badAt pa n = none → s.weak = [] → s.hitsTable pa n = false →
        exec (.hostBar2Read pa n) s = .next (s.send (.hostRead pa (s.readMem pa n) false)))
    ∧ (∀ pa n w, pa + n ≤ slabSize → s.badAt pa n = some w → s.hitsTable pa n = false →
        exec (.hostBar2Read pa n) s = .next ((s.post (w / 0x80000000) (eventOf .sramUncorr w)).send
          (.hostRead pa (s.readMem pa n) true)))

/-- R262, R358: a cold reset leaves every register at its reset value, of the package, of every die and of the chain, and boots
again: the stages that run are measured, and a boot whose firmware checks sets the default lane plan; after one that does not, the
host port answers with its identity and STATUS = AUTH alone, and the next good boot posts FIRMWARE_AUTH.  R94, R261, R327, R352, R357: derailleur
entries, lane plan entries, event-queue registers and registers of hubs and clusters written; R353, R354, R357: read-only places ignore a write.
What a reset keeps is log entry 7, whether firmware checks log entry 10, when its record can be posted log entry 10 too, what becomes
of a SIZE outside its range log entry 23. -/
def Obligations.ResetEvents : Prop :=
  (∀ s : State, ∃ t, exec .coldReset s = .next t
    ∧ t.seqs = [] ∧ t.strands = [] ∧ t.clusters = [] ∧ t.islands = [] ∧ t.mem = [] ∧ t.sched = {} ∧ t.ctxs = [] ∧ t.agenda = []
    ∧ t.bad = [] ∧ t.weak = [] ∧ t.refused = [] ∧ t.lateReads = [] ∧ t.beside = [] ∧ t.nextReq = 1 ∧ t.nextCmd = 1 ∧ t.cycles = 0
    ∧ t.inputs = s.inputs ∧ t.outbox = s.outbox
    ∧ t.chain = { self := s.chain.self, ringBase := s.chain.ringBase, ringFrames := s.chain.ringFrames,
                  frameBytes := s.chain.frameBytes }
    ∧ t.mailbox.request = [] ∧ t.mailbox.response = [] ∧ t.mailbox.doorbell = 0 ∧ t.mailbox.keys = [] ∧ t.mailbox.models = []
    ∧ t.mailbox.boots = s.mailbox.boots + 1
    ∧ (Config.firmwareGood s.mailbox.boots = false → t.dies = [] ∧ t.mailbox.boot = .failed ∧ t.mailbox.authPending = true
      ∧ t.mailbox.meas = [(0, extendMeas (zeros 64) (Config.stageDigest 0))])
    ∧ (Config.firmwareGood s.mailbox.boots = true → t.mailbox.boot = .running
      ∧ t.mailbox.authPending = s.mailbox.authPending
      ∧ (∀ n < 4, Tbl.get [] t.mailbox.meas n = extendMeas (zeros 64) (Config.stageDigest n))
      ∧ ∀ d < 8, { t.die d with lanes := [] } = ({} : Die) ∧ ∀ n < 256, ∀ ch, ch = 4 * d + (n / 8 - 28) →
        t.lane d n = (if n / 8 < 28 then { use := 1 } else if ch = 0 then {}
          else { use := if n % 8 = 0 then 2 else 3, ch := BitVec.ofNat 5 ch })))
  ∧ ∀ (s : State) (v : BitVec 64),
    (∀ i, i < 32 → s.chain.successor = (s.modChain fun c => { c with
          derail := Tbl.set 0 c.derail i (low32 v &&& 0x1FFF#32)
          badDerail := c.badDerail.filter (· != i) }).chain.successor →
      exec (.registerWrite (.derailleur i) v) s = .next (s.modChain fun c =>
        { c with derail := Tbl.set 0 c.derail i (low32 v &&& 0x1FFF#32), badDerail := c.badDerail.filter (· != i) }))
    ∧ (∀ die lane (use : BitVec 2) (ch : BitVec 5), lane < 256 → use = v.extractLsb' 14 2 → ch = v.extractLsb' 9 5 →
      (ch ≠ (s.lane die lane).ch → exec (.registerWrite (.lanePlan die lane) v) s = .next
        (((s.modLane die lane fun l => { l with use := use, ch := ch, ret := false, retune := true, tuned := s.tsc die + 1200 }).moveAll
          die lane (s.lane die lane)).rejoin die lane))
      ∧ (ch = (s.lane die lane).ch → use = (s.lane die lane).use → exec (.registerWrite (.lanePlan die lane) v) s = .next
        ((s.modLane die lane fun l => { l with use := use, ch := ch, ret := false }).rejoin die lane))
      ∧ (ch = (s.lane die lane).ch → use ≠ (s.lane die lane).use → exec (.registerWrite (.lanePlan die lane) v) s = .next
        (((s.modLane die lane fun l => { l with use := use, ch := ch, ret := false }).moveAll die lane (s.lane die lane)).rejoin
          die lane)))
    ∧ (s.mailbox.authPending = false → ∀ die,
      exec (.registerWrite (.eventQueue die 0) v) s = .next (s.modDie die fun d =>
        { d with events := { d.events with base := v &&& ~~~0xFFF#64 } })
      ∧ exec (.registerWrite (.eventQueue die 8) v) s = .next (s.modDie die fun d =>
        { d with events := if 4 ≤ field v 0 8 ∧ field v 0 8 ≤ 20 then { d.events with size := v.setWidth 8 } else d.events })
      ∧ exec (.registerWrite (.eventQueue die 24) v) s = .next (s.modDie die fun d =>
        { d with events := { d.events with head := low32 v } })
      ∧ ∀ off ∈ [16, 32], exec (.registerWrite (.eventQueue die off) v) s = .next (s.modDie die fun d => d))
    ∧ (s.mailbox.authPending = true → s.mailbox.boot = .running → 4 ≤ field v 0 8 → field v 0 8 ≤ 20 →
      exec (.registerWrite (.eventQueue 0 8) v) s = .next (((s.modDie 0 fun d =>
        { d with events := { d.events with size := v.setWidth 8 } }).modMail fun m => { m with authPending := false }).post 0
          { cause := .firmwareAuth }))
    ∧ (∀ off, (off < 64 ∨ s.mailbox.boot ≠ .running) → exec (.registerWrite (.bar0 off) v) s = .next s)
    ∧ (s.mailbox.boot ≠ .running → s.bar0 0x4000 = 0x3000000)
    ∧ (∀ off, s.mailbox.boot = .running → 0x1000 ≤ off → off + 8 ≤ 0x2000 →
      exec (.registerWrite (.bar0 off) v) s = .next (s.modMail fun m =>
        { m with request := Tbl.writeRun 0 m.request (off - 0x1000) (bytes64 v) }))
    ∧ (∀ cmd, s.mailbox.boot = .running → s.mailbox.doorbell.getLsbD 16 = false → cmd = field v 0 8 → cmd ≠ 0 →
      ∀ u, u = (s.modMail fun m =>
        { m with doorbell := (m.doorbell &&& 0xFFFFFFFFFF000000#64) ||| BitVec.ofNat 64 (2 ^ 16 + cmd), stopped := 0 }) →
      exec (.registerWrite (.bar0 0x4000) v) s = .next
        ((u.modDie 0 fun d => { d with hub := { d.hub with mail := true } }).soon [u.mailEvent cmd]))
    ∧ (s.mailbox.boot = .running → (s.mailbox.doorbell.getLsbD 16 = true ∨ field v 0 8 = 0) →
      exec (.registerWrite (.bar0 0x4000) v) s = .next s)
    ∧ (∀ die cl, exec (.registerWrite (.csr die cl 0x018) v) s = .next (s.modHub die fun h =>
        { h with regs := { h.regs with tcause := v &&& 0xFFFFFFFF00F73FFF#64 } })
      ∧ exec (.registerWrite (.csr die cl 0x040) v) s = .next (s.modHub die fun h =>
        { h with regs := { h.regs with csel := v.setWidth 8 &&& 0xBF#8 } }))
    ∧ ∀ die cl, cl ≤ 53 → exec (.registerWrite (.csr die cl 0x024) v) s = .next
        (s.modCluster die cl fun c => { c with fidThr := v.setWidth 16, raised := false })
      ∧ ∀ n ∈ [0x011, 0x021, 0x022, 0x023], exec (.registerWrite (.csr die cl (BitVec.ofNat 12 n)) v) s = .next s

/-! ### The mailbox (R355, R356) -/

/-- R355, R356, R358 to R360: a command that the hub serves ends with its RESULT and STATUS in the doorbell and vector 8; a request
with an unlisted byte that is not zero, and an unknown command, end with BADCMD.  SUBMIT appends the launch whose header it reads;
ABORT posts HOST_ABORT and terminates; REGION removes and creates; PUBKEY stores a key and measures it; MODEL verifies a manifest and
injects the segments whose digests hold; ATTEST writes the signed report; CONTEXT creates and destroys; PAGES and POSMAP take lists;
LQCFG writes a queue's entry; ASSIGN gives and takes counters and queue pairs.  The algorithms are log entry 10, what a MODEL that does not fit
comes to and the order of its segments log entry 23. -/
def Obligations.MailboxEvents : Prop :=
  (∀ (s : State) (cmd : BitVec 8), s.serving cmd.toNat = true →
      exec (.mailboxUnknownCmd cmd) s = .next (s.finishMail .badCmd 0))
  ∧ (∀ (x : State) (st : MailStatus) (n : Nat), x.finishMail st n = (x.modMail fun m =>
        { m with doorbell := BitVec.ofNat 64 (n * 2 ^ 32 + st.code * 2 ^ 24) }).send (.vector 8))
  ∧ (∀ x ∈ mailBytes, ∀ s : State,
      (s.serving x.2.1 = true → s.onlyListed x.2.2 = false → exec x.1 s = .next (s.finishMail .badCmd 0))
      ∧ (s.serving x.2.1 = false → exec x.1 s = .next s))
  -- SUBMIT
  ∧ (
       let good : State → Prop := fun s => s.request 0 1 < 64 ∧ s.request 1 1 < 16 ∧ s.request 8 8 % 64 = 0
       let named : State → Prop := fun s => good s ∧ (s.context (s.request 1 1)).live = true
         ∧ (s.queue (s.request 0 1)).valid = true ∧ (s.queue (s.request 0 1)).ctx.toNat = s.request 1 1
       let reads : State → List Byte → Prop := fun s hdr => named s
         ∧ s.listedRead (s.queue (s.request 0 1)).ctx (s.request 8 8) 192 = .ok hdr
       (∀ hdr, MailDoes .submit 0x01 [(0, 2), (8, 8)] .ok
         (fun s => reads s hdr ∧ headerBad hdr = false ∧ (s.queue (s.request 0 1)).ids.length < 64
           ∧ s.sched.nextId.toNat ∉ s.sched.launches.map (·.1))
         (fun s => (s.modSched fun c =>
           { c with
             launches := Tbl.put c.launches s.sched.nextId.toNat
               { ctx := (s.queue (s.request 0 1)).ctx, queue := s.request 0 1, hdr := hdr }
             nextId := BitVec.ofNat 32 (s.sched.nextId.toNat % 0xFFFFFFFE + 1) }).modQueue (s.request 0 1) fun q =>
               { q with ids := q.ids ++ [s.sched.nextId] })
         (fun s => s.sched.nextId.toNat))
       ∧ (∀ hdr, MailDoes .submit 0x01 [(0, 2), (8, 8)] .full
         (fun s => reads s hdr ∧ headerBad hdr = false ∧ 64 ≤ (s.queue (s.request 0 1)).ids.length))
       ∧ (∀ hdr, MailDoes .submit 0x01 [(0, 2), (8, 8)] .launchHeader (fun s => reads s hdr ∧ headerBad hdr = true)
         (fun s => s.post 0 { cause := .launchHeader }))
       ∧ (∀ c, MailDoes .submit 0x01 [(0, 2), (8, 8)] .launchHeader (fun s => named s
           ∧ s.listedRead (s.queue (s.request 0 1)).ctx (s.request 8 8) 192 = .error c) (fun s => s.post 0 { cause := c }))
       ∧ MailDoes .submit 0x01 [(0, 2), (8, 8)] .notFound (fun s => good s
           ∧ ((s.context (s.request 1 1)).live = false ∨ (s.queue (s.request 0 1)).valid = false))
       ∧ MailDoes .submit 0x01 [(0, 2), (8, 8)] .badCmd (fun s => ¬ good s))
  -- ABORT
  ∧ (MailDoes .abort 0x02 [(0, 4)] .notFound
        (fun s => s.mailbox.stopped = 0 ∧ s.launch? (BitVec.ofNat 32 (s.request 0 4)) = none)
     ∧ (∀ n, MailDoes .abort 0x02 [(0, 4)] .ok
        (fun s => s.mailbox.stopped = n + 1 ∧ s.launch? (BitVec.ofNat 32 (s.request 0 4)) = none) id (fun _ => n))
     ∧ ∀ (s u : State) (id : BitVec 32) (l : Launch) (n : Nat), s.serving 0x02 = true → s.onlyListed [(0, 4)] = true →
        s.mailbox.stopped = 0 → id = BitVec.ofNat 32 (s.request 0 4) → s.launch? id = some l → l.ending = none →
        n = s.runningTeams id →
        u = (((s.post 0 { cause := .hostAbort, launch := id }).terminate id .hostAbort).modMail fun m =>
          { m with stopped := n + 1 }) →
        exec .abort s = .next (if (u.launch? id).isNone then u.finishMail .ok n else u))
  -- REGION
  ∧ (
       let entry : State → Word := fun s => BitVec.ofNat 64 (s.request 16 8)
       let live : State → Prop := fun s => s.request 0 1 < 8 ∧ s.request 1 1 < 64
         ∧ (s.context ((entry s).extractLsb' 48 4).toNat).live = true
       MailDoes .region 0x03 [(0, 2), (16, 16)] .ok
         (fun s => live s ∧ (entry s).getLsbD 0 = true ∧ (entry s).extractLsb' 12 9 ≠ 0 ∧ 0 < s.request 24 4
           ∧ s.request 24 4 < 2 ^ 32 ∧ s.request 24 4 ≤ 26214 * ((entry s).extractLsb' 12 9).toNat)
         (fun s => (s.removeRegion (s.request 0 1) (s.request 1 1)).modDie (s.request 0 1) fun d =>
           { d with
             regions := Tbl.put d.regions (s.request 1 1)
               ⟨true, BitVec.ofNat 32 (s.request 24 4), (entry s).extractLsb' 48 4, (entry s).extractLsb' 21 27,
                (entry s).extractLsb' 12 9, 0⟩
             badRegions := d.badRegions.filter (· != s.request 1 1) })
       ∧ MailDoes .region 0x03 [(0, 2), (16, 16)] .ok (fun s => live s ∧ (entry s).getLsbD 0 = false)
         (fun s => s.removeRegion (s.request 0 1) (s.request 1 1))
       ∧ MailDoes .region 0x03 [(0, 2), (16, 16)] .badCmd (fun s => 8 ≤ s.request 0 1 ∨ 64 ≤ s.request 1 1
           ∨ ((entry s).getLsbD 0 = true ∧ (entry s).extractLsb' 12 9 = 0)))
  ∧ (∀ (s : State) (die rid : Nat) (g : Region), Tbl.get? (s.die die).regions rid = some g → g.v = true →
      (∀ x ∈ (s.die die).slices, ∀ p ∈ x.2.parked, ¬ (p.base.toNat = g.vpn.toNat * 0x200000 ∧ p.ctx = g.ctx)) →
      s.removeRegion die rid = s.modDie die fun d =>
        { d with
          regions := Tbl.put d.regions rid {}
          slices := d.slices.map fun x => (x.1, { x.2 with stored := x.2.stored.filter fun t => t.rid != rid }) })
  -- PUBKEY
  ∧ (MailDoes .pubkey 0x04 [(0, 1), (16, 2592)] .ok (fun s => s.request 0 1 < 8) (fun s =>
        let key := Tbl.readRun 0 s.mailbox.request 16 2592
        s.modMail fun m =>
          { m with
            keys := Tbl.put m.keys (s.request 0 1) key
            meas := Tbl.put m.meas 7 (padTo 64 (Config.sha3 (Tbl.get (zeros 64) m.meas 7 ++ padTo 64 (Config.sha3 key)))) })
     ∧ MailDoes .pubkey 0x04 [(0, 1), (16, 2592)] .badCmd (fun s => 8 ≤ s.request 0 1))
  -- MODEL
  ∧ (
       let fits : State → Prop := fun s => s.request 1 1 < 8 ∧ s.request 16 8 % 65536 = 0
         ∧ s.request 8 8 + (64 + 64 * nat (s.readMem (s.request 8 8) 64) 4 4) + 4627 ≤ slabSize
         ∧ s.request 16 8 + nat (s.readMem (s.request 8 8) 64) 4 4 * nat (s.readMem (s.request 8 8) 64) 1 1 * 0x100000 ≤ slabSize
       let holds : State → List Byte → Bool := fun s key =>
         let n := 64 + 64 * nat (s.readMem (s.request 8 8) 64) 4 4
         Config.mldsaVerify key (s.readMem (s.request 8 8) n) (s.readMem (s.request 8 8 + n) 4627)
       let form : State → Prop := fun s => nat (s.readMem (s.request 8 8) 64) 0 1 = s.request 0 1
         ∧ nat (s.readMem (s.request 8 8) 64) 2 2 = 0 ∧ nat (s.readMem (s.request 8 8) 64) 8 56 = 0
         ∧ 1 ≤ nat (s.readMem (s.request 8 8) 64) 1 1 ∧ nat (s.readMem (s.request 8 8) 64) 1 1 ≤ 64 ∧ s.chain.isOrigin = true
       let model : State → Model := fun s => ⟨nat (s.readMem (s.request 8 8) 64) 1 1, nat (s.readMem (s.request 8 8) 64) 4 4,
         s.request 16 8, s.request 8 8⟩
       let taken : State → State := fun s => s.modMail fun b => { b with models := Tbl.put b.models (s.request 0 1) (model s) }
       MailDoes .model 0x05 [(0, 2), (8, 16)] .auth (fun s => fits s ∧ Tbl.get? s.mailbox.keys (s.request 1 1) = none)
       ∧ (∀ key, MailDoes .model 0x05 [(0, 2), (8, 16)] .auth
           (fun s => fits s ∧ Tbl.get? s.mailbox.keys (s.request 1 1) = some key ∧ holds s key = false))
       ∧ (∀ key, MailDoes .model 0x05 [(0, 2), (8, 16)] .ok
           (fun s => fits s ∧ Tbl.get? s.mailbox.keys (s.request 1 1) = some key ∧ holds s key = true ∧ form s)
           (fun s => ((taken s).injectAll (s.request 0 1) (model s)).1)
           (fun s => ((taken s).injectAll (s.request 0 1) (model s)).2))
       ∧ MailDoes .model 0x05 [(0, 2), (8, 16)] .badCmd (fun s => ¬ fits s))
  ∧ (∀ (s : State) (n : Nat) (m : Model), m.count = 1 → s.injectAll n m = s.injectOne m (BitVec.ofNat 32 (n * 2 ^ 24)) 0)
  ∧ (∀ (s : State) (m : Model) (tag : BitVec 32) (flags : BitVec 8) (k pa : Nat), k = tag.toNat % 2 ^ 24 →
      pa = m.image + k * m.size * 0x100000 →
      (padTo 64 (Config.sha3 (s.readMem pa (m.size * 0x100000))) = s.readMem (m.manifest + 64 + 64 * k) 64 →
        s.injectOne m tag flags = ((List.range 8).foldl (fun a d => a.modDie d fun v =>
          { v with fwd := v.fwd ++ [⟨pa + d * (m.size * 131072), tag, s.nextRot tag, m.size, flags, 0, none, true⟩] }) s, 1))
      ∧ (padTo 64 (Config.sha3 (s.readMem pa (m.size * 0x100000))) ≠ s.readMem (m.manifest + 64 + 64 * k) 64 →
        s.injectOne m tag flags = ((s.modCadence tag fun e => { e with lost := true }).post 0
          { cause := .segmentAuth, detail := zext32 tag }, 0)))
  -- ATTEST
  ∧ (
       let report : State → List Byte := fun s =>
         natBytes 4 0x5454415A ++ natBytes 2 1 ++ zeros 10 ++ (List.range 16).map Config.serial
           ++ Tbl.readRun 0 s.mailbox.request 0 64 ++ padTo 64 (Config.sha3 Config.identityKey)
           ++ (List.range 8).flatMap (fun n => padTo 64 (Tbl.get (zeros 64) s.mailbox.meas n)) ++ natBytes 8 (s.tsc 0) ++ zeros 24
       MailDoes .attest 0x06 [(0, 64)] .ok (fun _ => True) (fun s => s.modMail fun m =>
         { m with response := Tbl.writeRun 0 m.response 0 (report s ++ padTo 4627 (Config.mldsaSign (report s))) })
         (fun s => (report s ++ padTo 4627 (Config.mldsaSign (report s))).length))
  -- CONTEXT
  ∧ (MailDoes .contextCreate 0x07 [(0, 2)] .ok
        (fun s => s.request 0 1 < 16 ∧ s.request 1 1 = 0 ∧ (s.context (s.request 0 1)).live = false)
        (fun s => s.modContext (s.request 0 1) fun _ => { live := true })
     ∧ MailDoes .contextCreate 0x07 [(0, 2)] .badCmd
        (fun s => 16 ≤ s.request 0 1 ∨ s.request 1 1 ≠ 0 ∨ (s.context (s.request 0 1)).live = true)
     ∧ MailDoes .contextDestroy 0x07 [(0, 2)] .ok
        (fun s => s.request 0 1 < 16 ∧ s.request 1 1 = 1 ∧ (s.context (s.request 0 1)).live = true
          ∧ s.launchesOf (s.request 0 1) = []) (fun s => s.dropContext (s.request 0 1))
     ∧ MailDoes .contextDestroy 0x07 [(0, 2)] .notFound
        (fun s => s.request 0 1 < 16 ∧ s.request 1 1 = 1 ∧ (s.context (s.request 0 1)).live = false)
     ∧ MailDoes .contextDestroy 0x07 [(0, 2)] .badCmd (fun s => 16 ≤ s.request 0 1 ∨ s.request 1 1 ≠ 1)
     ∧ (∀ (s u : State), s.serving 0x07 = true → s.onlyListed [(0, 2)] = true → s.request 0 1 < 16 → s.request 1 1 = 1 →
        (s.context (s.request 0 1)).live = true →
        u = (s.launchesOf (s.request 0 1)).foldl (fun a id => a.abortLaunch id) s → u.launchesOf (s.request 0 1) ≠ [] →
        exec .contextDestroy s = .next u)
     ∧ ∀ (s : State) (c d n : Nat), c < 16 → d < 8 → ((s.dropContext c).context c) = {}
        ∧ ((s.dropContext c).counter d n).ctx ≠ some (BitVec.ofNat 4 c)
        ∧ (((s.dropContext c).qpair d n).ctx ≠ some (BitVec.ofNat 4 c))
        ∧ (∀ p ∈ ((s.dropContext c).die d).tm, p.2.getLsbD 12 = true → field p.2 33 4 ≠ c)
        ∧ ((∀ k < 8, ∀ p ∈ (s.die k).regions, ¬ (p.2.v = true ∧ p.2.ctx.toNat = c)) → (s.queue n).ctx.toNat = c →
          ((s.dropContext c).queue n).valid = false))
  -- PAGES and POSMAP
  ∧ (
       let inSlab : State → Nat → Nat → Prop := fun _ pa n => n ≤ 65536 ∧ pa % 8 = 0 ∧ (n = 0 ∨ pa + 8 * n ≤ slabSize)
       let pageList : State → Prop := fun s => s.request 0 1 < 16 ∧ s.request 1 1 ≤ 1 ∧ inSlab s (s.request 8 8) (s.request 4 4)
         ∧ (s.context (s.request 0 1)).live = true
       let pages : State → State := fun s => s.modContext (s.request 0 1) fun c =>
         { c with pages := if s.request 4 4 = 0 then none else some (s.request 8 8, s.request 4 4) }
       let entryOk : State → Word → Prop := fun s e => e.getLsbD 12 = true ∧ field e 0 12 = 0 ∧ entryClass e < 4
         ∧ field e 33 4 = s.request 0 1
       let posList : State → Prop := fun s => s.request 0 1 < 16 ∧ s.request 4 4 ≤ 0xFFFFF
         ∧ inSlab s (s.request 16 8) (s.request 8 4) ∧ (s.context (s.request 0 1)).live = true
       MailDoes .pages 0x08 [(0, 2), (4, 12)] .ok (fun s => pageList s ∧ s.request 1 1 = 0
           ∧ ∀ e ∈ s.words (s.request 8 8) (s.request 4 4), entryOk s e) pages (fun s => s.request 4 4)
       ∧ (∀ u : State, MailDoes .pages 0x08 [(0, 2), (4, 12)] .ok (fun s => pageList s ∧ s.request 1 1 = 1
           ∧ (∀ e ∈ s.words (s.request 8 8) (s.request 4 4), entryOk s e)
           ∧ (pages s).loadEverywhere ((s.words (s.request 8 8) (s.request 4 4)).filter (·.getLsbD 13)) (List.range 8) = some u)
           (fun _ => u) (fun s => s.request 4 4))
       ∧ MailDoes .pages 0x08 [(0, 2), (4, 12)] .full (fun s => pageList s ∧ s.request 1 1 = 1
           ∧ (∀ e ∈ s.words (s.request 8 8) (s.request 4 4), entryOk s e)
           ∧ (pages s).loadEverywhere ((s.words (s.request 8 8) (s.request 4 4)).filter (·.getLsbD 13)) (List.range 8) = none)
           pages
       ∧ MailDoes .pages 0x08 [(0, 2), (4, 12)] .badCmd (fun s => pageList s
           ∧ ∃ e ∈ s.words (s.request 8 8) (s.request 4 4), ¬ entryOk s e)
       ∧ MailDoes .posmap 0x09 [(0, 1), (4, 8), (16, 8)] .ok (fun s => posList s ∧ 0 < s.request 8 4
           ∧ ∀ a ∈ s.words (s.request 16 8) (s.request 8 4), a = 0
             ∨ (a.toNat % 64 = 0 ∧ s.inPlainPage (s.request 0 1) a.toNat = true))
           (fun s => s.modContext (s.request 0 1) fun c =>
             { c with tokens := Tbl.put c.tokens (s.request 4 4) (s.request 16 8, s.request 8 4) }) (fun s => s.request 8 4)
       ∧ MailDoes .posmap 0x09 [(0, 1), (4, 8), (16, 8)] .ok (fun s => posList s ∧ s.request 8 4 = 0) (fun s =>
           (List.range 8).foldl (fun a d => a.modDie d fun v => { v with pm := v.pm.filter fun p =>
             !(p.2.getLsbD 59 && (p.2.extractLsb' 88 4).toNat == s.request 0 1
               && (p.2.extractLsb' 108 20).toNat == s.request 4 4) })
             (s.modContext (s.request 0 1) fun c => { c with tokens := Tbl.erase c.tokens (s.request 4 4) })))
  -- LQCFG
  ∧ (
       let v : State → Word := fun s => BitVec.ofNat 64 (s.request 8 8) &&& 0xFFFF0FF0FFFFF000
       MailDoes .lqcfg 0x0A [(0, 1), (8, 8)] .ok (fun s => s.request 0 1 < 64 ∧ (s.context (field (v s) 40 4)).live = true
           ∧ ((s.queue (s.request 0 1)).ids = [] ∨ (s.queue (s.request 0 1)).ctx.toNat = field (v s) 40 4))
         (fun s => s.modQueue (s.request 0 1) fun q =>
           { q with cfg := v s, level := if q.readySince.isSome then q.level else field (v s) 36 3 })
       ∧ MailDoes .lqcfg 0x0A [(0, 1), (8, 8)] .notFound (fun s => s.request 0 1 < 64
           ∧ (s.context (field (v s) 40 4)).live = false)
       ∧ MailDoes .lqcfg 0x0A [(0, 1), (8, 8)] .badCmd (fun s => 64 ≤ s.request 0 1 ∨ ((s.context (field (v s) 40 4)).live = true
           ∧ (s.queue (s.request 0 1)).ids ≠ [] ∧ (s.queue (s.request 0 1)).ctx.toNat ≠ field (v s) 40 4)))
  -- ASSIGN
  ∧ (
       let names : State → Nat → Nat → Prop := fun s kind op => s.request 0 1 = kind ∧ s.request 1 1 < 8 ∧ s.request 3 1 < 16
         ∧ s.request 4 1 = op ∧ (s.context (s.request 3 1)).live = true
       let ctx : State → Option (BitVec 4) := fun s => some (BitVec.ofNat 4 (s.request 3 1))
       MailDoes .assign 0x0B [(0, 5)] .ok (fun s => names s 0 0 ∧ (s.counter (s.request 1 1) (s.request 2 1)).ctx = none)
         (fun s => s.putCounter (s.request 1 1) (s.request 2 1) fun k => { k with ctx := ctx s })
       ∧ MailDoes .assign 0x0B [(0, 5)] .ok (fun s => names s 1 0 ∧ s.request 2 1 < 64
           ∧ (s.qpair (s.request 1 1) (s.request 2 1)).ctx = none)
         (fun s => s.modQpair (s.request 1 1) (s.request 2 1) fun q => { q with ctx := ctx s, posted := 0 })
       ∧ MailDoes .assign 0x0B [(0, 5)] .ok (fun s => names s 0 0 ∧ (s.counter (s.request 1 1) (s.request 2 1)).ctx = ctx s)
       ∧ (∀ c : BitVec 4, MailDoes .assign 0x0B [(0, 5)] .badCmd (fun s => names s 0 0
           ∧ (s.counter (s.request 1 1) (s.request 2 1)).ctx = some c ∧ some c ≠ ctx s))
       ∧ MailDoes .assignRelease 0x0B [(0, 5)] .ok (fun s => names s 0 1
           ∧ (s.counter (s.request 1 1) (s.request 2 1)).ctx = ctx s
           ∧ s.counterUsed (s.request 1 1) (s.request 2 1) = false)
         (fun s => s.putCounter (s.request 1 1) (s.request 2 1) fun k => { k with ctx := none })
       ∧ MailDoes .assignRelease 0x0B [(0, 5)] .ok (fun s => names s 1 1 ∧ s.request 2 1 < 64
           ∧ (s.qpair (s.request 1 1) (s.request 2 1)).ctx = ctx s
           ∧ (s.qpair (s.request 1 1) (s.request 2 1)).entries = [])
         (fun s => s.modQpair (s.request 1 1) (s.request 2 1) fun q => { q with ctx := none })
       ∧ MailDoes .assignRelease 0x0B [(0, 5)] .badCmd (fun s => names s 0 1
           ∧ ((s.counter (s.request 1 1) (s.request 2 1)).ctx ≠ ctx s
             ∨ s.counterUsed (s.request 1 1) (s.request 2 1) = true)))

/-! ### Launches (R309 to R319) -/

/-- R309, R310, R316, R318, R319: a queue's level rises with the age of its head; a pass places what is left, notes the heads that
are ready and visits the queues in their order; a team starts with its header's entries, identity, masks and FID and with empty
queues; a team whose sequencers have all ended and that has nothing outstanding retires, its launch with the last one. -/
def Obligations.LaunchEvents : Prop :=
  (∀ (s : State) (q t past : Nat), (s.queue q).readySince = some t → past = (s.queue q).aged + (s.tsc 0 - t) →
      0 < field (s.queue q).cfg 48 16 → field (s.queue q).cfg 48 16 * 600 ≤ past →
      exec (.queueAgeing q) s = .next (s.modQueue q fun x => { x with
        level := min 7 (x.level + 1), aged := past - field (s.queue q).cfg 48 16 * 600, readySince := some (s.tsc 0) }))
  ∧ (∀ s : State, exec .launchPass s = .next
      (let u := ((s.sched.partials.foldl State.placeRest s).sched.queues.map (·.1)).foldl State.noteReady
         (s.sched.partials.foldl State.placeRest s)
       u.visitAll u.visitOrder))
  ∧ (∀ (s : State) (k n : Nat) (t : Team) (l : Launch), Tbl.get? s.sched.teams k = some t → s.launch? t.launch = some l →
      t.started = false → t.slots = [n] → t.die < 8 → t.cl < 54 → n < 4 →
      ∃ u, exec (.teamStart k) s = .next u ∧ ∀ c : Cls,
        u.seq ⟨t.die, t.cl, n, c⟩ = { pc := BitVec.ofNat 48 (hdrEntry l.hdr c), live := true
                                      ended := hdrEntry l.hdr c == 0, phase := s.tsc t.die }
        ∧ (u.strand ⟨t.die, t.cl, n⟩).wid = BitVec.ofNat 64 (t.index * 2 ^ hdrS l.hdr)
        ∧ (u.strand ⟨t.die, t.cl, n⟩).launchId = t.launch
        ∧ (u.strand ⟨t.die, t.cl, n⟩).cmask = BitVec.ofNat 64 (nat l.hdr 24 8) &&& 0x000C80C350800000
        ∧ (u.strand ⟨t.die, t.cl, n⟩).fid = BitVec.ofNat 2 (hdrFid l.hdr)
        ∧ (u.strand ⟨t.die, t.cl, n⟩).q = [] ∧ (u.strand ⟨t.die, t.cl, n⟩).stop = .running)
  ∧ ∀ (s : State) (k : Nat) (t : Team) (l : Launch), Tbl.get? s.sched.teams k = some t → s.launch? t.launch = some l →
      s.teamEnded t = true → (∀ st ∈ t.strands, ∀ c, (s.seq (seqOf st c)).quiet = true) →
      (∀ st ∈ t.strands, ∀ n, (s.strand st).count n = 0) →
      (l.retired + 1 < l.nteams →
        ∃ u, exec (.teamRetire k) s = .next u ∧ Tbl.get? u.sched.teams k = none
          ∧ (u.launch? t.launch).map (·.retired) = some (l.retired + 1) ∧ SameMem s u)
      ∧ (l.retired + 1 = l.nteams → l.ending = none →
        ∃ u, exec (.teamRetire k) s = .next u ∧ Tbl.get? u.sched.teams k = none ∧ u.launch? t.launch = none)

/-! ### What instructions leave as it was (R53, R59, R61, R106) -/

/-- R53, R61, R63: a landing writes its destination and nothing else: an x register, unless the result of a later instruction has
come there in this cycle; a predicate, a branch target, a z latch, FID, a tag binding (R87), or one of the control registers that a
sequencer may write: CMASK in the bits that R324 masks, FINJ, LFSRSEED, of which 0 counts as 1; every other one ignores it (R339).  x0
reads as zero and p0 as 1, and a write of them is discarded, landings and completions included, while the token that comes with it is
pushed. -/
def Obligations.LandResults : Prop :=
  (∀ (s t : State) (r : SeqRef) (f : Flight), t = s.land r f →
    SameMem s t ∧ (∀ k, k ≠ seqKey r → t.seqAt k = s.seqAt k)
    ∧ (∀ d, f.dest = .x d →
      (∀ j, (t.seq r).getX j =
          if j = d ∧ d ≠ 0 ∧ ¬ ((Tbl.get (0, 0) (s.seq r).wrote d.toNat).1 = s.cycles
              ∧ f.no < (Tbl.get (0, 0) (s.seq r).wrote d.toNat).2) then f.val else (s.seq r).getX j)
        ∧ (t.seq r).p = (s.seq r).p ∧ (t.seq r).b = (s.seq r).b)
    ∧ (∀ d, f.dest = .p d →
      (∀ j, (t.seq r).getP j = if j = d ∧ d ≠ 0 then f.val != 0 else (s.seq r).getP j)
        ∧ (t.seq r).x = (s.seq r).x ∧ (t.seq r).b = (s.seq r).b)
    ∧ (∀ d, f.dest = .b d →
      (∀ j, (t.seq r).getB j = if j = d then ⟨f.val.setWidth 48, true⟩ else (s.seq r).getB j)
        ∧ (t.seq r).x = (s.seq r).x ∧ (t.seq r).p = (s.seq r).p)
    ∧ (f.dest = .fid → t.seqs = s.seqs ∧ (t.strand (strandOf r)).fid = f.val.setWidth 2)
    ∧ (∀ d, f.dest = .z d → f.op = .set → t.seqs = s.seqs ∧ ∀ j : BitVec 2,
        Tbl.get 0 (t.cluster r.die r.cl).z j.toNat
          = if j = d then low32 f.val else Tbl.get 0 (s.cluster r.die r.cl).z j.toNat)
    ∧ (∀ n on, f.dest = .tag n on → t.seqs = s.seqs ∧ t.clusters = s.clusters ∧ ∀ j : BitVec 2,
        Tbl.get {} (t.strand (strandOf r)).binds j.toNat =
          if j = n then
            if on then ⟨low32 f.val, f.val.extractLsb' 32 32, true⟩
            else { Tbl.get {} (s.strand (strandOf r)).binds j.toNat with active := false }
          else Tbl.get {} (s.strand (strandOf r)).binds j.toNat)
    ∧ (∀ n, f.dest = .csr n → t.seqs = s.seqs
      ∧ (n.toNat = 0x008 → (t.strand (strandOf r)).cmask = f.val &&& 0x000C80C350800000 ∧ t.clusters = s.clusters)
      ∧ (n.toNat = 0x025 → (t.cluster r.die r.cl).finj = f.val.setWidth 32 &&& 0x80FFFFFF
          ∧ (t.cluster r.die r.cl).finjLeft = f.val.toNat % 2 ^ 24 ∧ t.strands = s.strands)
      ∧ (n.toNat = 0x038 → (t.cluster r.die r.cl).lfsr = (if low32 f.val = 0 then 1 else low32 f.val) ∧ t.strands = s.strands)
      ∧ (n.toNat ≠ 0x008 → n.toNat ≠ 0x025 → n.toNat ≠ 0x038 → t = s)))
  ∧ (∀ (q : Seq) (v : Word) (w : Bool), q.getX 0 = 0 ∧ q.getP 0 = true ∧ q.setX 0 v = q
      ∧ (∀ no now j, (q.putX 0 v no now).getX j = q.getX j) ∧ ∀ j, (q.setP 0 w).getP j = q.getP j)
  ∧ (∀ (s : State) (st : StrandRef) (f : Flight) (fs : List Flight) (d : Dest),
      (s.pushLanded st (f :: fs)).1 = (s.pushLanded st ({ f with dest := d } :: fs)).1)
  ∧ ∀ (s : State) (st : StrandRef) (f : Flight) (q : BitVec 3), f.post = some q → (s.strand st).count q < 255 →
      (s.pushLanded st [f]).2 = [] ∧ ∀ j : BitVec 3, ((s.pushLanded st [f]).1.strand st).count j =
        if j = q then (s.strand st).count q + 1 else (s.strand st).count j

/-- R59, R61, R106: no instruction of a sequencer changes the slab as it issues; but for those that write their register at
once it changes no register, and but for stores, wheels, QSLOT and the reservation of LFSR words no memory and no engine state
of a cluster; only WTAG changes the arrival registers. -/
def Obligations.IssueFrame : Prop :=
  ∀ (i : Instr) (s t : State) (r : SeqRef), i.toRaw.isSome = true → s.cur = .seq r → exec i s = .next t →
    SameMem s t
    ∧ (resultAtIssue i = none → SameRegs s t)
    ∧ (∀ d, resultAtIssue i = some d →
        (∀ k, k ≠ seqKey r → (t.seqAt k).x = (s.seqAt k).x ∧ (t.seqAt k).p = (s.seqAt k).p ∧ (t.seqAt k).b = (s.seqAt k).b)
        ∧ (∀ j, j ≠ d → (t.seq r).getX j = (s.seq r).getX j) ∧ (t.seq r).p = (s.seq r).p ∧ (t.seq r).b = (s.seq r).b)
    ∧ (writesCluster i = false → ∀ die cl, SameEngines (s.cluster die cl) (t.cluster die cl))
    ∧ ((i matches .wtag ..) = false → ∀ st, SameStrandRegs (s.strand st) (t.strand st))

/-- R187: a store of a sequencer changes no byte but those at its address in its scratchpad extent, or its TID entry; a store
of a hub changes no byte of the slab but those at its address, if its bytes are not of the cadence table (log entry 7). -/
def Obligations.StoreFrame : Prop :=
  ∀ (h : Hdr) (a b : Reg) (off : BitVec 16) (x : Instr × Nat), x ∈ stores h a b off → ∀ (s t : State),
    exec x.1 s = .next t →
    SameRegs s t
    ∧ (∀ r : SeqRef, s.cur = .seq r → SameMem s t ∧ ∀ die cl,
        (∀ j, ¬ (die = r.die ∧ cl = r.cl ∧ ∃ m o, s.team? (strandOf r) = some m ∧ inSpad m o = true
            ∧ (s.X a + off.signExtend 64).toNat = 0xFF0000000000 + o ∧ m.spadBase + o ≤ j ∧ j < m.spadBase + o + x.2) →
          Tbl.get 0 (t.cluster die cl).spad j = Tbl.get 0 (s.cluster die cl).spad j)
        ∧ (∀ j, ¬ (die = r.die ∧ cl = r.cl ∧ ∃ m o, s.team? (strandOf r) = some m ∧ inTid m o = true
            ∧ (s.X a + off.signExtend 64).toNat = 0xFF0000000000 + o ∧ j = (64 * m.tidBase + (o - 0x300000)) / 64) →
          Tbl.get 0 (t.cluster die cl).tid j = Tbl.get 0 (s.cluster die cl).tid j)
        ∧ (t.cluster die cl).acc = (s.cluster die cl).acc ∧ (t.cluster die cl).poison = (s.cluster die cl).poison
        ∧ (t.cluster die cl).wheels = (s.cluster die cl).wheels ∧ (t.cluster die cl).tiles = (s.cluster die cl).tiles)
    ∧ ∀ d, s.cur = .hub d → t.clusters = s.clusters ∧ ∀ p,
        ¬ ((s.X a + off.signExtend 64).toNat ≤ p ∧ p < (s.X a + off.signExtend 64).toNat + x.2) → t.memByte p = s.memByte p

/-! ### Encodings (R43 to R49) -/

/-- Words that the spec writes out, and words that R45 to R49 refuse. -/
def Obligations.DecodeWords : Prop :=
  let h : Hdr := ⟨false, 0, .w64, none, none⟩
  decodeWords 0x080042E1 0xFFFF0000 0 = .ok (.wtag h 4 0xFFFF)
  ∧ decodeWords 0x010694C1 0x06850590 0 = .ok (.land { h with pq := some 1 } .sx4 9 3 4 5 2 3)
  ∧ decodeWords 0x00045501 0x001802B0 0 = .ok (.lds { h with pq := some 3 } 2 false 5 2 (.imm 24))
  ∧ decodeWords 0x018A4401 0x000000A0 0 = .ok (.cpy { h with pq := some 2 } 4 5 6)
  ∧ decodeWords 0x0316A481 0x030941C9 0
      = .ok (.cpyx { h with wq := some 1, pq := some 4 } false true .rne false false true 9 3 10 11 12)
  ∧ decodeWords 0x01480802 0x02010190 0x00000200
      = .ok (.mma { h with form := .w96, pq := some 1 } false true .rne 1 2 4 5 ⟨0, 1, 0, 0⟩)
  ∧ decodeWords 0x09CC8821 0x000901A0 0 = .ok (.adrn { h with pq := some 2 } false false .rne false true 9 8 6 7 0)
  ∧ decodeWords 0x08C40841 0x05040000 0 = .ok (.ats h 4 5 2 3)
  ∧ decodeWords 0x21483861 0x00000080 0 = .ok (.aaddfx { h with pq := some 0 } false .rne 3 4 5)
  ∧ decodeWords 0x01489C01 0x000000A0 0 = .ok (.rwr { h with pq := some 2 } 9 4 5)
  ∧ decodeWords 0x00087C61 0x00050000 0 = .ok (.qpost h false 7 4 5)
  ∧ decodeWords 0x12503C81 0xFFFF0090 0 = .ok (.cwait { h with pq := some 1 } 3 8 9 0xFFFF)
  ∧ decodeWords 0x00086F81 0x00030090 0 = .ok (.lnch { h with pq := some 1 } false 6 4 3)
  ∧ decodeWords 0 0x00030090 0 = .bad .zeroWord
  ∧ decodeWords 0x00000023 0 0 = .bad .lenIllegal
  ∧ decodeWords 0x00000180 0 0 = .bad .majUnassigned
  ∧ decodeBytes [0x01, 0x9C, 0x48, 0x01, 0xA0, 0, 0, 0, 0, 0, 0, 0] = .ok (.rwr { h with pq := some 2 } 9 4 5)

/-- R43 to R46: decoding the bytes of any well-formed instruction gives it back, whatever follows them. -/
def Obligations.DecodeEncode : Prop :=
  ∀ (i : Instr) (rest : List Byte), i.wf = true → i.toRaw.isSome = true → decodeBytes (encodeBytes i ++ rest) = .ok i

/-! ### Whole runs -/

/-- A step runs the instruction that it decodes: at the turn of a hub the one at its program counter; at the issue turn of a
chosen sequencer the one that it fetches, after the landings of the step; an instruction that issues has its effect, one that
traps before it issues leaves the step untaken (R330), one that waits leaves nothing but its wait (R59).  An event of the agenda and
one from outside are executed, a turn of a cluster chooses what issues (R317), and where nothing is left the next cycle begins.  Tokens
popped ahead and not used go back (R169; log entries 3 and 79); the hub's wait is over as it executes again (log entry 76). -/
def Obligations.StepRuns : Prop :=
  ∀ s : State, (s.mailbox.boot = .cold → step s = .next s.boot) ∧ (s.mailbox.boot ≠ .cold →
    (∀ (d : Nat) (rest : List Turn) (i : Instr) (b : State), s.inputs = [] → s.agenda = .hub d :: rest →
      b = { s with agenda := rest } → (b.seqAt (hubKey d)).live = true → (b.seqAt (hubKey d)).wait.any Wait.holds = false →
      (b.seqAt (hubKey d)).ended = false → (b.seqAt (hubKey d)).gap = 0 →
      (b.seqAt (hubKey d)).pc.toNat + 4 ≤ slabSize → (b.seqAt (hubKey d)).pc.toNat + b.hubSize d ≤ slabSize →
      b.badAt (b.seqAt (hubKey d)).pc.toNat (b.hubSize d) = none →
      decodeBytes (b.readMem (b.seqAt (hubKey d)).pc.toNat 12) = .ok i →
      step s = exec i { (b.corrected (b.seqAt (hubKey d)).pc.toNat (b.hubSize d)).modSeqAt (hubKey d)
        (fun q => { q with wait := none }) with cur := .hub d })
    ∧ (∀ (r : SeqRef) (run : Nat) (rest : List Turn) (i : Instr) (b a u : State),
      s.inputs = [] → s.agenda = .issue r run :: rest → b = { s with agenda := rest } → b.eligible r = true →
      (b.seq r).stepDone = false → b.stepFlights r = (a, true) → a.fetch r = .got (.ok i) →
      exec i { a.fetchReads r with cur := .seq r } = .next u →
      (b.stoppedAt u r = none → (u.seq r).no ≠ (b.seq r).no ∨ (u.seq r).wait = some .held → (u.seq r).step = false →
        step s = .next ((u.giveBack r).choose1 r run))
      ∧ (∀ w, b.stoppedAt u r = none → (u.seq r).no = (b.seq r).no → (u.seq r).wait = some w → w ≠ .held →
        step s = .next ((b.beginWait u r).giveBack r))
      ∧ (∀ j, b.stoppedAt u r = some j →
        step s = .next ((((b.fetchReads r).raise r j.cause j.point j.tepc 0 j.detail).giveBack r).choose1 r run)))
    ∧ (∀ (i : Instr) (rest : List Turn), s.inputs = [] → s.agenda = .event i :: rest →
      step s = exec i { s with agenda := rest })
    ∧ (∀ (i : Instr) (rest : List Instr), s.inputs = i :: rest → external i = true →
      step s = exec i { s with inputs := rest })
    ∧ (∀ (d c : Nat) (rest : List Turn), s.inputs = [] → s.agenda = .cluster d c :: rest →
      step s = .next (({ s with agenda := rest } : State).clusterTurn d c))
    ∧ (s.inputs = [] → s.agenda = [] → step s = .next s.tick))

/-- R47 to R51, R323: every instruction of a sequencer and every event answers a next state; nothing is refused; what a hub
executes stops only where its word is no instruction, or R47 names a cause before it issues: for its class, its form or its
token queues (log entry 6). -/
def Obligations.ExecAnswers : Prop :=
  (∀ (i : Instr) (s : State) (r : SeqRef), s.cur = .seq r → ∃ t, exec i s = .next t)
  ∧ (∀ (i : Instr) (s : State) (e : Refusal), exec i s ≠ .refused e)
  ∧ (∀ (s : State) (e : Refusal), step s ≠ .refused e)
  ∧ ∀ (i : Instr) (s : State) (d : Nat) (e : Fault), s.cur = .hub d → exec i s = .fault e →
      ∃ c, e = .hubTrap d c ∧ (i = .notAnInstruction c ∨ i.toRaw.isSome = true ∧ s.precheck i (hdrOf i) = some c)

/-- R6, R35, R54, R173, R274, R352, R355: the values that the spec gives registers at reset; no sequencer runs, the memory is in
its canonical form, and every count is within its bounds. -/
def Obligations.ResetValues : Prop :=
  (∀ die cl, (State.reset.cluster die cl).lfsr = 1 ∧ (State.reset.cluster die cl).fidErr = 0
      ∧ (State.reset.cluster die cl).fidChk = 0 ∧ (State.reset.cluster die cl).fidThr = 0
      ∧ (State.reset.cluster die cl).finj = 0 ∧ (State.reset.cluster die cl).permit = 0x4040404040404040
      ∧ ∀ k : Permit, (State.reset.cluster die cl).held k = 64)
  ∧ (∀ die, State.reset.tsc die = 0 ∧ (State.reset.die die).hub.regs = ⟨0, 0, 0, 0⟩
      ∧ (∀ n, State.reset.counter die n = { value := 0, ovf := false, ctx := none })
      ∧ ∀ n, State.reset.lane die n = {} )
  ∧ (∀ k, (State.reset.seqAt k).live = false) ∧ State.reset.mailbox.doorbell = 0 ∧ Safe State.reset
  ∧ State.reset.CountsHold ∧ State.reset.WheelsHold

/-- Every step keeps the memory in its canonical form, so that equal memories are equal data. -/
def Obligations.StepKeepsMemory : Prop := ∀ s t : State, Safe s → step s = .next t → Safe t

/-- R57, R352, R173: every step keeps each token count at 255 or less and each permit count within its depth; every step but a
hub's, which may load a team's image with any wheel words (R341), keeps TAIL = (HEAD + NFILL + NCLM) mod the number of buffers,
with no more buffers filled and claimed than there are. -/
def Obligations.StepKeepsCounts : Prop :=
  ∀ s t : State, step s = .next t →
    (s.CountsHold → t.CountsHold)
    ∧ ((∀ d rest, s.inputs = [] → s.agenda ≠ .hub d :: rest) → s.WheelsHold → t.WheelsHold)
end

