-- ==== Sys2Proof/Laws/State.lean ====
section
/-! SUPPORT. What each update of the state leaves as it was, field by field. -/

namespace Sys2Proof.Machine

variable (s : State)

/-! ### setSeqAt -/

@[simp] theorem State.setSeqAt_cur (k : Nat) (q : Seq) : (s.setSeqAt k q).cur = s.cur := rfl
@[simp] theorem State.setSeqAt_agenda (k : Nat) (q : Seq) : (s.setSeqAt k q).agenda = s.agenda := rfl
@[simp] theorem State.setSeqAt_inputs (k : Nat) (q : Seq) : (s.setSeqAt k q).inputs = s.inputs := rfl
@[simp] theorem State.setSeqAt_strands (k : Nat) (q : Seq) : (s.setSeqAt k q).strands = s.strands := rfl
@[simp] theorem State.setSeqAt_clusters (k : Nat) (q : Seq) : (s.setSeqAt k q).clusters = s.clusters := rfl
@[simp] theorem State.setSeqAt_dies (k : Nat) (q : Seq) : (s.setSeqAt k q).dies = s.dies := rfl
@[simp] theorem State.setSeqAt_islands (k : Nat) (q : Seq) : (s.setSeqAt k q).islands = s.islands := rfl
@[simp] theorem State.setSeqAt_mem (k : Nat) (q : Seq) : (s.setSeqAt k q).mem = s.mem := rfl
@[simp] theorem State.setSeqAt_sched (k : Nat) (q : Seq) : (s.setSeqAt k q).sched = s.sched := rfl
@[simp] theorem State.setSeqAt_ctxs (k : Nat) (q : Seq) : (s.setSeqAt k q).ctxs = s.ctxs := rfl
@[simp] theorem State.setSeqAt_chain (k : Nat) (q : Seq) : (s.setSeqAt k q).chain = s.chain := rfl
@[simp] theorem State.setSeqAt_mailbox (k : Nat) (q : Seq) : (s.setSeqAt k q).mailbox = s.mailbox := rfl
@[simp] theorem State.setSeqAt_frameBase (k : Nat) (q : Seq) : (s.setSeqAt k q).frameBase = s.frameBase := rfl
@[simp] theorem State.setSeqAt_cadenceBase (k : Nat) (q : Seq) : (s.setSeqAt k q).cadenceBase = s.cadenceBase := rfl
@[simp] theorem State.setSeqAt_nextReq (k : Nat) (q : Seq) : (s.setSeqAt k q).nextReq = s.nextReq := rfl
@[simp] theorem State.setSeqAt_nextCmd (k : Nat) (q : Seq) : (s.setSeqAt k q).nextCmd = s.nextCmd := rfl
@[simp] theorem State.setSeqAt_bad (k : Nat) (q : Seq) : (s.setSeqAt k q).bad = s.bad := rfl
@[simp] theorem State.setSeqAt_weak (k : Nat) (q : Seq) : (s.setSeqAt k q).weak = s.weak := rfl
@[simp] theorem State.setSeqAt_refused (k : Nat) (q : Seq) : (s.setSeqAt k q).refused = s.refused := rfl
@[simp] theorem State.setSeqAt_lateReads (k : Nat) (q : Seq) : (s.setSeqAt k q).lateReads = s.lateReads := rfl
@[simp] theorem State.setSeqAt_beside (k : Nat) (q : Seq) : (s.setSeqAt k q).beside = s.beside := rfl
@[simp] theorem State.setSeqAt_outbox (k : Nat) (q : Seq) : (s.setSeqAt k q).outbox = s.outbox := rfl
@[simp] theorem State.setSeqAt_free (k : Nat) (q : Seq) : (s.setSeqAt k q).free = s.free := rfl
@[simp] theorem State.setSeqAt_cycles (k : Nat) (q : Seq) : (s.setSeqAt k q).cycles = s.cycles := rfl

/-! ### modSeqAt -/

@[simp] theorem State.modSeqAt_cur (k : Nat) (f : Seq → Seq) : (s.modSeqAt k f).cur = s.cur := rfl
@[simp] theorem State.modSeqAt_agenda (k : Nat) (f : Seq → Seq) : (s.modSeqAt k f).agenda = s.agenda := rfl
@[simp] theorem State.modSeqAt_inputs (k : Nat) (f : Seq → Seq) : (s.modSeqAt k f).inputs = s.inputs := rfl
@[simp] theorem State.modSeqAt_strands (k : Nat) (f : Seq → Seq) : (s.modSeqAt k f).strands = s.strands := rfl
@[simp] theorem State.modSeqAt_clusters (k : Nat) (f : Seq → Seq) : (s.modSeqAt k f).clusters = s.clusters := rfl
@[simp] theorem State.modSeqAt_dies (k : Nat) (f : Seq → Seq) : (s.modSeqAt k f).dies = s.dies := rfl
@[simp] theorem State.modSeqAt_islands (k : Nat) (f : Seq → Seq) : (s.modSeqAt k f).islands = s.islands := rfl
@[simp] theorem State.modSeqAt_mem (k : Nat) (f : Seq → Seq) : (s.modSeqAt k f).mem = s.mem := rfl
@[simp] theorem State.modSeqAt_sched (k : Nat) (f : Seq → Seq) : (s.modSeqAt k f).sched = s.sched := rfl
@[simp] theorem State.modSeqAt_ctxs (k : Nat) (f : Seq → Seq) : (s.modSeqAt k f).ctxs = s.ctxs := rfl
@[simp] theorem State.modSeqAt_chain (k : Nat) (f : Seq → Seq) : (s.modSeqAt k f).chain = s.chain := rfl
@[simp] theorem State.modSeqAt_mailbox (k : Nat) (f : Seq → Seq) : (s.modSeqAt k f).mailbox = s.mailbox := rfl
@[simp] theorem State.modSeqAt_frameBase (k : Nat) (f : Seq → Seq) : (s.modSeqAt k f).frameBase = s.frameBase := rfl
@[simp] theorem State.modSeqAt_cadenceBase (k : Nat) (f : Seq → Seq) : (s.modSeqAt k f).cadenceBase = s.cadenceBase := rfl
@[simp] theorem State.modSeqAt_nextReq (k : Nat) (f : Seq → Seq) : (s.modSeqAt k f).nextReq = s.nextReq := rfl
@[simp] theorem State.modSeqAt_nextCmd (k : Nat) (f : Seq → Seq) : (s.modSeqAt k f).nextCmd = s.nextCmd := rfl
@[simp] theorem State.modSeqAt_bad (k : Nat) (f : Seq → Seq) : (s.modSeqAt k f).bad = s.bad := rfl
@[simp] theorem State.modSeqAt_weak (k : Nat) (f : Seq → Seq) : (s.modSeqAt k f).weak = s.weak := rfl
@[simp] theorem State.modSeqAt_refused (k : Nat) (f : Seq → Seq) : (s.modSeqAt k f).refused = s.refused := rfl
@[simp] theorem State.modSeqAt_lateReads (k : Nat) (f : Seq → Seq) : (s.modSeqAt k f).lateReads = s.lateReads := rfl
@[simp] theorem State.modSeqAt_beside (k : Nat) (f : Seq → Seq) : (s.modSeqAt k f).beside = s.beside := rfl
@[simp] theorem State.modSeqAt_outbox (k : Nat) (f : Seq → Seq) : (s.modSeqAt k f).outbox = s.outbox := rfl
@[simp] theorem State.modSeqAt_free (k : Nat) (f : Seq → Seq) : (s.modSeqAt k f).free = s.free := rfl
@[simp] theorem State.modSeqAt_cycles (k : Nat) (f : Seq → Seq) : (s.modSeqAt k f).cycles = s.cycles := rfl

/-! ### modSeq -/

@[simp] theorem State.modSeq_cur (r : SeqRef) (f : Seq → Seq) : (s.modSeq r f).cur = s.cur := rfl
@[simp] theorem State.modSeq_agenda (r : SeqRef) (f : Seq → Seq) : (s.modSeq r f).agenda = s.agenda := rfl
@[simp] theorem State.modSeq_inputs (r : SeqRef) (f : Seq → Seq) : (s.modSeq r f).inputs = s.inputs := rfl
@[simp] theorem State.modSeq_strands (r : SeqRef) (f : Seq → Seq) : (s.modSeq r f).strands = s.strands := rfl
@[simp] theorem State.modSeq_clusters (r : SeqRef) (f : Seq → Seq) : (s.modSeq r f).clusters = s.clusters := rfl
@[simp] theorem State.modSeq_dies (r : SeqRef) (f : Seq → Seq) : (s.modSeq r f).dies = s.dies := rfl
@[simp] theorem State.modSeq_islands (r : SeqRef) (f : Seq → Seq) : (s.modSeq r f).islands = s.islands := rfl
@[simp] theorem State.modSeq_mem (r : SeqRef) (f : Seq → Seq) : (s.modSeq r f).mem = s.mem := rfl
@[simp] theorem State.modSeq_sched (r : SeqRef) (f : Seq → Seq) : (s.modSeq r f).sched = s.sched := rfl
@[simp] theorem State.modSeq_ctxs (r : SeqRef) (f : Seq → Seq) : (s.modSeq r f).ctxs = s.ctxs := rfl
@[simp] theorem State.modSeq_chain (r : SeqRef) (f : Seq → Seq) : (s.modSeq r f).chain = s.chain := rfl
@[simp] theorem State.modSeq_mailbox (r : SeqRef) (f : Seq → Seq) : (s.modSeq r f).mailbox = s.mailbox := rfl
@[simp] theorem State.modSeq_frameBase (r : SeqRef) (f : Seq → Seq) : (s.modSeq r f).frameBase = s.frameBase := rfl
@[simp] theorem State.modSeq_cadenceBase (r : SeqRef) (f : Seq → Seq) : (s.modSeq r f).cadenceBase = s.cadenceBase := rfl
@[simp] theorem State.modSeq_nextReq (r : SeqRef) (f : Seq → Seq) : (s.modSeq r f).nextReq = s.nextReq := rfl
@[simp] theorem State.modSeq_nextCmd (r : SeqRef) (f : Seq → Seq) : (s.modSeq r f).nextCmd = s.nextCmd := rfl
@[simp] theorem State.modSeq_bad (r : SeqRef) (f : Seq → Seq) : (s.modSeq r f).bad = s.bad := rfl
@[simp] theorem State.modSeq_weak (r : SeqRef) (f : Seq → Seq) : (s.modSeq r f).weak = s.weak := rfl
@[simp] theorem State.modSeq_refused (r : SeqRef) (f : Seq → Seq) : (s.modSeq r f).refused = s.refused := rfl
@[simp] theorem State.modSeq_lateReads (r : SeqRef) (f : Seq → Seq) : (s.modSeq r f).lateReads = s.lateReads := rfl
@[simp] theorem State.modSeq_beside (r : SeqRef) (f : Seq → Seq) : (s.modSeq r f).beside = s.beside := rfl
@[simp] theorem State.modSeq_outbox (r : SeqRef) (f : Seq → Seq) : (s.modSeq r f).outbox = s.outbox := rfl
@[simp] theorem State.modSeq_free (r : SeqRef) (f : Seq → Seq) : (s.modSeq r f).free = s.free := rfl
@[simp] theorem State.modSeq_cycles (r : SeqRef) (f : Seq → Seq) : (s.modSeq r f).cycles = s.cycles := rfl

/-! ### modMe -/

@[simp] theorem State.modMe_cur (f : Seq → Seq) : (s.modMe f).cur = s.cur := rfl
@[simp] theorem State.modMe_agenda (f : Seq → Seq) : (s.modMe f).agenda = s.agenda := rfl
@[simp] theorem State.modMe_inputs (f : Seq → Seq) : (s.modMe f).inputs = s.inputs := rfl
@[simp] theorem State.modMe_strands (f : Seq → Seq) : (s.modMe f).strands = s.strands := rfl
@[simp] theorem State.modMe_clusters (f : Seq → Seq) : (s.modMe f).clusters = s.clusters := rfl
@[simp] theorem State.modMe_dies (f : Seq → Seq) : (s.modMe f).dies = s.dies := rfl
@[simp] theorem State.modMe_islands (f : Seq → Seq) : (s.modMe f).islands = s.islands := rfl
@[simp] theorem State.modMe_mem (f : Seq → Seq) : (s.modMe f).mem = s.mem := rfl
@[simp] theorem State.modMe_sched (f : Seq → Seq) : (s.modMe f).sched = s.sched := rfl
@[simp] theorem State.modMe_ctxs (f : Seq → Seq) : (s.modMe f).ctxs = s.ctxs := rfl
@[simp] theorem State.modMe_chain (f : Seq → Seq) : (s.modMe f).chain = s.chain := rfl
@[simp] theorem State.modMe_mailbox (f : Seq → Seq) : (s.modMe f).mailbox = s.mailbox := rfl
@[simp] theorem State.modMe_frameBase (f : Seq → Seq) : (s.modMe f).frameBase = s.frameBase := rfl
@[simp] theorem State.modMe_cadenceBase (f : Seq → Seq) : (s.modMe f).cadenceBase = s.cadenceBase := rfl
@[simp] theorem State.modMe_nextReq (f : Seq → Seq) : (s.modMe f).nextReq = s.nextReq := rfl
@[simp] theorem State.modMe_nextCmd (f : Seq → Seq) : (s.modMe f).nextCmd = s.nextCmd := rfl
@[simp] theorem State.modMe_bad (f : Seq → Seq) : (s.modMe f).bad = s.bad := rfl
@[simp] theorem State.modMe_weak (f : Seq → Seq) : (s.modMe f).weak = s.weak := rfl
@[simp] theorem State.modMe_refused (f : Seq → Seq) : (s.modMe f).refused = s.refused := rfl
@[simp] theorem State.modMe_lateReads (f : Seq → Seq) : (s.modMe f).lateReads = s.lateReads := rfl
@[simp] theorem State.modMe_beside (f : Seq → Seq) : (s.modMe f).beside = s.beside := rfl
@[simp] theorem State.modMe_outbox (f : Seq → Seq) : (s.modMe f).outbox = s.outbox := rfl
@[simp] theorem State.modMe_free (f : Seq → Seq) : (s.modMe f).free = s.free := rfl
@[simp] theorem State.modMe_cycles (f : Seq → Seq) : (s.modMe f).cycles = s.cycles := rfl

/-! ### setStrandAt -/

@[simp] theorem State.setStrandAt_cur (k : Nat) (t : Strand) : (s.setStrandAt k t).cur = s.cur := rfl
@[simp] theorem State.setStrandAt_agenda (k : Nat) (t : Strand) : (s.setStrandAt k t).agenda = s.agenda := rfl
@[simp] theorem State.setStrandAt_inputs (k : Nat) (t : Strand) : (s.setStrandAt k t).inputs = s.inputs := rfl
@[simp] theorem State.setStrandAt_seqs (k : Nat) (t : Strand) : (s.setStrandAt k t).seqs = s.seqs := rfl
@[simp] theorem State.setStrandAt_clusters (k : Nat) (t : Strand) : (s.setStrandAt k t).clusters = s.clusters := rfl
@[simp] theorem State.setStrandAt_dies (k : Nat) (t : Strand) : (s.setStrandAt k t).dies = s.dies := rfl
@[simp] theorem State.setStrandAt_islands (k : Nat) (t : Strand) : (s.setStrandAt k t).islands = s.islands := rfl
@[simp] theorem State.setStrandAt_mem (k : Nat) (t : Strand) : (s.setStrandAt k t).mem = s.mem := rfl
@[simp] theorem State.setStrandAt_sched (k : Nat) (t : Strand) : (s.setStrandAt k t).sched = s.sched := rfl
@[simp] theorem State.setStrandAt_ctxs (k : Nat) (t : Strand) : (s.setStrandAt k t).ctxs = s.ctxs := rfl
@[simp] theorem State.setStrandAt_chain (k : Nat) (t : Strand) : (s.setStrandAt k t).chain = s.chain := rfl
@[simp] theorem State.setStrandAt_mailbox (k : Nat) (t : Strand) : (s.setStrandAt k t).mailbox = s.mailbox := rfl
@[simp] theorem State.setStrandAt_frameBase (k : Nat) (t : Strand) : (s.setStrandAt k t).frameBase = s.frameBase := rfl
@[simp] theorem State.setStrandAt_cadenceBase (k : Nat) (t : Strand) : (s.setStrandAt k t).cadenceBase = s.cadenceBase := rfl
@[simp] theorem State.setStrandAt_nextReq (k : Nat) (t : Strand) : (s.setStrandAt k t).nextReq = s.nextReq := rfl
@[simp] theorem State.setStrandAt_nextCmd (k : Nat) (t : Strand) : (s.setStrandAt k t).nextCmd = s.nextCmd := rfl
@[simp] theorem State.setStrandAt_bad (k : Nat) (t : Strand) : (s.setStrandAt k t).bad = s.bad := rfl
@[simp] theorem State.setStrandAt_weak (k : Nat) (t : Strand) : (s.setStrandAt k t).weak = s.weak := rfl
@[simp] theorem State.setStrandAt_refused (k : Nat) (t : Strand) : (s.setStrandAt k t).refused = s.refused := rfl
@[simp] theorem State.setStrandAt_lateReads (k : Nat) (t : Strand) : (s.setStrandAt k t).lateReads = s.lateReads := rfl
@[simp] theorem State.setStrandAt_beside (k : Nat) (t : Strand) : (s.setStrandAt k t).beside = s.beside := rfl
@[simp] theorem State.setStrandAt_outbox (k : Nat) (t : Strand) : (s.setStrandAt k t).outbox = s.outbox := rfl
@[simp] theorem State.setStrandAt_free (k : Nat) (t : Strand) : (s.setStrandAt k t).free = s.free := rfl
@[simp] theorem State.setStrandAt_cycles (k : Nat) (t : Strand) : (s.setStrandAt k t).cycles = s.cycles := rfl

/-! ### modStrand -/

@[simp] theorem State.modStrand_cur (r : StrandRef) (f : Strand → Strand) : (s.modStrand r f).cur = s.cur := rfl
@[simp] theorem State.modStrand_agenda (r : StrandRef) (f : Strand → Strand) : (s.modStrand r f).agenda = s.agenda := rfl
@[simp] theorem State.modStrand_inputs (r : StrandRef) (f : Strand → Strand) : (s.modStrand r f).inputs = s.inputs := rfl
@[simp] theorem State.modStrand_seqs (r : StrandRef) (f : Strand → Strand) : (s.modStrand r f).seqs = s.seqs := rfl
@[simp] theorem State.modStrand_clusters (r : StrandRef) (f : Strand → Strand) : (s.modStrand r f).clusters = s.clusters := rfl
@[simp] theorem State.modStrand_dies (r : StrandRef) (f : Strand → Strand) : (s.modStrand r f).dies = s.dies := rfl
@[simp] theorem State.modStrand_islands (r : StrandRef) (f : Strand → Strand) : (s.modStrand r f).islands = s.islands := rfl
@[simp] theorem State.modStrand_mem (r : StrandRef) (f : Strand → Strand) : (s.modStrand r f).mem = s.mem := rfl
@[simp] theorem State.modStrand_sched (r : StrandRef) (f : Strand → Strand) : (s.modStrand r f).sched = s.sched := rfl
@[simp] theorem State.modStrand_ctxs (r : StrandRef) (f : Strand → Strand) : (s.modStrand r f).ctxs = s.ctxs := rfl
@[simp] theorem State.modStrand_chain (r : StrandRef) (f : Strand → Strand) : (s.modStrand r f).chain = s.chain := rfl
@[simp] theorem State.modStrand_mailbox (r : StrandRef) (f : Strand → Strand) : (s.modStrand r f).mailbox = s.mailbox := rfl
@[simp] theorem State.modStrand_frameBase (r : StrandRef) (f : Strand → Strand) : (s.modStrand r f).frameBase = s.frameBase := rfl
@[simp] theorem State.modStrand_cadenceBase (r : StrandRef) (f : Strand → Strand) : (s.modStrand r f).cadenceBase = s.cadenceBase := rfl
@[simp] theorem State.modStrand_nextReq (r : StrandRef) (f : Strand → Strand) : (s.modStrand r f).nextReq = s.nextReq := rfl
@[simp] theorem State.modStrand_nextCmd (r : StrandRef) (f : Strand → Strand) : (s.modStrand r f).nextCmd = s.nextCmd := rfl
@[simp] theorem State.modStrand_bad (r : StrandRef) (f : Strand → Strand) : (s.modStrand r f).bad = s.bad := rfl
@[simp] theorem State.modStrand_weak (r : StrandRef) (f : Strand → Strand) : (s.modStrand r f).weak = s.weak := rfl
@[simp] theorem State.modStrand_refused (r : StrandRef) (f : Strand → Strand) : (s.modStrand r f).refused = s.refused := rfl
@[simp] theorem State.modStrand_lateReads (r : StrandRef) (f : Strand → Strand) : (s.modStrand r f).lateReads = s.lateReads := rfl
@[simp] theorem State.modStrand_beside (r : StrandRef) (f : Strand → Strand) : (s.modStrand r f).beside = s.beside := rfl
@[simp] theorem State.modStrand_outbox (r : StrandRef) (f : Strand → Strand) : (s.modStrand r f).outbox = s.outbox := rfl
@[simp] theorem State.modStrand_free (r : StrandRef) (f : Strand → Strand) : (s.modStrand r f).free = s.free := rfl
@[simp] theorem State.modStrand_cycles (r : StrandRef) (f : Strand → Strand) : (s.modStrand r f).cycles = s.cycles := rfl

/-! ### setCluster -/

@[simp] theorem State.setCluster_cur (d c : Nat) (v : Cluster) : (s.setCluster d c v).cur = s.cur := rfl
@[simp] theorem State.setCluster_agenda (d c : Nat) (v : Cluster) : (s.setCluster d c v).agenda = s.agenda := rfl
@[simp] theorem State.setCluster_inputs (d c : Nat) (v : Cluster) : (s.setCluster d c v).inputs = s.inputs := rfl
@[simp] theorem State.setCluster_seqs (d c : Nat) (v : Cluster) : (s.setCluster d c v).seqs = s.seqs := rfl
@[simp] theorem State.setCluster_strands (d c : Nat) (v : Cluster) : (s.setCluster d c v).strands = s.strands := rfl
@[simp] theorem State.setCluster_dies (d c : Nat) (v : Cluster) : (s.setCluster d c v).dies = s.dies := rfl
@[simp] theorem State.setCluster_islands (d c : Nat) (v : Cluster) : (s.setCluster d c v).islands = s.islands := rfl
@[simp] theorem State.setCluster_mem (d c : Nat) (v : Cluster) : (s.setCluster d c v).mem = s.mem := rfl
@[simp] theorem State.setCluster_sched (d c : Nat) (v : Cluster) : (s.setCluster d c v).sched = s.sched := rfl
@[simp] theorem State.setCluster_ctxs (d c : Nat) (v : Cluster) : (s.setCluster d c v).ctxs = s.ctxs := rfl
@[simp] theorem State.setCluster_chain (d c : Nat) (v : Cluster) : (s.setCluster d c v).chain = s.chain := rfl
@[simp] theorem State.setCluster_mailbox (d c : Nat) (v : Cluster) : (s.setCluster d c v).mailbox = s.mailbox := rfl
@[simp] theorem State.setCluster_frameBase (d c : Nat) (v : Cluster) : (s.setCluster d c v).frameBase = s.frameBase := rfl
@[simp] theorem State.setCluster_cadenceBase (d c : Nat) (v : Cluster) : (s.setCluster d c v).cadenceBase = s.cadenceBase := rfl
@[simp] theorem State.setCluster_nextReq (d c : Nat) (v : Cluster) : (s.setCluster d c v).nextReq = s.nextReq := rfl
@[simp] theorem State.setCluster_nextCmd (d c : Nat) (v : Cluster) : (s.setCluster d c v).nextCmd = s.nextCmd := rfl
@[simp] theorem State.setCluster_bad (d c : Nat) (v : Cluster) : (s.setCluster d c v).bad = s.bad := rfl
@[simp] theorem State.setCluster_weak (d c : Nat) (v : Cluster) : (s.setCluster d c v).weak = s.weak := rfl
@[simp] theorem State.setCluster_refused (d c : Nat) (v : Cluster) : (s.setCluster d c v).refused = s.refused := rfl
@[simp] theorem State.setCluster_lateReads (d c : Nat) (v : Cluster) : (s.setCluster d c v).lateReads = s.lateReads := rfl
@[simp] theorem State.setCluster_beside (d c : Nat) (v : Cluster) : (s.setCluster d c v).beside = s.beside := rfl
@[simp] theorem State.setCluster_outbox (d c : Nat) (v : Cluster) : (s.setCluster d c v).outbox = s.outbox := rfl
@[simp] theorem State.setCluster_free (d c : Nat) (v : Cluster) : (s.setCluster d c v).free = s.free := rfl
@[simp] theorem State.setCluster_cycles (d c : Nat) (v : Cluster) : (s.setCluster d c v).cycles = s.cycles := rfl

/-! ### modCluster -/

@[simp] theorem State.modCluster_cur (d c : Nat) (f : Cluster → Cluster) : (s.modCluster d c f).cur = s.cur := rfl
@[simp] theorem State.modCluster_agenda (d c : Nat) (f : Cluster → Cluster) : (s.modCluster d c f).agenda = s.agenda := rfl
@[simp] theorem State.modCluster_inputs (d c : Nat) (f : Cluster → Cluster) : (s.modCluster d c f).inputs = s.inputs := rfl
@[simp] theorem State.modCluster_seqs (d c : Nat) (f : Cluster → Cluster) : (s.modCluster d c f).seqs = s.seqs := rfl
@[simp] theorem State.modCluster_strands (d c : Nat) (f : Cluster → Cluster) : (s.modCluster d c f).strands = s.strands := rfl
@[simp] theorem State.modCluster_dies (d c : Nat) (f : Cluster → Cluster) : (s.modCluster d c f).dies = s.dies := rfl
@[simp] theorem State.modCluster_islands (d c : Nat) (f : Cluster → Cluster) : (s.modCluster d c f).islands = s.islands := rfl
@[simp] theorem State.modCluster_mem (d c : Nat) (f : Cluster → Cluster) : (s.modCluster d c f).mem = s.mem := rfl
@[simp] theorem State.modCluster_sched (d c : Nat) (f : Cluster → Cluster) : (s.modCluster d c f).sched = s.sched := rfl
@[simp] theorem State.modCluster_ctxs (d c : Nat) (f : Cluster → Cluster) : (s.modCluster d c f).ctxs = s.ctxs := rfl
@[simp] theorem State.modCluster_chain (d c : Nat) (f : Cluster → Cluster) : (s.modCluster d c f).chain = s.chain := rfl
@[simp] theorem State.modCluster_mailbox (d c : Nat) (f : Cluster → Cluster) : (s.modCluster d c f).mailbox = s.mailbox := rfl
@[simp] theorem State.modCluster_frameBase (d c : Nat) (f : Cluster → Cluster) : (s.modCluster d c f).frameBase = s.frameBase := rfl
@[simp] theorem State.modCluster_cadenceBase (d c : Nat) (f : Cluster → Cluster) : (s.modCluster d c f).cadenceBase = s.cadenceBase := rfl
@[simp] theorem State.modCluster_nextReq (d c : Nat) (f : Cluster → Cluster) : (s.modCluster d c f).nextReq = s.nextReq := rfl
@[simp] theorem State.modCluster_nextCmd (d c : Nat) (f : Cluster → Cluster) : (s.modCluster d c f).nextCmd = s.nextCmd := rfl
@[simp] theorem State.modCluster_bad (d c : Nat) (f : Cluster → Cluster) : (s.modCluster d c f).bad = s.bad := rfl
@[simp] theorem State.modCluster_weak (d c : Nat) (f : Cluster → Cluster) : (s.modCluster d c f).weak = s.weak := rfl
@[simp] theorem State.modCluster_refused (d c : Nat) (f : Cluster → Cluster) : (s.modCluster d c f).refused = s.refused := rfl
@[simp] theorem State.modCluster_lateReads (d c : Nat) (f : Cluster → Cluster) : (s.modCluster d c f).lateReads = s.lateReads := rfl
@[simp] theorem State.modCluster_beside (d c : Nat) (f : Cluster → Cluster) : (s.modCluster d c f).beside = s.beside := rfl
@[simp] theorem State.modCluster_outbox (d c : Nat) (f : Cluster → Cluster) : (s.modCluster d c f).outbox = s.outbox := rfl
@[simp] theorem State.modCluster_free (d c : Nat) (f : Cluster → Cluster) : (s.modCluster d c f).free = s.free := rfl
@[simp] theorem State.modCluster_cycles (d c : Nat) (f : Cluster → Cluster) : (s.modCluster d c f).cycles = s.cycles := rfl

/-! ### setDie -/

@[simp] theorem State.setDie_cur (d : Nat) (v : Die) : (s.setDie d v).cur = s.cur := rfl
@[simp] theorem State.setDie_agenda (d : Nat) (v : Die) : (s.setDie d v).agenda = s.agenda := rfl
@[simp] theorem State.setDie_inputs (d : Nat) (v : Die) : (s.setDie d v).inputs = s.inputs := rfl
@[simp] theorem State.setDie_seqs (d : Nat) (v : Die) : (s.setDie d v).seqs = s.seqs := rfl
@[simp] theorem State.setDie_strands (d : Nat) (v : Die) : (s.setDie d v).strands = s.strands := rfl
@[simp] theorem State.setDie_clusters (d : Nat) (v : Die) : (s.setDie d v).clusters = s.clusters := rfl
@[simp] theorem State.setDie_islands (d : Nat) (v : Die) : (s.setDie d v).islands = s.islands := rfl
@[simp] theorem State.setDie_mem (d : Nat) (v : Die) : (s.setDie d v).mem = s.mem := rfl
@[simp] theorem State.setDie_sched (d : Nat) (v : Die) : (s.setDie d v).sched = s.sched := rfl
@[simp] theorem State.setDie_ctxs (d : Nat) (v : Die) : (s.setDie d v).ctxs = s.ctxs := rfl
@[simp] theorem State.setDie_chain (d : Nat) (v : Die) : (s.setDie d v).chain = s.chain := rfl
@[simp] theorem State.setDie_mailbox (d : Nat) (v : Die) : (s.setDie d v).mailbox = s.mailbox := rfl
@[simp] theorem State.setDie_frameBase (d : Nat) (v : Die) : (s.setDie d v).frameBase = s.frameBase := rfl
@[simp] theorem State.setDie_cadenceBase (d : Nat) (v : Die) : (s.setDie d v).cadenceBase = s.cadenceBase := rfl
@[simp] theorem State.setDie_nextReq (d : Nat) (v : Die) : (s.setDie d v).nextReq = s.nextReq := rfl
@[simp] theorem State.setDie_nextCmd (d : Nat) (v : Die) : (s.setDie d v).nextCmd = s.nextCmd := rfl
@[simp] theorem State.setDie_bad (d : Nat) (v : Die) : (s.setDie d v).bad = s.bad := rfl
@[simp] theorem State.setDie_weak (d : Nat) (v : Die) : (s.setDie d v).weak = s.weak := rfl
@[simp] theorem State.setDie_refused (d : Nat) (v : Die) : (s.setDie d v).refused = s.refused := rfl
@[simp] theorem State.setDie_lateReads (d : Nat) (v : Die) : (s.setDie d v).lateReads = s.lateReads := rfl
@[simp] theorem State.setDie_beside (d : Nat) (v : Die) : (s.setDie d v).beside = s.beside := rfl
@[simp] theorem State.setDie_outbox (d : Nat) (v : Die) : (s.setDie d v).outbox = s.outbox := rfl
@[simp] theorem State.setDie_free (d : Nat) (v : Die) : (s.setDie d v).free = s.free := rfl
@[simp] theorem State.setDie_cycles (d : Nat) (v : Die) : (s.setDie d v).cycles = s.cycles := rfl

/-! ### modDie -/

@[simp] theorem State.modDie_cur (d : Nat) (f : Die → Die) : (s.modDie d f).cur = s.cur := rfl
@[simp] theorem State.modDie_agenda (d : Nat) (f : Die → Die) : (s.modDie d f).agenda = s.agenda := rfl
@[simp] theorem State.modDie_inputs (d : Nat) (f : Die → Die) : (s.modDie d f).inputs = s.inputs := rfl
@[simp] theorem State.modDie_seqs (d : Nat) (f : Die → Die) : (s.modDie d f).seqs = s.seqs := rfl
@[simp] theorem State.modDie_strands (d : Nat) (f : Die → Die) : (s.modDie d f).strands = s.strands := rfl
@[simp] theorem State.modDie_clusters (d : Nat) (f : Die → Die) : (s.modDie d f).clusters = s.clusters := rfl
@[simp] theorem State.modDie_islands (d : Nat) (f : Die → Die) : (s.modDie d f).islands = s.islands := rfl
@[simp] theorem State.modDie_mem (d : Nat) (f : Die → Die) : (s.modDie d f).mem = s.mem := rfl
@[simp] theorem State.modDie_sched (d : Nat) (f : Die → Die) : (s.modDie d f).sched = s.sched := rfl
@[simp] theorem State.modDie_ctxs (d : Nat) (f : Die → Die) : (s.modDie d f).ctxs = s.ctxs := rfl
@[simp] theorem State.modDie_chain (d : Nat) (f : Die → Die) : (s.modDie d f).chain = s.chain := rfl
@[simp] theorem State.modDie_mailbox (d : Nat) (f : Die → Die) : (s.modDie d f).mailbox = s.mailbox := rfl
@[simp] theorem State.modDie_frameBase (d : Nat) (f : Die → Die) : (s.modDie d f).frameBase = s.frameBase := rfl
@[simp] theorem State.modDie_cadenceBase (d : Nat) (f : Die → Die) : (s.modDie d f).cadenceBase = s.cadenceBase := rfl
@[simp] theorem State.modDie_nextReq (d : Nat) (f : Die → Die) : (s.modDie d f).nextReq = s.nextReq := rfl
@[simp] theorem State.modDie_nextCmd (d : Nat) (f : Die → Die) : (s.modDie d f).nextCmd = s.nextCmd := rfl
@[simp] theorem State.modDie_bad (d : Nat) (f : Die → Die) : (s.modDie d f).bad = s.bad := rfl
@[simp] theorem State.modDie_weak (d : Nat) (f : Die → Die) : (s.modDie d f).weak = s.weak := rfl
@[simp] theorem State.modDie_refused (d : Nat) (f : Die → Die) : (s.modDie d f).refused = s.refused := rfl
@[simp] theorem State.modDie_lateReads (d : Nat) (f : Die → Die) : (s.modDie d f).lateReads = s.lateReads := rfl
@[simp] theorem State.modDie_beside (d : Nat) (f : Die → Die) : (s.modDie d f).beside = s.beside := rfl
@[simp] theorem State.modDie_outbox (d : Nat) (f : Die → Die) : (s.modDie d f).outbox = s.outbox := rfl
@[simp] theorem State.modDie_free (d : Nat) (f : Die → Die) : (s.modDie d f).free = s.free := rfl
@[simp] theorem State.modDie_cycles (d : Nat) (f : Die → Die) : (s.modDie d f).cycles = s.cycles := rfl

/-! ### modSched -/

@[simp] theorem State.modSched_cur (f : Sched → Sched) : (s.modSched f).cur = s.cur := rfl
@[simp] theorem State.modSched_agenda (f : Sched → Sched) : (s.modSched f).agenda = s.agenda := rfl
@[simp] theorem State.modSched_inputs (f : Sched → Sched) : (s.modSched f).inputs = s.inputs := rfl
@[simp] theorem State.modSched_seqs (f : Sched → Sched) : (s.modSched f).seqs = s.seqs := rfl
@[simp] theorem State.modSched_strands (f : Sched → Sched) : (s.modSched f).strands = s.strands := rfl
@[simp] theorem State.modSched_clusters (f : Sched → Sched) : (s.modSched f).clusters = s.clusters := rfl
@[simp] theorem State.modSched_dies (f : Sched → Sched) : (s.modSched f).dies = s.dies := rfl
@[simp] theorem State.modSched_islands (f : Sched → Sched) : (s.modSched f).islands = s.islands := rfl
@[simp] theorem State.modSched_mem (f : Sched → Sched) : (s.modSched f).mem = s.mem := rfl
@[simp] theorem State.modSched_ctxs (f : Sched → Sched) : (s.modSched f).ctxs = s.ctxs := rfl
@[simp] theorem State.modSched_chain (f : Sched → Sched) : (s.modSched f).chain = s.chain := rfl
@[simp] theorem State.modSched_mailbox (f : Sched → Sched) : (s.modSched f).mailbox = s.mailbox := rfl
@[simp] theorem State.modSched_frameBase (f : Sched → Sched) : (s.modSched f).frameBase = s.frameBase := rfl
@[simp] theorem State.modSched_cadenceBase (f : Sched → Sched) : (s.modSched f).cadenceBase = s.cadenceBase := rfl
@[simp] theorem State.modSched_nextReq (f : Sched → Sched) : (s.modSched f).nextReq = s.nextReq := rfl
@[simp] theorem State.modSched_nextCmd (f : Sched → Sched) : (s.modSched f).nextCmd = s.nextCmd := rfl
@[simp] theorem State.modSched_bad (f : Sched → Sched) : (s.modSched f).bad = s.bad := rfl
@[simp] theorem State.modSched_weak (f : Sched → Sched) : (s.modSched f).weak = s.weak := rfl
@[simp] theorem State.modSched_refused (f : Sched → Sched) : (s.modSched f).refused = s.refused := rfl
@[simp] theorem State.modSched_lateReads (f : Sched → Sched) : (s.modSched f).lateReads = s.lateReads := rfl
@[simp] theorem State.modSched_beside (f : Sched → Sched) : (s.modSched f).beside = s.beside := rfl
@[simp] theorem State.modSched_outbox (f : Sched → Sched) : (s.modSched f).outbox = s.outbox := rfl
@[simp] theorem State.modSched_free (f : Sched → Sched) : (s.modSched f).free = s.free := rfl
@[simp] theorem State.modSched_cycles (f : Sched → Sched) : (s.modSched f).cycles = s.cycles := rfl

/-! ### setLaunch -/

@[simp] theorem State.setLaunch_cur (n : BitVec 32) (l : Launch) : (s.setLaunch n l).cur = s.cur := rfl
@[simp] theorem State.setLaunch_agenda (n : BitVec 32) (l : Launch) : (s.setLaunch n l).agenda = s.agenda := rfl
@[simp] theorem State.setLaunch_inputs (n : BitVec 32) (l : Launch) : (s.setLaunch n l).inputs = s.inputs := rfl
@[simp] theorem State.setLaunch_seqs (n : BitVec 32) (l : Launch) : (s.setLaunch n l).seqs = s.seqs := rfl
@[simp] theorem State.setLaunch_strands (n : BitVec 32) (l : Launch) : (s.setLaunch n l).strands = s.strands := rfl
@[simp] theorem State.setLaunch_clusters (n : BitVec 32) (l : Launch) : (s.setLaunch n l).clusters = s.clusters := rfl
@[simp] theorem State.setLaunch_dies (n : BitVec 32) (l : Launch) : (s.setLaunch n l).dies = s.dies := rfl
@[simp] theorem State.setLaunch_islands (n : BitVec 32) (l : Launch) : (s.setLaunch n l).islands = s.islands := rfl
@[simp] theorem State.setLaunch_mem (n : BitVec 32) (l : Launch) : (s.setLaunch n l).mem = s.mem := rfl
@[simp] theorem State.setLaunch_ctxs (n : BitVec 32) (l : Launch) : (s.setLaunch n l).ctxs = s.ctxs := rfl
@[simp] theorem State.setLaunch_chain (n : BitVec 32) (l : Launch) : (s.setLaunch n l).chain = s.chain := rfl
@[simp] theorem State.setLaunch_mailbox (n : BitVec 32) (l : Launch) : (s.setLaunch n l).mailbox = s.mailbox := rfl
@[simp] theorem State.setLaunch_frameBase (n : BitVec 32) (l : Launch) : (s.setLaunch n l).frameBase = s.frameBase := rfl
@[simp] theorem State.setLaunch_cadenceBase (n : BitVec 32) (l : Launch) : (s.setLaunch n l).cadenceBase = s.cadenceBase := rfl
@[simp] theorem State.setLaunch_nextReq (n : BitVec 32) (l : Launch) : (s.setLaunch n l).nextReq = s.nextReq := rfl
@[simp] theorem State.setLaunch_nextCmd (n : BitVec 32) (l : Launch) : (s.setLaunch n l).nextCmd = s.nextCmd := rfl
@[simp] theorem State.setLaunch_bad (n : BitVec 32) (l : Launch) : (s.setLaunch n l).bad = s.bad := rfl
@[simp] theorem State.setLaunch_weak (n : BitVec 32) (l : Launch) : (s.setLaunch n l).weak = s.weak := rfl
@[simp] theorem State.setLaunch_refused (n : BitVec 32) (l : Launch) : (s.setLaunch n l).refused = s.refused := rfl
@[simp] theorem State.setLaunch_lateReads (n : BitVec 32) (l : Launch) : (s.setLaunch n l).lateReads = s.lateReads := rfl
@[simp] theorem State.setLaunch_beside (n : BitVec 32) (l : Launch) : (s.setLaunch n l).beside = s.beside := rfl
@[simp] theorem State.setLaunch_outbox (n : BitVec 32) (l : Launch) : (s.setLaunch n l).outbox = s.outbox := rfl
@[simp] theorem State.setLaunch_free (n : BitVec 32) (l : Launch) : (s.setLaunch n l).free = s.free := rfl
@[simp] theorem State.setLaunch_cycles (n : BitVec 32) (l : Launch) : (s.setLaunch n l).cycles = s.cycles := rfl

/-! ### modChain -/

@[simp] theorem State.modChain_cur (f : Chain → Chain) : (s.modChain f).cur = s.cur := rfl
@[simp] theorem State.modChain_agenda (f : Chain → Chain) : (s.modChain f).agenda = s.agenda := rfl
@[simp] theorem State.modChain_inputs (f : Chain → Chain) : (s.modChain f).inputs = s.inputs := rfl
@[simp] theorem State.modChain_seqs (f : Chain → Chain) : (s.modChain f).seqs = s.seqs := rfl
@[simp] theorem State.modChain_strands (f : Chain → Chain) : (s.modChain f).strands = s.strands := rfl
@[simp] theorem State.modChain_clusters (f : Chain → Chain) : (s.modChain f).clusters = s.clusters := rfl
@[simp] theorem State.modChain_dies (f : Chain → Chain) : (s.modChain f).dies = s.dies := rfl
@[simp] theorem State.modChain_islands (f : Chain → Chain) : (s.modChain f).islands = s.islands := rfl
@[simp] theorem State.modChain_mem (f : Chain → Chain) : (s.modChain f).mem = s.mem := rfl
@[simp] theorem State.modChain_sched (f : Chain → Chain) : (s.modChain f).sched = s.sched := rfl
@[simp] theorem State.modChain_ctxs (f : Chain → Chain) : (s.modChain f).ctxs = s.ctxs := rfl
@[simp] theorem State.modChain_mailbox (f : Chain → Chain) : (s.modChain f).mailbox = s.mailbox := rfl
@[simp] theorem State.modChain_frameBase (f : Chain → Chain) : (s.modChain f).frameBase = s.frameBase := rfl
@[simp] theorem State.modChain_cadenceBase (f : Chain → Chain) : (s.modChain f).cadenceBase = s.cadenceBase := rfl
@[simp] theorem State.modChain_nextReq (f : Chain → Chain) : (s.modChain f).nextReq = s.nextReq := rfl
@[simp] theorem State.modChain_nextCmd (f : Chain → Chain) : (s.modChain f).nextCmd = s.nextCmd := rfl
@[simp] theorem State.modChain_bad (f : Chain → Chain) : (s.modChain f).bad = s.bad := rfl
@[simp] theorem State.modChain_weak (f : Chain → Chain) : (s.modChain f).weak = s.weak := rfl
@[simp] theorem State.modChain_refused (f : Chain → Chain) : (s.modChain f).refused = s.refused := rfl
@[simp] theorem State.modChain_lateReads (f : Chain → Chain) : (s.modChain f).lateReads = s.lateReads := rfl
@[simp] theorem State.modChain_beside (f : Chain → Chain) : (s.modChain f).beside = s.beside := rfl
@[simp] theorem State.modChain_outbox (f : Chain → Chain) : (s.modChain f).outbox = s.outbox := rfl
@[simp] theorem State.modChain_free (f : Chain → Chain) : (s.modChain f).free = s.free := rfl
@[simp] theorem State.modChain_cycles (f : Chain → Chain) : (s.modChain f).cycles = s.cycles := rfl

/-! ### modMail -/

@[simp] theorem State.modMail_cur (f : Mailbox → Mailbox) : (s.modMail f).cur = s.cur := rfl
@[simp] theorem State.modMail_agenda (f : Mailbox → Mailbox) : (s.modMail f).agenda = s.agenda := rfl
@[simp] theorem State.modMail_inputs (f : Mailbox → Mailbox) : (s.modMail f).inputs = s.inputs := rfl
@[simp] theorem State.modMail_seqs (f : Mailbox → Mailbox) : (s.modMail f).seqs = s.seqs := rfl
@[simp] theorem State.modMail_strands (f : Mailbox → Mailbox) : (s.modMail f).strands = s.strands := rfl
@[simp] theorem State.modMail_clusters (f : Mailbox → Mailbox) : (s.modMail f).clusters = s.clusters := rfl
@[simp] theorem State.modMail_dies (f : Mailbox → Mailbox) : (s.modMail f).dies = s.dies := rfl
@[simp] theorem State.modMail_islands (f : Mailbox → Mailbox) : (s.modMail f).islands = s.islands := rfl
@[simp] theorem State.modMail_mem (f : Mailbox → Mailbox) : (s.modMail f).mem = s.mem := rfl
@[simp] theorem State.modMail_sched (f : Mailbox → Mailbox) : (s.modMail f).sched = s.sched := rfl
@[simp] theorem State.modMail_ctxs (f : Mailbox → Mailbox) : (s.modMail f).ctxs = s.ctxs := rfl
@[simp] theorem State.modMail_chain (f : Mailbox → Mailbox) : (s.modMail f).chain = s.chain := rfl
@[simp] theorem State.modMail_frameBase (f : Mailbox → Mailbox) : (s.modMail f).frameBase = s.frameBase := rfl
@[simp] theorem State.modMail_cadenceBase (f : Mailbox → Mailbox) : (s.modMail f).cadenceBase = s.cadenceBase := rfl
@[simp] theorem State.modMail_nextReq (f : Mailbox → Mailbox) : (s.modMail f).nextReq = s.nextReq := rfl
@[simp] theorem State.modMail_nextCmd (f : Mailbox → Mailbox) : (s.modMail f).nextCmd = s.nextCmd := rfl
@[simp] theorem State.modMail_bad (f : Mailbox → Mailbox) : (s.modMail f).bad = s.bad := rfl
@[simp] theorem State.modMail_weak (f : Mailbox → Mailbox) : (s.modMail f).weak = s.weak := rfl
@[simp] theorem State.modMail_refused (f : Mailbox → Mailbox) : (s.modMail f).refused = s.refused := rfl
@[simp] theorem State.modMail_lateReads (f : Mailbox → Mailbox) : (s.modMail f).lateReads = s.lateReads := rfl
@[simp] theorem State.modMail_beside (f : Mailbox → Mailbox) : (s.modMail f).beside = s.beside := rfl
@[simp] theorem State.modMail_outbox (f : Mailbox → Mailbox) : (s.modMail f).outbox = s.outbox := rfl
@[simp] theorem State.modMail_free (f : Mailbox → Mailbox) : (s.modMail f).free = s.free := rfl
@[simp] theorem State.modMail_cycles (f : Mailbox → Mailbox) : (s.modMail f).cycles = s.cycles := rfl

/-! ### send -/

@[simp] theorem State.send_cur (o : Out) : (s.send o).cur = s.cur := rfl
@[simp] theorem State.send_agenda (o : Out) : (s.send o).agenda = s.agenda := rfl
@[simp] theorem State.send_inputs (o : Out) : (s.send o).inputs = s.inputs := rfl
@[simp] theorem State.send_seqs (o : Out) : (s.send o).seqs = s.seqs := rfl
@[simp] theorem State.send_strands (o : Out) : (s.send o).strands = s.strands := rfl
@[simp] theorem State.send_clusters (o : Out) : (s.send o).clusters = s.clusters := rfl
@[simp] theorem State.send_dies (o : Out) : (s.send o).dies = s.dies := rfl
@[simp] theorem State.send_islands (o : Out) : (s.send o).islands = s.islands := rfl
@[simp] theorem State.send_mem (o : Out) : (s.send o).mem = s.mem := rfl
@[simp] theorem State.send_sched (o : Out) : (s.send o).sched = s.sched := rfl
@[simp] theorem State.send_ctxs (o : Out) : (s.send o).ctxs = s.ctxs := rfl
@[simp] theorem State.send_chain (o : Out) : (s.send o).chain = s.chain := rfl
@[simp] theorem State.send_mailbox (o : Out) : (s.send o).mailbox = s.mailbox := rfl
@[simp] theorem State.send_frameBase (o : Out) : (s.send o).frameBase = s.frameBase := rfl
@[simp] theorem State.send_cadenceBase (o : Out) : (s.send o).cadenceBase = s.cadenceBase := rfl
@[simp] theorem State.send_nextReq (o : Out) : (s.send o).nextReq = s.nextReq := rfl
@[simp] theorem State.send_nextCmd (o : Out) : (s.send o).nextCmd = s.nextCmd := rfl
@[simp] theorem State.send_bad (o : Out) : (s.send o).bad = s.bad := rfl
@[simp] theorem State.send_weak (o : Out) : (s.send o).weak = s.weak := rfl
@[simp] theorem State.send_refused (o : Out) : (s.send o).refused = s.refused := rfl
@[simp] theorem State.send_lateReads (o : Out) : (s.send o).lateReads = s.lateReads := rfl
@[simp] theorem State.send_beside (o : Out) : (s.send o).beside = s.beside := rfl
@[simp] theorem State.send_free (o : Out) : (s.send o).free = s.free := rfl
@[simp] theorem State.send_cycles (o : Out) : (s.send o).cycles = s.cycles := rfl

/-! ### soon -/

@[simp] theorem State.soon_cur (ts : List Instr) : (s.soon ts).cur = s.cur := rfl
@[simp] theorem State.soon_inputs (ts : List Instr) : (s.soon ts).inputs = s.inputs := rfl
@[simp] theorem State.soon_seqs (ts : List Instr) : (s.soon ts).seqs = s.seqs := rfl
@[simp] theorem State.soon_strands (ts : List Instr) : (s.soon ts).strands = s.strands := rfl
@[simp] theorem State.soon_clusters (ts : List Instr) : (s.soon ts).clusters = s.clusters := rfl
@[simp] theorem State.soon_dies (ts : List Instr) : (s.soon ts).dies = s.dies := rfl
@[simp] theorem State.soon_islands (ts : List Instr) : (s.soon ts).islands = s.islands := rfl
@[simp] theorem State.soon_mem (ts : List Instr) : (s.soon ts).mem = s.mem := rfl
@[simp] theorem State.soon_sched (ts : List Instr) : (s.soon ts).sched = s.sched := rfl
@[simp] theorem State.soon_ctxs (ts : List Instr) : (s.soon ts).ctxs = s.ctxs := rfl
@[simp] theorem State.soon_chain (ts : List Instr) : (s.soon ts).chain = s.chain := rfl
@[simp] theorem State.soon_mailbox (ts : List Instr) : (s.soon ts).mailbox = s.mailbox := rfl
@[simp] theorem State.soon_frameBase (ts : List Instr) : (s.soon ts).frameBase = s.frameBase := rfl
@[simp] theorem State.soon_cadenceBase (ts : List Instr) : (s.soon ts).cadenceBase = s.cadenceBase := rfl
@[simp] theorem State.soon_nextReq (ts : List Instr) : (s.soon ts).nextReq = s.nextReq := rfl
@[simp] theorem State.soon_nextCmd (ts : List Instr) : (s.soon ts).nextCmd = s.nextCmd := rfl
@[simp] theorem State.soon_bad (ts : List Instr) : (s.soon ts).bad = s.bad := rfl
@[simp] theorem State.soon_weak (ts : List Instr) : (s.soon ts).weak = s.weak := rfl
@[simp] theorem State.soon_refused (ts : List Instr) : (s.soon ts).refused = s.refused := rfl
@[simp] theorem State.soon_lateReads (ts : List Instr) : (s.soon ts).lateReads = s.lateReads := rfl
@[simp] theorem State.soon_beside (ts : List Instr) : (s.soon ts).beside = s.beside := rfl
@[simp] theorem State.soon_outbox (ts : List Instr) : (s.soon ts).outbox = s.outbox := rfl
@[simp] theorem State.soon_free (ts : List Instr) : (s.soon ts).free = s.free := rfl
@[simp] theorem State.soon_cycles (ts : List Instr) : (s.soon ts).cycles = s.cycles := rfl

/-! ### writeMem -/

@[simp] theorem State.writeMem_cur (a : Nat) (bs : List Byte) : (s.writeMem a bs).cur = s.cur := rfl
@[simp] theorem State.writeMem_agenda (a : Nat) (bs : List Byte) : (s.writeMem a bs).agenda = s.agenda := rfl
@[simp] theorem State.writeMem_inputs (a : Nat) (bs : List Byte) : (s.writeMem a bs).inputs = s.inputs := rfl
@[simp] theorem State.writeMem_seqs (a : Nat) (bs : List Byte) : (s.writeMem a bs).seqs = s.seqs := rfl
@[simp] theorem State.writeMem_strands (a : Nat) (bs : List Byte) : (s.writeMem a bs).strands = s.strands := rfl
@[simp] theorem State.writeMem_clusters (a : Nat) (bs : List Byte) : (s.writeMem a bs).clusters = s.clusters := rfl
@[simp] theorem State.writeMem_dies (a : Nat) (bs : List Byte) : (s.writeMem a bs).dies = s.dies := rfl
@[simp] theorem State.writeMem_islands (a : Nat) (bs : List Byte) : (s.writeMem a bs).islands = s.islands := rfl
@[simp] theorem State.writeMem_sched (a : Nat) (bs : List Byte) : (s.writeMem a bs).sched = s.sched := rfl
@[simp] theorem State.writeMem_ctxs (a : Nat) (bs : List Byte) : (s.writeMem a bs).ctxs = s.ctxs := rfl
@[simp] theorem State.writeMem_chain (a : Nat) (bs : List Byte) : (s.writeMem a bs).chain = s.chain := rfl
@[simp] theorem State.writeMem_mailbox (a : Nat) (bs : List Byte) : (s.writeMem a bs).mailbox = s.mailbox := rfl
@[simp] theorem State.writeMem_frameBase (a : Nat) (bs : List Byte) : (s.writeMem a bs).frameBase = s.frameBase := rfl
@[simp] theorem State.writeMem_cadenceBase (a : Nat) (bs : List Byte) : (s.writeMem a bs).cadenceBase = s.cadenceBase := rfl
@[simp] theorem State.writeMem_nextReq (a : Nat) (bs : List Byte) : (s.writeMem a bs).nextReq = s.nextReq := rfl
@[simp] theorem State.writeMem_nextCmd (a : Nat) (bs : List Byte) : (s.writeMem a bs).nextCmd = s.nextCmd := rfl
@[simp] theorem State.writeMem_refused (a : Nat) (bs : List Byte) : (s.writeMem a bs).refused = s.refused := rfl
@[simp] theorem State.writeMem_lateReads (a : Nat) (bs : List Byte) : (s.writeMem a bs).lateReads = s.lateReads := rfl
@[simp] theorem State.writeMem_beside (a : Nat) (bs : List Byte) : (s.writeMem a bs).beside = s.beside := rfl
@[simp] theorem State.writeMem_outbox (a : Nat) (bs : List Byte) : (s.writeMem a bs).outbox = s.outbox := rfl
@[simp] theorem State.writeMem_free (a : Nat) (bs : List Byte) : (s.writeMem a bs).free = s.free := rfl
@[simp] theorem State.writeMem_cycles (a : Nat) (bs : List Byte) : (s.writeMem a bs).cycles = s.cycles := rfl

end Sys2Proof.Machine
end

