-- ==== Sys2Proof/Laws/Tbl.lean ====
section
/-! SUPPORT. Reading and writing a table by key: what a write changes, and that every write keeps the canonical form. -/

namespace Sys2Proof.Machine.Tbl

variable {α : Type}

/-! ### Reading after a write -/

theorem get_erase_self (d : α) (t : Tbl α) (k : Nat) : get d (erase t k) k = d := by
  induction t with
  | nil => rfl
  | cons p t ih =>
    obtain ⟨j, v⟩ := p
    by_cases h : j = k
    · simpa [erase, h] using ih
    · simp only [erase, List.filter_cons, bne_iff_ne, ne_eq, h, not_false_eq_true, ↓reduceIte, get]
      exact ih

theorem get_erase_other (d : α) (t : Tbl α) {k j : Nat} (h : k ≠ j) : get d (erase t k) j = get d t j := by
  induction t with
  | nil => rfl
  | cons p t ih =>
    obtain ⟨a, v⟩ := p
    by_cases hk : a = k
    · subst hk
      simp only [erase, List.filter_cons, bne_self_eq_false, Bool.false_eq_true, ↓reduceIte, get, h]
      exact ih
    · simp only [erase, List.filter_cons, bne_iff_ne, ne_eq, hk, not_false_eq_true, ↓reduceIte, get]
      by_cases hj : a = j
      · simp [hj]
      · simp only [hj, ↓reduceIte]
        exact ih

theorem get_insert_other (d : α) (t : Tbl α) (v : α) {k j : Nat} (h : k ≠ j) :
    get d (insert k v t) j = get d t j := by
  induction t with
  | nil => simp [insert, get, h]
  | cons p t ih =>
    obtain ⟨a, w⟩ := p
    by_cases hk : k < a
    · simp [insert, hk, get, h]
    · by_cases hj : a = j
      · subst hj
        simp only [insert, hk, ↓reduceIte, get]
      · simp only [insert, hk, ↓reduceIte, get, hj]
        exact ih

theorem get_insert_self (d : α) (t : Tbl α) (v : α) (k : Nat) (h : ∀ p ∈ t, p.1 ≠ k) :
    get d (insert k v t) k = v := by
  induction t with
  | nil => simp [insert, get]
  | cons p t ih =>
    obtain ⟨a, w⟩ := p
    have ha : a ≠ k := h (a, w) List.mem_cons_self
    by_cases hk : k < a
    · simp [insert, hk, get]
    · have := ih fun q hq => h q (List.mem_cons_of_mem _ hq)
      simpa [insert, hk, get, ha] using this

theorem erase_no_key (t : Tbl α) (k : Nat) : ∀ p ∈ erase t k, p.1 ≠ k := by
  intro p hp
  simpa using (List.mem_filter.mp hp).2

@[simp] theorem get_put (d : α) (t : Tbl α) (k j : Nat) (v : α) :
    get d (put t k v) j = if k = j then v else get d t j := by
  by_cases h : k = j
  · subst h
    simpa [put] using get_insert_self d _ v k (erase_no_key t k)
  · simp [put, h, get_insert_other d _ v h, get_erase_other d t h]

@[simp] theorem get_set [DecidableEq α] (d : α) (t : Tbl α) (k j : Nat) (v : α) :
    get d (set d t k v) j = if k = j then v else get d t j := by
  unfold set
  by_cases hv : v = d
  · by_cases h : k = j
    · subst h; simp [hv, get_erase_self]
    · simp [hv, h, get_erase_other d t h]
  · by_cases h : k = j
    · subst h
      simpa [hv] using get_insert_self d _ v k (erase_no_key t k)
    · simp [hv, h, get_insert_other d _ v h, get_erase_other d t h]

/-! ### The canonical form -/

/-- Rising keys: every key of the tail is above. -/
theorem wf_cons [DecidableEq α] {d : α} {j : Nat} {v : α} {t : Tbl α} :
    wf d ((j, v) :: t) = true ↔ v ≠ d ∧ (∀ p ∈ t, j < p.1) ∧ wf d t = true := by
  induction t generalizing j v with
  | nil => simp [wf]
  | cons p t ih =>
    obtain ⟨k, w⟩ := p
    rw [wf]
    simp only [Bool.and_eq_true, bne_iff_ne, ne_eq, decide_eq_true_eq]
    constructor
    · rintro ⟨⟨hv, hjk⟩, hw⟩
      refine ⟨hv, ?_, hw⟩
      intro q hq
      rcases List.mem_cons.mp hq with rfl | hq
      · exact hjk
      · exact lt_trans hjk ((ih.mp hw).2.1 q hq)
    · rintro ⟨hv, hlt, hw⟩
      exact ⟨⟨hv, hlt _ List.mem_cons_self⟩, hw⟩

theorem wf_nil [DecidableEq α] {d : α} : wf d ([] : Tbl α) = true := rfl

theorem wf_filter [DecidableEq α] {d : α} (f : Nat × α → Bool) {t : Tbl α} (h : wf d t = true) :
    wf d (t.filter f) = true := by
  induction t with
  | nil => rfl
  | cons p t ih =>
    obtain ⟨j, v⟩ := p
    obtain ⟨hv, hlt, hw⟩ := wf_cons.mp h
    by_cases hf : f (j, v) = true
    · simp only [List.filter_cons, hf, ↓reduceIte]
      exact wf_cons.mpr ⟨hv, fun q hq => hlt q (List.mem_filter.mp hq).1, ih hw⟩
    · simp only [List.filter_cons, hf]
      exact ih hw

theorem wf_append [DecidableEq α] {d : α} {t u : Tbl α} (ht : wf d t = true) (hu : wf d u = true)
    (h : ∀ p ∈ t, ∀ q ∈ u, p.1 < q.1) : wf d (t ++ u) = true := by
  induction t with
  | nil => exact hu
  | cons p t ih =>
    obtain ⟨j, v⟩ := p
    obtain ⟨hv, hlt, hw⟩ := wf_cons.mp ht
    refine wf_cons.mpr ⟨hv, ?_, ih hw fun q hq => h q (List.mem_cons_of_mem _ hq)⟩
    intro q hq
    rcases List.mem_append.mp hq with hq | hq
    · exact hlt q hq
    · exact h (j, v) List.mem_cons_self q hq

/-- The cells of a run are canonical, and lie within the run. -/
theorem wf_cells [DecidableEq α] (d : α) (vs : List α) (k : Nat) :
    wf d (cells d k vs) = true ∧ ∀ p ∈ cells d k vs, k ≤ p.1 ∧ p.1 < k + vs.length := by
  induction vs generalizing k with
  | nil => exact ⟨rfl, by simp [cells]⟩
  | cons v vs ih =>
    obtain ⟨hw, hb⟩ := ih (k + 1)
    by_cases hv : v = d
    · simp only [cells, hv, ↓reduceIte, List.length_cons]
      exact ⟨hw, fun p hp => by have := hb p hp; omega⟩
    · simp only [cells, hv, ↓reduceIte, List.length_cons]
      refine ⟨wf_cons.mpr ⟨hv, fun p hp => by have := hb p hp; omega, hw⟩, ?_⟩
      intro p hp
      rcases List.mem_cons.mp hp with rfl | hp
      · simp
      · have := hb p hp; omega

/-- A run written into a canonical table leaves it canonical. -/
theorem wf_writeRun [DecidableEq α] {d : α} {t : Tbl α} (h : wf d t = true) (k : Nat) (vs : List α) :
    wf d (writeRun d t k vs) = true := by
  obtain ⟨hc, hb⟩ := wf_cells d vs k
  unfold writeRun
  refine wf_append (wf_append (wf_filter _ h) hc ?_) (wf_filter _ h) ?_
  · intro p hp q hq
    have h1 := (List.mem_filter.mp hp).2
    have h2 := hb q hq
    simp only [decide_eq_true_eq] at h1
    omega
  · intro p hp q hq
    have h2 := (List.mem_filter.mp hq).2
    simp only [decide_eq_true_eq] at h2
    rcases List.mem_append.mp hp with hp | hp
    · have h1 := (List.mem_filter.mp hp).2
      simp only [decide_eq_true_eq] at h1
      omega
    · have h1 := hb p hp
      omega

/-! ### Reading after a run is written -/

theorem get_append_left (d : α) (t u : Tbl α) (j : Nat) (h : ∀ p ∈ u, p.1 ≠ j) : get d (t ++ u) j = get d t j := by
  induction t with
  | nil =>
    induction u with
    | nil => rfl
    | cons p u ih =>
      obtain ⟨a, v⟩ := p
      have ha : a ≠ j := h (a, v) List.mem_cons_self
      simpa [get, ha] using ih fun q hq => h q (List.mem_cons_of_mem _ hq)
  | cons p t ih =>
    obtain ⟨a, v⟩ := p
    by_cases ha : a = j
    · simp [get, ha]
    · simpa [get, ha] using ih

theorem get_append_right (d : α) (t u : Tbl α) (j : Nat) (h : ∀ p ∈ t, p.1 ≠ j) : get d (t ++ u) j = get d u j := by
  induction t with
  | nil => rfl
  | cons p t ih =>
    obtain ⟨a, v⟩ := p
    have ha : a ≠ j := h (a, v) List.mem_cons_self
    simpa [get, ha] using ih fun q hq => h q (List.mem_cons_of_mem _ hq)

theorem get_filter (d : α) (t : Tbl α) (f : Nat → Bool) (j : Nat) (h : f j = true) :
    get d (t.filter fun p => f p.1) j = get d t j := by
  induction t with
  | nil => rfl
  | cons p t ih =>
    obtain ⟨a, v⟩ := p
    by_cases ha : a = j
    · subst ha; simp [h, get]
    · by_cases hf : f a = true
      · simpa [hf, get, ha] using ih
      · simpa [hf, get, ha] using ih

theorem get_cells [DecidableEq α] (d : α) (vs : List α) (k j : Nat) :
    get d (cells d k vs) j = if k ≤ j then vs.getD (j - k) d else d := by
  induction vs generalizing k with
  | nil => simp [cells, get]
  | cons v vs ih =>
    have step : get d (cells d (k + 1) vs) j = if k + 1 ≤ j then vs.getD (j - (k + 1)) d else d := ih (k + 1)
    by_cases hv : v = d
    · simp only [cells, hv, ↓reduceIte, step]
      rcases lt_trichotomy j k with h | h | h
      · simp [show ¬ k + 1 ≤ j by omega, show ¬ k ≤ j by omega]
      · subst h; simp
      · obtain ⟨n, rfl⟩ := Nat.exists_eq_add_of_lt h
        simp [show k + 1 ≤ k + n + 1 by omega, show k ≤ k + n + 1 by omega, show k + n + 1 - k = n + 1 by omega,
          show k + n + 1 - (k + 1) = n by omega]
    · simp only [cells, hv, ↓reduceIte, get, step]
      rcases lt_trichotomy j k with h | h | h
      · simp [show ¬ k + 1 ≤ j by omega, show ¬ k ≤ j by omega, show ¬ k = j by omega]
      · subst h; simp
      · obtain ⟨n, rfl⟩ := Nat.exists_eq_add_of_lt h
        simp [show k + 1 ≤ k + n + 1 by omega, show k ≤ k + n + 1 by omega, show k + n + 1 - k = n + 1 by omega,
          show k + n + 1 - (k + 1) = n by omega, show ¬ k = k + n + 1 by omega]

/-- Reading a run is reading each of its keys. -/
theorem readRun_eq (d : α) (t : Tbl α) (k n : Nat) : readRun d t k n = (List.range n).map fun j => get d t (k + j) := by
  unfold readRun
  apply List.map_congr_left
  intro j hj
  have hj' := List.mem_range.mp hj
  exact get_filter d t (fun a => decide (k ≤ a) && decide (a < k + n)) (k + j) (by simp; omega)

/-- A key outside a written run reads as before. -/
theorem get_writeRun_outside [DecidableEq α] (d : α) (t : Tbl α) (k : Nat) (vs : List α) (j : Nat)
    (h : j < k ∨ k + vs.length ≤ j) : get d (writeRun d t k vs) j = get d t j := by
  have hc : ∀ p ∈ cells d k vs, p.1 ≠ j := fun p hp => by have := (wf_cells d vs k).2 p hp; omega
  unfold writeRun
  rcases h with h | h
  · rw [get_append_left, get_append_left _ _ _ _ hc]
    · exact get_filter d t (fun a => decide (a < k)) j (by simpa using h)
    · intro p hp
      have := (List.mem_filter.mp hp).2
      simp only [decide_eq_true_eq] at this
      omega
  · rw [get_append_right]
    · exact get_filter d t (fun a => decide (k + vs.length ≤ a)) j (by simpa using h)
    · intro p hp
      rcases List.mem_append.mp hp with hp | hp
      · have := (List.mem_filter.mp hp).2
        simp only [decide_eq_true_eq] at this
        omega
      · exact hc p hp

/-- A key inside a written run reads as the value written. -/
theorem get_writeRun_inside [DecidableEq α] (d : α) (t : Tbl α) (k : Nat) (vs : List α) (j : Nat)
    (h : k ≤ j ∧ j < k + vs.length) : get d (writeRun d t k vs) j = vs.getD (j - k) d := by
  unfold writeRun
  rw [get_append_left, get_append_right, get_cells]
  · simp [h.1]
  · intro p hp
    have := (List.mem_filter.mp hp).2
    simp only [decide_eq_true_eq] at this
    omega
  · intro p hp
    have := (List.mem_filter.mp hp).2
    simp only [decide_eq_true_eq] at this
    omega

end Sys2Proof.Machine.Tbl
end

