-- ==== Sys2Proof/Laws/Ops.lean ====
section
/-! SUPPORT. One lemma for each shared operation that says what it does: reading a part of the state after it is
written, issuing, landing, taking a trap. -/

namespace Sys2Proof.Machine

/-! ### Reading a part of the state after an update -/

section access
variable (s : State)

@[simp] theorem seqAt_setSeqAt (k j : Nat) (q : Seq) : (s.setSeqAt k q).seqAt j = if k = j then q else s.seqAt j := by
  simp [State.seqAt, State.setSeqAt]

@[simp] theorem seqAt_modSeqAt (k j : Nat) (f : Seq → Seq) :
    (s.modSeqAt k f).seqAt j = if k = j then f (s.seqAt k) else s.seqAt j := by
  simp [State.modSeqAt]

@[simp] theorem seqAt_modSeq (r : SeqRef) (j : Nat) (f : Seq → Seq) :
    (s.modSeq r f).seqAt j = if seqKey r = j then f (s.seq r) else s.seqAt j := by
  simp [State.modSeq, State.seq]

@[simp] theorem seqAt_modMe (j : Nat) (f : Seq → Seq) :
    (s.modMe f).seqAt j = if agentKey s.cur = j then f s.me else s.seqAt j := by
  simp [State.modMe, State.me]

theorem seq_modSeq_self (r : SeqRef) (f : Seq → Seq) : (s.modSeq r f).seq r = f (s.seq r) := by
  simp [State.seq]

@[simp] theorem seqAt_setStrandAt (k j : Nat) (t : Strand) : (s.setStrandAt k t).seqAt j = s.seqAt j := rfl
@[simp] theorem seqAt_modStrand (r : StrandRef) (j : Nat) (f : Strand → Strand) :
    (s.modStrand r f).seqAt j = s.seqAt j := rfl
@[simp] theorem seqAt_setCluster (d c j : Nat) (v : Cluster) : (s.setCluster d c v).seqAt j = s.seqAt j := rfl
@[simp] theorem seqAt_modCluster (d c j : Nat) (f : Cluster → Cluster) :
    (s.modCluster d c f).seqAt j = s.seqAt j := rfl
@[simp] theorem seqAt_setDie (d j : Nat) (v : Die) : (s.setDie d v).seqAt j = s.seqAt j := rfl
@[simp] theorem seqAt_modDie (d j : Nat) (f : Die → Die) : (s.modDie d f).seqAt j = s.seqAt j := rfl
@[simp] theorem seqAt_writeMem (a j : Nat) (bs : List Byte) : (s.writeMem a bs).seqAt j = s.seqAt j := rfl

@[simp] theorem strandAt_setStrandAt (k j : Nat) (t : Strand) :
    (s.setStrandAt k t).strandAt j = if k = j then t else s.strandAt j := by
  simp [State.strandAt, State.setStrandAt]

@[simp] theorem strandAt_modStrand (r : StrandRef) (j : Nat) (f : Strand → Strand) :
    (s.modStrand r f).strandAt j = if stKey r = j then f (s.strand r) else s.strandAt j := by
  simp [State.modStrand, State.strand]

@[simp] theorem strand_modStrand (r u : StrandRef) (f : Strand → Strand) :
    (s.modStrand r f).strand u = if stKey r = stKey u then f (s.strand r) else s.strand u := by
  simp [State.strand]

@[simp] theorem strand_setSeqAt (k : Nat) (q : Seq) (r : StrandRef) : (s.setSeqAt k q).strand r = s.strand r := rfl
@[simp] theorem strand_modSeqAt (k : Nat) (f : Seq → Seq) (r : StrandRef) : (s.modSeqAt k f).strand r = s.strand r :=
  rfl
@[simp] theorem strand_modSeq (q : SeqRef) (f : Seq → Seq) (r : StrandRef) : (s.modSeq q f).strand r = s.strand r :=
  rfl
@[simp] theorem strand_modMe (f : Seq → Seq) (r : StrandRef) : (s.modMe f).strand r = s.strand r := rfl
@[simp] theorem strand_modCluster (d c : Nat) (f : Cluster → Cluster) (r : StrandRef) :
    (s.modCluster d c f).strand r = s.strand r := rfl
@[simp] theorem strand_modDie (d : Nat) (f : Die → Die) (r : StrandRef) : (s.modDie d f).strand r = s.strand r := rfl
@[simp] theorem strand_setDie (d : Nat) (v : Die) (r : StrandRef) : (s.setDie d v).strand r = s.strand r := rfl

@[simp] theorem cluster_setCluster (d c : Nat) (v : Cluster) (d' c' : Nat) :
    (s.setCluster d c v).cluster d' c' = if clKey d c = clKey d' c' then v else s.cluster d' c' := by
  simp [State.cluster, State.setCluster]

@[simp] theorem cluster_modCluster (d c : Nat) (f : Cluster → Cluster) (d' c' : Nat) :
    (s.modCluster d c f).cluster d' c' = if clKey d c = clKey d' c' then f (s.cluster d c) else s.cluster d' c' := by
  simp [State.modCluster]

@[simp] theorem cluster_modSeq (q : SeqRef) (f : Seq → Seq) (d c : Nat) : (s.modSeq q f).cluster d c = s.cluster d c :=
  rfl
@[simp] theorem cluster_modMe (f : Seq → Seq) (d c : Nat) : (s.modMe f).cluster d c = s.cluster d c := rfl
@[simp] theorem cluster_modStrand (r : StrandRef) (f : Strand → Strand) (d c : Nat) :
    (s.modStrand r f).cluster d c = s.cluster d c := rfl
@[simp] theorem cluster_modDie (g : Nat) (f : Die → Die) (d c : Nat) : (s.modDie g f).cluster d c = s.cluster d c := rfl

@[simp] theorem die_setDie (d e : Nat) (v : Die) : (s.setDie d v).die e = if d = e then v else s.die e := by
  simp [State.die, State.setDie]

@[simp] theorem die_modDie (d e : Nat) (f : Die → Die) : (s.modDie d f).die e = if d = e then f (s.die d) else s.die e := by
  simp [State.modDie]

@[simp] theorem die_modSeq (q : SeqRef) (f : Seq → Seq) (d : Nat) : (s.modSeq q f).die d = s.die d := rfl
@[simp] theorem die_modMe (f : Seq → Seq) (d : Nat) : (s.modMe f).die d = s.die d := rfl
@[simp] theorem die_modStrand (r : StrandRef) (f : Strand → Strand) (d : Nat) : (s.modStrand r f).die d = s.die d := rfl
@[simp] theorem die_modCluster (a b : Nat) (f : Cluster → Cluster) (d : Nat) : (s.modCluster a b f).die d = s.die d :=
  rfl

/-! ### The slab -/

/-- A byte that a write covers reads as written. -/
theorem memByte_writeMem_inside (a : Nat) (bs : List Byte) (j : Nat) (h : a ≤ j ∧ j < a + bs.length) :
    (s.writeMem a bs).memByte j = bs.getD (j - a) memDefault :=
  Tbl.get_writeRun_inside _ _ _ _ _ h

/-- Every other byte reads as before. -/
theorem memByte_writeMem_outside (a : Nat) (bs : List Byte) (j : Nat) (h : j < a ∨ a + bs.length ≤ j) :
    (s.writeMem a bs).memByte j = s.memByte j :=
  Tbl.get_writeRun_outside _ _ _ _ _ h

/-- A write keeps the canonical form of memory. -/
theorem wf_writeMem (h : Memory.wf s.mem = true) (a : Nat) (bs : List Byte) :
    Memory.wf (s.writeMem a bs).mem = true :=
  Tbl.wf_writeRun h a bs

/-! ### Registers -/

@[simp] theorem getX_setX (q : Seq) (r j : Reg) (v : Word) :
    (q.setX r v).getX j = if j = 0 then 0 else if r = j then v else q.getX j := by
  unfold Seq.setX Seq.getX
  by_cases hj : j = 0#5
  · simp [hj]
  · by_cases hr : r = 0#5
    · have : ¬ 0#5 = j := fun h => hj h.symm
      simp [hj, hr, this]
    · by_cases h : r = j
      · subst h; simp [hj]
      · have hn : ¬ r.toNat = j.toNat := fun e => h (BitVec.eq_of_toNat_eq e)
        simp [hj, hr, h, hn]

@[simp] theorem setX_p (q : Seq) (r : Reg) (v : Word) : (q.setX r v).p = q.p := by unfold Seq.setX; split <;> rfl
@[simp] theorem setX_b (q : Seq) (r : Reg) (v : Word) : (q.setX r v).b = q.b := by unfold Seq.setX; split <;> rfl
@[simp] theorem setX_pc (q : Seq) (r : Reg) (v : Word) : (q.setX r v).pc = q.pc := by unfold Seq.setX; split <;> rfl
@[simp] theorem setX_flights (q : Seq) (r : Reg) (v : Word) : (q.setX r v).flights = q.flights := by
  unfold Seq.setX; split <;> rfl
@[simp] theorem setP_x (q : Seq) (r : BitVec 3) (v : Bool) : (q.setP r v).x = q.x := by unfold Seq.setP; split <;> rfl
@[simp] theorem setP_b (q : Seq) (r : BitVec 3) (v : Bool) : (q.setP r v).b = q.b := by unfold Seq.setP; split <;> rfl
@[simp] theorem setB_x (q : Seq) (r : BitVec 2) (v : BReg) : (q.setB r v).x = q.x := rfl
@[simp] theorem setB_p (q : Seq) (r : BitVec 2) (v : BReg) : (q.setB r v).p = q.p := rfl

@[simp] theorem getB_setB (q : Seq) (r j : BitVec 2) (v : BReg) :
    (q.setB r v).getB j = if r = j then v else q.getB j := by
  by_cases h : r = j
  · simp [Seq.getB, Seq.setB, h]
  · have hn : ¬ r.toNat = j.toNat := fun e => h (BitVec.eq_of_toNat_eq e)
    simp [Seq.getB, Seq.setB, h, hn]

end access

/-! ### Issuing -/

/-- With nothing to keep it, the first checks of R47 pass. -/
theorem precheck_of_mayIssue {s : State} {r : SeqRef} {i : Instr} {h : Hdr} {k : Option Permit}
    (m : s.mayIssue r i h k = true) : s.precheck i h = none := by
  simp only [State.mayIssue, Bool.and_eq_true, decide_eq_true_eq, beq_iff_eq] at m
  obtain ⟨⟨⟨⟨⟨⟨⟨hc, -⟩, hw⟩, ha⟩, hp⟩, hq⟩, hpq⟩, -⟩ := m
  unfold State.precheck
  simp only [hc, ha, hw, Bool.not_true, Bool.false_eq_true, ↓reduceIte]
  have hp' : (majOf i == 0x36 || majOf i == 0x3B || majOf i == 0x42) = true →
      (s.team? (strandOf r)).any (·.pipe) = true := by
    intro hn
    simpa [needsPipe, hn] using hp
  have hq' : ¬ (h.wq.any (fun q => !s.isConsumer r q)) = true := by
    cases hwq : h.wq with
    | none => simp
    | some q => simp [hwq] at hq; simp [hq.1]
  have hpq' : ¬ (h.pq.any (fun q => !s.isProducer r q)) = true := by
    cases hwq : h.pq with
    | none => simp
    | some q => simp [hwq] at hpq; simp [hpq]
  have hn : ¬ ((majOf i == 0x36 || majOf i == 0x3B || majOf i == 0x42) &&
      !((s.team? (strandOf r)).any (·.pipe))) = true := by
    intro hh
    simp only [Bool.and_eq_true] at hh
    simp [hp' hh.1] at hh
  simp only [hn, hq', hpq', Bool.or_false, Bool.false_eq_true, ↓reduceIte]

/-- The header of an issue condition is its agent. -/
theorem cur_of_mayIssue {s : State} {r : SeqRef} {i : Instr} {h : Hdr} {k : Option Permit}
    (m : s.mayIssue r i h k = true) : s.cur = .seq r := by
  simp only [State.mayIssue, Bool.and_eq_true, decide_eq_true_eq] at m
  exact m.1.1.1.1.1.1.1

theorem cur_of_hubMay {s : State} {d : Nat} {i : Instr} {h : Hdr} (m : s.hubMay d i h = true) : s.cur = .hub d := by
  simp only [State.hubMay, Bool.and_eq_true, decide_eq_true_eq] at m
  exact m.1.1.1.1

/-- What an issue condition says of the strand, permits and tokens. -/
theorem free_of_mayIssue {s : State} {r : SeqRef} {i : Instr} {h : Hdr} {k : Option Permit}
    (m : s.mayIssue r i h k = true) :
    s.acts (strandOf r) = true ∧ s.permitOk r k = true ∧ s.wqReady r h = true := by
  simp only [State.mayIssue, Bool.and_eq_true, decide_eq_true_eq, beq_iff_eq] at m
  obtain ⟨⟨⟨⟨⟨⟨⟨-, hs⟩, -⟩, -⟩, -⟩, hq⟩, -⟩, hk⟩ := m
  refine ⟨by simp [State.acts, hs], hk, ?_⟩
  unfold State.wqReady
  cases hwq : h.wq with
  | none => simp
  | some q => simp_all

/-- A fixed-latency operation that has room in flight is not the ninth. -/
theorem roomy_of {s : State} {r : SeqRef} {p : Plan} (hf : p.fixed = true → s.roomInFlight r = true) :
    (p.fixed && decide (8 ≤ (s.seq r).flights.length)) = false := by
  cases hx : p.fixed with
  | false => rfl
  | true =>
    have := hf hx
    simp only [State.roomInFlight, decide_eq_true_eq] at this
    simp only [Bool.true_and, decide_eq_false_iff_not]
    omega

/-- An instruction whose checks pass and that waits for nothing issues, and its effect is that of `act` from the issued
state. -/
theorem issue_eq {s : State} {r : SeqRef} {i : Instr} {h : Hdr} {p : Plan} {act : State → Res}
    (m : s.mayIssue r i h p.permit = true) (hf : p.fixed = true → s.roomInFlight r = true)
    (he : p.early s = none) (ht : p.tokens = none) (hr : p.room s = none) (hl : p.late s = none) (hd : p.defer = false) :
    s.issue i h p act = act (s.issued r h p.permit) := by
  obtain ⟨hacts, hpm, hw⟩ := free_of_mayIssue m
  unfold State.issue State.issueSeq
  rw [cur_of_mayIssue m]
  simp only [hacts, roomy_of hf, precheck_of_mayIssue m, he, hw, hpm, hr, hl, hd, ht, State.popPlan, Bool.not_true,
    Bool.false_eq_true, Option.isSome_none, Bool.false_and, ↓reduceIte]
  unfold State.issued State.takePermit
  cases p.permit <;> rfl

/-- The same on a hub, whatever its operands hold. -/
theorem issue_hub_eq {s : State} {d : Nat} {i : Instr} {h : Hdr} {p : Plan} {act : State → Res}
    (m : s.hubMay d i h = true) (hr : p.room s = none) :
    s.issue i h p act = act (s.advance h) := by
  simp only [State.hubMay, Bool.and_eq_true, decide_eq_true_eq, beq_iff_eq] at m
  obtain ⟨⟨⟨⟨hc, ha⟩, hw⟩, h1⟩, h2⟩ := m
  have hpre : s.precheck i h = none := by simp [State.precheck, hc, ha, hw, h1, h2]
  unfold State.issue State.issueHub
  rw [hc]
  simp only [hpre, hr]

/-! ### Not issuing -/

/-- A check on words and registers that fails raises its cause, with nothing else changed. -/
theorem issue_trap_early {s : State} {r : SeqRef} {i : Instr} {h : Hdr} {k : Option Permit} {p : Plan}
    {act : State → Res} {c : Cause} (m : s.mayIssue r i h k = true) (hf : s.roomInFlight r = true)
    (he : p.early s = some c) (hm : c ≠ .xlateMiss ∨ p.miss = 0) :
    s.issue i h p act = .next (s.raise r c .i (s.seq r).pc 0 0) := by
  have hd : (if c = .xlateMiss then BitVec.ofNat 64 p.miss else 0) = (0 : Word) := by
    rcases hm with hm | hm <;> simp [hm]
  unfold State.issue State.issueSeq
  simp only [cur_of_mayIssue m, (free_of_mayIssue m).1, roomy_of (p := p) fun _ => hf, precheck_of_mayIssue m, he,
    State.trapHere, hd]
  simp

/-- A check that reads memory and fails raises its cause, with nothing else changed. -/
theorem issue_trap_late {s : State} {r : SeqRef} {i : Instr} {h : Hdr} {p : Plan} {act : State → Res} {c : Cause}
    (m : s.mayIssue r i h p.permit = true) (hf : s.roomInFlight r = true) (he : p.early s = none) (ht : p.tokens = none)
    (hr : p.room s = none) (hl : p.late s = some c) :
    s.issue i h p act = .next (s.raise r c .i (s.seq r).pc 0 0) := by
  obtain ⟨hacts, hpm, hw⟩ := free_of_mayIssue m
  unfold State.issue State.issueSeq
  simp only [cur_of_mayIssue m, hacts, roomy_of (p := p) fun _ => hf, precheck_of_mayIssue m, he, hw, hpm, hr, hl, ht,
    State.trapHere]
  simp

/-- What an instruction waits for before it issues makes its sequencer wait, with nothing else changed. -/
theorem issue_wait {s : State} {r : SeqRef} {i : Instr} {h : Hdr} {p : Plan} {act : State → Res} {w : Wait}
    (m : s.mayIssue r i h p.permit = true) (hf : p.fixed = true → s.roomInFlight r = true) (he : p.early s = none)
    (ht : p.tokens = none) (hr : p.room s = some w) : s.issue i h p act = .next (s.waits r i w) := by
  obtain ⟨hacts, hpm, hw⟩ := free_of_mayIssue m
  unfold State.issue State.issueSeq
  simp only [cur_of_mayIssue m, hacts, roomy_of hf, precheck_of_mayIssue m, he, hw, hpm, hr, ht]
  simp

/-- A deferred instruction takes its permit and leaves WQ and the program counter to its effect. -/
theorem issue_defer {s : State} {r : SeqRef} {i : Instr} {h : Hdr} {p : Plan} {act : State → Res}
    (m : s.mayIssue r i h p.permit = true) (hf : p.fixed = true → s.roomInFlight r = true) (he : p.early s = none)
    (ht : p.tokens = none) (hr : p.room s = none) (hl : p.late s = none) (hd : p.defer = true) :
    s.issue i h p act = act (s.takePermit r p.permit) := by
  obtain ⟨hacts, hpm, hw⟩ := free_of_mayIssue m
  unfold State.issue State.issueSeq
  simp only [cur_of_mayIssue m, hacts, roomy_of hf, precheck_of_mayIssue m, he, hw, hpm, hr, hl, hd, ht]
  simp

/-! ### Instructions that hold their agent (R57, R59) -/

/-- What an instruction that has issued comes to when it ends at once. -/
theorem holdIn_ends {s u : State} {c : Cmd} {w : Wait} {f : State → Cmd → Hold} (e : f s c = .ends u) :
    s.holdIn c w f = .next u := by
  simp [State.holdIn, e]

/-- It holds its agent until then. -/
theorem holdIn_stays {s u : State} {c : Cmd} {w : Wait} {f : State → Cmd → Hold} (e : f s c = .stays u) :
    s.holdIn c w f = .next (u.modMe fun q => { q with wait := some w, held := some c }) := by
  simp [State.holdIn, e]

/-! ### What issuing leaves -/

@[simp] theorem popWq_cur (s : State) (r : SeqRef) (h : Hdr) : (s.popWq r h).cur = s.cur := by
  unfold State.popWq
  split
  · simp only [State.popQ]; split <;> rfl
  · rfl

@[simp] theorem issued_cur (s : State) (r : SeqRef) (h : Hdr) (k : Option Permit) : (s.issued r h k).cur = s.cur := by
  unfold State.issued State.advance
  cases k <;> simp <;> split <;> simp

/-- What `advance` does to the executing sequencer's program counter. -/
theorem me_advance_pc (s : State) (h : Hdr) : (s.advance h).me.pc = s.me.pc + BitVec.ofNat 48 (sizeOf h) := by
  unfold State.advance
  cases hc : s.cur with
  | seq r => simp [State.me, hc]
  | hub d => simp [State.me, hc]

theorem me_popWq_pc (s : State) (r : SeqRef) (h : Hdr) : (s.popWq r h).me.pc = s.me.pc := by
  unfold State.popWq
  split
  · simp only [State.popQ]
    split
    · simp only [State.me, State.modSeq_cur, State.modStrand_cur, seqAt_modSeq, State.seq, seqAt_modStrand, ↓reduceIte]
      split <;> rename_i e <;> simp [e]
    · simp only [State.me, State.modSeq_cur, State.modStrand_cur, seqAt_modSeq, State.seq, seqAt_modStrand]
      split <;> rename_i e <;> simp [e]
  · rfl

/-- The program counter of the instruction that has issued. -/
theorem issuePc_issued {s : State} {r : SeqRef} (hc : s.cur = .seq r) (h : Hdr) (k : Option Permit) :
    (s.issued r h k).issuePc h = (s.seq r).pc := by
  have hm : s.me.pc = (s.seq r).pc := by simp [State.me, hc, State.seq, agentKey]
  unfold State.issuePc State.issued
  rw [me_advance_pc]
  cases k with
  | none => simp only [me_popWq_pc, hm]; simp
  | some c =>
    have : ((s.popWq r h).modCluster r.die r.cl fun v => v.takePermit c).me.pc = (s.popWq r h).me.pc := rfl
    rw [this, me_popWq_pc, hm]; simp

/-- Its place in program order (R63). -/
theorem no_issued {s : State} {r : SeqRef} (hc : s.cur = .seq r) (h : Hdr) (k : Option Permit) :
    (s.issued r h k).me.no = (s.seq r).no + 1 := by
  have hm : (s.popWq r h).me.no = (s.seq r).no := by
    unfold State.popWq
    split
    · simp [State.popQ, State.me, hc, State.seq, agentKey]
    · simp [State.me, hc, State.seq, agentKey]
  have ha (t : State) : (t.advance h).me.no = t.me.no + 1 := by
    unfold State.advance
    cases hc : t.cur <;> simp [State.me, hc]
  unfold State.issued
  rw [ha]
  cases k with
  | none => rw [hm]
  | some c => exact congrArg (· + 1) hm

/-- A fixed-latency operation of a sequencer goes in flight. -/
theorem launchOp_seq {s : State} {r : SeqRef} (hc : s.cur = .seq r) (i : Instr) (h : Hdr) (k : Option Permit)
    (dest : Dest) (lat : Nat) (val o1 o2 o3 : Word) (op : LandOp) :
    (s.issued r h k).launchOp i h dest lat val o1 o2 o3 op
      = .next ((s.issued r h k).inFlight r ⟨(s.seq r).pc, wordOf i 0, modOf i, lat, o1, o2, o3, dest, op, val, 0, h.pq,
          (s.seq r).no + 1⟩) := by
  unfold State.launchOp State.inFlight
  simp only [issued_cur, hc, issuePc_issued hc, no_issued hc]

/-- On a hub its result is there at once. -/
theorem launchOp_hub {s : State} {d : Nat} (hc : s.cur = .hub d) (i : Instr) (h : Hdr) (dest : Dest) (lat : Nat)
    (val o1 o2 o3 : Word) (op : LandOp) :
    (s.advance h).launchOp i h dest lat val o1 o2 o3 op = .next ((s.advance h).resultNow dest val) := by
  have : (s.advance h).cur = .hub d := by simp [State.advance, hc]
  unfold State.launchOp State.resultNow
  simp only [this] <;> cases dest <;> rfl

/-- A fixed-latency instruction lands where its meaning is the launch of one operation. -/
theorem lands_of {i : Instr} {h : Hdr} {k : Option Permit} {d : Dest} {lat : Nat} {v : State → Word}
    (o1 o2 o3 : State → Word)
    (e : ∀ s, exec i s = s.issue i h { fixed := true, permit := k } fun t =>
      t.launchOp i h d lat (v s) (o1 s) (o2 s) (o3 s)) :
    Lands i h k d lat v := by
  constructor
  · intro s r m hr _
    refine ⟨o1 s, o2 s, o3 s, ?_⟩
    rw [e s, issue_eq (p := { fixed := true, permit := k }) m (fun _ => hr) rfl rfl rfl rfl rfl]
    exact launchOp_seq (cur_of_mayIssue m) ..
  · intro s dd m _
    rw [e s, issue_hub_eq m rfl]
    exact launchOp_hub (cur_of_hubMay m) ..

end Sys2Proof.Machine
end

