-- ==== Sys2Proof/Laws/PerInstr.lean ====
section
/-! SUPPORT. For each instruction: from the fields of its words its operands are read back (R43 to R48). -/

set_option Elab.async false

namespace Sys2Proof.Laws

/-! ### Fields laid out and read back -/

theorem fmt_ofCode (f : Fmt) : Fmt.ofCode f.code = some f := by cases f <;> rfl

theorem fmt_ofCode5 (f : Fmt) : Fmt.ofCode5 (f.code.setWidth 5) = some f := by cases f <;> rfl

theorem scope_ofCode (s : Scope) : Scope.ofCode s.code = some s := by cases s <;> rfl

theorem mByte_low (a b : Bool) (rm : RMode) (lo : BitVec 4) : (mByte a b rm lo).setWidth 4 = lo := by
  cases a <;> cases b <;> cases rm <;> revert lo <;> decide

theorem mByte_low2 (a b : Bool) (rm : RMode) (c : Bool) (lo : BitVec 2) :
    (mByte a b rm (lo4 false c lo)).setWidth 2 = lo := by
  cases a <;> cases b <;> cases rm <;> cases c <;> revert lo <;> decide

theorem mByte_rm (a b : Bool) (rm : RMode) (lo : BitVec 4) : RMode.ofCode ((mByte a b rm lo).extractLsb' 4 2) = rm := by
  cases a <;> cases b <;> cases rm <;> revert lo <;> decide

theorem mByte_bit7 (a b : Bool) (rm : RMode) (lo : BitVec 4) : (mByte a b rm lo)[7] = a := by
  cases a <;> cases b <;> cases rm <;> revert lo <;> decide

theorem mByte_bit6 (a b : Bool) (rm : RMode) (lo : BitVec 4) : (mByte a b rm lo)[6] = b := by
  cases a <;> cases b <;> cases rm <;> revert lo <;> decide

theorem mByte_bits (a b : Bool) (rm : RMode) (m3 m2 m1 m0 : Bool) :
    (mByte a b rm (lo4b m3 m2 m1 m0))[3] = m3 ∧ (mByte a b rm (lo4b m3 m2 m1 m0))[2] = m2
      ∧ (mByte a b rm (lo4b m3 m2 m1 m0))[1] = m1 ∧ (mByte a b rm (lo4b m3 m2 m1 m0))[0] = m0 := by
  cases a <;> cases b <;> cases rm <;> revert m3 m2 m1 m0 <;> decide

theorem lo4_bit2 (a b : Bool) (rm : RMode) (c : Bool) (lo : BitVec 2) :
    (mByte a b rm (lo4 false c lo))[2] = c := by
  cases a <;> cases b <;> cases rm <;> cases c <;> revert lo <;> decide

/-- A field of an append, wholly in its low part or wholly in its high part. -/
theorem extract_append_low {m n : Nat} (x : BitVec m) (y : BitVec n) (i w : Nat) (h : i + w ≤ n) :
    (x ++ y).extractLsb' i w = y.extractLsb' i w := by
  apply BitVec.eq_of_getLsbD_eq
  intro j hj
  simp only [BitVec.getLsbD_extractLsb', BitVec.getLsbD_append, hj, decide_true, Bool.true_and]
  rw [if_pos (by omega)]

theorem extract_append_high {m n : Nat} (x : BitVec m) (y : BitVec n) (i w : Nat) (h : n ≤ i) :
    (x ++ y).extractLsb' i w = x.extractLsb' (i - n) w := by
  apply BitVec.eq_of_getLsbD_eq
  intro j hj
  simp only [BitVec.getLsbD_extractLsb', BitVec.getLsbD_append, hj, decide_true, Bool.true_and]
  rw [if_neg (by omega)]
  congr 1
  omega

theorem setWidth_as_extract {n : Nat} (x : BitVec n) (w : Nat) : x.setWidth w = x.extractLsb' 0 w := by
  apply BitVec.eq_of_getLsbD_eq
  intro j hj
  simp [hj]

theorem extract_all {n : Nat} (x : BitVec n) : x.extractLsb' 0 n = x := by
  apply BitVec.eq_of_getLsbD_eq
  intro j hj
  simp [hj]

theorem immT_fields (hi lo : BitVec 8) : (immT hi lo).setWidth 8 = lo ∧ (immT hi lo).extractLsb' 8 8 = hi := by
  unfold immT
  rw [setWidth_as_extract, extract_append_low _ _ _ _ (by omega), extract_append_high _ _ _ _ (by omega)]
  exact ⟨extract_all _, extract_all _⟩

theorem landImm_fields (cnt slot : BitVec 3) (mac : BitVec 6) :
    (landImm cnt slot mac).setWidth 6 = mac ∧ (landImm cnt slot mac).extractLsb' 6 3 = slot
      ∧ (landImm cnt slot mac).extractLsb' 9 3 = cnt := by
  unfold landImm
  refine ⟨?_, ?_, ?_⟩
  · rw [setWidth_as_extract, extract_append_low _ _ _ _ (by omega), extract_all]
  · rw [extract_append_high _ _ _ _ (by omega), extract_append_low _ _ _ _ (by omega), extract_all]
  · rw [extract_append_high _ _ _ _ (by omega), extract_append_high _ _ _ _ (by omega),
      extract_append_low _ _ _ _ (by omega), extract_all]

theorem vecLit_fields (sb sa sd : BitVec 5) (count : BitVec 16) :
    (vecLit sb sa sd count).setWidth 16 = count ∧ (vecLit sb sa sd count).extractLsb' 16 5 = sd
      ∧ (vecLit sb sa sd count).extractLsb' 21 5 = sa ∧ (vecLit sb sa sd count).extractLsb' 26 5 = sb := by
  unfold vecLit
  refine ⟨?_, ?_, ?_, ?_⟩
  · rw [setWidth_as_extract, extract_append_low _ _ _ _ (by omega), extract_all]
  · rw [extract_append_high _ _ _ _ (by omega), extract_append_low _ _ _ _ (by omega), extract_all]
  · rw [extract_append_high _ _ _ _ (by omega), extract_append_high _ _ _ _ (by omega),
      extract_append_low _ _ _ _ (by omega), extract_all]
  · rw [extract_append_high _ _ _ _ (by omega), extract_append_high _ _ _ _ (by omega),
      extract_append_high _ _ _ _ (by omega), extract_append_low _ _ _ _ (by omega), extract_all]

theorem mmaLit_fields (off : BitVec 11) (l : MmaLit) :
    (mmaLit off l).setWidth 6 = l.mac0 ∧ (mmaLit off l).extractLsb' 6 3 = l.slot
      ∧ (mmaLit off l).extractLsb' 9 6 = l.ktm1 ∧ (mmaLit off l).extractLsb' 15 6 = l.ntm1
      ∧ (mmaLit off l).extractLsb' 21 11 = off := by
  unfold mmaLit
  refine ⟨?_, ?_, ?_, ?_, ?_⟩
  · rw [setWidth_as_extract, extract_append_low _ _ _ _ (by omega), extract_all]
  · rw [extract_append_high _ _ _ _ (by omega), extract_append_low _ _ _ _ (by omega), extract_all]
  · rw [extract_append_high _ _ _ _ (by omega), extract_append_high _ _ _ _ (by omega),
      extract_append_low _ _ _ _ (by omega), extract_all]
  · rw [extract_append_high _ _ _ _ (by omega), extract_append_high _ _ _ _ (by omega),
      extract_append_high _ _ _ _ (by omega), extract_append_low _ _ _ _ (by omega), extract_all]
  · rw [extract_append_high _ _ _ _ (by omega), extract_append_high _ _ _ _ (by omega),
      extract_append_high _ _ _ _ (by omega), extract_append_high _ _ _ _ (by omega), extract_all]

/-! ### The family: the operands of a well-formed instruction are read back from the fields of its words -/

/-- Of a well-formed instruction with words, the decoder's candidate is the instruction itself. -/
def Candidate.Statement (i : Instr) : Prop :=
  i.wf = true → ∀ r, i.toRaw = some r → r.candidate = some i

theorem Candidate.add : ∀ a0 a1 a2 a3, Candidate.Statement (.add a0 a1 a2 a3) := by
  intro a0 a1 a2 a3 _ r e
  cases e
  rfl

theorem Candidate.sub : ∀ a0 a1 a2 a3, Candidate.Statement (.sub a0 a1 a2 a3) := by
  intro a0 a1 a2 a3 _ r e
  cases e
  rfl

theorem Candidate.and : ∀ a0 a1 a2 a3, Candidate.Statement (.and a0 a1 a2 a3) := by
  intro a0 a1 a2 a3 _ r e
  cases e
  rfl

theorem Candidate.or : ∀ a0 a1 a2 a3, Candidate.Statement (.or a0 a1 a2 a3) := by
  intro a0 a1 a2 a3 _ r e
  cases e
  rfl

theorem Candidate.xor : ∀ a0 a1 a2 a3, Candidate.Statement (.xor a0 a1 a2 a3) := by
  intro a0 a1 a2 a3 _ r e
  cases e
  rfl

theorem Candidate.andn : ∀ a0 a1 a2 a3, Candidate.Statement (.andn a0 a1 a2 a3) := by
  intro a0 a1 a2 a3 _ r e
  cases e
  rfl

theorem Candidate.shl : ∀ a0 a1 a2 a3, Candidate.Statement (.shl a0 a1 a2 a3) := by
  intro a0 a1 a2 a3 _ r e
  cases e
  rfl

theorem Candidate.shr : ∀ a0 a1 a2 a3, Candidate.Statement (.shr a0 a1 a2 a3) := by
  intro a0 a1 a2 a3 _ r e
  cases e
  rfl

theorem Candidate.sra : ∀ a0 a1 a2 a3, Candidate.Statement (.sra a0 a1 a2 a3) := by
  intro a0 a1 a2 a3 _ r e
  cases e
  rfl

theorem Candidate.rol : ∀ a0 a1 a2 a3, Candidate.Statement (.rol a0 a1 a2 a3) := by
  intro a0 a1 a2 a3 _ r e
  cases e
  rfl

theorem Candidate.min : ∀ a0 a1 a2 a3, Candidate.Statement (.min a0 a1 a2 a3) := by
  intro a0 a1 a2 a3 _ r e
  cases e
  rfl

theorem Candidate.max : ∀ a0 a1 a2 a3, Candidate.Statement (.max a0 a1 a2 a3) := by
  intro a0 a1 a2 a3 _ r e
  cases e
  rfl

theorem Candidate.minu : ∀ a0 a1 a2 a3, Candidate.Statement (.minu a0 a1 a2 a3) := by
  intro a0 a1 a2 a3 _ r e
  cases e
  rfl

theorem Candidate.maxu : ∀ a0 a1 a2 a3, Candidate.Statement (.maxu a0 a1 a2 a3) := by
  intro a0 a1 a2 a3 _ r e
  cases e
  rfl

theorem Candidate.mul : ∀ a0 a1 a2 a3, Candidate.Statement (.mul a0 a1 a2 a3) := by
  intro a0 a1 a2 a3 _ r e
  cases e
  rfl

theorem Candidate.mulh : ∀ a0 a1 a2 a3, Candidate.Statement (.mulh a0 a1 a2 a3) := by
  intro a0 a1 a2 a3 _ r e
  cases e
  rfl

theorem Candidate.mulhu : ∀ a0 a1 a2 a3, Candidate.Statement (.mulhu a0 a1 a2 a3) := by
  intro a0 a1 a2 a3 _ r e
  cases e
  rfl

theorem Candidate.div : ∀ a0 a1 a2 a3, Candidate.Statement (.div a0 a1 a2 a3) := by
  intro a0 a1 a2 a3 _ r e
  cases e
  rfl

theorem Candidate.divu : ∀ a0 a1 a2 a3, Candidate.Statement (.divu a0 a1 a2 a3) := by
  intro a0 a1 a2 a3 _ r e
  cases e
  rfl

theorem Candidate.rem : ∀ a0 a1 a2 a3, Candidate.Statement (.rem a0 a1 a2 a3) := by
  intro a0 a1 a2 a3 _ r e
  cases e
  rfl

theorem Candidate.remu : ∀ a0 a1 a2 a3, Candidate.Statement (.remu a0 a1 a2 a3) := by
  intro a0 a1 a2 a3 _ r e
  cases e
  rfl

theorem Candidate.clz : ∀ a0 a1 a2, Candidate.Statement (.clz a0 a1 a2) := by
  intro a0 a1 a2 _ r e
  cases e
  rfl

theorem Candidate.popc : ∀ a0 a1 a2, Candidate.Statement (.popc a0 a1 a2) := by
  intro a0 a1 a2 _ r e
  cases e
  rfl

theorem Candidate.abs : ∀ a0 a1 a2, Candidate.Statement (.abs a0 a1 a2) := by
  intro a0 a1 a2 _ r e
  cases e
  rfl

theorem Candidate.addi : ∀ a0 a1 a2 a3, Candidate.Statement (.addi a0 a1 a2 a3) := by
  intro a0 a1 a2 a3 _ r e
  cases e
  rfl

theorem Candidate.andi : ∀ a0 a1 a2 a3, Candidate.Statement (.andi a0 a1 a2 a3) := by
  intro a0 a1 a2 a3 _ r e
  cases e
  rfl

theorem Candidate.ori : ∀ a0 a1 a2 a3, Candidate.Statement (.ori a0 a1 a2 a3) := by
  intro a0 a1 a2 a3 _ r e
  cases e
  rfl

theorem Candidate.xori : ∀ a0 a1 a2 a3, Candidate.Statement (.xori a0 a1 a2 a3) := by
  intro a0 a1 a2 a3 _ r e
  cases e
  rfl

theorem Candidate.shli : ∀ a0 a1 a2 a3, Candidate.Statement (.shli a0 a1 a2 a3) := by
  intro a0 a1 a2 a3 _ r e
  cases e
  show ((fun r => some (.shli r.h r.d r.a (r.imm.setWidth 6))) : Raw → Option Instr) _ = _
  simp [raw]

theorem Candidate.shri : ∀ a0 a1 a2 a3, Candidate.Statement (.shri a0 a1 a2 a3) := by
  intro a0 a1 a2 a3 _ r e
  cases e
  show ((fun r => some (.shri r.h r.d r.a (r.imm.setWidth 6))) : Raw → Option Instr) _ = _
  simp [raw]

theorem Candidate.srai : ∀ a0 a1 a2 a3, Candidate.Statement (.srai a0 a1 a2 a3) := by
  intro a0 a1 a2 a3 _ r e
  cases e
  show ((fun r => some (.srai r.h r.d r.a (r.imm.setWidth 6))) : Raw → Option Instr) _ = _
  simp [raw]

theorem Candidate.roli : ∀ a0 a1 a2 a3, Candidate.Statement (.roli a0 a1 a2 a3) := by
  intro a0 a1 a2 a3 _ r e
  cases e
  show ((fun r => some (.roli r.h r.d r.a (r.imm.setWidth 6))) : Raw → Option Instr) _ = _
  simp [raw]

theorem Candidate.mini : ∀ a0 a1 a2 a3, Candidate.Statement (.mini a0 a1 a2 a3) := by
  intro a0 a1 a2 a3 _ r e
  cases e
  rfl

theorem Candidate.maxi : ∀ a0 a1 a2 a3, Candidate.Statement (.maxi a0 a1 a2 a3) := by
  intro a0 a1 a2 a3 _ r e
  cases e
  rfl

theorem Candidate.muli : ∀ a0 a1 a2 a3, Candidate.Statement (.muli a0 a1 a2 a3) := by
  intro a0 a1 a2 a3 _ r e
  cases e
  rfl

theorem Candidate.liz : ∀ a0 a1 a2, Candidate.Statement (.liz a0 a1 a2) := by
  intro a0 a1 a2 _ r e
  cases e
  rfl

theorem Candidate.lis : ∀ a0 a1 a2, Candidate.Statement (.lis a0 a1 a2) := by
  intro a0 a1 a2 _ r e
  cases e
  rfl

theorem Candidate.lih : ∀ a0 a1 a2, Candidate.Statement (.lih a0 a1 a2) := by
  intro a0 a1 a2 _ r e
  cases e
  rfl

theorem Candidate.eq : ∀ a0 a1 a2 a3, Candidate.Statement (.eq a0 a1 a2 a3) := by
  intro a0 a1 a2 a3 _ r e
  cases e
  show ((fun r => some (.eq r.h (r.d.setWidth 3) r.a r.b)) : Raw → Option Instr) _ = _
  simp [raw]

theorem Candidate.ne : ∀ a0 a1 a2 a3, Candidate.Statement (.ne a0 a1 a2 a3) := by
  intro a0 a1 a2 a3 _ r e
  cases e
  show ((fun r => some (.ne r.h (r.d.setWidth 3) r.a r.b)) : Raw → Option Instr) _ = _
  simp [raw]

theorem Candidate.lt : ∀ a0 a1 a2 a3, Candidate.Statement (.lt a0 a1 a2 a3) := by
  intro a0 a1 a2 a3 _ r e
  cases e
  show ((fun r => some (.lt r.h (r.d.setWidth 3) r.a r.b)) : Raw → Option Instr) _ = _
  simp [raw]

theorem Candidate.ltu : ∀ a0 a1 a2 a3, Candidate.Statement (.ltu a0 a1 a2 a3) := by
  intro a0 a1 a2 a3 _ r e
  cases e
  show ((fun r => some (.ltu r.h (r.d.setWidth 3) r.a r.b)) : Raw → Option Instr) _ = _
  simp [raw]

theorem Candidate.ge : ∀ a0 a1 a2 a3, Candidate.Statement (.ge a0 a1 a2 a3) := by
  intro a0 a1 a2 a3 _ r e
  cases e
  show ((fun r => some (.ge r.h (r.d.setWidth 3) r.a r.b)) : Raw → Option Instr) _ = _
  simp [raw]

theorem Candidate.geu : ∀ a0 a1 a2 a3, Candidate.Statement (.geu a0 a1 a2 a3) := by
  intro a0 a1 a2 a3 _ r e
  cases e
  show ((fun r => some (.geu r.h (r.d.setWidth 3) r.a r.b)) : Raw → Option Instr) _ = _
  simp [raw]

theorem Candidate.eqi : ∀ a0 a1 a2 a3, Candidate.Statement (.eqi a0 a1 a2 a3) := by
  intro a0 a1 a2 a3 _ r e
  cases e
  show ((fun r => some (.eqi r.h (r.d.setWidth 3) r.a r.imm)) : Raw → Option Instr) _ = _
  simp [raw]

theorem Candidate.nei : ∀ a0 a1 a2 a3, Candidate.Statement (.nei a0 a1 a2 a3) := by
  intro a0 a1 a2 a3 _ r e
  cases e
  show ((fun r => some (.nei r.h (r.d.setWidth 3) r.a r.imm)) : Raw → Option Instr) _ = _
  simp [raw]

theorem Candidate.lti : ∀ a0 a1 a2 a3, Candidate.Statement (.lti a0 a1 a2 a3) := by
  intro a0 a1 a2 a3 _ r e
  cases e
  show ((fun r => some (.lti r.h (r.d.setWidth 3) r.a r.imm)) : Raw → Option Instr) _ = _
  simp [raw]

theorem Candidate.ltui : ∀ a0 a1 a2 a3, Candidate.Statement (.ltui a0 a1 a2 a3) := by
  intro a0 a1 a2 a3 _ r e
  cases e
  show ((fun r => some (.ltui r.h (r.d.setWidth 3) r.a r.imm)) : Raw → Option Instr) _ = _
  simp [raw]

theorem Candidate.gei : ∀ a0 a1 a2 a3, Candidate.Statement (.gei a0 a1 a2 a3) := by
  intro a0 a1 a2 a3 _ r e
  cases e
  show ((fun r => some (.gei r.h (r.d.setWidth 3) r.a r.imm)) : Raw → Option Instr) _ = _
  simp [raw]

theorem Candidate.geui : ∀ a0 a1 a2 a3, Candidate.Statement (.geui a0 a1 a2 a3) := by
  intro a0 a1 a2 a3 _ r e
  cases e
  show ((fun r => some (.geui r.h (r.d.setWidth 3) r.a r.imm)) : Raw → Option Instr) _ = _
  simp [raw]

theorem Candidate.pand : ∀ a0 a1 a2 a3, Candidate.Statement (.pand a0 a1 a2 a3) := by
  intro a0 a1 a2 a3 _ r e
  cases e
  show ((fun r => some (.pand r.h (r.d.setWidth 3) (r.a.setWidth 3) (r.b.setWidth 3))) : Raw → Option Instr) _ = _
  simp [raw]

theorem Candidate.por : ∀ a0 a1 a2 a3, Candidate.Statement (.por a0 a1 a2 a3) := by
  intro a0 a1 a2 a3 _ r e
  cases e
  show ((fun r => some (.por r.h (r.d.setWidth 3) (r.a.setWidth 3) (r.b.setWidth 3))) : Raw → Option Instr) _ = _
  simp [raw]

theorem Candidate.pxor : ∀ a0 a1 a2 a3, Candidate.Statement (.pxor a0 a1 a2 a3) := by
  intro a0 a1 a2 a3 _ r e
  cases e
  show ((fun r => some (.pxor r.h (r.d.setWidth 3) (r.a.setWidth 3) (r.b.setWidth 3))) : Raw → Option Instr) _ = _
  simp [raw]

theorem Candidate.pnot : ∀ a0 a1 a2, Candidate.Statement (.pnot a0 a1 a2) := by
  intro a0 a1 a2 _ r e
  cases e
  show ((fun r => some (.pnot r.h (r.d.setWidth 3) (r.a.setWidth 3))) : Raw → Option Instr) _ = _
  simp [raw]

theorem Candidate.pmov : ∀ a0 a1 a2, Candidate.Statement (.pmov a0 a1 a2) := by
  intro a0 a1 a2 _ r e
  cases e
  show ((fun r => some (.pmov r.h (r.d.setWidth 3) (r.a.setWidth 3))) : Raw → Option Instr) _ = _
  simp [raw]

theorem Candidate.sel : ∀ a0 a1 a2 a3 a4, Candidate.Statement (.sel a0 a1 a2 a3 a4) := by
  intro a0 a1 a2 a3 a4 _ r e
  cases e
  show ((fun r => some (.sel r.h (r.f.setWidth 3) r.d r.a r.b)) : Raw → Option Instr) _ = _
  simp [raw]

theorem Candidate.ldb : ∀ a0 a1 a2 a3, Candidate.Statement (.ldb a0 a1 a2 a3) := by
  intro a0 a1 a2 a3 _ r e
  cases e
  rfl

theorem Candidate.ldh : ∀ a0 a1 a2 a3, Candidate.Statement (.ldh a0 a1 a2 a3) := by
  intro a0 a1 a2 a3 _ r e
  cases e
  rfl

theorem Candidate.ldw : ∀ a0 a1 a2 a3, Candidate.Statement (.ldw a0 a1 a2 a3) := by
  intro a0 a1 a2 a3 _ r e
  cases e
  rfl

theorem Candidate.ldd : ∀ a0 a1 a2 a3, Candidate.Statement (.ldd a0 a1 a2 a3) := by
  intro a0 a1 a2 a3 _ r e
  cases e
  rfl

theorem Candidate.ldbs : ∀ a0 a1 a2 a3, Candidate.Statement (.ldbs a0 a1 a2 a3) := by
  intro a0 a1 a2 a3 _ r e
  cases e
  rfl

theorem Candidate.ldhs : ∀ a0 a1 a2 a3, Candidate.Statement (.ldhs a0 a1 a2 a3) := by
  intro a0 a1 a2 a3 _ r e
  cases e
  rfl

theorem Candidate.ldws : ∀ a0 a1 a2 a3, Candidate.Statement (.ldws a0 a1 a2 a3) := by
  intro a0 a1 a2 a3 _ r e
  cases e
  rfl

theorem Candidate.stb : ∀ a0 a1 a2 a3, Candidate.Statement (.stb a0 a1 a2 a3) := by
  intro a0 a1 a2 a3 _ r e
  cases e
  rfl

theorem Candidate.sth : ∀ a0 a1 a2 a3, Candidate.Statement (.sth a0 a1 a2 a3) := by
  intro a0 a1 a2 a3 _ r e
  cases e
  rfl

theorem Candidate.stw : ∀ a0 a1 a2 a3, Candidate.Statement (.stw a0 a1 a2 a3) := by
  intro a0 a1 a2 a3 _ r e
  cases e
  rfl

theorem Candidate.std : ∀ a0 a1 a2 a3, Candidate.Statement (.std a0 a1 a2 a3) := by
  intro a0 a1 a2 a3 _ r e
  cases e
  rfl

theorem Candidate.fadd : ∀ a0 a1 a2 a3 a4, Candidate.Statement (.fadd a0 a1 a2 a3 a4) := by
  intro a0 a1 a2 a3 a4 _ r e
  cases e
  show ((fun r => some (.fadd r.h r.d r.a r.b r.rm)) : Raw → Option Instr) _ = _
  simp [raw, Raw.rm, mByte_rm]

theorem Candidate.fsub : ∀ a0 a1 a2 a3 a4, Candidate.Statement (.fsub a0 a1 a2 a3 a4) := by
  intro a0 a1 a2 a3 a4 _ r e
  cases e
  show ((fun r => some (.fsub r.h r.d r.a r.b r.rm)) : Raw → Option Instr) _ = _
  simp [raw, Raw.rm, mByte_rm]

theorem Candidate.fmul : ∀ a0 a1 a2 a3 a4, Candidate.Statement (.fmul a0 a1 a2 a3 a4) := by
  intro a0 a1 a2 a3 a4 _ r e
  cases e
  show ((fun r => some (.fmul r.h r.d r.a r.b r.rm)) : Raw → Option Instr) _ = _
  simp [raw, Raw.rm, mByte_rm]

theorem Candidate.ffma : ∀ a0 a1 a2 a3 a4, Candidate.Statement (.ffma a0 a1 a2 a3 a4) := by
  intro a0 a1 a2 a3 a4 _ r e
  cases e
  show ((fun r => some (.ffma r.h r.d r.a r.b r.rm)) : Raw → Option Instr) _ = _
  simp [raw, Raw.rm, mByte_rm]

theorem Candidate.fmin : ∀ a0 a1 a2 a3, Candidate.Statement (.fmin a0 a1 a2 a3) := by
  intro a0 a1 a2 a3 _ r e
  cases e
  rfl

theorem Candidate.fmax : ∀ a0 a1 a2 a3, Candidate.Statement (.fmax a0 a1 a2 a3) := by
  intro a0 a1 a2 a3 _ r e
  cases e
  rfl

theorem Candidate.fabs : ∀ a0 a1 a2, Candidate.Statement (.fabs a0 a1 a2) := by
  intro a0 a1 a2 _ r e
  cases e
  rfl

theorem Candidate.fneg : ∀ a0 a1 a2, Candidate.Statement (.fneg a0 a1 a2) := by
  intro a0 a1 a2 _ r e
  cases e
  rfl

theorem Candidate.fcmpeq : ∀ a0 a1 a2 a3, Candidate.Statement (.fcmpeq a0 a1 a2 a3) := by
  intro a0 a1 a2 a3 _ r e
  cases e
  rfl

theorem Candidate.fcmplt : ∀ a0 a1 a2 a3, Candidate.Statement (.fcmplt a0 a1 a2 a3) := by
  intro a0 a1 a2 a3 _ r e
  cases e
  rfl

theorem Candidate.fcmple : ∀ a0 a1 a2 a3, Candidate.Statement (.fcmple a0 a1 a2 a3) := by
  intro a0 a1 a2 a3 _ r e
  cases e
  rfl

theorem Candidate.fcvti : ∀ a0 a1 a2 a3, Candidate.Statement (.fcvti a0 a1 a2 a3) := by
  intro a0 a1 a2 a3 _ r e
  cases e
  show ((fun r => some (.fcvti r.h r.d r.a r.rm)) : Raw → Option Instr) _ = _
  simp [raw, Raw.rm, mByte_rm]

theorem Candidate.fcvtf : ∀ a0 a1 a2 a3, Candidate.Statement (.fcvtf a0 a1 a2 a3) := by
  intro a0 a1 a2 a3 _ r e
  cases e
  show ((fun r => some (.fcvtf r.h r.d r.a r.rm)) : Raw → Option Instr) _ = _
  simp [raw, Raw.rm, mByte_rm]

theorem Candidate.exp2 : ∀ a0 a1 a2, Candidate.Statement (.exp2 a0 a1 a2) := by
  intro a0 a1 a2 _ r e
  cases e
  rfl

theorem Candidate.log2 : ∀ a0 a1 a2, Candidate.Statement (.log2 a0 a1 a2) := by
  intro a0 a1 a2 _ r e
  cases e
  rfl

theorem Candidate.rcp : ∀ a0 a1 a2, Candidate.Statement (.rcp a0 a1 a2) := by
  intro a0 a1 a2 _ r e
  cases e
  rfl

theorem Candidate.rsqrt : ∀ a0 a1 a2, Candidate.Statement (.rsqrt a0 a1 a2) := by
  intro a0 a1 a2 _ r e
  cases e
  rfl

theorem Candidate.sqrt : ∀ a0 a1 a2, Candidate.Statement (.sqrt a0 a1 a2) := by
  intro a0 a1 a2 _ r e
  cases e
  rfl

theorem Candidate.tanh : ∀ a0 a1 a2, Candidate.Statement (.tanh a0 a1 a2) := by
  intro a0 a1 a2 _ r e
  cases e
  rfl

theorem Candidate.sin : ∀ a0 a1 a2, Candidate.Statement (.sin a0 a1 a2) := by
  intro a0 a1 a2 _ r e
  cases e
  rfl

theorem Candidate.cos : ∀ a0 a1 a2, Candidate.Statement (.cos a0 a1 a2) := by
  intro a0 a1 a2 _ r e
  cases e
  rfl

theorem Candidate.pbr : ∀ a0 a1 a2, Candidate.Statement (.pbr a0 a1 a2) := by
  intro a0 a1 a2 w r e
  cases a2 <;> cases e <;> simp [Instr.wf, PbrTarget.formOk] at w
  all_goals
    show ((fun r => some (.pbr r.h (r.d.setWidth 2) r.pbr)) : Raw → Option Instr) _ = _
    simp [raw, Raw.pbr, PbrTarget.reg, PbrTarget.imm, PbrTarget.lit, w]

theorem Candidate.brt : ∀ a0 a1 a2, Candidate.Statement (.brt a0 a1 a2) := by
  intro a0 a1 a2 _ r e
  cases e
  show ((fun r => some (.brt r.h (r.d.setWidth 2) (r.a.setWidth 3))) : Raw → Option Instr) _ = _
  simp [raw]

theorem Candidate.brf : ∀ a0 a1 a2, Candidate.Statement (.brf a0 a1 a2) := by
  intro a0 a1 a2 _ r e
  cases e
  show ((fun r => some (.brf r.h (r.d.setWidth 2) (r.a.setWidth 3))) : Raw → Option Instr) _ = _
  simp [raw]

theorem Candidate.bra : ∀ a0 a1, Candidate.Statement (.bra a0 a1) := by
  intro a0 a1 _ r e
  cases e
  show ((fun r => some (.bra r.h (r.d.setWidth 2))) : Raw → Option Instr) _ = _
  simp [raw]

theorem Candidate.call : ∀ a0 a1, Candidate.Statement (.call a0 a1) := by
  intro a0 a1 _ r e
  cases e
  show ((fun r => some (.call r.h (r.d.setWidth 2))) : Raw → Option Instr) _ = _
  simp [raw]

theorem Candidate.ret : ∀ a0, Candidate.Statement (.ret a0) := by
  intro a0 _ r e
  cases e
  rfl

theorem Candidate.endI : ∀ a0, Candidate.Statement (.endI a0) := by
  intro a0 _ r e
  cases e
  rfl

theorem Candidate.yield : ∀ a0, Candidate.Statement (.yield a0) := by
  intro a0 _ r e
  cases e
  rfl

theorem Candidate.nop : ∀ a0, Candidate.Statement (.nop a0) := by
  intro a0 _ r e
  cases e
  rfl

theorem Candidate.brk : ∀ a0, Candidate.Statement (.brk a0) := by
  intro a0 _ r e
  cases e
  rfl

theorem Candidate.tkp : ∀ a0 a1 a2, Candidate.Statement (.tkp a0 a1 a2) := by
  intro a0 a1 a2 _ r e
  cases e
  show ((fun r => some (.tkp r.h (r.d.setWidth 3) r.b)) : Raw → Option Instr) _ = _
  simp [raw]

theorem Candidate.tkw : ∀ a0 a1 a2, Candidate.Statement (.tkw a0 a1 a2) := by
  intro a0 a1 a2 _ r e
  cases e
  show ((fun r => some (.tkw r.h (r.d.setWidth 3) r.b)) : Raw → Option Instr) _ = _
  simp [raw]

theorem Candidate.tkq : ∀ a0 a1 a2, Candidate.Statement (.tkq a0 a1 a2) := by
  intro a0 a1 a2 _ r e
  cases e
  show ((fun r => some (.tkq r.h r.d (r.a.setWidth 3))) : Raw → Option Instr) _ = _
  simp [raw]

theorem Candidate.winit : ∀ a0 a1 a2 a3, Candidate.Statement (.winit a0 a1 a2 a3) := by
  intro a0 a1 a2 a3 _ r e
  cases e
  show ((fun r => some (.winit r.h (r.a.setWidth 4) r.b r.d)) : Raw → Option Instr) _ = _
  simp [raw]

theorem Candidate.wclm : ∀ a0 a1 a2, Candidate.Statement (.wclm a0 a1 a2) := by
  intro a0 a1 a2 _ r e
  cases e
  show ((fun r => some (.wclm r.h r.d (r.a.setWidth 4))) : Raw → Option Instr) _ = _
  simp [raw]

theorem Candidate.wpub : ∀ a0 a1, Candidate.Statement (.wpub a0 a1) := by
  intro a0 a1 _ r e
  cases e
  show ((fun r => some (.wpub r.h (r.a.setWidth 4))) : Raw → Option Instr) _ = _
  simp [raw]

theorem Candidate.wwf : ∀ a0 a1 a2, Candidate.Statement (.wwf a0 a1 a2) := by
  intro a0 a1 a2 _ r e
  cases e
  show ((fun r => some (.wwf r.h r.d (r.a.setWidth 4))) : Raw → Option Instr) _ = _
  simp [raw]

theorem Candidate.wwe : ∀ a0 a1 a2, Candidate.Statement (.wwe a0 a1 a2) := by
  intro a0 a1 a2 _ r e
  cases e
  show ((fun r => some (.wwe r.h r.d (r.a.setWidth 4))) : Raw → Option Instr) _ = _
  simp [raw]

theorem Candidate.wrel : ∀ a0 a1, Candidate.Statement (.wrel a0 a1) := by
  intro a0 a1 _ r e
  cases e
  show ((fun r => some (.wrel r.h (r.a.setWidth 4))) : Raw → Option Instr) _ = _
  simp [raw]

theorem Candidate.phase : ∀ a0 a1, Candidate.Statement (.phase a0 a1) := by
  intro a0 a1 _ r e
  cases e
  show ((fun r => (Scope.ofCode r.a).bind fun scope => some (.phase r.h scope)) : Raw → Option Instr) _ = _
  simp [raw, scope_ofCode, Option.bind_some]

theorem Candidate.fenceE : ∀ a0, Candidate.Statement (.fenceE a0) := by
  intro a0 _ r e
  cases e
  rfl

theorem Candidate.tagb : ∀ a0 a1 a2 a3, Candidate.Statement (.tagb a0 a1 a2 a3) := by
  intro a0 a1 a2 a3 _ r e
  cases e
  show ((fun r => if r.m.getLsbD 0 then some (.tagbClr r.h (r.d.setWidth 2)) else some (.tagb r.h (r.d.setWidth 2) r.a r.b)) : Raw → Option Instr) _ = _
  simp [raw, mByte_bits]

theorem Candidate.tagbClr : ∀ a0 a1, Candidate.Statement (.tagbClr a0 a1) := by
  intro a0 a1 _ r e
  cases e
  show ((fun r => if r.m.getLsbD 0 then some (.tagbClr r.h (r.d.setWidth 2)) else some (.tagb r.h (r.d.setWidth 2) r.a r.b)) : Raw → Option Instr) _ = _
  simp [raw, mByte_bits]

theorem Candidate.wtag : ∀ a0 a1 a2, Candidate.Statement (.wtag a0 a1 a2) := by
  intro a0 a1 a2 _ r e
  cases e
  rfl

theorem Candidate.tagq : ∀ a0 a1 a2 a3, Candidate.Statement (.tagq a0 a1 a2 a3) := by
  intro a0 a1 a2 a3 _ r e
  cases e
  show ((fun r => some (.tagq r.h r.d r.a (r.imm.setWidth 2))) : Raw → Option Instr) _ = _
  simp [raw]

theorem Candidate.tdep : ∀ a0 a1 a2 a3 a4, Candidate.Statement (.tdep a0 a1 a2 a3 a4) := by
  intro a0 a1 a2 a3 a4 _ r e
  cases e
  show ((fun r => some (.tdep r.h (r.m.getLsbD 0) r.d r.a r.b)) : Raw → Option Instr) _ = _
  simp [raw, mByte_bits]

theorem Candidate.tcpy : ∀ a0 a1 a2 a3 a4 a5 a6, Candidate.Statement (.tcpy a0 a1 a2 a3 a4 a5 a6) := by
  intro a0 a1 a2 a3 a4 a5 a6 _ r e
  cases e
  show ((fun r => some (.tcpy r.h (r.m.getLsbD 0) r.d r.a r.b r.imm (r.lit.setWidth 16))) : Raw → Option Instr) _ = _
  simp [raw, mByte_bits]

theorem Candidate.ttak : ∀ a0 a1 a2 a3 a4 a5 a6, Candidate.Statement (.ttak a0 a1 a2 a3 a4 a5 a6) := by
  intro a0 a1 a2 a3 a4 a5 a6 _ r e
  cases e
  show ((fun r => some (.ttak r.h (r.m.getLsbD 0) r.d r.a r.b r.imm (r.lit.setWidth 16))) : Raw → Option Instr) _ = _
  simp [raw, mByte_bits]

theorem Candidate.tcnl : ∀ a0 a1 a2 a3, Candidate.Statement (.tcnl a0 a1 a2 a3) := by
  intro a0 a1 a2 a3 _ r e
  cases e
  rfl

theorem Candidate.cpy : ∀ a0 a1 a2 a3, Candidate.Statement (.cpy a0 a1 a2 a3) := by
  intro a0 a1 a2 a3 _ r e
  cases e
  rfl

theorem Candidate.cpyt : ∀ a0 a1 a2 a3 a4 a5, Candidate.Statement (.cpyt a0 a1 a2 a3 a4 a5) := by
  intro a0 a1 a2 a3 a4 a5 _ r e
  cases e
  show ((fun r => some (.cpyt r.h (r.imm.setWidth 8) (r.imm.extractLsb' 8 8) r.d r.a r.b)) : Raw → Option Instr) _ = _
  simp [raw, immT_fields]

theorem Candidate.gath : ∀ a0 a1 a2 a3 a4 a5 a6, Candidate.Statement (.gath a0 a1 a2 a3 a4 a5 a6) := by
  intro a0 a1 a2 a3 a4 a5 a6 _ r e
  cases e
  show ((fun r => some (.gath r.h (r.m.getLsbD 2) (r.imm.setWidth 8) (r.imm.extractLsb' 8 8) r.d r.a r.b)) : Raw → Option Instr) _ = _
  simp [raw, mByte_bits, immT_fields]

theorem Candidate.scat : ∀ a0 a1 a2 a3 a4 a5 a6, Candidate.Statement (.scat a0 a1 a2 a3 a4 a5 a6) := by
  intro a0 a1 a2 a3 a4 a5 a6 _ r e
  cases e
  show ((fun r => some (.scat r.h (r.m.getLsbD 2) (r.imm.setWidth 8) (r.imm.extractLsb' 8 8) r.d r.a r.b)) : Raw → Option Instr) _ = _
  simp [raw, mByte_bits, immT_fields]

theorem Candidate.cpyx : ∀ a0 a1 a2 a3 a4 a5 a6 a7 a8 a9 a10 a11, Candidate.Statement (.cpyx a0 a1 a2 a3 a4 a5 a6 a7 a8 a9 a10 a11) := by
  intro a0 a1 a2 a3 a4 a5 a6 a7 a8 a9 a10 a11 _ r e
  cases e
  show ((fun r => some (.cpyx r.h (r.m.getLsbD 7) (r.m.getLsbD 6) r.rm (r.m.getLsbD 2) (r.m.getLsbD 1) (r.m.getLsbD 0) (r.imm.setWidth 8) (r.imm.extractLsb' 8 8) r.d r.a r.b)) : Raw → Option Instr) _ = _
  simp [raw, Raw.rm, mByte_rm, mByte_bit7, mByte_bit6, mByte_bits, immT_fields]

theorem Candidate.cpyr : ∀ a0 a1 a2 a3 a4 a5 a6, Candidate.Statement (.cpyr a0 a1 a2 a3 a4 a5 a6) := by
  intro a0 a1 a2 a3 a4 a5 a6 _ r e
  cases e
  show ((fun r => (Fmt.ofCode (r.m.setWidth 4)).bind fun fmt => some (.cpyr r.h (r.m.getLsbD 7) r.rm fmt r.d r.a r.b)) : Raw → Option Instr) _ = _
  simp [raw, Raw.rm, mByte_rm, mByte_low, fmt_ofCode, Option.bind_some, mByte_bit7]

theorem Candidate.land : ∀ a0 a1 a2 a3 a4 a5 a6 a7, Candidate.Statement (.land a0 a1 a2 a3 a4 a5 a6 a7) := by
  intro a0 a1 a2 a3 a4 a5 a6 a7 _ r e
  cases e
  show ((fun r => (Fmt.ofCode (r.m.setWidth 4)).bind fun fmt => some (.land r.h fmt r.d r.a r.b (r.imm.setWidth 6) (r.imm.extractLsb' 6 3) (r.imm.extractLsb' 9 3))) : Raw → Option Instr) _ = _
  simp [raw, mByte_low, fmt_ofCode, Option.bind_some, landImm_fields]

theorem Candidate.fwd : ∀ a0 a1 a2 a3 a4 a5 a6, Candidate.Statement (.fwd a0 a1 a2 a3 a4 a5 a6) := by
  intro a0 a1 a2 a3 a4 a5 a6 _ r e
  cases e
  show ((fun r => some (.fwd r.h (r.m.getLsbD 0) (r.m.getLsbD 1) r.d r.a r.b (r.imm.setWidth 7))) : Raw → Option Instr) _ = _
  simp [raw, mByte_bits]

theorem Candidate.lds : ∀ a0 a1 a2 a3 a4 a5, Candidate.Statement (.lds a0 a1 a2 a3 a4 a5) := by
  intro a0 a1 a2 a3 a4 a5 w r e
  cases a5 <;> cases e <;> simp [Instr.wf, LdsOff.formOk] at w
  all_goals
    show ((fun r => some (.lds r.h (r.m.setWidth 2) (r.m.getLsbD 2) r.d r.a r.ldsOff)) : Raw → Option Instr) _ = _
    simp [raw, Raw.ldsOff, LdsOff.imm16, LdsOff.lit32, mByte_low2, lo4_bit2, w]

theorem Candidate.vadd : ∀ a0 a1 a2 a3 a4 a5 a6 a7, Candidate.Statement (.vadd a0 a1 a2 a3 a4 a5 a6 a7) := by
  intro a0 a1 a2 a3 a4 a5 a6 a7 _ r e
  cases e
  show ((fun r => (Fmt.ofCode (r.m.setWidth 4)).bind fun fmt => some (.vadd r.h fmt r.rm (r.m.getLsbD 6) r.d r.a r.b r.vec3)) : Raw → Option Instr) _ = _
  simp [raw, Raw.rm, mByte_rm, mByte_low, fmt_ofCode, Option.bind_some, mByte_bit6, vecLit_fields, Raw.vec3]

theorem Candidate.vsub : ∀ a0 a1 a2 a3 a4 a5 a6 a7, Candidate.Statement (.vsub a0 a1 a2 a3 a4 a5 a6 a7) := by
  intro a0 a1 a2 a3 a4 a5 a6 a7 _ r e
  cases e
  show ((fun r => (Fmt.ofCode (r.m.setWidth 4)).bind fun fmt => some (.vsub r.h fmt r.rm (r.m.getLsbD 6) r.d r.a r.b r.vec3)) : Raw → Option Instr) _ = _
  simp [raw, Raw.rm, mByte_rm, mByte_low, fmt_ofCode, Option.bind_some, mByte_bit6, vecLit_fields, Raw.vec3]

theorem Candidate.vmul : ∀ a0 a1 a2 a3 a4 a5 a6 a7, Candidate.Statement (.vmul a0 a1 a2 a3 a4 a5 a6 a7) := by
  intro a0 a1 a2 a3 a4 a5 a6 a7 _ r e
  cases e
  show ((fun r => (Fmt.ofCode (r.m.setWidth 4)).bind fun fmt => some (.vmul r.h fmt r.rm (r.m.getLsbD 6) r.d r.a r.b r.vec3)) : Raw → Option Instr) _ = _
  simp [raw, Raw.rm, mByte_rm, mByte_low, fmt_ofCode, Option.bind_some, mByte_bit6, vecLit_fields, Raw.vec3]

theorem Candidate.vmin : ∀ a0 a1 a2 a3 a4 a5 a6 a7, Candidate.Statement (.vmin a0 a1 a2 a3 a4 a5 a6 a7) := by
  intro a0 a1 a2 a3 a4 a5 a6 a7 _ r e
  cases e
  show ((fun r => (Fmt.ofCode (r.m.setWidth 4)).bind fun fmt => some (.vmin r.h fmt r.rm (r.m.getLsbD 6) r.d r.a r.b r.vec3)) : Raw → Option Instr) _ = _
  simp [raw, Raw.rm, mByte_rm, mByte_low, fmt_ofCode, Option.bind_some, mByte_bit6, vecLit_fields, Raw.vec3]

theorem Candidate.vmax : ∀ a0 a1 a2 a3 a4 a5 a6 a7, Candidate.Statement (.vmax a0 a1 a2 a3 a4 a5 a6 a7) := by
  intro a0 a1 a2 a3 a4 a5 a6 a7 _ r e
  cases e
  show ((fun r => (Fmt.ofCode (r.m.setWidth 4)).bind fun fmt => some (.vmax r.h fmt r.rm (r.m.getLsbD 6) r.d r.a r.b r.vec3)) : Raw → Option Instr) _ = _
  simp [raw, Raw.rm, mByte_rm, mByte_low, fmt_ofCode, Option.bind_some, mByte_bit6, vecLit_fields, Raw.vec3]

theorem Candidate.vand : ∀ a0 a1 a2 a3 a4 a5 a6 a7, Candidate.Statement (.vand a0 a1 a2 a3 a4 a5 a6 a7) := by
  intro a0 a1 a2 a3 a4 a5 a6 a7 _ r e
  cases e
  show ((fun r => (Fmt.ofCode (r.m.setWidth 4)).bind fun fmt => some (.vand r.h fmt r.rm (r.m.getLsbD 6) r.d r.a r.b r.vec3)) : Raw → Option Instr) _ = _
  simp [raw, Raw.rm, mByte_rm, mByte_low, fmt_ofCode, Option.bind_some, mByte_bit6, vecLit_fields, Raw.vec3]

theorem Candidate.vor : ∀ a0 a1 a2 a3 a4 a5 a6 a7, Candidate.Statement (.vor a0 a1 a2 a3 a4 a5 a6 a7) := by
  intro a0 a1 a2 a3 a4 a5 a6 a7 _ r e
  cases e
  show ((fun r => (Fmt.ofCode (r.m.setWidth 4)).bind fun fmt => some (.vor r.h fmt r.rm (r.m.getLsbD 6) r.d r.a r.b r.vec3)) : Raw → Option Instr) _ = _
  simp [raw, Raw.rm, mByte_rm, mByte_low, fmt_ofCode, Option.bind_some, mByte_bit6, vecLit_fields, Raw.vec3]

theorem Candidate.vxor : ∀ a0 a1 a2 a3 a4 a5 a6 a7, Candidate.Statement (.vxor a0 a1 a2 a3 a4 a5 a6 a7) := by
  intro a0 a1 a2 a3 a4 a5 a6 a7 _ r e
  cases e
  show ((fun r => (Fmt.ofCode (r.m.setWidth 4)).bind fun fmt => some (.vxor r.h fmt r.rm (r.m.getLsbD 6) r.d r.a r.b r.vec3)) : Raw → Option Instr) _ = _
  simp [raw, Raw.rm, mByte_rm, mByte_low, fmt_ofCode, Option.bind_some, mByte_bit6, vecLit_fields, Raw.vec3]

theorem Candidate.vshl : ∀ a0 a1 a2 a3 a4 a5 a6 a7, Candidate.Statement (.vshl a0 a1 a2 a3 a4 a5 a6 a7) := by
  intro a0 a1 a2 a3 a4 a5 a6 a7 _ r e
  cases e
  show ((fun r => (Fmt.ofCode (r.m.setWidth 4)).bind fun fmt => some (.vshl r.h fmt r.rm (r.m.getLsbD 6) r.d r.a r.b r.vec3)) : Raw → Option Instr) _ = _
  simp [raw, Raw.rm, mByte_rm, mByte_low, fmt_ofCode, Option.bind_some, mByte_bit6, vecLit_fields, Raw.vec3]

theorem Candidate.vshr : ∀ a0 a1 a2 a3 a4 a5 a6 a7, Candidate.Statement (.vshr a0 a1 a2 a3 a4 a5 a6 a7) := by
  intro a0 a1 a2 a3 a4 a5 a6 a7 _ r e
  cases e
  show ((fun r => (Fmt.ofCode (r.m.setWidth 4)).bind fun fmt => some (.vshr r.h fmt r.rm (r.m.getLsbD 6) r.d r.a r.b r.vec3)) : Raw → Option Instr) _ = _
  simp [raw, Raw.rm, mByte_rm, mByte_low, fmt_ofCode, Option.bind_some, mByte_bit6, vecLit_fields, Raw.vec3]

theorem Candidate.vfma : ∀ a0 a1 a2 a3 a4 a5 a6 a7, Candidate.Statement (.vfma a0 a1 a2 a3 a4 a5 a6 a7) := by
  intro a0 a1 a2 a3 a4 a5 a6 a7 _ r e
  cases e
  show ((fun r => (Fmt.ofCode (r.m.setWidth 4)).bind fun fmt => some (.vfma r.h fmt r.rm (r.m.getLsbD 6) r.d r.a r.b r.vec3)) : Raw → Option Instr) _ = _
  simp [raw, Raw.rm, mByte_rm, mByte_low, fmt_ofCode, Option.bind_some, mByte_bit6, vecLit_fields, Raw.vec3]

theorem Candidate.vfms : ∀ a0 a1 a2 a3 a4 a5 a6 a7, Candidate.Statement (.vfms a0 a1 a2 a3 a4 a5 a6 a7) := by
  intro a0 a1 a2 a3 a4 a5 a6 a7 _ r e
  cases e
  show ((fun r => (Fmt.ofCode (r.m.setWidth 4)).bind fun fmt => some (.vfms r.h fmt r.rm (r.m.getLsbD 6) r.d r.a r.b r.vec3)) : Raw → Option Instr) _ = _
  simp [raw, Raw.rm, mByte_rm, mByte_low, fmt_ofCode, Option.bind_some, mByte_bit6, vecLit_fields, Raw.vec3]

theorem Candidate.vabs : ∀ a0 a1 a2 a3 a4 a5 a6, Candidate.Statement (.vabs a0 a1 a2 a3 a4 a5 a6) := by
  intro a0 a1 a2 a3 a4 a5 a6 _ r e
  cases e
  show ((fun r => (Fmt.ofCode (r.m.setWidth 4)).bind fun fmt => some (.vabs r.h fmt r.rm (r.m.getLsbD 6) r.d r.a r.vec2)) : Raw → Option Instr) _ = _
  simp [raw, Raw.rm, mByte_rm, mByte_low, fmt_ofCode, Option.bind_some, mByte_bit6, vecLit_fields, Raw.vec2]

theorem Candidate.vneg : ∀ a0 a1 a2 a3 a4 a5 a6, Candidate.Statement (.vneg a0 a1 a2 a3 a4 a5 a6) := by
  intro a0 a1 a2 a3 a4 a5 a6 _ r e
  cases e
  show ((fun r => (Fmt.ofCode (r.m.setWidth 4)).bind fun fmt => some (.vneg r.h fmt r.rm (r.m.getLsbD 6) r.d r.a r.vec2)) : Raw → Option Instr) _ = _
  simp [raw, Raw.rm, mByte_rm, mByte_low, fmt_ofCode, Option.bind_some, mByte_bit6, vecLit_fields, Raw.vec2]

theorem Candidate.vcvt : ∀ a0 a1 a2 a3 a4 a5 a6 a7 a8, Candidate.Statement (.vcvt a0 a1 a2 a3 a4 a5 a6 a7 a8) := by
  intro a0 a1 a2 a3 a4 a5 a6 a7 a8 _ r e
  cases e
  show ((fun r => (Fmt.ofCode (r.m.setWidth 4)).bind fun fmt => (Fmt.ofCode5 (r.lit.extractLsb' 26 5)).bind fun dfmt => some (.vcvt r.h fmt dfmt r.rm (r.m.getLsbD 6) (r.m.getLsbD 7) r.d r.a r.vec2)) : Raw → Option Instr) _ = _
  simp [raw, Raw.rm, mByte_rm, mByte_low, fmt_ofCode, Option.bind_some, fmt_ofCode5, mByte_bit7, mByte_bit6, vecLit_fields, Raw.vec2]

theorem Candidate.vmov : ∀ a0 a1 a2 a3 a4, Candidate.Statement (.vmov a0 a1 a2 a3 a4) := by
  intro a0 a1 a2 a3 a4 _ r e
  cases e
  show ((fun r => (Fmt.ofCode (r.m.setWidth 4)).bind fun fmt => some (.vmov r.h fmt r.d r.a r.vec2)) : Raw → Option Instr) _ = _
  simp [raw, mByte_low, fmt_ofCode, Option.bind_some, vecLit_fields, Raw.vec2]

theorem Candidate.vexp2 : ∀ a0 a1 a2 a3 a4 a5 a6, Candidate.Statement (.vexp2 a0 a1 a2 a3 a4 a5 a6) := by
  intro a0 a1 a2 a3 a4 a5 a6 _ r e
  cases e
  show ((fun r => (Fmt.ofCode (r.m.setWidth 4)).bind fun fmt => some (.vexp2 r.h fmt r.rm (r.m.getLsbD 6) r.d r.a r.vec2)) : Raw → Option Instr) _ = _
  simp [raw, Raw.rm, mByte_rm, mByte_low, fmt_ofCode, Option.bind_some, mByte_bit6, vecLit_fields, Raw.vec2]

theorem Candidate.vlog2 : ∀ a0 a1 a2 a3 a4 a5 a6, Candidate.Statement (.vlog2 a0 a1 a2 a3 a4 a5 a6) := by
  intro a0 a1 a2 a3 a4 a5 a6 _ r e
  cases e
  show ((fun r => (Fmt.ofCode (r.m.setWidth 4)).bind fun fmt => some (.vlog2 r.h fmt r.rm (r.m.getLsbD 6) r.d r.a r.vec2)) : Raw → Option Instr) _ = _
  simp [raw, Raw.rm, mByte_rm, mByte_low, fmt_ofCode, Option.bind_some, mByte_bit6, vecLit_fields, Raw.vec2]

theorem Candidate.vrcp : ∀ a0 a1 a2 a3 a4 a5 a6, Candidate.Statement (.vrcp a0 a1 a2 a3 a4 a5 a6) := by
  intro a0 a1 a2 a3 a4 a5 a6 _ r e
  cases e
  show ((fun r => (Fmt.ofCode (r.m.setWidth 4)).bind fun fmt => some (.vrcp r.h fmt r.rm (r.m.getLsbD 6) r.d r.a r.vec2)) : Raw → Option Instr) _ = _
  simp [raw, Raw.rm, mByte_rm, mByte_low, fmt_ofCode, Option.bind_some, mByte_bit6, vecLit_fields, Raw.vec2]

theorem Candidate.vrsq : ∀ a0 a1 a2 a3 a4 a5 a6, Candidate.Statement (.vrsq a0 a1 a2 a3 a4 a5 a6) := by
  intro a0 a1 a2 a3 a4 a5 a6 _ r e
  cases e
  show ((fun r => (Fmt.ofCode (r.m.setWidth 4)).bind fun fmt => some (.vrsq r.h fmt r.rm (r.m.getLsbD 6) r.d r.a r.vec2)) : Raw → Option Instr) _ = _
  simp [raw, Raw.rm, mByte_rm, mByte_low, fmt_ofCode, Option.bind_some, mByte_bit6, vecLit_fields, Raw.vec2]

theorem Candidate.vtanh : ∀ a0 a1 a2 a3 a4 a5 a6, Candidate.Statement (.vtanh a0 a1 a2 a3 a4 a5 a6) := by
  intro a0 a1 a2 a3 a4 a5 a6 _ r e
  cases e
  show ((fun r => (Fmt.ofCode (r.m.setWidth 4)).bind fun fmt => some (.vtanh r.h fmt r.rm (r.m.getLsbD 6) r.d r.a r.vec2)) : Raw → Option Instr) _ = _
  simp [raw, Raw.rm, mByte_rm, mByte_low, fmt_ofCode, Option.bind_some, mByte_bit6, vecLit_fields, Raw.vec2]

theorem Candidate.vsilu : ∀ a0 a1 a2 a3 a4 a5 a6, Candidate.Statement (.vsilu a0 a1 a2 a3 a4 a5 a6) := by
  intro a0 a1 a2 a3 a4 a5 a6 _ r e
  cases e
  show ((fun r => (Fmt.ofCode (r.m.setWidth 4)).bind fun fmt => some (.vsilu r.h fmt r.rm (r.m.getLsbD 6) r.d r.a r.vec2)) : Raw → Option Instr) _ = _
  simp [raw, Raw.rm, mByte_rm, mByte_low, fmt_ofCode, Option.bind_some, mByte_bit6, vecLit_fields, Raw.vec2]

theorem Candidate.vceq : ∀ a0 a1 a2 a3 a4 a5, Candidate.Statement (.vceq a0 a1 a2 a3 a4 a5) := by
  intro a0 a1 a2 a3 a4 a5 _ r e
  cases e
  show ((fun r => (Fmt.ofCode (r.m.setWidth 4)).bind fun fmt => some (.vceq r.h fmt r.d r.a r.b r.vec3)) : Raw → Option Instr) _ = _
  simp [raw, mByte_low, fmt_ofCode, Option.bind_some, vecLit_fields, Raw.vec3]

theorem Candidate.vclt : ∀ a0 a1 a2 a3 a4 a5, Candidate.Statement (.vclt a0 a1 a2 a3 a4 a5) := by
  intro a0 a1 a2 a3 a4 a5 _ r e
  cases e
  show ((fun r => (Fmt.ofCode (r.m.setWidth 4)).bind fun fmt => some (.vclt r.h fmt r.d r.a r.b r.vec3)) : Raw → Option Instr) _ = _
  simp [raw, mByte_low, fmt_ofCode, Option.bind_some, vecLit_fields, Raw.vec3]

theorem Candidate.vcle : ∀ a0 a1 a2 a3 a4 a5, Candidate.Statement (.vcle a0 a1 a2 a3 a4 a5) := by
  intro a0 a1 a2 a3 a4 a5 _ r e
  cases e
  show ((fun r => (Fmt.ofCode (r.m.setWidth 4)).bind fun fmt => some (.vcle r.h fmt r.d r.a r.b r.vec3)) : Raw → Option Instr) _ = _
  simp [raw, mByte_low, fmt_ofCode, Option.bind_some, vecLit_fields, Raw.vec3]

theorem Candidate.vsel : ∀ a0 a1 a2 a3 a4 a5 a6, Candidate.Statement (.vsel a0 a1 a2 a3 a4 a5 a6) := by
  intro a0 a1 a2 a3 a4 a5 a6 _ r e
  cases e
  show ((fun r => (Fmt.ofCode (r.m.setWidth 4)).bind fun fmt => some (.vsel r.h fmt (r.imm.setWidth 15) r.d r.a r.b r.vec3)) : Raw → Option Instr) _ = _
  simp [raw, mByte_low, fmt_ofCode, Option.bind_some, vecLit_fields, Raw.vec3]

theorem Candidate.vrsum : ∀ a0 a1 a2 a3 a4 a5, Candidate.Statement (.vrsum a0 a1 a2 a3 a4 a5) := by
  intro a0 a1 a2 a3 a4 a5 _ r e
  cases e
  show ((fun r => (Fmt.ofCode (r.m.setWidth 4)).bind fun fmt => some (.vrsum r.h fmt r.rm (r.d.setWidth 2) r.a r.vecA)) : Raw → Option Instr) _ = _
  simp [raw, Raw.rm, mByte_rm, mByte_low, fmt_ofCode, Option.bind_some, vecLit_fields, Raw.vecA]

theorem Candidate.vrmax : ∀ a0 a1 a2 a3 a4 a5, Candidate.Statement (.vrmax a0 a1 a2 a3 a4 a5) := by
  intro a0 a1 a2 a3 a4 a5 _ r e
  cases e
  show ((fun r => (Fmt.ofCode (r.m.setWidth 4)).bind fun fmt => some (.vrmax r.h fmt r.rm (r.d.setWidth 2) r.a r.vecA)) : Raw → Option Instr) _ = _
  simp [raw, Raw.rm, mByte_rm, mByte_low, fmt_ofCode, Option.bind_some, vecLit_fields, Raw.vecA]

theorem Candidate.vrmin : ∀ a0 a1 a2 a3 a4 a5, Candidate.Statement (.vrmin a0 a1 a2 a3 a4 a5) := by
  intro a0 a1 a2 a3 a4 a5 _ r e
  cases e
  show ((fun r => (Fmt.ofCode (r.m.setWidth 4)).bind fun fmt => some (.vrmin r.h fmt r.rm (r.d.setWidth 2) r.a r.vecA)) : Raw → Option Instr) _ = _
  simp [raw, Raw.rm, mByte_rm, mByte_low, fmt_ofCode, Option.bind_some, vecLit_fields, Raw.vecA]

theorem Candidate.vpsum : ∀ a0 a1 a2 a3 a4 a5 a6, Candidate.Statement (.vpsum a0 a1 a2 a3 a4 a5 a6) := by
  intro a0 a1 a2 a3 a4 a5 a6 _ r e
  cases e
  show ((fun r => (Fmt.ofCode (r.m.setWidth 4)).bind fun fmt => some (.vpsum r.h fmt r.rm (r.m.getLsbD 6) r.d r.a r.vec2)) : Raw → Option Instr) _ = _
  simp [raw, Raw.rm, mByte_rm, mByte_low, fmt_ofCode, Option.bind_some, mByte_bit6, vecLit_fields, Raw.vec2]

theorem Candidate.vamx : ∀ a0 a1 a2 a3 a4, Candidate.Statement (.vamx a0 a1 a2 a3 a4) := by
  intro a0 a1 a2 a3 a4 _ r e
  cases e
  show ((fun r => (Fmt.ofCode (r.m.setWidth 4)).bind fun fmt => some (.vamx r.h fmt (r.imm.setWidth 8) r.a r.vecA)) : Raw → Option Instr) _ = _
  simp [raw, mByte_low, fmt_ofCode, Option.bind_some, immT_fields, vecLit_fields, Raw.vecA]

theorem Candidate.vfill : ∀ a0 a1 a2 a3 a4, Candidate.Statement (.vfill a0 a1 a2 a3 a4) := by
  intro a0 a1 a2 a3 a4 _ r e
  cases e
  show ((fun r => (Fmt.ofCode (r.m.setWidth 4)).bind fun fmt => some (.vfill r.h fmt r.d r.a r.vecD)) : Raw → Option Instr) _ = _
  simp [raw, mByte_low, fmt_ofCode, Option.bind_some, vecLit_fields, Raw.vecD]

theorem Candidate.vperm : ∀ a0 a1 a2 a3 a4 a5, Candidate.Statement (.vperm a0 a1 a2 a3 a4 a5) := by
  intro a0 a1 a2 a3 a4 a5 _ r e
  cases e
  show ((fun r => (Fmt.ofCode (r.m.setWidth 4)).bind fun fmt => some (.vperm r.h fmt r.d r.a r.b r.vec3)) : Raw → Option Instr) _ = _
  simp [raw, mByte_low, fmt_ofCode, Option.bind_some, vecLit_fields, Raw.vec3]

theorem Candidate.zget : ∀ a0 a1 a2, Candidate.Statement (.zget a0 a1 a2) := by
  intro a0 a1 a2 _ r e
  cases e
  show ((fun r => some (.zget r.h r.d (r.a.setWidth 2))) : Raw → Option Instr) _ = _
  simp [raw]

theorem Candidate.zset : ∀ a0 a1 a2, Candidate.Statement (.zset a0 a1 a2) := by
  intro a0 a1 a2 _ r e
  cases e
  show ((fun r => some (.zset r.h (r.d.setWidth 2) r.a)) : Raw → Option Instr) _ = _
  simp [raw]

theorem Candidate.zclr : ∀ a0 a1, Candidate.Statement (.zclr a0 a1) := by
  intro a0 a1 _ r e
  cases e
  show ((fun r => some (.zclr r.h (r.d.setWidth 2))) : Raw → Option Instr) _ = _
  simp [raw]

theorem Candidate.mma : ∀ a0 a1 a2 a3 a4 a5 a6 a7 a8, Candidate.Statement (.mma a0 a1 a2 a3 a4 a5 a6 a7 a8) := by
  intro a0 a1 a2 a3 a4 a5 a6 a7 a8 _ r e
  cases e
  show ((fun r => some (.mma r.h (r.m.getLsbD 1) (r.m.getLsbD 0) r.rm (r.imm.setWidth 8) (r.imm.extractLsb' 8 8) r.a r.b r.mma)) : Raw → Option Instr) _ = _
  simp [raw, Raw.rm, mByte_rm, mByte_bits, immT_fields, mmaLit_fields, Raw.mma]

theorem Candidate.mmak : ∀ a0 a1 a2 a3 a4 a5 a6 a7 a8 a9 a10, Candidate.Statement (.mmak a0 a1 a2 a3 a4 a5 a6 a7 a8 a9 a10) := by
  intro a0 a1 a2 a3 a4 a5 a6 a7 a8 a9 a10 _ r e
  cases e
  show ((fun r => some (.mmak r.h (r.m.getLsbD 1) (r.m.getLsbD 0) r.rm (r.imm.setWidth 8) (r.imm.extractLsb' 8 8) r.d r.a r.b r.mma (r.lit.extractLsb' 21 11))) : Raw → Option Instr) _ = _
  simp [raw, Raw.rm, mByte_rm, mByte_bits, immT_fields, mmaLit_fields, Raw.mma]

theorem Candidate.aclr : ∀ a0 a1 a2, Candidate.Statement (.aclr a0 a1 a2) := by
  intro a0 a1 a2 _ r e
  cases e
  rfl

theorem Candidate.adrn : ∀ a0 a1 a2 a3 a4 a5 a6 a7 a8 a9 a10, Candidate.Statement (.adrn a0 a1 a2 a3 a4 a5 a6 a7 a8 a9 a10) := by
  intro a0 a1 a2 a3 a4 a5 a6 a7 a8 a9 a10 _ r e
  cases e
  show ((fun r => some (.adrn r.h (r.m.getLsbD 7) (r.m.getLsbD 6) r.rm (r.m.getLsbD 3) (r.m.getLsbD 0) (r.imm.setWidth 8) r.d r.a r.b (r.lit.setWidth 17))) : Raw → Option Instr) _ = _
  simp [raw, Raw.rm, mByte_rm, mByte_bit7, mByte_bit6, mByte_bits, immT_fields]

theorem Candidate.atq : ∀ a0 a1 a2 a3, Candidate.Statement (.atq a0 a1 a2 a3) := by
  intro a0 a1 a2 a3 _ r e
  cases e
  show ((fun r => some (.atq r.h (r.imm.setWidth 8) r.d r.a)) : Raw → Option Instr) _ = _
  simp [raw, immT_fields]

theorem Candidate.ats : ∀ a0 a1 a2 a3 a4, Candidate.Statement (.ats a0 a1 a2 a3 a4) := by
  intro a0 a1 a2 a3 a4 _ r e
  cases e
  show ((fun r => some (.ats r.h (r.imm.setWidth 8) (r.imm.extractLsb' 8 8) r.a r.b)) : Raw → Option Instr) _ = _
  simp [raw, immT_fields]

theorem Candidate.atf : ∀ a0 a1 a2 a3, Candidate.Statement (.atf a0 a1 a2 a3) := by
  intro a0 a1 a2 a3 _ r e
  cases e
  show ((fun r => some (.atf r.h (r.m.getLsbD 0) r.a r.b)) : Raw → Option Instr) _ = _
  simp [raw, mByte_bits]

theorem Candidate.aadd : ∀ a0 a1 a2 a3, Candidate.Statement (.aadd a0 a1 a2 a3) := by
  intro a0 a1 a2 a3 _ r e
  cases e
  show ((fun r => some (.aadd r.h (r.m.getLsbD 0) r.a r.b)) : Raw → Option Instr) _ = _
  simp [raw, mByte_bits]

theorem Candidate.aaddf : ∀ a0 a1 a2 a3 a4, Candidate.Statement (.aaddf a0 a1 a2 a3 a4) := by
  intro a0 a1 a2 a3 a4 _ r e
  cases e
  show ((fun r => some (.aaddf r.h (r.m.getLsbD 0) r.rm r.a r.b)) : Raw → Option Instr) _ = _
  simp [raw, Raw.rm, mByte_rm, mByte_bits]

theorem Candidate.awr : ∀ a0 a1 a2 a3, Candidate.Statement (.awr a0 a1 a2 a3) := by
  intro a0 a1 a2 a3 _ r e
  cases e
  show ((fun r => some (.awr r.h (r.m.getLsbD 0) r.a r.b)) : Raw → Option Instr) _ = _
  simp [raw, mByte_bits]

theorem Candidate.aaddx : ∀ a0 a1 a2 a3 a4, Candidate.Statement (.aaddx a0 a1 a2 a3 a4) := by
  intro a0 a1 a2 a3 a4 _ r e
  cases e
  show ((fun r => some (.aaddx r.h (r.m.getLsbD 0) r.d r.a r.b)) : Raw → Option Instr) _ = _
  simp [raw, mByte_bits]

theorem Candidate.aaddfx : ∀ a0 a1 a2 a3 a4 a5, Candidate.Statement (.aaddfx a0 a1 a2 a3 a4 a5) := by
  intro a0 a1 a2 a3 a4 a5 _ r e
  cases e
  show ((fun r => some (.aaddfx r.h (r.m.getLsbD 0) r.rm r.d r.a r.b)) : Raw → Option Instr) _ = _
  simp [raw, Raw.rm, mByte_rm, mByte_bits]

theorem Candidate.awrx : ∀ a0 a1 a2 a3 a4, Candidate.Statement (.awrx a0 a1 a2 a3 a4) := by
  intro a0 a1 a2 a3 a4 _ r e
  cases e
  show ((fun r => some (.awrx r.h (r.m.getLsbD 0) r.d r.a r.b)) : Raw → Option Instr) _ = _
  simp [raw, mByte_bits]

theorem Candidate.setfid : ∀ a0 a1, Candidate.Statement (.setfid a0 a1) := by
  intro a0 a1 _ r e
  cases e
  show ((fun r => some (.setfid r.h (r.a.setWidth 2))) : Raw → Option Instr) _ = _
  simp [raw]

theorem Candidate.fcrd : ∀ a0 a1 a2, Candidate.Statement (.fcrd a0 a1 a2) := by
  intro a0 a1 a2 _ r e
  cases e
  show ((fun r => some (.fcrd r.h r.d (r.a.setWidth 2))) : Raw → Option Instr) _ = _
  simp [raw]

theorem Candidate.fcclr : ∀ a0 a1, Candidate.Statement (.fcclr a0 a1) := by
  intro a0 a1 _ r e
  cases e
  rfl

theorem Candidate.rwr : ∀ a0 a1 a2 a3, Candidate.Statement (.rwr a0 a1 a2 a3) := by
  intro a0 a1 a2 a3 _ r e
  cases e
  rfl

theorem Candidate.rrd : ∀ a0 a1 a2 a3, Candidate.Statement (.rrd a0 a1 a2 a3) := by
  intro a0 a1 a2 a3 _ r e
  cases e
  rfl

theorem Candidate.rwrr : ∀ a0 a1 a2 a3 a4 a5 a6, Candidate.Statement (.rwrr a0 a1 a2 a3 a4 a5 a6) := by
  intro a0 a1 a2 a3 a4 a5 a6 _ r e
  cases e
  show ((fun r => (Fmt.ofCode (r.m.setWidth 4)).bind fun fmt => some (.rwrr r.h (r.m.getLsbD 7) r.rm fmt r.d r.a r.b)) : Raw → Option Instr) _ = _
  simp [raw, Raw.rm, mByte_rm, mByte_low, fmt_ofCode, Option.bind_some, mByte_bit7]

theorem Candidate.qpost : ∀ a0 a1 a2 a3 a4, Candidate.Statement (.qpost a0 a1 a2 a3 a4) := by
  intro a0 a1 a2 a3 a4 _ r e
  cases e
  show ((fun r => some (.qpost r.h (r.m.getLsbD 0) r.d r.a (r.imm.setWidth 6))) : Raw → Option Instr) _ = _
  simp [raw, mByte_bits]

theorem Candidate.carm : ∀ a0 a1 a2, Candidate.Statement (.carm a0 a1 a2) := by
  intro a0 a1 a2 _ r e
  cases e
  rfl

theorem Candidate.cadd : ∀ a0 a1 a2, Candidate.Statement (.cadd a0 a1 a2) := by
  intro a0 a1 a2 _ r e
  cases e
  rfl

theorem Candidate.cwait : ∀ a0 a1 a2 a3 a4, Candidate.Statement (.cwait a0 a1 a2 a3 a4) := by
  intro a0 a1 a2 a3 a4 _ r e
  cases e
  rfl

theorem Candidate.crd : ∀ a0 a1 a2, Candidate.Statement (.crd a0 a1 a2) := by
  intro a0 a1 a2 _ r e
  cases e
  rfl

theorem Candidate.qslot : ∀ a0 a1 a2 a3 a4, Candidate.Statement (.qslot a0 a1 a2 a3 a4) := by
  intro a0 a1 a2 a3 a4 _ r e
  cases e
  show ((fun r => some (.qslot r.h (r.m.getLsbD 7) (r.m.getLsbD 6) r.a r.b)) : Raw → Option Instr) _ = _
  simp [raw, mByte_bit7, mByte_bit6]

theorem Candidate.csrr : ∀ a0 a1 a2, Candidate.Statement (.csrr a0 a1 a2) := by
  intro a0 a1 a2 _ r e
  cases e
  show ((fun r => some (.csrr r.h r.d (r.imm.setWidth 12))) : Raw → Option Instr) _ = _
  simp [raw]

theorem Candidate.csrw : ∀ a0 a1 a2, Candidate.Statement (.csrw a0 a1 a2) := by
  intro a0 a1 a2 _ r e
  cases e
  show ((fun r => some (.csrw r.h (r.imm.setWidth 12) r.a)) : Raw → Option Instr) _ = _
  simp [raw]

theorem Candidate.trap : ∀ a0 a1 a2, Candidate.Statement (.trap a0 a1 a2) := by
  intro a0 a1 a2 _ r e
  cases e
  rfl

theorem Candidate.eret : ∀ a0 a1, Candidate.Statement (.eret a0 a1) := by
  intro a0 a1 _ r e
  cases e
  rfl

theorem Candidate.tld : ∀ a0 a1 a2 a3, Candidate.Statement (.tld a0 a1 a2 a3) := by
  intro a0 a1 a2 a3 w r e
  cases a3 <;> cases e <;> simp [Instr.wf] at w
  all_goals
    show ((fun r => some (.tld r.h r.d r.b r.idx)) : Raw → Option Instr) _ = _
    simp [raw, Raw.idx, w]

theorem Candidate.tlk : ∀ a0 a1 a2, Candidate.Statement (.tlk a0 a1 a2) := by
  intro a0 a1 a2 _ r e
  cases e
  show ((fun r => some (.tlk r.h r.a (r.imm.getLsbD 0))) : Raw → Option Instr) _ = _
  simp [raw, mByte_bits]

theorem Candidate.tinv : ∀ a0 a1 a2 a3, Candidate.Statement (.tinv a0 a1 a2 a3) := by
  intro a0 a1 a2 a3 _ r e
  cases e
  show ((fun r => some (.tinv r.h r.d r.a (r.imm.setWidth 2))) : Raw → Option Instr) _ = _
  simp [raw]

theorem Candidate.pmld : ∀ a0 a1 a2 a3 a4, Candidate.Statement (.pmld a0 a1 a2 a3 a4) := by
  intro a0 a1 a2 a3 a4 w r e
  cases a4 <;> cases e <;> simp [Instr.wf] at w
  all_goals
    show ((fun r => some (.pmld r.h r.d r.a r.b r.way)) : Raw → Option Instr) _ = _
    simp [raw, Raw.way, w]

theorem Candidate.rply : ∀ a0 a1, Candidate.Statement (.rply a0 a1) := by
  intro a0 a1 _ r e
  cases e
  rfl

theorem Candidate.ctxs : ∀ a0 a1 a2 a3 a4, Candidate.Statement (.ctxs a0 a1 a2 a3 a4) := by
  intro a0 a1 a2 a3 a4 _ r e
  cases e
  show ((fun r => some (.ctxs r.h (r.m.getLsbD 0) r.d r.a r.b)) : Raw → Option Instr) _ = _
  simp [raw, mByte_bits]

theorem Candidate.ctxl : ∀ a0 a1 a2 a3, Candidate.Statement (.ctxl a0 a1 a2 a3) := by
  intro a0 a1 a2 a3 _ r e
  cases e
  rfl

theorem Candidate.tsr : ∀ a0 a1, Candidate.Statement (.tsr a0 a1) := by
  intro a0 a1 _ r e
  cases e
  rfl

theorem Candidate.lnch : ∀ a0 a1 a2 a3 a4, Candidate.Statement (.lnch a0 a1 a2 a3 a4) := by
  intro a0 a1 a2 a3 a4 _ r e
  cases e
  show ((fun r => some (.lnch r.h (r.m.getLsbD 0) r.d r.a (r.imm.setWidth 6))) : Raw → Option Instr) _ = _
  simp [raw, mByte_bits]

theorem Candidate.idle : ∀ a0 a1, Candidate.Statement (.idle a0 a1) := by
  intro a0 a1 _ r e
  cases e
  rfl

theorem Candidate.fixedLatencyLanding : ∀ a0, Candidate.Statement (.fixedLatencyLanding a0) := by
  intro a0 _ _
  nofun

theorem Candidate.waitSatisfied : ∀ a0, Candidate.Statement (.waitSatisfied a0) := by
  intro a0 _ _
  nofun

theorem Candidate.ldsComplete : ∀ a0, Candidate.Statement (.ldsComplete a0) := by
  intro a0 _ _
  nofun

theorem Candidate.copyUnit : ∀ a0, Candidate.Statement (.copyUnit a0) := by
  intro a0 _ _
  nofun

theorem Candidate.vectorUnit : ∀ a0, Candidate.Statement (.vectorUnit a0) := by
  intro a0 _ _
  nofun

theorem Candidate.mmaUnit : ∀ a0, Candidate.Statement (.mmaUnit a0) := by
  intro a0 _ _
  nofun

theorem Candidate.fidRailSwitchDone : ∀ a0 a1, Candidate.Statement (.fidRailSwitchDone a0 a1) := by
  intro a0 a1 _ _
  nofun

theorem Candidate.mmakTargetChoice : ∀ a0, Candidate.Statement (.mmakTargetChoice a0) := by
  intro a0 _ _
  nofun

theorem Candidate.mmakStartTime : ∀ a0, Candidate.Statement (.mmakStartTime a0) := by
  intro a0 _ _
  nofun

theorem Candidate.drainUnit : ∀ a0, Candidate.Statement (.drainUnit a0) := by
  intro a0 _ _
  nofun

theorem Candidate.aclrUnit : ∀ a0, Candidate.Statement (.aclrUnit a0) := by
  intro a0 _ _
  nofun

theorem Candidate.attentionPerform : ∀ a0, Candidate.Statement (.attentionPerform a0) := by
  intro a0 _ _
  nofun

theorem Candidate.landTile : ∀ a0, Candidate.Statement (.landTile a0) := by
  intro a0 _ _
  nofun

theorem Candidate.aatPerformed : ∀ a0, Candidate.Statement (.aatPerformed a0) := by
  intro a0 _ _
  nofun

theorem Candidate.cpyrAdd : ∀ a0, Candidate.Statement (.cpyrAdd a0) := by
  intro a0 _ _
  nofun

theorem Candidate.roundTimeout : ∀ a0, Candidate.Statement (.roundTimeout a0) := by
  intro a0 _ _
  nofun

theorem Candidate.workEntryFire : ∀ a0 a1, Candidate.Statement (.workEntryFire a0 a1) := by
  intro a0 a1 _ _
  nofun

theorem Candidate.workEntryComplete : ∀ a0 a1, Candidate.Statement (.workEntryComplete a0 a1) := by
  intro a0 a1 _ _
  nofun

theorem Candidate.remoteUnitDeadline : ∀ a0 a1, Candidate.Statement (.remoteUnitDeadline a0 a1) := by
  intro a0 a1 _ _
  nofun

theorem Candidate.remoteUnitUnreached : ∀ a0, Candidate.Statement (.remoteUnitUnreached a0) := by
  intro a0 _ _
  nofun

theorem Candidate.tupleTakeService : ∀ a0 a1, Candidate.Statement (.tupleTakeService a0 a1) := by
  intro a0 a1 _ _
  nofun

theorem Candidate.tupleDepositService : ∀ a0 a1, Candidate.Statement (.tupleDepositService a0 a1) := by
  intro a0 a1 _ _
  nofun

theorem Candidate.tupleCancelService : ∀ a0 a1, Candidate.Statement (.tupleCancelService a0 a1) := by
  intro a0 a1 _ _
  nofun

theorem Candidate.tupleParkExpire : ∀ a0 a1, Candidate.Statement (.tupleParkExpire a0 a1) := by
  intro a0 a1 _ _
  nofun

theorem Candidate.tupleComplete : ∀ a0, Candidate.Statement (.tupleComplete a0) := by
  intro a0 _ _
  nofun

theorem Candidate.tupleRemoteTimeout : ∀ a0, Candidate.Statement (.tupleRemoteTimeout a0) := by
  intro a0 _ _
  nofun

theorem Candidate.tupleResend : ∀ a0, Candidate.Statement (.tupleResend a0) := by
  intro a0 _ _
  nofun

theorem Candidate.strandStop : ∀ a0 a1, Candidate.Statement (.strandStop a0 a1) := by
  intro a0 a1 _ _
  nofun

theorem Candidate.preemptRequest : ∀ a0 a1, Candidate.Statement (.preemptRequest a0 a1) := by
  intro a0 a1 _ _
  nofun

theorem Candidate.watchdog : ∀ a0, Candidate.Statement (.watchdog a0) := by
  intro a0 _ _
  nofun

theorem Candidate.launchPass : Candidate.Statement (.launchPass) := by
  intro _ _
  nofun

theorem Candidate.queueAgeing : ∀ a0, Candidate.Statement (.queueAgeing a0) := by
  intro a0 _ _
  nofun

theorem Candidate.teamStart : ∀ a0, Candidate.Statement (.teamStart a0) := by
  intro a0 _ _
  nofun

theorem Candidate.teamRetire : ∀ a0, Candidate.Statement (.teamRetire a0) := by
  intro a0 _ _
  nofun

theorem Candidate.permitRefill : ∀ a0 a1, Candidate.Statement (.permitRefill a0 a1) := by
  intro a0 a1 _ _
  nofun

theorem Candidate.windowBoundary : Candidate.Statement (.windowBoundary) := by
  intro _ _
  nofun

theorem Candidate.memberLost : ∀ a0, Candidate.Statement (.memberLost a0) := by
  intro a0 _ _
  nofun

theorem Candidate.dataFlit : ∀ a0 a1 a2, Candidate.Statement (.dataFlit a0 a1 a2) := by
  intro a0 a1 a2 _ _
  nofun

theorem Candidate.stripeSendStart : ∀ a0, Candidate.Statement (.stripeSendStart a0) := by
  intro a0 _ _
  nofun

theorem Candidate.dwellExpire : ∀ a0 a1, Candidate.Statement (.dwellExpire a0 a1) := by
  intro a0 a1 _ _
  nofun

theorem Candidate.lostStandin : ∀ a0, Candidate.Statement (.lostStandin a0) := by
  intro a0 _ _
  nofun

theorem Candidate.ack : ∀ a0 a1 a2, Candidate.Statement (.ack a0 a1 a2) := by
  intro a0 a1 a2 _ _
  nofun

theorem Candidate.nak : ∀ a0 a1 a2, Candidate.Statement (.nak a0 a1 a2) := by
  intro a0 a1 a2 _ _
  nofun

theorem Candidate.train : ∀ a0 a1, Candidate.Statement (.train a0 a1) := by
  intro a0 a1 _ _
  nofun

theorem Candidate.laneTrainDone : ∀ a0 a1, Candidate.Statement (.laneTrainDone a0 a1) := by
  intro a0 a1 _ _
  nofun

theorem Candidate.bktDecay : ∀ a0 a1, Candidate.Statement (.bktDecay a0 a1) := by
  intro a0 a1 _ _
  nofun

theorem Candidate.laneLos : ∀ a0 a1, Candidate.Statement (.laneLos a0 a1) := by
  intro a0 a1 _ _
  nofun

theorem Candidate.lightReturn : ∀ a0 a1, Candidate.Statement (.lightReturn a0 a1) := by
  intro a0 a1 _ _
  nofun

theorem Candidate.sync : ∀ a0 a1, Candidate.Statement (.sync a0 a1) := by
  intro a0 a1 _ _
  nofun

theorem Candidate.follow : ∀ a0 a1, Candidate.Statement (.follow a0 a1) := by
  intro a0 a1 _ _
  nofun

theorem Candidate.dreq : ∀ a0 a1, Candidate.Statement (.dreq a0 a1) := by
  intro a0 a1 _ _
  nofun

theorem Candidate.drsp : ∀ a0 a1, Candidate.Statement (.drsp a0 a1) := by
  intro a0 a1 _ _
  nofun

theorem Candidate.seghdr : ∀ a0 a1, Candidate.Statement (.seghdr a0 a1) := by
  intro a0 a1 _ _
  nofun

theorem Candidate.freefr : ∀ a0 a1, Candidate.Statement (.freefr a0 a1) := by
  intro a0 a1 _ _
  nofun

theorem Candidate.propose : ∀ a0, Candidate.Statement (.propose a0) := by
  intro a0 _ _
  nofun

theorem Candidate.accept : ∀ a0 a1, Candidate.Statement (.accept a0 a1) := by
  intro a0 a1 _ _
  nofun

theorem Candidate.reject : ∀ a0 a1, Candidate.Statement (.reject a0 a1) := by
  intro a0 a1 _ _
  nofun

theorem Candidate.commit : ∀ a0 a1, Candidate.Statement (.commit a0 a1) := by
  intro a0 a1 _ _
  nofun

theorem Candidate.tspreq : ∀ a0 a1, Candidate.Statement (.tspreq a0 a1) := by
  intro a0 a1 _ _
  nofun

theorem Candidate.tsprsp : ∀ a0 a1, Candidate.Statement (.tsprsp a0 a1) := by
  intro a0 a1 _ _
  nofun

theorem Candidate.wrhdr : ∀ a0 a1 a2, Candidate.Statement (.wrhdr a0 a1 a2) := by
  intro a0 a1 a2 _ _
  nofun

theorem Candidate.wrack : ∀ a0 a1, Candidate.Statement (.wrack a0 a1) := by
  intro a0 a1 _ _
  nofun

theorem Candidate.wrnack : ∀ a0 a1 a2, Candidate.Statement (.wrnack a0 a1 a2) := by
  intro a0 a1 a2 _ _
  nofun

theorem Candidate.rdreq : ∀ a0 a1 a2, Candidate.Statement (.rdreq a0 a1 a2) := by
  intro a0 a1 a2 _ _
  nofun

theorem Candidate.redhdr : ∀ a0 a1 a2, Candidate.Statement (.redhdr a0 a1 a2) := by
  intro a0 a1 a2 _ _
  nofun

theorem Candidate.redgo : ∀ a0, Candidate.Statement (.redgo a0) := by
  intro a0 _ _
  nofun

theorem Candidate.cntadd : ∀ a0 a1 a2, Candidate.Statement (.cntadd a0 a1 a2) := by
  intro a0 a1 a2 _ _
  nofun

theorem Candidate.droopDetect : ∀ a0 a1 a2, Candidate.Statement (.droopDetect a0 a1 a2) := by
  intro a0 a1 a2 _ _
  nofun

theorem Candidate.thermalLimit : ∀ a0 a1, Candidate.Statement (.thermalLimit a0 a1) := by
  intro a0 a1 _ _
  nofun

theorem Candidate.thermalRecover : ∀ a0 a1, Candidate.Statement (.thermalRecover a0 a1) := by
  intro a0 a1 _ _
  nofun

theorem Candidate.logicRailSwitch : ∀ a0 a1, Candidate.Statement (.logicRailSwitch a0 a1) := by
  intro a0 a1 _ _
  nofun

theorem Candidate.scrubRead : ∀ a0, Candidate.Statement (.scrubRead a0) := by
  intro a0 _ _
  nofun

theorem Candidate.coldReset : Candidate.Statement (.coldReset) := by
  intro _ _
  nofun

theorem Candidate.finjWrite : ∀ a0 a1 a2, Candidate.Statement (.finjWrite a0 a1 a2) := by
  intro a0 a1 a2 _ _
  nofun

theorem Candidate.fidthrWrite : ∀ a0 a1 a2, Candidate.Statement (.fidthrWrite a0 a1 a2) := by
  intro a0 a1 a2 _ _
  nofun

theorem Candidate.lfsrseedWrite : ∀ a0 a1 a2, Candidate.Statement (.lfsrseedWrite a0 a1 a2) := by
  intro a0 a1 a2 _ _
  nofun

theorem Candidate.permitWrite : ∀ a0 a1 a2, Candidate.Statement (.permitWrite a0 a1 a2) := by
  intro a0 a1 a2 _ _
  nofun

theorem Candidate.registerWrite : ∀ a0 a1, Candidate.Statement (.registerWrite a0 a1) := by
  intro a0 a1 _ _
  nofun

theorem Candidate.hostBar2Write : ∀ a0 a1, Candidate.Statement (.hostBar2Write a0 a1) := by
  intro a0 a1 _ _
  nofun

theorem Candidate.hostBar2Read : ∀ a0 a1, Candidate.Statement (.hostBar2Read a0 a1) := by
  intro a0 a1 _ _
  nofun

theorem Candidate.submit : Candidate.Statement (.submit) := by
  intro _ _
  nofun

theorem Candidate.abort : Candidate.Statement (.abort) := by
  intro _ _
  nofun

theorem Candidate.region : Candidate.Statement (.region) := by
  intro _ _
  nofun

theorem Candidate.pubkey : Candidate.Statement (.pubkey) := by
  intro _ _
  nofun

theorem Candidate.model : Candidate.Statement (.model) := by
  intro _ _
  nofun

theorem Candidate.attest : Candidate.Statement (.attest) := by
  intro _ _
  nofun

theorem Candidate.contextCreate : Candidate.Statement (.contextCreate) := by
  intro _ _
  nofun

theorem Candidate.contextDestroy : Candidate.Statement (.contextDestroy) := by
  intro _ _
  nofun

theorem Candidate.pages : Candidate.Statement (.pages) := by
  intro _ _
  nofun

theorem Candidate.posmap : Candidate.Statement (.posmap) := by
  intro _ _
  nofun

theorem Candidate.lqcfg : Candidate.Statement (.lqcfg) := by
  intro _ _
  nofun

theorem Candidate.assign : Candidate.Statement (.assign) := by
  intro _ _
  nofun

theorem Candidate.assignRelease : Candidate.Statement (.assignRelease) := by
  intro _ _
  nofun

theorem Candidate.mailboxUnknownCmd : ∀ a0, Candidate.Statement (.mailboxUnknownCmd a0) := by
  intro a0 _ _
  nofun

theorem Candidate.notAnInstruction : ∀ a0, Candidate.Statement (.notAnInstruction a0) := by
  intro a0 _ _
  nofun

theorem Candidate.wtagTimeout : ∀ a0, Candidate.Statement (.wtagTimeout a0) := by
  intro a0 _ _
  nofun

theorem Candidate.cwaitTimeout : ∀ a0, Candidate.Statement (.cwaitTimeout a0) := by
  intro a0 _ _
  nofun

theorem Candidate.unlistedControlFlit : ∀ a0 a1 a2, Candidate.Statement (.unlistedControlFlit a0 a1 a2) := by
  intro a0 a1 a2 _ _
  nofun

theorem Candidate.laneRetuneDone : ∀ a0 a1, Candidate.Statement (.laneRetuneDone a0 a1) := by
  intro a0 a1 _ _
  nofun

theorem Candidate.trimRailPark : ∀ a0 a1 a2, Candidate.Statement (.trimRailPark a0 a1 a2) := by
  intro a0 a1 a2 _ _
  nofun

end Sys2Proof.Laws
end

