-- ==== Sys2Proof/Tests/Slice0.lean ====
section
/-! SUPPORT. Small tests: ill-formed terms that are refused, words written out from the spec's encoding tables, single steps
whose results the spec gives, and, for the statements, states and operands that meet their hypotheses together. -/

set_option maxRecDepth 100000
set_option exponentiation.threshold 1024

namespace Sys2Proof.Tests

open Sys2Proof.Machine

abbrev h32 : Hdr := ⟨false, 0, .w32, none, none⟩
abbrev h64 : Hdr := ⟨false, 0, .w64, none, none⟩
abbrev h96 : Hdr := ⟨false, 0, .w96, none, none⟩

/-- A 64-bit header with `wait q1 post q1`; both ends of q1 are the C sequencer's in the launch below. -/
abbrev hq : Hdr := ⟨false, 0, .w64, some 1, some 1⟩

/-- The same with q3, of the K sequencer. -/
abbrev hk : Hdr := ⟨false, 0, .w64, some 3, some 3⟩

/-! ### Forms that are refused (R44, R45, R48) -/

theorem test_wf_length : (Instr.add h96 1 2 3).wf = false ∧ (Instr.addi h32 1 2 3).wf = false
    ∧ (Instr.liz h64 1 2).wf = false ∧ (Instr.eret h64 1).wf = false ∧ (Instr.cpy h32 1 2 3).wf = false := by decide

theorem test_wf_clause : (Instr.nop ⟨false, 0, .w32, some 1, none⟩).wf = false
    ∧ (Instr.nop ⟨false, 0, .w32, none, some 1⟩).wf = false := by decide

theorem test_wf_literal : (Instr.tcpy h64 false 1 2 3 0 1).wf = false ∧ (Instr.pbr h96 1 (.rel 0)).wf = false
    ∧ (Instr.pbr h64 1 (.abs 2 0)).wf = false ∧ (Instr.lds h64 0 false 1 2 (.lit 0)).wf = false
    ∧ (Instr.mma h64 false false .rne 0 0 1 2 ⟨0, 0, 0, 1⟩).wf = false ∧ (Instr.tld h64 1 2 (some 0)).wf = false
    ∧ (Instr.adrn h64 false false .rne false false 0 1 2 3 1).wf = false ∧ (Instr.pmld h96 1 2 3 none).wf = false := by
  decide

theorem test_wf_field : (Instr.tkp h32 1 0).wf = false ∧ (Instr.lds h64 3 true 1 2 (.imm 0)).wf = false
    ∧ (Instr.fadd h32 1 2 3 .rz).wf = false ∧ (Instr.fwd h64 false false 1 2 3 0).wf = false
    ∧ (Instr.fwd h64 false false 1 2 3 65).wf = false ∧ (Instr.csrr h64 1 0x004).wf = false
    ∧ (Instr.fcrd h32 1 3).wf = false
    ∧ (Instr.vadd h96 .i8 .rz false 1 2 3 ⟨1, 1, 1, 1⟩).wf = false := by decide

theorem test_wf_event : (Instr.copyUnit (.seq ⟨8, 0, 0, .L⟩)).wf = false ∧ (Instr.copyUnit (.seq ⟨0, 54, 0, .L⟩)).wf = false
    ∧ (Instr.copyUnit (.seq ⟨0, 0, 4, .L⟩)).wf = false ∧ (Instr.copyUnit (.seq ⟨7, 53, 3, .K⟩)).wf = true := by decide

/-! ### Words written out from the encoding tables (R43, R44, R48, and each family's own table) -/

abbrev reads (w0 w1 w2 : BitVec 32) (i : Instr) : Prop := decodeWords w0 w1 w2 = .ok i

theorem test_decode_ALU :
    reads 0x01E5D020 0x00000000 0x00000000 (.add h32 29 18 7)
    ∧ reads 0x09E5D020 0x00000000 0x00000000 (.sub h32 29 18 7)
    ∧ reads 0x11E5D020 0x00000000 0x00000000 (.and h32 29 18 7)
    ∧ reads 0x19E5D020 0x00000000 0x00000000 (.or h32 29 18 7)
    ∧ reads 0x21E5D020 0x00000000 0x00000000 (.xor h32 29 18 7)
    ∧ reads 0x29E5D020 0x00000000 0x00000000 (.andn h32 29 18 7)
    ∧ reads 0x31E5D020 0x00000000 0x00000000 (.shl h32 29 18 7)
    ∧ reads 0x39E5D020 0x00000000 0x00000000 (.shr h32 29 18 7)
    ∧ reads 0x41E5D020 0x00000000 0x00000000 (.sra h32 29 18 7)
    ∧ reads 0x49E5D020 0x00000000 0x00000000 (.rol h32 29 18 7)
    ∧ reads 0x51E5D020 0x00000000 0x00000000 (.min h32 29 18 7)
    ∧ reads 0x59E5D020 0x00000000 0x00000000 (.max h32 29 18 7)
    ∧ reads 0x61E5D020 0x00000000 0x00000000 (.minu h32 29 18 7)
    ∧ reads 0x69E5D020 0x00000000 0x00000000 (.maxu h32 29 18 7)
    ∧ reads 0x71E5D020 0x00000000 0x00000000 (.mul h32 29 18 7)
    ∧ reads 0x79E5D020 0x00000000 0x00000000 (.mulh h32 29 18 7)
    ∧ reads 0x81E5D020 0x00000000 0x00000000 (.mulhu h32 29 18 7)
    ∧ reads 0x89E5D020 0x00000000 0x00000000 (.div h32 29 18 7)
    ∧ reads 0x91E5D020 0x00000000 0x00000000 (.divu h32 29 18 7)
    ∧ reads 0x99E5D020 0x00000000 0x00000000 (.rem h32 29 18 7)
    ∧ reads 0xA1E5D020 0x00000000 0x00000000 (.remu h32 29 18 7)
    ∧ reads 0xA825D021 0x00000000 0x00000000 (.clz h64 29 18)
    ∧ reads 0xB025D021 0x00000000 0x00000000 (.popc h64 29 18)
    ∧ reads 0xB825D021 0x00000000 0x00000000 (.abs h64 29 18) := by decide

theorem test_decode_ALUI :
    reads 0x0023E041 0xFFF00000 0x00000000 (.addi h64 30 17 0xFFF0)
    ∧ reads 0x0823E041 0xFFF00000 0x00000000 (.andi h64 30 17 0xFFF0)
    ∧ reads 0x1023E041 0xFFF00000 0x00000000 (.ori h64 30 17 0xFFF0)
    ∧ reads 0x1823E041 0xFFF00000 0x00000000 (.xori h64 30 17 0xFFF0)
    ∧ reads 0x2023E041 0x003F0000 0x00000000 (.shli h64 30 17 63)
    ∧ reads 0x2823E041 0x003F0000 0x00000000 (.shri h64 30 17 63)
    ∧ reads 0x3023E041 0x003F0000 0x00000000 (.srai h64 30 17 63)
    ∧ reads 0x3823E041 0x003F0000 0x00000000 (.roli h64 30 17 63)
    ∧ reads 0x4023E041 0x80000000 0x00000000 (.mini h64 30 17 0x8000)
    ∧ reads 0x4823E041 0x80000000 0x00000000 (.maxi h64 30 17 0x8000)
    ∧ reads 0x5023E041 0x80000000 0x00000000 (.muli h64 30 17 0x8000) := by decide

theorem test_decode_LI :
    reads 0x00007062 0x00000000 0x89ABCDEF (.liz h96 7 0x89ABCDEF)
    ∧ reads 0x08007062 0x00000000 0x89ABCDEF (.lis h96 7 0x89ABCDEF)
    ∧ reads 0x10007062 0x00000000 0x89ABCDEF (.lih h96 7 0x89ABCDEF) := by decide

theorem test_decode_CMP :
    reads 0x01E45080 0x00000000 0x00000000 (.eq h32 5 18 7)
    ∧ reads 0x09E45080 0x00000000 0x00000000 (.ne h32 5 18 7)
    ∧ reads 0x11E45080 0x00000000 0x00000000 (.lt h32 5 18 7)
    ∧ reads 0x19E45080 0x00000000 0x00000000 (.ltu h32 5 18 7)
    ∧ reads 0x21E45080 0x00000000 0x00000000 (.ge h32 5 18 7)
    ∧ reads 0x29E45080 0x00000000 0x00000000 (.geu h32 5 18 7) := by decide

theorem test_decode_CMPI :
    reads 0x002450A1 0x80010000 0x00000000 (.eqi h64 5 18 0x8001)
    ∧ reads 0x082450A1 0x80010000 0x00000000 (.nei h64 5 18 0x8001)
    ∧ reads 0x102450A1 0x80010000 0x00000000 (.lti h64 5 18 0x8001)
    ∧ reads 0x182450A1 0x80010000 0x00000000 (.ltui h64 5 18 0x8001)
    ∧ reads 0x202450A1 0x80010000 0x00000000 (.gei h64 5 18 0x8001)
    ∧ reads 0x282450A1 0x80010000 0x00000000 (.geui h64 5 18 0x8001) := by decide

theorem test_decode_PLOG :
    reads 0x00CC50C0 0x00000000 0x00000000 (.pand h32 5 6 3)
    ∧ reads 0x08CC50C0 0x00000000 0x00000000 (.por h32 5 6 3)
    ∧ reads 0x10CC50C0 0x00000000 0x00000000 (.pxor h32 5 6 3)
    ∧ reads 0x180C50C0 0x00000000 0x00000000 (.pnot h32 5 6)
    ∧ reads 0x200C50C0 0x00000000 0x00000000 (.pmov h32 5 6)
    ∧ reads 0x31E5D0E0 0x00000000 0x00000000 (.sel h32 6 29 18 7) := by decide

theorem test_decode_LD :
    reads 0x0025D101 0xFFF80000 0x00000000 (.ldb h64 29 18 0xFFF8)
    ∧ reads 0x0825D101 0xFFF80000 0x00000000 (.ldh h64 29 18 0xFFF8)
    ∧ reads 0x1025D101 0xFFF80000 0x00000000 (.ldw h64 29 18 0xFFF8)
    ∧ reads 0x1825D101 0xFFF80000 0x00000000 (.ldd h64 29 18 0xFFF8)
    ∧ reads 0x2025D101 0xFFF80000 0x00000000 (.ldbs h64 29 18 0xFFF8)
    ∧ reads 0x2825D101 0xFFF80000 0x00000000 (.ldhs h64 29 18 0xFFF8)
    ∧ reads 0x3025D101 0xFFF80000 0x00000000 (.ldws h64 29 18 0xFFF8) := by decide

theorem test_decode_ST :
    reads 0x01E40121 0xFFF80000 0x00000000 (.stb h64 18 7 0xFFF8)
    ∧ reads 0x09E40121 0xFFF80000 0x00000000 (.sth h64 18 7 0xFFF8)
    ∧ reads 0x11E40121 0xFFF80000 0x00000000 (.stw h64 18 7 0xFFF8)
    ∧ reads 0x19E40121 0xFFF80000 0x00000000 (.std h64 18 7 0xFFF8) := by decide

theorem test_decode_FSC :
    reads 0x01E5D141 0x00003000 0x00000000 (.fadd h64 29 18 7 .rd)
    ∧ reads 0x09E5D141 0x00003000 0x00000000 (.fsub h64 29 18 7 .rd)
    ∧ reads 0x11E5D141 0x00003000 0x00000000 (.fmul h64 29 18 7 .rd)
    ∧ reads 0x19E5D141 0x00003000 0x00000000 (.ffma h64 29 18 7 .rd)
    ∧ reads 0x21E5D140 0x00000000 0x00000000 (.fmin h32 29 18 7)
    ∧ reads 0x29E5D140 0x00000000 0x00000000 (.fmax h32 29 18 7)
    ∧ reads 0x3025D140 0x00000000 0x00000000 (.fabs h32 29 18)
    ∧ reads 0x3825D140 0x00000000 0x00000000 (.fneg h32 29 18)
    ∧ reads 0x41E5D140 0x00000000 0x00000000 (.fcmpeq h32 29 18 7)
    ∧ reads 0x49E5D140 0x00000000 0x00000000 (.fcmplt h32 29 18 7)
    ∧ reads 0x51E5D140 0x00000000 0x00000000 (.fcmple h32 29 18 7)
    ∧ reads 0x5825D141 0x00001000 0x00000000 (.fcvti h64 29 18 .rz)
    ∧ reads 0x6025D141 0x00001000 0x00000000 (.fcvtf h64 29 18 .rz) := by decide

theorem test_decode_FSF :
    reads 0x0025D160 0x00000000 0x00000000 (.exp2 h32 29 18)
    ∧ reads 0x0825D160 0x00000000 0x00000000 (.log2 h32 29 18)
    ∧ reads 0x1025D160 0x00000000 0x00000000 (.rcp h32 29 18)
    ∧ reads 0x1825D160 0x00000000 0x00000000 (.rsqrt h32 29 18)
    ∧ reads 0x2025D160 0x00000000 0x00000000 (.sqrt h32 29 18)
    ∧ reads 0x2825D160 0x00000000 0x00000000 (.tanh h32 29 18)
    ∧ reads 0x3025D160 0x00000000 0x00000000 (.sin h32 29 18)
    ∧ reads 0x3825D160 0x00000000 0x00000000 (.cos h32 29 18) := by decide

theorem test_decode_PBR :
    reads 0x00003201 0x80000000 0x00000000 (.pbr h64 3 (.rel 0x8000))
    ∧ reads 0x00242202 0x00000000 0xFFFFFFFC (.pbr h96 2 (.abs 18 0xFFFFFFFC)) := by decide

theorem test_decode_BR :
    reads 0x000A3220 0x00000000 0x00000000 (.brt h32 3 5)
    ∧ reads 0x080C2220 0x00000000 0x00000000 (.brf h32 2 6)
    ∧ reads 0x10001220 0x00000000 0x00000000 (.bra h32 1)
    ∧ reads 0x00003240 0x00000000 0x00000000 (.call h32 3)
    ∧ reads 0x08000240 0x00000000 0x00000000 (.ret h32) := by decide

theorem test_decode_CTL :
    reads 0x00000260 0x00000000 0x00000000 (.endI h32)
    ∧ reads 0x08000260 0x00000000 0x00000000 (.yield h32)
    ∧ reads 0x10000260 0x00000000 0x00000000 (.nop h32)
    ∧ reads 0x18000260 0x00000000 0x00000000 (.brk h32) := by decide

theorem test_decode_TOK :
    reads 0x07C05280 0x00000000 0x00000000 (.tkp h32 5 31)
    ∧ reads 0x08406280 0x00000000 0x00000000 (.tkw h32 6 1)
    ∧ reads 0x100FD280 0x00000000 0x00000000 (.tkq h32 29 7) := by decide

theorem test_decode_WHL :
    reads 0x01DFD2A0 0x00000000 0x00000000 (.winit h32 15 7 29)
    ∧ reads 0x081DD2A0 0x00000000 0x00000000 (.wclm h32 29 14)
    ∧ reads 0x101A02A0 0x00000000 0x00000000 (.wpub h32 13)
    ∧ reads 0x1819D2A0 0x00000000 0x00000000 (.wwf h32 29 12)
    ∧ reads 0x2017D2A0 0x00000000 0x00000000 (.wwe h32 29 11)
    ∧ reads 0x281402A0 0x00000000 0x00000000 (.wrel h32 10) := by decide

theorem test_decode_ORD :
    reads 0x000802C0 0x00000000 0x00000000 (.phase h32 .domain)
    ∧ reads 0x080002C0 0x00000000 0x00000000 (.fenceE h32) := by decide

theorem test_decode_TAG :
    reads 0x01E432E1 0x00000000 0x00000000 (.tagb h64 3 18 7)
    ∧ reads 0x000022E1 0x00000100 0x00000000 (.tagbClr h64 2)
    ∧ reads 0x080042E1 0xFFFF0000 0x00000000 (.wtag h64 4 0xFFFF)
    ∧ reads 0x1025D2E1 0x00030000 0x00000000 (.tagq h64 29 18 3) := by decide

theorem test_decode_TSP :
    reads 0x01E5D301 0x00000100 0x00000000 (.tdep h64 true 29 18 7)
    ∧ reads 0x09E5D302 0x12340000 0x0000BEEF (.tcpy h96 false 29 18 7 0x1234 0xBEEF)
    ∧ reads 0x11E5D302 0xFFFF0100 0x00000001 (.ttak h96 true 29 18 7 0xFFFF 1)
    ∧ reads 0x19E5D301 0x00000000 0x00000000 (.tcnl h64 29 18 7) := by decide

theorem test_decode_COPY :
    reads 0x01E5D401 0x00000000 0x00000000 (.cpy h64 29 18 7)
    ∧ reads 0x01E5D421 0xFE120000 0x00000000 (.cpyt h64 0x12 0xFE 29 18 7)
    ∧ reads 0x01E5D441 0xFE120400 0x00000000 (.gath h64 true 0x12 0xFE 29 18 7)
    ∧ reads 0x01E5D461 0xFE120000 0x00000000 (.scat h64 false 0x12 0xFE 29 18 7)
    ∧ reads 0x01E5D481 0xFE12A500 0x00000000 (.cpyx h64 true false .ru true false true 0x12 0xFE 29 18 7)
    ∧ reads 0x01E5D4A1 0x00009100 0x00000000 (.cpyr h64 true .rz .bf16 29 18 7) := by decide

theorem test_decode_CHAIN :
    reads 0x01E5D4C1 0x0D7F0C00 0x00000000 (.land h64 .mxf8b 29 18 7 63 5 6)
    ∧ reads 0x01E5D4E1 0x00400100 0x00000000 (.fwd h64 true false 29 18 7 64)
    ∧ reads 0x01E5D4E1 0x00010200 0x00000000 (.fwd h64 false true 29 18 7 1)
    ∧ reads 0x0025D501 0x80000500 0x00000000 (.lds h64 1 true 29 18 (.imm 0x8000))
    ∧ reads 0x0025D502 0x00000300 0x80000000 (.lds h96 3 false 29 18 (.lit 0x80000000)) := by decide

theorem test_decode_VBIN :
    reads 0x01E5D602 0x00006400 0x26011234 (.vadd h96 .e5m2 .ru true 29 18 7 ⟨0x1234, 1, 16, 9⟩)
    ∧ reads 0x09E5D602 0x00006400 0x26011234 (.vsub h96 .e5m2 .ru true 29 18 7 ⟨0x1234, 1, 16, 9⟩)
    ∧ reads 0x11E5D602 0x00006400 0x26011234 (.vmul h96 .e5m2 .ru true 29 18 7 ⟨0x1234, 1, 16, 9⟩)
    ∧ reads 0x19E5D602 0x00006400 0x26011234 (.vmin h96 .e5m2 .ru true 29 18 7 ⟨0x1234, 1, 16, 9⟩)
    ∧ reads 0x21E5D602 0x00006400 0x26011234 (.vmax h96 .e5m2 .ru true 29 18 7 ⟨0x1234, 1, 16, 9⟩)
    ∧ reads 0x29E5D602 0x00006400 0x26011234 (.vand h96 .e5m2 .ru true 29 18 7 ⟨0x1234, 1, 16, 9⟩)
    ∧ reads 0x31E5D602 0x00006400 0x26011234 (.vor h96 .e5m2 .ru true 29 18 7 ⟨0x1234, 1, 16, 9⟩)
    ∧ reads 0x39E5D602 0x00006400 0x26011234 (.vxor h96 .e5m2 .ru true 29 18 7 ⟨0x1234, 1, 16, 9⟩)
    ∧ reads 0x41E5D602 0x00004E00 0x26011234 (.vshl h96 .i8 .rne true 29 18 7 ⟨0x1234, 1, 16, 9⟩)
    ∧ reads 0x49E5D602 0x00004E00 0x26011234 (.vshr h96 .i8 .rne true 29 18 7 ⟨0x1234, 1, 16, 9⟩)
    ∧ reads 0x01E5D622 0x00003200 0x26011234 (.vfma h96 .fp16 .rd false 29 18 7 ⟨0x1234, 1, 16, 9⟩)
    ∧ reads 0x09E5D622 0x00003200 0x26011234 (.vfms h96 .fp16 .rd false 29 18 7 ⟨0x1234, 1, 16, 9⟩) := by decide

theorem test_decode_VUN :
    reads 0x0025D642 0x00004100 0x02011234 (.vabs h96 .bf16 .rne true 29 18 ⟨0x1234, 1, 16⟩)
    ∧ reads 0x0825D642 0x00004100 0x02011234 (.vneg h96 .bf16 .rne true 29 18 ⟨0x1234, 1, 16⟩)
    ∧ reads 0x1025D642 0x0000D000 0x3A011234 (.vcvt h96 .fp32 .i8 .rz true true 29 18 ⟨0x1234, 1, 16⟩)
    ∧ reads 0x1825D642 0x00000D00 0x02011234 (.vmov h96 .i32 29 18 ⟨0x1234, 1, 16⟩)
    ∧ reads 0x0025D662 0x00002100 0x02011234 (.vexp2 h96 .bf16 .ru false 29 18 ⟨0x1234, 1, 16⟩)
    ∧ reads 0x0825D662 0x00002100 0x02011234 (.vlog2 h96 .bf16 .ru false 29 18 ⟨0x1234, 1, 16⟩)
    ∧ reads 0x1025D662 0x00002100 0x02011234 (.vrcp h96 .bf16 .ru false 29 18 ⟨0x1234, 1, 16⟩)
    ∧ reads 0x1825D662 0x00002100 0x02011234 (.vrsq h96 .bf16 .ru false 29 18 ⟨0x1234, 1, 16⟩)
    ∧ reads 0x2025D662 0x00002100 0x02011234 (.vtanh h96 .bf16 .ru false 29 18 ⟨0x1234, 1, 16⟩)
    ∧ reads 0x2825D662 0x00002100 0x02011234 (.vsilu h96 .bf16 .ru false 29 18 ⟨0x1234, 1, 16⟩) := by decide

theorem test_decode_VCMP :
    reads 0x01E5D682 0x00000300 0x26011234 (.vceq h96 .e4m3 29 18 7 ⟨0x1234, 1, 16, 9⟩)
    ∧ reads 0x09E5D682 0x00000300 0x26011234 (.vclt h96 .e4m3 29 18 7 ⟨0x1234, 1, 16, 9⟩)
    ∧ reads 0x11E5D682 0x00000300 0x26011234 (.vcle h96 .e4m3 29 18 7 ⟨0x1234, 1, 16, 9⟩)
    ∧ reads 0x01E5D6A2 0x7FFF0000 0x26011234 (.vsel h96 .fp32 0x7FFF 29 18 7 ⟨0x1234, 1, 16, 9⟩) := by decide

theorem test_decode_VRED :
    reads 0x002436C2 0x00001000 0x0200FFFF (.vrsum h96 .fp32 .rz 3 18 ⟨0xFFFF, 16⟩)
    ∧ reads 0x082436C2 0x00001000 0x0200FFFF (.vrmax h96 .fp32 .rz 3 18 ⟨0xFFFF, 16⟩)
    ∧ reads 0x102436C2 0x00001000 0x0200FFFF (.vrmin h96 .fp32 .rz 3 18 ⟨0xFFFF, 16⟩)
    ∧ reads 0x0025D6E2 0x00007200 0x02011234 (.vpsum h96 .fp16 .rd true 29 18 ⟨0x1234, 1, 16⟩)
    ∧ reads 0x00240702 0x00FE0100 0x02001234 (.vamx h96 .bf16 0xFE 18 ⟨0x1234, 16⟩)
    ∧ reads 0x0025D722 0x00000E00 0x00101234 (.vfill h96 .i8 29 18 ⟨0x1234, 16⟩)
    ∧ reads 0x01E5D742 0x00000400 0x26011234 (.vperm h96 .e5m2 29 18 7 ⟨0x1234, 1, 16, 9⟩) := by decide

theorem test_decode_ZMOV :
    reads 0x0005D760 0x00000000 0x00000000 (.zget h32 29 2)
    ∧ reads 0x08243760 0x00000000 0x00000000 (.zset h32 3 18)
    ∧ reads 0x10001760 0x00000000 0x00000000 (.zclr h32 1) := by decide

theorem test_decode_MMA :
    reads 0x01E40802 0xFE123200 0x001F4351 (.mma h96 true false .rd 0x12 0xFE 18 7 ⟨62, 33, 5, 17⟩)
    ∧ reads 0x09E5D802 0xFE120100 0xFFFF4351 (.mmak h96 false true .rne 0x12 0xFE 29 18 7 ⟨62, 33, 5, 17⟩ 2047)
    ∧ reads 0x01E40821 0x00000000 0x00000000 (.aclr h64 18 7)
    ∧ reads 0x09E5D822 0x0012D800 0x0001FFFF (.adrn h96 true true .rz true false 0x12 29 18 7 0x1FFFF)
    ∧ reads 0x09CC8821 0x00090100 0x00000000 (.adrn h64 false false .rne false true 9 8 6 7 0) := by decide

theorem test_decode_ATN :
    reads 0x0025D841 0x00FE0000 0x00000000 (.atq h64 0xFE 29 18)
    ∧ reads 0x09E40841 0xFE120000 0x00000000 (.ats h64 0x12 0xFE 18 7)
    ∧ reads 0x11E40841 0x00000100 0x00000000 (.atf h64 true 18 7) := by decide

theorem test_decode_AAT :
    reads 0x01E40861 0x00000100 0x00000000 (.aadd h64 true 18 7)
    ∧ reads 0x09E40861 0x00003000 0x00000000 (.aaddf h64 false .rd 18 7)
    ∧ reads 0x11E40861 0x00000000 0x00000000 (.awr h64 false 18 7)
    ∧ reads 0x19E5D861 0x00000000 0x00000000 (.aaddx h64 false 29 18 7)
    ∧ reads 0x21E5D861 0x00001100 0x00000000 (.aaddfx h64 true .rz 29 18 7)
    ∧ reads 0x29E5D861 0x00000100 0x00000000 (.awrx h64 true 29 18 7) := by decide

theorem test_decode_FDL :
    reads 0x00040A00 0x00000000 0x00000000 (.setfid h32 2)
    ∧ reads 0x0805DA01 0x00000000 0x00000000 (.fcrd h64 29 2)
    ∧ reads 0x1001DA00 0x00000000 0x00000000 (.fcclr h32 29) := by decide

theorem test_decode_FABRIC :
    reads 0x01E5DC01 0x00000000 0x00000000 (.rwr h64 29 18 7)
    ∧ reads 0x01E5DC21 0x00000000 0x00000000 (.rrd h64 29 18 7)
    ∧ reads 0x01E5DC41 0x0000A100 0x00000000 (.rwrr h64 true .ru .bf16 29 18 7)
    ∧ reads 0x0025DC61 0x003F0100 0x00000000 (.qpost h64 true 29 18 63)
    ∧ reads 0x01E40C81 0x00000000 0x00000000 (.carm h64 18 7)
    ∧ reads 0x09E40C81 0x00000000 0x00000000 (.cadd h64 18 7)
    ∧ reads 0x11E5DC81 0x80010000 0x00000000 (.cwait h64 29 18 7 0x8001)
    ∧ reads 0x1825DC81 0x00000000 0x00000000 (.crd h64 29 18)
    ∧ reads 0x01E40CA1 0x00008000 0x00000000 (.qslot h64 true false 18 7) := by decide

theorem test_decode_SYS :
    reads 0x0001DE01 0x00410000 0x00000000 (.csrr h64 29 0x041)
    ∧ reads 0x00240E21 0x00080000 0x00000000 (.csrw h64 0x008 18)
    ∧ reads 0xF8000E41 0xBEEF0000 0x00000000 (.trap h64 31 0xBEEF)
    ∧ reads 0x0001DE60 0x00000000 0x00000000 (.eret h32 29)
    ∧ reads 0x01C1DE81 0x00000000 0x00000000 (.tld h64 29 7 none)
    ∧ reads 0x01C1DE82 0x00000000 0x00000FFF (.tld h96 29 7 (some 0xFFF))
    ∧ reads 0x00240EA1 0x00010000 0x00000000 (.tlk h64 18 true)
    ∧ reads 0x0025DEC1 0x00020000 0x00000000 (.tinv h64 29 18 2)
    ∧ reads 0x01E5DEE2 0x00000000 0x00000003 (.pmld h96 29 18 7 (some 3))
    ∧ reads 0x00240F00 0x00000000 0x00000000 (.rply h32 18)
    ∧ reads 0x01E5DF21 0x00000100 0x00000000 (.ctxs h64 true 29 18 7)
    ∧ reads 0x01E5DF41 0x00000000 0x00000000 (.ctxl h64 29 18 7)
    ∧ reads 0x0001DF60 0x00000000 0x00000000 (.tsr h32 29)
    ∧ reads 0x0025DF81 0x003F0100 0x00000000 (.lnch h64 true 29 18 63)
    ∧ reads 0x0001DFA0 0x00000000 0x00000000 (.idle h32 29) := by decide

/-- Words that R45, R47 to R49 refuse, by the cause each raises. -/
theorem test_decode_refused :
    decodeWords 0 0 0 = .bad .zeroWord ∧ decodeWords 0xFFFFFFFF 0 0 = .bad .lenIllegal
    ∧ decodeWords 0x00000001 0 0 = .bad .majUnassigned ∧ decodeWords 0x00000022 0 0 = .bad .lenIllegal
    ∧ decodeWords 0x00000E61 0 0 = .bad .lenIllegal ∧ decodeWords 0xC0000020 0 0 = .bad .funcReserved
    ∧ decodeWords 0x000C3081 0 0 = .ok (.eq h64 3 6 0) ∧ decodeWords 0x000C8080 0 0 = .reserved 0x04 0 0
    ∧ decodeWords 0x40000 0 0 = .bad .majUnassigned ∧ decodeWords 0x00823021 0x00000002 0 = .reserved 0x01 0 0
    ∧ decodeWords 0x400000E0 0 0 = .reserved 0x07 8 0 := by decide


/-! ### States on which the statements are tried

One launch of one team in strand slot 0 of cluster 0 of die 0; its queues q0 to q3 join the L, C, S and K sequencer to
itself, and it has wheels 0 and 15, 256 bytes of scratchpad and 4 TID entries. -/

/-- The bytes of R306 that the states need: a `.tag` that fits every tag in byte 11, queue bindings at
16, the scratchpad extent at 32. -/
def hdrBytes : List Byte :=
  List.replicate 11 0 ++ [0x20, 0, 0, 0, 0] ++ [0x80, 0x85, 0x8A, 0x8F, 0, 0, 0, 0] ++ List.replicate 8 0 ++ [0, 1, 0, 0]
    ++ List.replicate 156 0

def team1 : Team := ⟨1, 0, 0, 0, [0], 0, 0, 256, 0, 4, [(0, 0), (15, 1)], true, true⟩

def sq (c : Cls) : SeqRef := ⟨0, 0, 0, c⟩
def st0 : StrandRef := ⟨0, 0, 0⟩

/-- Sequencer `c` at its instruction, with the given registers; every queue holds 2 tokens. -/
def at_ (c : Cls) (x : Tbl Word := []) : State :=
  { State.reset with
    cur := .seq (sq c)
    seqs := [(seqKey (sq c), { live := true, x := x, pc := 0x1000 })]
    strands := [(stKey st0, { team := 1, q := [(0, 2), (1, 2), (2, 2), (3, 2)], qFree := [(0, 2), (1, 2), (2, 2), (3, 2)] })]
    sched := { launches := [(1, { ctx := 0, queue := 0, hdr := hdrBytes })], teams := [(1, team1)] }
    mailbox := { boot := .running } }

/-- Hub 0 at its instruction. -/
def hub (x : Tbl Word := []) : State :=
  { State.reset with cur := .hub 0, seqs := [(hubKey 0, { live := true, x := x, pc := 0x1000 })], mailbox := { boot := .running } }

/-- A queue of commands and other parts of the sequencer at its instruction. -/
def withSeq (s : State) (c : Cls) (f : Seq → Seq) : State := s.modSeq (sq c) f

/-- Nothing keeps `i` from issuing, there is room for its result, and `ok` holds. -/
def may (s : State) (c : Cls) (i : Instr) (k : Option Permit := none) : Bool :=
  s.mayIssue (sq c) i (hdrOf i) k && s.roomInFlight (sq c)

def mayHub (s : State) (i : Instr) : Bool := s.hubMay 0 i (hdrOf i)

theorem test_reset_memory : Memory.wf State.reset.mem = true := by decide

/-! ### Witnesses: the scalar families -/

theorem test_witness_AluResults :
    ([Instr.add h32 3 1 2, .sub h32 3 1 2, .and h32 3 1 2, .or h32 3 1 2, .xor h32 3 1 2, .andn h32 3 1 2, .shl h32 3 1 2,
      .shr h32 3 1 2, .sra h32 3 1 2, .rol h32 3 1 2, .min h32 3 1 2, .max h32 3 1 2, .minu h32 3 1 2, .maxu h32 3 1 2,
      .mul h32 3 1 2, .mulh h32 3 1 2, .mulhu h32 3 1 2, .div h32 3 1 2, .divu h32 3 1 2, .rem h32 3 1 2, .remu h32 3 1 2,
      .clz h32 3 1, .popc h32 0 1, .abs hq 31 31].all fun i => may (at_ .C) .C i) = true
    ∧ ([Instr.add h32 3 1 2, .remu h32 3 1 2, .abs h32 31 31].all fun i => mayHub hub i) = true := by decide

theorem test_witness_ImmediateResults :
    ([Instr.addi h64 3 1 0x8000, .andi h64 3 1 2, .ori h64 3 1 2, .xori h64 3 1 2, .mini h64 3 1 2, .maxi h64 3 1 2,
      .muli hq 3 1 2, .shli h64 3 1 0, .shri h64 3 1 63, .srai h64 3 1 63, .roli h64 3 1 63, .liz h96 3 0xFFFFFFFF,
      .lis h96 3 0x80000000, .lih h96 0 1].all fun i => may (at_ .C) .C i && mayHub hub (.addi h64 3 1 2)
        && mayHub hub (.lih h96 3 1) && mayHub hub (.roli h64 3 1 63)) = true := by decide

theorem test_witness_PredicateResults :
    ([Instr.eq h32 3 1 2, .ne h32 3 1 2, .lt h32 3 1 2, .ltu h32 3 1 2, .ge h32 3 1 2, .geu h32 0 1 2, .eqi h64 7 1 2,
      .nei h64 7 1 2, .lti h64 7 1 2, .ltui h64 7 1 0xFFFF, .gei h64 7 1 2, .geui h64 7 1 2, .pand h32 1 0 7, .por h32 1 2 3,
      .pxor h32 1 2 3, .pnot h32 1 2, .pmov h32 0 2, .sel h32 7 3 1 2].all fun i => may (at_ .C) .C i && mayHub hub i)
      = true := by decide

theorem test_witness_FloatResults :
    ([Instr.fadd h64 3 1 2 .rd, .fsub h64 3 1 2 .ru, .fmul h64 3 1 2 .rz, .ffma h32 3 1 2 .rne, .fcvti h64 3 1 .rz,
      .fcvtf h32 3 1 .rne, .fmin h32 3 1 2, .fmax h32 3 1 2, .fcmpeq h32 3 1 2, .fcmplt h32 3 1 2, .fcmple h32 3 1 2,
      .fabs h32 3 1, .fneg h32 3 1].all fun i => may (at_ .C) .C i && mayHub hub i) = true
    ∧ ([Instr.exp2 h32 3 1, .log2 h32 3 1, .rcp h32 3 1, .rsqrt h32 3 1, .sqrt h32 3 1, .tanh h32 3 1, .sin h32 3 1,
      .cos hq 3 1].all fun i => may (at_ .C) .C i (some .sfu)) = true ∧ mayHub hub (.sqrt h32 3 1) = true := by decide

/-! ### Witnesses: local loads and stores -/

/-- The window's scratchpad, accumulator and TID parts, and what lies between. -/
def win (o : Nat) : Word := BitVec.ofNat 64 (0xFF0000000000 + o)

theorem test_witness_LocalAccessTraps :
    ([Instr.ldb h64 3 1 0, .ldd hq 3 1 0, .ldws h64 3 1 0].all fun i => may (at_ .C) .C i (some .mem)) = true
    ∧ may (at_ .C) .C (.std h64 1 2 0) (some .mem) = true
    ∧ windowCheck team1 0x1000000000000 8 true = some .addrRange ∧ windowCheck team1 0xFEFFFFFFFFFF 8 true = some .xlateClass
    ∧ windowCheck team1 (win 256) 8 true = some .addrRange ∧ windowCheck team1 (win 248) 8 true = none
    ∧ windowCheck team1 (win 0x280000) 8 true = some .addrRange ∧ windowCheck team1 (win 0x27FFF8) 8 true = none
    ∧ windowCheck team1 (win 0x200000) 4 false = some .xlateClass ∧ windowCheck team1 (win 0x200000) 4 true = none
    ∧ windowCheck team1 (win 0x300000) 4 true = some .align ∧ windowCheck team1 (win 0x3000F8) 8 true = none
    ∧ windowCheck team1 (win 0x300100) 8 true = some .addrRange ∧ windowCheck team1 (win 1) 2 false = some .align := by decide

theorem test_witness_LocalAccessTraps_poison :
    may ((at_ .C [(1, win 0x27FFF8)]).modCluster 0 0 fun c => { c with poison := [(131071, true)] }) .C (.ldd h64 3 1 0)
      (some .mem) = true
    ∧ (((at_ .C [(1, win 0x27FFF8)]).modCluster 0 0 fun c => { c with poison := [(131071, true)] }).cluster 0 0).isPoisoned
      (0x7FFF8 / 4 + 1) = true
    ∧ ((at_ .C [(1, win 0x27FFF8)]).X 1 + (0 : BitVec 16).signExtend 64).toNat = 0xFF0000200000 + 0x7FFF8
    ∧ (at_ .C).team? (strandOf (sq .C)) = some team1 := by decide

theorem test_witness_LoadResults :
    ([(Instr.ldb h64 3 1 0, 255), (.ldh h64 3 1 0, 254), (.ldw h64 3 1 0, 252), (.ldd hq 3 1 0, 248), (.ldbs h64 3 1 0, 0),
      (.ldhs h64 3 1 0, 0), (.ldws h64 3 1 0, 0)].all fun p => may (at_ .C) .C p.1 (some .mem)
        && decide (((at_ .C [(1, win p.2)]).X 1 + (0 : BitVec 16).signExtend 64).toNat = 0xFF0000000000 + p.2)
        && inSpad team1 p.2) = true
    ∧ ([Instr.ldb h64 3 1 0, .ldws h64 3 1 0].all fun i => mayHub (hub [(1, BitVec.ofNat 64 (slabSize - 4))]) i) = true
    ∧ (0x7FFFC < 0x80000 ∧ 0x7FFFC % 4 = 0) ∧ ((at_ .C).cluster 0 0).isPoisoned (0x7FFFC / 4) = false
    ∧ (((at_ .C).cluster 0 0).badSpad = [] ∧ ((at_ .C).cluster 0 0).badAcc = [] ∧ ((at_ .C).cluster 0 0).badTid = []
      ∧ hub.weak = [] ∧ hub.badAt (slabSize - 4) 4 = none ∧ hub.hitsTable (slabSize - 4) 4 = false)
    ∧ (((hub [(1, 3)]).X 1 + (0 : BitVec 16).signExtend 64).toNat % 4 ≠ 0
      ∧ slabSize < ((hub [(1, BitVec.ofNat 64 slabSize)]).X 1 + (0 : BitVec 16).signExtend 64).toNat + 1)
    ∧ (may ((at_ .C [(1, win 248)]).modCluster 0 0 fun c => { c with badSpad := [248] }) .C (.ldb h64 3 1 7) (some .mem) = true
      ∧ wordHit [248] (0 + 255) 1 = some 248 ∧ inSpad team1 255 = true ∧ team1.spadBase = 0)
    ∧ (248 < 0x4000 ∧ 248 < 64 * team1.ntid ∧ 248 % 8 = 0) := by decide

theorem test_witness_StoreResults :
    ([(Instr.stb h64 1 2 0, 255), (.sth h64 1 2 0, 254), (.stw h64 1 2 0, 252), (.std hq 1 2 0, 248)].all fun p =>
      may (at_ .C) .C p.1 (some .mem) && inSpad team1 p.2 && mayHub hub (.std h64 1 2 0)
        && decide (((at_ .C [(1, win p.2)]).X 1 + (0 : BitVec 16).signExtend 64).toNat = 0xFF0000000000 + p.2)) = true
    ∧ (248 < 0x4000 ∧ 248 < 64 * team1.ntid ∧ 248 % 8 = 0)
    ∧ (0x7FFFFFF8 / 0x80000000 = 0 ∧ hub.hitsTable 0x7FFFFFF8 8 = false ∧ 0x80000000 / 0x80000000 ≠ 0
      ∧ hub.hitsTable 0x80000000 8 = false ∧ 0x80000000 + 8 ≤ slabSize ∧ slabSize < slabSize - 4 + 8) := by decide

/-! ### Witnesses: branches and control -/

theorem test_witness_PrepareResults :
    ([Instr.pbr h64 3 (.rel 0x8000), .pbr h96 0 (.abs 1 4)].all fun i => may (at_ .C) .C i && mayHub hub i) = true
    ∧ (((at_ .C [(1, 0xFFFFFFFFFFFC)]).X 1).toNat + (4 : BitVec 32).toNat) % 4 = 0
    ∧ (((at_ .C [(1, 0xFFFFFFFFFFFC)]).X 1).toNat + (5 : BitVec 32).toNat) % 4 ≠ 0 := by decide

/-- A sequencer with b1 prepared. -/
def prepared (s : State) : State := s.modMe fun q => q.setB 1 ⟨0x2000, true⟩

theorem test_witness_BranchResults :
    ([Instr.brt h32 1 0, .brf h32 1 7, .bra h32 1, .call hq 1].all fun i => may (prepared (at_ .C)) .C i
        && ((prepared (at_ .C)).B 1).prep && mayHub (prepared hub) (.bra h32 1) && ((prepared hub).B 1).prep) = true
    ∧ ([Instr.brt h32 2 0, .brf h32 2 7, .bra h32 2, .call h32 2].all fun i => may (at_ .C) .C i) = true
    ∧ ([Instr.brt h32 2 0, .brf h32 2 7, .bra h32 2, .ret h32].all fun i => mayHub hub i) = true
    ∧ mayHub (prepared hub) (.call h32 1) = true ∧ (hub.B 2).prep = false ∧ hub.P 0 = true ∧ hub.P 7 = false
    ∧ ((at_ .C).B 2).prep = false ∧ may (at_ .C) .C (.ret h32) = true ∧ mayHub hub (.ret h32) = true
    ∧ (((at_ .C [(31, 0xFFFFFFFFFFFC)]).X 31).toNat < 2 ^ 48 ∧ ((at_ .C [(31, 0xFFFFFFFFFFFC)]).X 31).toNat % 4 = 0)
    ∧ 2 ^ 48 ≤ ((at_ .C [(31, 0x1000000000000)]).X 31).toNat
    ∧ (((at_ .C [(31, 0xFFFFFFFFFFFF)]).X 31).toNat < 2 ^ 48 ∧ ((at_ .C [(31, 0xFFFFFFFFFFFF)]).X 31).toNat % 4 ≠ 0) := by
  decide

theorem test_witness_ControlResults :
    ([Instr.endI h32, .yield h32, .nop hq, .brk h32].all fun i => may (at_ .C) .C i) = true
    ∧ ([Instr.endI h32, .yield h32, .nop h32, .brk h32].all fun i => mayHub hub i) = true
    ∧ ((at_ .C).strand st0).preempt = false ∧ (at_ .C).masked st0 .breakpoint = false
    ∧ may ((at_ .C).modStrand st0 fun t => { t with preempt := true }) .C (.yield h32) = true
    ∧ may ((at_ .C).modStrand st0 fun t => { t with cmask := maskable }) .C (.brk h32) = true
    ∧ ((at_ .C).modStrand st0 fun t => { t with cmask := maskable }).masked st0 .breakpoint = true := by decide

/-! ### Witnesses: tokens, wheels, order -/

theorem test_witness_TokenResults :
    ([Instr.tkp hq 1 31, .tkw hq 1 1, .tkq h32 3 1].all fun i => may (at_ .C) .C i) = true
    ∧ (at_ .C).isProducer (sq .C) 1 = true ∧ (at_ .C).isConsumer (sq .C) 1 = true
    ∧ (((at_ .C).popWq (sq .C) hq).strand st0).count 1 + (31 : Reg).toNat ≤ 255
    ∧ 255 < (((((at_ .C).modStrand st0 fun t => { t with q := [(1, 226)], qFree := [(1, 1)] }).popWq (sq .C) hq).strand
      st0).count 1) + (31 : Reg).toNat
    ∧ (1 : Reg).toNat ≤ ((at_ .C).popWq (sq .C) hq).tokens (sq .C) 1
    ∧ ((at_ .C).popWq (sq .C) hq).tokens (sq .C) 1 < (2 : Reg).toNat ∧ ((at_ .C).binding st0 1).isSome = true
    ∧ ([Instr.tkp h64 7 1, .tkw h64 7 1, .tkq h32 3 7].all fun i => may (at_ .C) .C i) = true
    ∧ (at_ .C).isProducer (sq .C) 7 = false ∧ (at_ .C).isConsumer (sq .C) 7 = false ∧ (at_ .C).binding st0 7 = none := by decide

/-- Wheel 15 of the team: 16 buffers of 32 lines, one claimed and 15 filled, or one filled and 15 free. -/
def wheel15 (n m : Nat) (s : State := at_ .C) : State :=
  let v : Wheel := { base := 1, size := 32, nb := 16, act := true, head := 3, tail := 4, nclm := n, nfill := m }
  (s.setWheel (sq .C) 15 v).modCluster 0 0 fun c => { c with wheels0 := c.wheels }

theorem test_witness_WheelResults :
    ([Instr.winit h32 15 1 2, .wclm h32 3 15, .wpub h32 15, .wrel h32 15, .wwf h32 3 15, .wwe hq 3 15].all fun i =>
      may (at_ .C) .C i) = true
    ∧ (at_ .C).wheelNo (sq .C) 15 = some 1 ∧ (at_ .C).wheelNo (sq .C) 1 = none ∧ ((at_ .C).wheel (sq .C) 15).act = false
    ∧ (((at_ .C [(2, 0x100800)]).X 1).toNat % 64 = 0 ∧ ((at_ .C [(2, 0x100800)]).X 2).toNat < 2 ^ 21
      ∧ field 0x100800#64 0 16 = 2048 ∧ field 0x100800#64 16 5 = 16 ∧ 0 + 64 * 2048 * 16 ≤ 2 ^ 21)
    ∧ ((wheel15 1 14).wheel (sq .C) 15).nfree = 1 ∧ ((wheel15 1 15).wheel (sq .C) 15).nfree = 0
    ∧ 0 < ((wheel15 1 15).wheel (sq .C) 15).nclm ∧ ((wheel15 0 15).wheel (sq .C) 15).nclm = 0
    ∧ 0 < ((wheel15 1 15).wheel (sq .C) 15 true).nfill ∧ ((wheel15 1 0).wheel (sq .C) 15).nfill = 0
    ∧ 0 < ((wheel15 1 14).wheel (sq .C) 15 true).nfree ∧ ((wheel15 1 14).wheel (sq .C) 15).act = true := by decide

/-- A stripe is on its way from die 0. -/
def sending (s : State) : State := s.modDie 0 fun d => { d with fwd := [⟨0x10000, 7, 3, 1, 0, 3, none, false⟩] }

theorem test_witness_OrderResults :
    ([Instr.phase h32 .strand, .phase h32 .cluster, .phase h32 .domain, .fenceE h32].all fun i => may (at_ .C) .C i && mayHub hub i) = true
    ∧ ((at_ .C).seq (sq .C)).lds = [] ∧ ((at_ .C).seq (sq .C)).cmds = [] ∧ (hub.die 0).fwd = []
    ∧ mayHub (sending hub) (.fenceE h32) = true ∧ ((sending hub).die 0).fwd ≠ []
    ∧ may (withSeq (at_ .C) .C fun q => { q with lds := [⟨0, 1, 0, 0, 8, false, none, 1⟩] }) .C (.fenceE h32) = true
    ∧ ¬ (((withSeq (at_ .C) .C fun q => { q with lds := [⟨0, 1, 0, 0, 8, false, none, 1⟩] }).seq (sq .C)).lds = []) := by decide


/-! ### Witnesses: tags, LDS, tuples -/

theorem test_witness_TagResults :
    ([Instr.tagb h64 3 1 2, .tagbClr hk 0, .tagq h64 3 1 3].all fun i => may (at_ .K) .K i) = true
    ∧ (at_ .K).cadence? (low32 ((at_ .K).X 1)) = none
    ∧ ({ at_ .K with chain := { cadence := [⟨7, 1, 2, 3, 1, true, false, false, false, 1, 0, 0, 0, none, false, true, false⟩] } }.cadence? 7).isSome
      = true := by decide

/-- The strand's binding 3 takes every tag; records of tags 5 and 6 wait where it is inactive or active. -/
def bound (s : State) : State :=
  s.modStrand st0 fun t => { t with binds := [(3, ⟨5, 0xFFFFFFFF, true⟩)], arrivals := [⟨6, 0, 0, false⟩, ⟨5, 1, 64, true⟩] }

theorem test_witness_ArrivalResults :
    may (bound (at_ .K)) .K (.wtag h64 3 0xFFFF) = true ∧ may (bound (at_ .K)) .K (.wtag hk 3 0) = true
    ∧ ((bound (at_ .K)).strand st0).arrivals = [⟨6, 0, 0, false⟩] ++ ⟨5, 1, 64, true⟩ :: []
    ∧ (∀ y ∈ [(⟨6, 0, 0, false⟩ : Arrival)], (bound (at_ .K)).bindingOf st0 y.tag = none)
    ∧ (bound (at_ .K)).bindingOf st0 5 = some 3
    ∧ (((withSeq (bound (at_ .K)) .K fun q => q.setB 3 ⟨0x2000, true⟩).seq (sq .K)).getB 3).prep = true
    ∧ (((bound (at_ .K)).seq (sq .K)).getB 3).prep = false
    ∧ (let s := (bound (at_ .K)).modStrand st0 fun t => { t with arrivals := [⟨6, 0, 0, false⟩] }
      (s.strand st0).arrivals = [⟨6, 0, 0, false⟩] ∧ s.bindingOf st0 6 = none
        ∧ (Tbl.get {} (s.strand st0).binds 3 : Binding).active = true ∧ may s .K (.wtag h64 3 1) = true)
    ∧ 0 < (1 : BitVec 16).toNat ∧ (∀ k < 4, (Tbl.get {} ((at_ .K).strand st0).binds k : Binding).active = false) := by decide

/-- Die 0 maps page 0 of context 0 to slab page 0: PLAIN, all permissions (R108), and page 1 as a tuple region. -/
def mapped (s : State) : State :=
  s.modDie 0 fun d => { d with
    tm := [(0, 0x1D000), (1, 0x0000002000000000 ||| 0x13D000)]
    regions := [(5, { v := true, cap := 2, ctx := 0, vpn := 1, npg := 1 })] }

theorem test_witness_LdsResults_issue :
    ([Instr.lds h64 3 false 3 1 (.imm 0xFFF8), .lds h96 0 true 3 1 (.lit 8)].all fun i =>
      may (mapped (at_ .K)) .K i (some .mem)) = true
    ∧ (mapped (at_ .K [(1, 0x200000)])).translate st0 (0x200000 + LdsOff.value (.imm 0xFFF8)) 8 .read = .ok 0x1FFFF8
    ∧ (mapped (at_ .K [(1, 0x200000)])).translate st0 (0x200000 + LdsOff.value (.lit 1)) 8 .read = .error .align
    ∧ ((at_ .K).seq (sq .K)).lds.length < 16
    ∧ (let s := withSeq (mapped (at_ .K)) .K fun q => { q with lds := List.replicate 16 ⟨0, 1, 0, 0, 8, false, none, 1⟩ }
      16 ≤ (s.seq (sq .K)).lds.length ∧ may s .K (.lds h64 3 false 3 1 (.imm 8)) (some .mem) = true
        ∧ s.translate st0 (s.X 1 + LdsOff.value (.imm 8)) 8 .read = .ok 8) := by decide

theorem test_witness_LdsResults_complete :
    let q : LdsReq := ⟨0x1000, 31, 0, 0x1FFFF8, 8, false, some 3, 4⟩
    let s := withSeq (at_ .K) .K fun z => { z with lds := [q] }
    (s.seq (sq .K)).lds = q :: [] ∧ q.pa / 0x80000000 = (sq .K).die ∧ (1 ≤ q.size ∧ q.size ≤ 8)
    ∧ (∀ w ∈ s.bad ++ s.weak, ¬ (w < q.pa + q.size ∧ q.pa < w + 8))
    ∧ (((s.modSeq (sq .K) fun z => { z with lds := [] }).putOn (sq .K) q.d
        (extended q.size q.sg (leNat (s.slabBytes q.pa q.size))) q.no).pushTok st0 q.post).isSome = true
    ∧ ({ s with bad := [0x1FFFF8] } : State).badAt q.pa q.size = some 0x1FFFF8 := by decide

/-- A tuple of class 0x1041 with one key word 9 and no payload (R122), and a request block whose pattern asks for it. -/
def tupleBytes : List Byte := [0x41, 0x10, 1, 0] ++ List.replicate 4 0 ++ [9] ++ List.replicate 55 0
def patternBytes : List Byte :=
  [0x41, 0x10, 1, 0] ++ List.replicate 4 0 ++ [9] ++ List.replicate 7 0 ++ [0xFF] ++ List.replicate 55 0

/-- X1 is the handle of the region of page 1, X2 the block at the start of the scratchpad, which holds `bs`. -/
def asking (c : Cls) (bs : List Byte) (far : Bool := false) : State :=
  (mapped (at_ c [(1, if far then 0x8003000000000000 else 0x200000), (2, 0xFF0000000000)])).modCluster 0 0 fun k =>
    { k with spad := Tbl.writeRun 0 k.spad 0 bs }

theorem test_witness_TupleRequests :
    may (asking .K tupleBytes) .K (.tdep hk true 3 1 2) (some .mem) = true
    ∧ may (asking .K patternBytes) .K (.tcpy h64 false 3 1 2 0xFFFF 0) (some .mem) = true
    ∧ may (asking .K patternBytes) .K (.ttak h96 false 3 1 2 0 0xFFFF) (some .mem) = true
    ∧ may (mapped (at_ .K [(1, 0x200000), (2, 0x10001)])) .K (.tcnl hk 3 1 2) (some .mem) = true
    ∧ (asking .K tupleBytes).tupleBlock st0 ((asking .K tupleBytes).X 2) 128 = .ok 0
    ∧ (asking .K patternBytes).tupleBlock st0 ((asking .K patternBytes).X 2) 192 = .ok 0
    ∧ tupleOk (((asking .K tupleBytes).cluster 0 0).spadBytes 0 64) = true
    ∧ patternOk (((asking .K patternBytes).cluster 0 0).spadBytes 0 72) = true
    ∧ ((asking .K tupleBytes).seq (sq .K)).tupCount < 8
    ∧ (asking .K tupleBytes).handle st0 0x200000 .deposit = .ok (.home 0 5)
    ∧ (asking .K patternBytes).handle st0 0x200000 .copyTuple = .ok (.home 0 5)
    ∧ (asking .K patternBytes).handle st0 0x200000 .take = .ok (.home 0 5)
    ∧ (asking .K patternBytes true).handle st0 0x8003000000000000 .take = .ok (.far 3)
    ∧ (mapped (at_ .K)).handle st0 0x200000 .cancel = .ok (.home 0 5)
    ∧ field 0x10001#64 0 16 ≠ 0 ∧ field 0x10001#64 32 32 = 0
    ∧ (let o : TupOut := { req := 1, ins := .tdep h64 false 3 1 2, addr := 0, cls := 0, captA := 0, captB := 0, accepted := true }
      let s := withSeq (asking .K patternBytes) .K fun q => { q with tup := List.replicate 8 o }
      8 ≤ (s.seq (sq .K)).tupCount ∧ may s .K (.ttak h64 false 3 1 2 0 0) (some .mem) = true
        ∧ s.handle st0 (s.X 1) .take = .ok (.home 0 5) ∧ s.tupleBlock st0 (s.X 2) 192 = .ok 0)
    ∧ tupleOk (((asking .K patternBytes).modCluster 0 0 fun c => { c with spad := [] }).cluster 0 0 |>.spadBytes 0 64) = false
    ∧ patternOk (((asking .K patternBytes).modCluster 0 0 fun c => { c with spad := [(2, 200)] }).cluster 0 0 |>.spadBytes 0 72)
      = false := by decide

/-- Slice 1 of die 0 with a request at its head. -/
def serving (q : TupReq) (stored : List Stored := []) (parked : List TupReq := []) : State :=
  (mapped (at_ .K)).modSlice 0 1 fun x => { x with queue := [q], stored := stored, parked := parked }

def asked (kind : BitVec 2) (tmo : BitVec 16) (block : List Byte) : TupReq :=
  ⟨kind, false, 0x1041, tmo, 7, 0x200000, 0, .seq (sq .K), 1, block, 0, none⟩

theorem test_witness_TupleService :
    ((serving (asked 1 0 patternBytes)).modSlice 0 1 fun x => { x with queue := [] }).regionOf 0 (asked 1 0 patternBytes)
      = some (0, 5, { v := true, cap := 2, ctx := 0, vpn := 1, npg := 1 })
    ∧ homeSlice 0x1041 5 = 1 ∧ homeSlice (asked 1 0 []).cls 5 ≠ 2 ∧ ((mapped (at_ .K)).slice 0 2).badTuples = []
    ∧ (((mapped (at_ .K)).modDie 0 fun d => { d with regions := [] }).regionOf 0 (asked 0 0 tupleBytes)) = none
    ∧ (serving (asked 1 0 patternBytes) [] [{ asked 2 5 patternBytes with deadline := some 0 }] |>.slice 0 1).parked.any
        (fun p => p.deadline.any fun d => decide (d ≤ 0)) = true
    ∧ ((serving (asked 2 0 patternBytes) [⟨5, 0, 0, tupleBytes, 1⟩]).slice 0 1).oldest 5 patternBytes
      = some ⟨5, 0, 0, tupleBytes, 1⟩
    ∧ ((serving (asked 1 0 patternBytes)).slice 0 1).oldest 5 patternBytes = none
    ∧ ((serving (asked 2 0 patternBytes) [⟨5, 0, 0, tupleBytes, 1⟩]).slice 0 1).badTuples = []
    ∧ (1 : BitVec 16) ≠ 0 ∧ ((serving (asked 1 1 patternBytes)).slice 0 1).parked.length < 256
    ∧ (1 : Nat) < (2 : BitVec 32).toNat
    ∧ ((serving (asked 0 0 tupleBytes) [] [asked 2 0xFFFF patternBytes]).slice 0 1).parked.find? (fun p => p.kind == 2
        && (p.base == 0x200000 && p.ctx == 0 && tupleMatches tupleBytes p.block)) = some (asked 2 0xFFFF patternBytes)
    ∧ (∀ y ∈ ((serving (asked 0 0 tupleBytes) [] [asked 2 0xFFFF patternBytes]).slice 0 1).parked, ¬ y.kind = 1)
    ∧ (∀ y ∈ ((serving (asked 0 0 tupleBytes)).slice 0 1).parked, ¬ (y.base = 0x200000 ∧ y.ctx = 0))
    ∧ ((serving (asked 3 0 [])).slice 0 1).queue = asked 3 0 [] :: [] := by decide

/-- A request of the C sequencer, completed with a status and a block, accepted or not, here or at another member. -/
def requested (i : Instr) (done : Option (BitVec 64 × List Byte)) (accepted : Bool) (far : Option Nat) (resend : Option Nat) : State :=
  (withSeq (at_ .K) .K fun q => { q with tup := [⟨9, i, 0x1000, 0x1041, 0x200000, 0xFF0000000000, accepted, false, resend, far, 0,
    done, 4, false, false⟩] }).modDie 0 fun d => { d with tsc := 8192 }

theorem test_witness_TupleCompletions :
    (let s := requested (.ttak hk false 3 1 2 0 0) (some (9, [])) true none none
      ∃ o, s.findTup 9 = some (sq .K, o) ∧ o.done = some (9, []) ∧ s.team? st0 = some team1
        ∧ ((s.modSeq (sq .K) fun z => ({ z with tup := z.tup.filter fun t => t.req != o.req }).putX 3 9 o.no s.cycles).pushTok st0
            (some 3)).isSome = true)
    ∧ ((9 : BitVec 64).toNat % 8 ≠ 0 ∧ (9 : BitVec 64).toNat % 8 ≠ 4 ∧ (4 : BitVec 64).toNat % 8 = 4)
    ∧ ((requested (.tcpy hk false 3 1 2 0 0) (some (0x100000000, List.replicate 80 1)) true none none).findTup 9).isSome = true
    ∧ (0x100000000 : BitVec 64).toNat % 8 = 0
    ∧ (let s := requested (.tcpy hk false 3 1 2 0 0) none false (some 3) none
      (s.findTup 9).any (fun p => p.2.remote == some 3 && p.2.done.isNone && !p.2.heard && !p.2.stopping) = true
        ∧ 0 + 8192 ≤ s.tsc 0)
    ∧ (let s := requested (.tdep hk false 3 1 2) none false none (some 8192)
      (s.findTup 9).any (fun p => p.2.resendAt == some 8192 && p.2.done.isNone) = true ∧ 8192 ≤ s.tsc 0) := by
  refine ⟨⟨_, rfl, rfl, rfl, ?_⟩, ?_⟩ <;> decide

/-! ### Witnesses: the copy engine and the chain's landings -/

/-- A TID entry: BF16 or FP32 (R37), two dimensions of 4 elements and of `n` rows, rows `p` bytes apart, scale 1. -/
def tidOf (fmt base n p : Nat) (e : Nat) : BitVec 512 :=
  BitVec.ofNat 512 (fmt + 64 + 512 + base * 2 ^ 16 + 4 * 2 ^ 64 + n * 2 ^ 96 + e * 2 ^ 192 + p * 2 ^ 224 + 0x3F800000 * 2 ^ 320)

/-- Entry 0 at the start of the scratchpad, entry 1 at byte 128: 8 rows of 4 BF16 each. -/
def tids : Tbl (BitVec 512) := [(0, tidOf 1 0xFF0000000000 8 8 2), (1, tidOf 1 0xFF0000000080 8 8 2)]
def withTids (s : State) : State := s.modCluster 0 0 fun c => { c with tid := tids }

theorem test_witness_tids : tidValid (tidOf 1 0xFF0000000000 8 8 2) = true ∧ tidValid (tidOf 1 0xFF0000000080 8 8 2) = true := by
  decide

theorem test_witness_CopyQueueResults :
    ([Instr.cpy hk 4 5 6, .cpyt h64 0 1 4 5 6, .gath h64 false 0 1 4 5 6, .gath h64 true 0 1 4 5 6,
      .cpyx h64 true true .rz false false true 0 1 4 5 6, .cpyr h64 true .ru .bf16 4 5 6].all fun i =>
      may (withTids (at_ .K)) .K i (some .mem)) = true
    ∧ ([Instr.scat h64 false 0 1 4 5 6, .scat h64 true 0 1 4 5 6, .cpyr h64 true .ru .bf16 4 5 6, .cpyr hk false .rne .fp32 4 5 6].all
      fun i => may (withTids (at_ .K)) .K i (some .mem)) = true
    ∧ (((at_ .K).seq (sq .K)).queue .copy).length < 16
    ∧ (field 256#64 0 32 = 0 ∨ 0x1000 + 256 ≤ 0x1100) ∧ (field 1#64 0 32 ≠ 0 ∧ 0x1000 < 0x1000 + 1 ∧ 0x1000 < 0x1000 + 1)
    ∧ (withTids (at_ .K)).boxTids (sq .K) 0 1 = .ok [tidOf 1 0xFF0000000000 8 8 2, tidOf 1 0xFF0000000080 8 8 2]
    ∧ cpytCheck (boxOf [tidOf 1 0xFF0000000000 8 8 2, tidOf 1 0xFF0000000080 8 8 2] 0x00080004 0 0) = none
    ∧ (withTids (at_ .K)).rowEarly (sq .K) false (win 248) 2 = none ∧ (withTids (at_ .K)).rowEarly (sq .K) true 0 8 = none
    ∧ (withTids (at_ .K)).useTid (sq .K) 0 = .ok (tidOf 1 0xFF0000000000 8 8 2)
    ∧ (withTids (at_ .K)).useTid (sq .K) 1 = .ok (tidOf 1 0xFF0000000080 8 8 2)
    ∧ rowLate (rowOf true false [tidOf 1 0xFF0000000000 8 8 2, tidOf 1 0xFF0000000080 8 8 2]) 0 (win 192) 2 = none
    ∧ rowLate (rowOf false true [tidOf 1 0xFF0000000000 8 8 2, tidOf 1 0xFF0000000080 8 8 2]) 0 0 8 = none
    ∧ xCheck (xOf true true .rz false false true [tidOf 1 0xFF0000000000 8 8 2, tidOf 1 0xFF0000000080 8 8 2]
        0x00080004 0 0) 0 = none
    ∧ (0xFF0000000002 % Fmt.size .bf16 = 0 ∧ 0xFF0000000004 % Fmt.size .fp32 = 0 ∧ 0xFF0000000004 % 4 = 0) := by decide

/-- A cadence entry: tag 7, 1 MiB. -/
def cad (lost : Bool := false) (nreg : BitVec 16 := 0) : Cadence :=
  ⟨7, 1, 2, 3, nreg, true, false, lost, false, 1, 0, 0, 0, none, false, false, false⟩


def cadenced (s : State) (e : Cadence := cad) : State := { s with chain := { s.chain with cadence := [e] } }

theorem test_witness_LandIssues :
    may (cadenced (at_ .K)) .K (.land hk .sx4 9 3 4 63 0 7) (some .mem) = true
    ∧ (landOf (.land hk .sx4 9 3 4 63 0 7)).isSome = true ∧ (⟨.sx4, 63, 0, 8, 1, 9⟩ : LandCmd).early = none
    ∧ (cadenced (at_ .K)).landLate st0 ⟨.sx4, 63, 0, 8, 1, 9⟩ 7 (1048576 - 16384) = none
    ∧ (⟨.sx4, 63, 1, 8, 1, 9⟩ : LandCmd).early = some .operandReserved
    ∧ (⟨.fp16, 0, 0, 1, 1, 9⟩ : LandCmd).early = some .formatIllegal := by decide

/-- A command of the given instruction with `pix` units done. -/
def cmd (i : Instr) (xd xa xb : Word := 0) (pix : Nat := 0) : Cmd := { ins := i, seqNo := 1, addr := 0x1000, xd := xd, xa := xa, xb := xb, pix := pix }

theorem test_witness_UnitResults :
    ((at_ .K).strand st0).stop = .running
    ∧ ((withSeq (at_ .K) .K fun q => { q with copyQ := [cmd (.cpy h64 4 5 6) 0 0 1] }).seq (sq .K)).queue .copy
      = cmd (.cpy h64 4 5 6) 0 0 1 :: []
    ∧ ((cmd (.cpy h64 4 5 6) 0 0 1).ins matches .cpyr ..) = false
    ∧ ((withSeq (at_ .C) .C fun q => { q with matQ := [cmd (.aclr h64 5 6) 0 0 1] }).seq (sq .C)).queue .matrix
      = cmd (.aclr h64 5 6) 0 0 1 :: []
    ∧ ((cmd (.aclr h64 5 6) 0 0 1).ins matches .aclr ..) = true
    ∧ (vecOf (.vadd h96 .fp32 .rne false 4 5 6 ⟨1, 1, 1, 1⟩) 0 0 0 1).isSome = true := by decide

/-- A two-dimensional MXF4 tensor of 1 row of 64 elements along dimension 1, its blocks there. -/
def mxTid (base : Nat) : BitVec 512 :=
  BitVec.ofNat 512 (8 + 16 + 64 + 512 + base * 2 ^ 16 + 1 * 2 ^ 64 + 64 * 2 ^ 96 + 136 * 2 ^ 192 + 0x3F800000 * 2 ^ 320)

/-- A CPYT of its two blocks, which are one run. -/
def mxCopy : State :=
  let s := withSeq (at_ .K) .K fun q => { q with copyQ :=
    [{ cmd (.cpyt h64 0 1 4 5 6) 0x400001 0 0 with tids := [mxTid 0xFF0000000000, mxTid 0xFF0000000100] }] }
  s.modSched fun c => { c with teams := [(1, { team1 with spb := 0x1000 })] }

/-- What its first unit leaves. -/
def mxFirst : State :=
  let c := ((mxCopy.seq (sq .K)).copyQ.head?).getD (cmd (.nop h32))
  mxCopy.unitDone (sq .K) .copy c copyUnits (copyStep c) ((copyBody c.ins).run ⟨mxCopy, sq .K, c⟩)

theorem test_witness_UnitResults_run :
    tidValid (mxTid 0xFF0000000000) = true ∧ (mxCopy.seq (sq .K)).copyQ.map copyRun = [1 + 1]
    ∧ (mxCopy.seq (sq .K)).copyQ.map copyUnits = [2]
    ∧ (mxFirst.seq (sq .K)).copyQ.map (fun c => (c.seqNo, c.pix)) = [(1, 1)] ∧ 1 % (1 + 1) ≠ 0 := by decide +kernel

theorem test_witness_UnitBytes :
    field 257#64 0 32 = 257 ∧ 256 * 1 < 257 ∧ team1.spb ≤ 0x200000
    ∧ (0xFF0000000000 : Word).toNat = 0xFF0000000000 + 0 ∧ 0 + 100 ≤ team1.spb ∧ 156 + 100 ≤ team1.spb
    ∧ (win 156).toNat = 0xFF0000000000 + 156 ∧ field 0x20000#64 0 18 = 131072 ∧ 256 * 511 < 131072
    ∧ wordHit ((at_ .K).cluster 0 0).badSpad (0 + (0 + 256 * 1)) 1 = none
    ∧ (at_ .K).team? st0 = some team1 := by decide

/-! ### Witnesses: the vector unit -/

theorem test_witness_VectorQueueResults :
    ((vectorInstrs { h96 with pq := some 1 } .bf16 .fp32 .rz true false 0 3 4 5 6 ⟨8, 1, 1, 0⟩ ⟨8, 1, 1⟩ ⟨8, 1⟩ ⟨8, 16⟩).all fun x =>
        (x.1 matches .vshl .. | .vshr ..) || (may (withTids (at_ .C)) .C x.1 (some .vec) && may (withTids (at_ .C)) .C x.1 (some .sfu)))
      = true
    ∧ ((vectorInstrs h96 .i8 .fp32 .rne true false 0 3 4 5 6 ⟨8, 1, 1, 0⟩ ⟨8, 1, 1⟩ ⟨8, 1⟩ ⟨8, 16⟩).all fun x =>
        !(x.1 matches .vshl .. | .vshr ..) || may (at_ .C) .C x.1 (some .vec)) = true
    ∧ ((vectorInstrs h96 .bf16 .fp32 .rz true false 0 3 4 5 6 ⟨64, 1, 1, 0⟩ ⟨64, 1, 1⟩ ⟨64, 1⟩ ⟨64, 1⟩).all fun x =>
        ((vecOf x.1 (win 0) (win 128) (win 0) 0).map fun k => (k.early (some team1), k.late (withTids (at_ .C)) (sq .C)))
          == some (if (x.1 matches .vshl .. | .vshr ..) then some Cause.formatIllegal
              else if (x.1 matches .vperm ..) then some .addrRange else none,
            if (x.1 matches .vamx ..) then some Cause.tidInvalid else none))
      = true
    ∧ ((vecOf (.vamx h96 .bf16 1 5 ⟨64, 1⟩) 0 (win 128) 0 0).map fun k => k.late (withTids (at_ .C)) (sq .C)) = some none
    ∧ ((vecOf (.vperm h96 .i8 4 5 6 ⟨1, 1, 1, 1⟩) (win 192) (win 0) (win 64) 0).map fun k => k.early (some team1)) = some none
    ∧ ((vecOf (.vadd h96 .fp32 .rne false 4 5 6 ⟨1, 0, 1, 1⟩) (win 0) (win 0) (win 0) 0).map fun k => k.early (some team1))
      = some (some .strideCode)
    ∧ ((vecOf (.vadd h96 .fp32 .rne false 4 5 6 ⟨65, 1, 1, 1⟩) (win 0) (win 0) (win 0) 0).map fun k => k.early (some team1))
      = some (some .addrRange)
    ∧ ((at_ .C).seq (sq .C)).vecQ.length < 8 := by decide

theorem test_witness_VectorValues :
    ((0xFFFFFFFF < 2 ^ 32 ∧ 0x80 < 2 ^ 8 ∧ 0x7F < 2 ^ (8 - 1) ∧ 0x80 = 2 ^ (8 - 1)) : Prop)
    ∧ (Fmt.bf16.decode 0x7FC0).isNaN = true ∧ (Fmt.e4m3.decode 0xFF).isNaN = true
    ∧ ((Fmt.fp32.decode 0x80000000).isNaN = false ∧ (Fmt.fp32.decode 0xBF800000).lt (Fmt.fp32.decode 0x80000000) = true) := by
  decide

theorem test_witness_LatchResults :
    ([Instr.vrsum { h96 with wq := some 1 } .fp32 .rz 3 5 ⟨64, 1⟩, .vrmax h96 .i8 .rne 0 5 ⟨256, 1⟩, .vrmin h96 .bf16 .rne 0 5 ⟨0, 31⟩].all
      fun i => may (at_ .C) .C i (some .vec)) = true
    ∧ ([Instr.zget h32 3 3, .zset h32 3 1, .zclr hq 0].all fun i => may (at_ .C) .C i) = true
    ∧ (decide ((64 : BitVec 16) ≠ 0) && !Fmt.fp32.blocked
        && (regionCause (some team1) [⟨⟨win 0, 1, 4⟩, 64, false⟩]).isNone) = true
    ∧ ((at_ .C).cluster 0 0).badSpad = []
    ∧ may (at_ .C) .C (.vrsum h96 .sx4 .rne 0 5 ⟨0, 1⟩) (some .vec) = true ∧ Fmt.sx4.blocked = true := by decide

/-! ### Witnesses: the matrix engine -/

/-- Tile slot 1 of macros 0 to 1 holds an E4M3 tile; entry 2 is an E4M3 tensor. -/
def tiled (s : State) : State :=
  s.modCluster 0 0 fun c => { c with
    tiles := [(1, { v := true, fmt := .e4m3 })], tid := [(0, tidOf 1 0xFF0000000000 8 8 2), (2, tidOf 3 0xFF0000000080 8 4 1)] }

theorem test_witness_MatrixQueueResults :
    may (tiled (at_ .C)) .C (.mma hq false true .rd 0 2 5 6 ⟨0, 0, 0, 0⟩) (some .mat) = true
    ∧ may (tiled (at_ .C)) .C (.mma h96 true false .rz 0 2 5 6 ⟨63, 1, 1, 0⟩) (some .mat) = true
    ∧ (tiled (at_ .C)).mayIssue (sq .C) (.mmak h96 false false .rne 0 2 4 5 6 ⟨0, 0, 1, 0⟩ 2047) { h96 with wq := none } (some .mat) = true
    ∧ ([Instr.aclr hq 5 6, .adrn h96 true true .rz true true 0 4 5 6 0x1FFFF].all fun i => may (tiled (at_ .C)) .C i) = true
    ∧ ([Instr.atq hq 0 4 5, .ats h64 0 2 5 6, .atf h64 true 5 6].all fun i => may (tiled (at_ .C)) .C i (some .mat)) = true
    ∧ ((tiled (at_ .C)).mmCheck (sq .C) ⟨false, false, false, .rne, 1, 1, 1, 0, 0, 0⟩ 0 2 0 0 8).toOption.isSome = true
    ∧ ((tiled (cadenced (at_ .C))).mmCheck (sq .C) ⟨true, false, false, .rne, 1, 1, 1, 0, 0, 0⟩ 0 2 7 0 8).toOption.isSome = true
    ∧ field 8#64 0 16 ≠ 0 ∧ 64 < 1 + 2 * 32 ∧ 0 + 1 * 64 ≤ 64
    ∧ (field 0x1FFFF#64 0 17 + field 1#64 0 18 = 131072) ∧ 131072 < field 0x1FFFF#64 0 17 + field 2#64 0 18
    ∧ (tiled (at_ .C)).useTid (sq .C) 0 = .ok (tidOf 1 0xFF0000000000 8 8 2)
    ∧ (drainOf (tidOf 1 0xFF0000000000 8 8 2) 0 0x1FFFC 0x10004 false 0).check (some team1) = none
    ∧ ((tiled (at_ .C)).attnCheck (sq .C) [0] 0 8).toOption.isSome = true
    ∧ ((tiled (at_ .C)).attnCheck (sq .C) [0, 2] 7 1).toOption.isSome = true
    ∧ field 0x1FFC0#64 0 17 % 64 = 0 ∧ field 0x1FFFE#64 0 17 % 2 = 0 := by decide

/-- An MMA or an MMAK at the head of the matrix queue, whose tag 7 arrived in rotation 3 at TSC 1000. -/
def matHead (i : Instr) (xb : Word) (target : Option (BitVec 32)) (tsc : Nat) (f : Cluster → Cluster := id) : State :=
  ((withSeq (cadenced (at_ .C)) .C fun q => { q with matQ := [{ cmd i 7 0 xb with target := target }] }).modDie 0 fun d =>
    { d with tsc := tsc, lastArr := [(7, (3, 1000))], frames := [(0, { st := .full, tag := 7, rot := 3, arrived := 1000 })] }).modCluster 0 0 f

def tiled4 (s : State) : State :=
  s.modCluster 0 0 fun c => { c with tiles := [(0, { v := true, fmt := .e4m3 }), (1, { v := true, fmt := .e4m3 })] }

/-- An MMA of `n` rows, `pix` of them done, of the tensors above. -/
def mmaCmd (pix n : Nat) : Cmd :=
  { cmd (.mma h64 false false .rne 0 2 5 6 ⟨0, 0, 0, 0⟩) 0 0 (BitVec.ofNat 64 n) pix with
    tids := [tidOf 1 0xFF0000000000 8 8 2, tidOf 3 0xFF0000000080 8 4 1] }

/-- The cause that a unit of an MMA raises, if any. -/
def mmEnds (m : MmCmd) (e : Eng) : Option Cause :=
  match (mmUnit m 0 true).run e with
  | .error (c, _) => some c
  | .ok _ => none

/-- Tile slot 1 of macro 0 as the landing of rotation 3 of tag 7 leaves it. -/
def landed7 (s : State) : State := s.modCluster 0 0 fun c => { c with tiles := [(1, { v := true, fmt := .e4m3, tag := 7, rot := 3 })] }

theorem test_witness_MatrixEvents :
    let mma : Instr := .mma h64 false false .rne 0 2 5 6 ⟨0, 0, 0, 0⟩
    let mmak : Instr := .mmak h96 false false .rne 0 2 4 5 6 ⟨0, 0, 1, 0⟩ 4
    let mmakW : Instr := .mmak { h96 with wq := some 1 } false false .rne 0 2 4 5 6 ⟨0, 0, 1, 0⟩ 4
    let m : MmCmd := ⟨false, false, false, .rne, 1, 1, 0, 0, 0, 0⟩
    let k : MmCmd := ⟨true, false, false, .rne, 1, 1, 1, 0, 4, 4⟩
    mmRows 0 ≤ 0 ∧ 0 < mmRows 1 ∧ mmOf mma = some m ∧ mmOf mmak = some k
    ∧ ([(1#32, 2#32)] ≠ tileKeys m ((matHead mma 1 none 0).cluster 0 0) ∧ [(1#32, 2#32)] ≠ [])
    ∧ (k.landed ((matHead mmak 1 (some 3) 1064).cluster 0 0) 7 3 = false ∧ (matHead mmak 1 (some 3) 1064).chain.slotOf 7 3 = none)
    ∧ k.landed ((landed7 (matHead mmak 1 (some 3) 1064)).cluster 0 0) 7 3 = true
    ∧ ((matHead mma 1 none 0 fun c => { c with switching := 5 }).cluster 0 0).switching ≠ 0
    ∧ ((matHead mma 1 none 0).cluster 0 0).switching = 0 ∧ ((matHead mma 1 none 0).cluster 0 0).railFor = none
    ∧ ((matHead mma 1 none 0 fun c => { c with lastFid := 2 }).cluster 0 0).lastFid ≠ 0
    ∧ ((matHead mma 1 none 0 fun c => { c with lastFid := 2, railFor := some (0, 0) }).cluster 0 0).railFor = some ((sq .C).slot, 0)
    ∧ ((matHead mma 1 none 0).cluster 0 0).lastFid = 0
    ∧ mmEnds m ⟨matHead mma 1 none 0, sq .C, mmaCmd 0 1⟩ = some .landSlot
    ∧ ((matHead mmak 1 none 1063).die 0).lastOf 7 = some (3, 1000) ∧ (matHead mmak 1 none 1063).residentSince st0 ≤ 1000
    ∧ (matHead mmak 1 (some 3) 1064).rotState 0 7 3 = .here 1000 ∧ ((matHead mmak 1 (some 3) 1064).die 0).arrivedAt 7 3 = some 1000
    ∧ (cadenced (matHead mmak 1 (some 3) 1064) (cad true)).rotState 0 7 3 = .lost
    ∧ (cadenced (matHead mmak 1 (some 3) 1064) { cad with missed := true, missRot := 3 }).rotState 0 7 3 = .missed
    ∧ 1000 + 16 * 4 ≤ (matHead mmak 1 (some 3) 1064).tsc 0
    ∧ (hdrOf mmak).wq = none ∧ (hdrOf mmakW).wq = some 1 ∧ 0 < ((matHead mmakW 1 (some 3) 1064).strand st0).free 1
    ∧ (((matHead mmakW 1 (some 3) 1064).modStrand st0 fun t => { t with q := [] }).strand st0).free 1 = 0
    ∧ ((matHead mma 1 none 0 fun c => { c with switching := 1 }).cluster 0 0).switching = 1 := by decide

/-- Row 0 of 2, and row 1 of 2. -/
theorem test_witness_MatrixEvents_unit :
    (mmOf (.mma h64 false false .rne 0 2 5 6 ⟨0, 0, 0, 0⟩)).map (fun m => [0, 1].map fun k =>
      mmEnds m ⟨tiled4 (matHead (.mma h64 false false .rne 0 2 5 6 ⟨0, 0, 0, 0⟩) 2 none 0), sq .C, mmaCmd k 2⟩)
      = some [none, none] := by decide +kernel


/-! ### Witnesses: atomics, fidelity, remote commands, counters, queue pairs -/

/-- A sequencer that holds an atomic on word or address `p`. -/
def holding (i : Instr) (p : Word) (b : Word) : State :=
  (withSeq (at_ .C) .C fun q => { q with held := some { cmd i 0 p b with seqNo := 0 } }).modDie 0 fun d => { d with stg := [(1, 5)] }

theorem test_witness_AtomicResults :
    ([Instr.aadd hq false 5 6, .aaddf h64 false .ru 5 6, .awr h64 false 5 6, .aaddx h64 false 3 5 6,
      .aaddfx h64 false .rz 0 5 6, .awrx h64 false 31 5 6].all fun i =>
        may (at_ .C [(5, 131070)]) .C i && (atomicOf i).any fun k =>
          (at_ .C [(5, 131070)]).atomicAt (sq .C) k 131070 == .ok (.acc 131070)) = true
    ∧ (131072 : Word).toNat = 131072 ∧ (131071 : Word).toNat < 131072
    ∧ ([(Instr.aaddx h64 false 3 5 6, (131070 : Word)), (.awrx h64 false 3 5 6, 131071), (.aadd h64 true 5 6, 0),
        (.aaddf h64 true .rne 5 6, 2 ^ 32 * 7)].all fun p => ((holding p.1 p.2 9).seq (sq .C)).held.isSome
        && (atomicOf p.1).any (fun k => ((holding p.1 p.2 9).atomicSoft (sq .C) k p.2.toNat).isNone) && !((holding p.1 p.2 9).cluster 0 0).anyPoison p.2.toNat 2) = true := by decide

theorem test_witness_FidelityResults :
    ([Instr.setfid hq 3, .fcrd h32 3 0, .fcrd h32 3 1, .fcrd h32 3 2, .fcclr h32 3].all fun i => may (at_ .C) .C i) = true
    ∧ (∀ c ∈ ((at_ .C).seq (sq .C)).matQ, mmOf c.ins = none)
    ∧ (∃ c ∈ ((matHead (.mma h64 false false .rne 0 2 5 6 ⟨0, 0, 0, 0⟩) 1 none 0).seq (sq .C)).matQ,
        (mmOf c.ins).isSome = true)
    ∧ may (matHead (.mma h64 false false .rne 0 2 5 6 ⟨0, 0, 0, 0⟩) 1 none 0) .C (.fcclr h32 3) = true
    ∧ may (matHead (.mma h64 false false .rne 0 2 5 6 ⟨0, 0, 0, 0⟩) 1 none 0) .C (.fcrd h32 3 2) = true := by decide

/-- A ring of members 0 (this one, the origin) and 3. -/
def ring (s : State) : State := s.modChain fun c => { c with derail := [(0, 0x1800), (1, 0x1003)] }

theorem test_witness_RemoteQueueResults :
    ([Instr.rwr hk 4 5 6, .rrd h64 4 5 6, .rwrr h64 true .ru .bf16 4 5 6, .rwrr h64 false .ru .fp32 4 5 6,
      .rwrr h64 false .rne .e4m3 4 5 6].all fun i => may (ring (at_ .K)) .K i (some .mem)) = true
    ∧ ((0x8003000000200000 : Word).getLsbD 63 = true ∧ field 0x8003000000200000#64 48 5 = 3 ∧ (ring (at_ .K)).chain.knows 3 = true
      ∧ 3 ≠ (ring (at_ .K)).chain.self ∧ field 0x8003000000200000#64 53 10 = 0)
    ∧ ((0x8003071F0001FFFF : Word).getLsbD 63 = true ∧ field 0x8003071F0001FFFF#64 43 5 = 0
      ∧ field 0x8003071F0001FFFF#64 38 2 = 0 ∧ field 0x8003071F0001FFFF#64 17 15 = 0)
    ∧ spadSpan (some team1) (runSpan (win 0) 256) = none ∧ spadSpan (some team1) (runSpan (win 252) (1 * Fmt.size .fp32)) = none
    ∧ (win 252).toNat % Fmt.size .fp32 = 0 ∧ (0x8003000000200000 : Word).toNat % 4 = 0
    ∧ field 0xC000000000000000#64 53 10 ≠ 0 ∧ (0x200000 : Word).getLsbD 63 = false
    ∧ (Fmt.e4m3 ≠ .fp32 ∧ Fmt.e4m3 ≠ .bf16) := by decide

/-- Counter 255 of die 0 belongs to context 0. -/
def counting (v : BitVec 32) (c : Cls := .K) : State := (ring (at_ c)).putCounter 0 255 fun _ => { value := v, ctx := some 0 }
def handle255 : Word := 0x40000000000000FF

theorem test_witness_CounterResults :
    ([Instr.carm hk 5 6, .crd h64 3 5, .cadd h64 5 6, .cwait h64 3 5 6 0, .cwait h64 3 5 6 0xFFFF, .cwait h64 3 5 6 9].all
      fun i => may (counting 7) .K i (some .mem)) = true
    ∧ (handle255.getLsbD 63 = false ∧ handle255.getLsbD 62 = true ∧ field handle255 53 9 = 0 ∧ field handle255 43 5 = 0
      ∧ field handle255 8 32 = 0 ∧ field handle255 40 3 = 0 ∧ field handle255 0 8 = 255 ∧ field handle255 48 5 = 0
      ∧ ((counting 7).counter 0 255).ctx = some ((counting 7).ctxOf (strandOf (sq .K))))
    ∧ ((0xC0000000000000FF : Word).getLsbD 63 = true ∧ field 0xC0000000000000FF#64 48 5 = (counting 7).chain.self
      ∧ (counting 7).chain.knows (counting 7).chain.self = true)
    ∧ ((counting 7).counter 0 254).ctx ≠ some ((counting 7).ctxOf st0)
    ∧ ((counting 7).chain.knows 3 = true ∧ 3 ≠ (counting 7).chain.self ∧ (counting 7).chain.knows 4 = false)
    ∧ (let s := withSeq (counting 7) .K fun q => { q with collQ := [cmd (.rwr h64 4 5 6) 0 0x8003000000000000 0] }
      (∃ c ∈ (s.seq (sq .K)).collQ, s.ptrFar c.xa = true ∧ field c.xa 48 5 = 3) ∧ may s .K (.cadd h64 5 6) (some .mem) = true)
    ∧ (((counting 0xFFFFFFFE).counter 0 255).value.toNat + (low32 1).toNat < 2 ^ 32)
    ∧ (2 ^ 32 ≤ ((counting 0xFFFFFFFF).counter 0 255).value.toNat + (low32 1).toNat)
    ∧ (low32 7 ≤ ((counting 7).counter 0 255).value) ∧ (((counting 7).counter 0 255).value < low32 8)
    ∧ ((counting 7).seq (sq .K)).collQ = [] ∧ (counting 7).chain.skipped 3 = false
    ∧ ((counting 7).modChain fun c => { c with derail := [(0, 0x1800), (1, 0x1403)] }).chain.skipped 3 = true
    ∧ ((0xC003000000000001 : Word).getLsbD 63 = true ∧ field 0xC003000000000001#64 48 5 = 3
      ∧ (0xC003000000000001 : Word).getLsbD 62 = true ∧ field 0xC003000000000001#64 53 9 = 0
      ∧ field 0xC003000000000001#64 43 5 = 0 ∧ field 0xC003000000000001#64 8 32 = 0)
    ∧ ((1 : Word).getLsbD 62 = false ∨ field 1#64 8 32 ≠ 0) ∧ field 0x4000008000000000#64 8 32 ≠ 0
    ∧ field 0x4000010000000000#64 40 3 ≠ (sq .K).die := by decide

/-- Queue pair 7 of die 0 belongs to context 0; the scratchpad holds 64 bytes of an entry NOP (R277). -/
def posting (full : Bool) : State :=
  (ring (at_ .K [(5, win 64), (6, win 0)])).modDie 0 fun d => { d with
    qps := [(7, { ctx := some 0, posted := 64, entries := if full then [{ pos := 0, image := [], ctx := 0 }] else [] })] }

/-- An image of QSLOT (R290): V, base 0, length 64, slots all for requester 0, no timer. -/
def slotImage : List Byte := [1] ++ List.replicate 11 0 ++ [64] ++ List.replicate 147 0
def slotting (filled : Bool) : State :=
  (at_ .K [(5, 63), (6, win 32)]).modCluster 0 0 (fun c => { c with
      spad := Tbl.writeRun 0 c.spad 32 slotImage, ranges := [(15, { v := true, len := 1, filled := if filled then 1 else 0 })] })

theorem test_witness_QueuePairResults :
    ([Instr.qpost hk false 3 5 7, .qpost h64 true 3 5 7].all fun i => may (posting true) .K i (some .mem)) = true
    ∧ (posting false).imageAt (sq .K) (win 64) 64 64 = .ok (List.replicate 64 0)
    ∧ (posting false).entryCheck (sq .K) (List.replicate 64 0) = none
    ∧ ((posting false).qpair 0 7).ctx = some ((posting false).ctxOf (strandOf (sq .K)))
    ∧ (((posting false).qpair 0 7).entries.any fun e => e.pos == ((posting false).qpair 0 7).posted % 64) = false
    ∧ (((posting true).qpair 0 7).entries.any fun e => e.pos == ((posting true).qpair 0 7).posted % 64) = true
    ∧ ((posting true).qpair 0 6).ctx ≠ some ((posting true).ctxOf (strandOf (sq .K)))
    ∧ ([Instr.qslot hk false true 5 6, .qslot h64 true false 5 6].all fun i => may (slotting false) .K i (some .mem)) = true
    ∧ ((slotting false).imageAt (sq .K) (win 32) 160 32).toOption.any (fun b => b == slotImage) = true
    ∧ (imageRange slotImage).v = true
    ∧ (slotting false).imageCheck (.stg 0) 63 slotImage = none ∧ (slotting false).imageCheck (.acc 0 0) 15 slotImage = none
    ∧ (((slotting false).range (.acc 0 0 15)).tmd = false ∧ ((slotting false).range (.acc 0 0 15)).filled = 0
      ∧ ((slotting false).range (.acc 0 0 15)).contribs = [])
    ∧ (((slotting true).range (.acc 0 0 15)).tmd = false ∧ ((slotting true).range (.acc 0 0 15)).filled ≠ 0)
    ∧ 16 ≤ field 16#64 0 6 ∧ field 15#64 0 6 = 15 := by decide

/-! ### Witnesses: the system instructions -/

theorem test_witness_CsrResults :
    ([(0x000 : BitVec 12), 0x001, 0x002, 0x003, 0x008, 0x011, 0x012, 0x021, 0x022, 0x025, 0x030, 0x031, 0x032, 0x038].all
      fun n => may (at_ .C) .C (.csrr hq 3 n)) = true
    ∧ ([(0x010 : BitVec 12), 0x018, 0x019, 0x01A].all fun n => mayHub hub (.csrr h64 3 n)) = true
    ∧ may (at_ .C) .C (.csrw h64 0x008 5) = true ∧ mayHub hub (.csrw h64 0x010 5) = true
    ∧ mayHub (hub.modHub 0 fun x => { x with regs := { x.regs with csel := 0xB5 } }) (.csrw h64 0x024 5) = true
    ∧ ((0xB5 : BitVec 8).getLsbD 7 = true ∧ ((0xB5 : BitVec 8).setWidth 6 : BitVec 6).toNat ≤ 53)
    ∧ may (at_ .C) .C (.tsr h32 3) = true ∧ mayHub hub (.tsr h32 3) = true := by decide

/-- Strand 0 begins to stop for TRAP 0. -/
def stopping (s : State) : State :=
  s.stopsFor st0 ⟨.userTrap, .d, .C, 0x1000, 0, 0, 0, 0⟩

theorem test_witness_TrapEntry :
    may (at_ .C) .C (.trap h64 31 0xFFFF) = true ∧ ((at_ .C).strand st0).stop = .running
    ∧ ((stopping (at_ .C)).strand st0).stop = .stopping ⟨.userTrap, .d, .C, 0x1000, 0, 0, 0, 0⟩
    ∧ (stopping (withSeq (at_ .C) .C fun q => { q with wait := some .held })).unsettled st0 = true
    ∧ (stopping (at_ .C)).unsettled st0 = false ∧ ((stopping (at_ .C)).die 0).hub.held = none
    ∧ ((stopping (at_ .C)).die 0).hub.trapQ = []
    ∧ (((at_ .C).die 0).badTm = [] ∧ ((at_ .C).die 0).badPm = []) := by decide

theorem test_witness_IssueOrder :
    (at_ .C).acts st0 = true ∧ ((at_ .C).seq (sq .C)).flights.length < 8
    ∧ mayExecute (majOf (.land hk .sx4 9 3 4 63 0 7)) (minOf (.land hk .sx4 9 3 4 63 0 7)) (immOf (.land hk .sx4 9 3 4 63 0 7)) .C = .wrong
    ∧ mayExecute (majOf (.eret h32 1)) (minOf (.eret h32 1)) (immOf (.eret h32 1)) .C = .priv
    ∧ (Instr.nop ⟨false, 0, .w32, some 1, none⟩).wf = false ∧ (at_ .C).isConsumer (sq .C) 0 = false
    ∧ (at_ .C).isProducer (sq .C) 0 = false
    ∧ (at_ .C).precheck (.nop hq) hq = none ∧ ((at_ .C).seq (sq .C)).popped = none
    ∧ (((at_ .C).modStrand st0 fun t => { t with qFree := [] }).strand st0).free 1 = 0
    ∧ ((at_ .C).modCluster 0 0 fun c => { c with permits := [(0, 0), (1, 0), (2, 0), (3, 0)] }).precheck (.nop h32) h32 = none
    ∧ (((at_ .C).modCluster 0 0 fun c => { c with permits := [(0, 0), (1, 0), (2, 0), (3, 0)] }).cluster 0 0).held .mem = 0
    := by decide

/-- The header of R305 of one strand, 64 bytes of scratchpad, FID 0 and one entry. -/
def goodHdr : List Byte :=
  [1, 0, 0, 1] ++ List.replicate 28 0 ++ [64, 0, 0, 0] ++ List.replicate 12 0 ++ [0, 0x10] ++ List.replicate 142 0

/-- Launch queue 63 belongs to context 0 and holds `n` launches; the slab holds `b` at 0x1000. -/
def launching (n : Nat) (b : List Byte) : State :=
  ((mapped (at_ .K [(5, 0x1000)])).modSched fun c => { c with
    queues := [(63, { cfg := 0x8000000000, ids := (List.range n).map fun k => BitVec.ofNat 32 (k + 2) })] }).writeMem 0x1000 b

theorem test_witness_LaunchResult :
    ([Instr.lnch hk false 3 5 63, .lnch h64 true 0 5 63].all fun i => may (launching 63 goodHdr) .K i) = true
    ∧ ((launching 0 goodHdr).queue 63).valid = true ∧ ((launching 0 goodHdr).queue 63).ctx = (launching 0 goodHdr).ctxOf st0
    ∧ ((launching 0 goodHdr).X 5).toNat < 2 ^ 48 ∧ ((launching 0 goodHdr).X 5).toNat % 64 = 0
    ∧ (launching 0 goodHdr).slabRuns 0 0 0x1000 192 .read = .ok [(0x1000, 192)]
    ∧ (launching 0 goodHdr).readMem 0x1000 192 = goodHdr ∧ headerBad goodHdr = false
    ∧ headerBad (List.replicate 192 0) = true ∧ ((launching 64 goodHdr).queue 63).ids.length = 64
    ∧ ((launching 0 goodHdr).queue 62).valid = false := by decide


/-- Die 0's translation entries: number 0 of page 0 of context 0, number 1 locked, number 3 of page 1. -/
def entries : Tbl (BitVec 64) := [(0, 0x1D000), (1, 0x200100000000F000), (3, 0x0000002000000000 ||| 0x13D000)]
def hubTm (x : Tbl Word) : State := (hub x).modDie 0 fun d => { d with tm := entries }

theorem test_witness_TranslationResults_tld :
    ([Instr.tld h64 3 6 none, .tld h96 3 6 (some 4095)].all fun i => mayHub (hubTm []) i) = true
    ∧ field 0x1D000#64 0 12 = 0 ∧ entryClass 0x1D000#64 < 4
    ∧ ((entries.find? fun p => p.2.getLsbD 12 && field p.2 33 31 == field 0x1D000#64 33 31) = some (0, 0x1D000)
        ∧ (0x1D000 : BitVec 64).getLsbD 13 = false)
    ∧ ((∀ p ∈ entries, ¬ (p.2.getLsbD 12 = true ∧ field p.2 33 31 = field 0x000000600001D000#64 33 31))
        ∧ 2 < 4096 ∧ ((Tbl.get 0 entries 2 : BitVec 64).getLsbD 12) = false ∧ ((Tbl.get 0 entries 2 : BitVec 64).getLsbD 13) = false
        ∧ ∀ m < 2, (Tbl.get 0 entries m : BitVec 64).getLsbD 12 = true)
    ∧ field 0x1D001#64 0 12 ≠ 0 ∧ 4 ≤ entryClass 0x19D000#64 := by decide

/-- Set 1 of a position map: ways 0 and 1 hold requests 2 and 1 of context 0. -/
def mapWays : Tbl (BitVec 128) := [(4, 0x00002000000000000800000000000000), (5, 0x00001000000000000800000000000000)]

theorem test_witness_TranslationResults_pmld :
    ([Instr.pmld h64 3 5 6 none, .pmld h96 3 5 6 (some 3)].all fun i => mayHub (hubTm []) i) = true
    ∧ ([Instr.tlk h64 5 true, .tlk h64 5 false, .tinv h64 3 5 0, .tinv h64 3 5 1, .tinv h64 3 5 2].all fun i =>
        mayHub (hubTm [(5, 3)]) i) = true
    ∧ (((0x0000100000000000 : Word) ++ (0x0800000000000000 : Word)).extractLsb' 0 58 = 0)
    ∧ posSet 0 1 0 = 1
    ∧ ((∀ k < 4, ((Tbl.get 0 mapWays (1 * 4 + k) : BitVec 128).getLsbD 59 = true
          ∧ (Tbl.get 0 mapWays (1 * 4 + k) : BitVec 128).extractLsb' 88 40
            = (0x00001000000000000800000000000000 : BitVec 128).extractLsb' 88 40) ↔ k = 1)
        ∧ ((Tbl.get 0 mapWays (1 * 4 + 1) : BitVec 128).getLsbD 58) = false
        ∧ ((Tbl.get 0 mapWays (1 * 4 + 2) : BitVec 128).getLsbD 59) = false
        ∧ ((Tbl.get 0 mapWays (1 * 4 + 2) : BitVec 128).getLsbD 58) = false
        ∧ (∀ k < 2, (Tbl.get 0 mapWays (1 * 4 + k) : BitVec 128).getLsbD 59 = true)
        ∧ ∀ k < 4, ¬ ((Tbl.get 0 mapWays (1 * 4 + k) : BitVec 128).getLsbD 59 = true
            ∧ (Tbl.get 0 mapWays (1 * 4 + k) : BitVec 128).extractLsb' 88 40
              = (0x00003000000000000800000000000000 : BitVec 128).extractLsb' 88 40)) := by decide

/-- Hub 0 handles strand 0, which has stopped; launch 1 with its context, and an image header of it at 0x2000. -/
def hubTrap (x : Tbl Word := []) : State :=
  let s : State := hub x
  ({ s with
    strands := [(stKey st0, { team := 1, stop := .stopped ⟨.userTrap, .d, .C, 0x1000, 0, 0, 0, 0⟩ })]
    sched := { launches := [(1, { ctx := 0, queue := 0, hdr := goodHdr })], teams := [(1, team1)] }
    ctxs := [(0, { live := true })] }.modHub 0 fun b =>
      { b with held := some st0, regs := { b.regs with tframe := BitVec.ofNat 64 (s.frameArea st0 + 1) } }).writeMem 0x2000
        (imageHeader { team1 with pipe := false } goodHdr 0 0 5696)

/-- The same with a replay entry of K that names no operation. -/
def hubBadReplay : State :=
  let b := hubTrap.frameArea st0 + 1024 + 1024 * Cls.K.code
  (hubTrap.writeMem (b + 11) [1]).writeMem (b + 310) [1]

theorem test_witness_HubResults_eret :
    ([Instr.eret h32 3, .rply h32 5, .idle h32 3, .ctxs h64 true 3 5 6, .ctxs h64 false 3 5 6, .ctxl h64 3 5 6, .fwd h64 true false 3 5 6 64].all
      fun i => mayHub (hubTrap [(5, 3)]) i) = true
    ∧ hub.hubStrand 0 = none ∧ mayHub hub (.eret h32 3) = true ∧ (hubTrap []).hubStrand 0 = some st0
    ∧ ((hubTrap []).strand st0).stop = .stopped ⟨.userTrap, .d, .C, 0x1000, 0, 0, 0, 0⟩
    ∧ (((hubTrap []).advance h32).resume st0 ((hubTrap []).strand st0) ((hubTrap []).frameBytes st0)).isSome = true
    ∧ (hubBadReplay.hubStrand 0 = some st0 ∧ mayHub hubBadReplay (.eret h32 3) = true
      ∧ ((hubBadReplay.advance h32).resume st0 (hubBadReplay.strand st0) (hubBadReplay.frameBytes st0)).isNone = true)
    ∧ ((hubTrap [(5, 3)]).X 5).toNat % 4 = Cls.K.code
    ∧ parseFlights ((hubTrap []).readMem ((hubTrap []).frameArea st0 + 1024 + 1024 * Cls.K.code) 1024) 0
        (((hubTrap []).besides ((hubTrap []).strand st0).wid ((hubTrap []).strand st0).launchId).flightsOf .K)
      = ([] : List Flight).map some := by decide

theorem test_witness_HubResults_context :
    hub.stoppedTeam 0 = none ∧ (hubTrap []).stoppedTeam 0 = some (1, team1)
    ∧ ([Instr.ctxs h64 true 3 5 6, .ctxl h64 3 5 6, .idle h32 3, .fwd h64 true false 3 5 6 64].all
      fun i => mayHub hub i) = true
    ∧ (0x40 : Word).toNat % 64 = 0 ∧ field 0x000200000001FFFF#64 0 17 = 131071 ∧ 131071 + field 0x00000001#64 32 18 ≤ 131072
    ∧ 131072 < field 0x000200010001FFFF#64 0 17 + field 0x000200020001FFFF#64 32 18 ∧ (1 : Word).toNat % 64 ≠ 0
    ∧ (((hubTrap []).advance h64).restoreTeam 0x2000 0x700).isSome = true
    ∧ (((hubTrap []).die 0).hub.held ≠ none) ∧ (hub.die 0).hub.held = none ∧ (hub.die 0).hub.trapQ = []
    ∧ (hub.die 0).hub.mail = false ∧ (hub.die 0).hub.event = false
    ∧ ((hub.modHub 0 fun b => { b with mail := true }).die 0).hub.mail = true
    ∧ ((hub.modHub 0 fun b => { b with event := true }).die 0).hub.event = true
    ∧ (0x7F0000 : Word).toNat % 65536 = 0 ∧ (0x7F800000 : Word).toNat + (64 : BitVec 7).toNat * 131072 ≤ slabSize
    ∧ slabSize < (0x3FF810000 : Word).toNat + (64 : BitVec 7).toNat * 131072 := by decide

/-- The image of the stopped team fits at the start of the slab. -/
theorem test_witness_HubResults_image : 64 + 256 + ((hubTrap []).teamImage { team1 with pipe := false } 131071 1).length ≤ slabSize := by
  decide


/-! ### Witnesses: events of strands, lanes, the chain -/

def flight (rem : Nat) (post : Option (BitVec 3) := none) : Flight := ⟨0x1000, 0, 0, rem, 0, 0, 0, .x 3, .set, 7, 0, post, 1⟩

/-- K waits in `c` for `w`, 2^24 cycles after the last step of its strand; counter 255 holds `v`. -/
def waiting (c : Cmd) (w : Wait) (v : BitVec 32) : State :=
  (withSeq (counting v) .K fun q => { q with x := [(5, handle255), (6, 8)], wait := some w, held := some c }).modDie 0
    fun d => { d with tsc := 16777216 }

theorem test_witness_StrandEvents :
    let busy := withSeq (at_ .K) .K fun q => { q with flights := [flight 1, flight 4 (some 3)] }
    let timed (i : Instr) : Cmd := { cmd i 3 handle255 8 with head := some 16777216 }
    ((busy.strand st0).stop = .running ∧ (busy.seq (sq .K)).live = true ∧ (busy.seq (sq .K)).stepReady (busy.tsc 0) = true
      ∧ ∀ f ∈ (busy.seq (sq .K)).flights, f.rem ≤ 1 → f.post = none)
    ∧ (flight 1).dest = .x 3 ∧ (Wait.queue.holds = false ∧ Wait.queue ≠ .held)
    ∧ ((waiting (cmd (.fenceE hk)) .fence 7).seq (sq .K)).held = some (cmd (.fenceE hk))
    ∧ (((waiting (cmd (.fenceE hk)) .fence 7).seq (sq .K)).lds = [] ∧ ((waiting (cmd (.fenceE hk)) .fence 7).seq (sq .K)).cmds = [])
    ∧ ((waiting (cmd (.fcclr h32 3)) .matrix 7).seq (sq .K)).wait = some .matrix
    ∧ (∀ k ∈ ((waiting (cmd (.fcclr h32 3)) .matrix 7).seq (sq .K)).matQ, mmOf k.ins = none)
    ∧ (let s := waiting (timed (.cwait hk 3 5 6 9)) (.counter none) 9
      (s.seq (sq .K)).wait = some (.counter none) ∧ field handle255 40 3 = 0 ∧ field handle255 0 8 = 255
        ∧ low32 8 ≤ (s.counter 0 255).value)
    ∧ ((at_ .K).cur = .seq (sq .K) ∧ Cause.majUnassigned ≠ .xlateMiss)
    ∧ (let s := waiting (cmd (.wtag hk 3 9)) (.arrival none) 7
      (s.strand st0).lastStep + 16777216 ≤ s.tsc 0 ∧ (s.seq (seqOf st0 .K)).wait ≠ none
        ∧ s.masked st0 .watchdog = false ∧ (s.modStrand st0 fun t => { t with cmask := maskable }).masked st0 .watchdog = true)
    ∧ (let s := waiting (timed (.wtag hk 3 9)) (.arrival none) 7
      (s.seq (sq .K)).wait = some (.arrival none) ∧ 16777216 ≤ s.tsc 0 ∧ s.pendingArrivals (strandOf (sq .K)) = [])
    ∧ (let s := waiting (timed (.cwait hk 3 5 6 9)) (.counter none) 7
      (s.counter 0 255).value < low32 (timed (.cwait hk 3 5 6 9)).xb) := by decide

/-- Lane 5 of die 1 in service, with two flits of die 1 on their way to member 3. -/
def lanes (f : Lane → Lane := id) : State :=
  (ring State.reset).modLane 1 5 fun l => f { l with use := 3, ch := 3, unacked := [⟨9, 2, 0, [], 1⟩, ⟨10, 3, 0, [], 1⟩] }

/-- A data flit of die 2 of member 3 with the SEQ `q`; one with a wrong byte. -/
def flitOf (q : BitVec 32) : DataFlit := ⟨3, 2, SentFlit.bytes ⟨q, 0, 0, [7], 2⟩⟩
def badFlit : DataFlit := ⟨3, 2, (flitOf 0).bytes.set 1 1⟩

/-- Of the flits from there SEQ 0 is the next, and SEQ 2 has come early, or SEQ 0 has. -/
def receiving (early : List (BitVec 32 × List Byte)) : State := (lanes).modLink (.data 2) 3 fun k => { k with early := early }

theorem test_witness_LaneEvents :
    ((lanes).lane 1 5).use = 3
    ∧ ((lanes).lane 1 5).unacked.find? (fun g => g.src == 1 && g.seq == 9) = some ⟨9, 2, 0, [], 1⟩
    ∧ ((lanes).lane 1 5).unacked.find? (fun g => g.src == 1 && g.seq == 10) = some ⟨10, 3, 0, [], 1⟩
    ∧ ((lanes).lane 1 5).retune = false ∧ ((lanes).lane 1 5).bkt ≠ 8 ∧ ((lanes fun l => { l with bkt := 8 }).lane 1 5).bkt = 8
    ∧ (((lanes fun l => { l with trn := true }).lane 1 5).trn = true
      ∧ ((lanes fun l => { l with trn := true }).lane 1 5).busy ≤ (lanes fun l => { l with trn := true }).tsc 1)
    ∧ (((lanes fun l => { l with retune := true }).lane 1 5).retune = true
      ∧ ((lanes fun l => { l with retune := true }).lane 1 5).tuned ≤ (lanes fun l => { l with retune := true }).tsc 1)
    ∧ (0 < (((lanes fun l => { l with bkt := 1 }).modDie 1 fun d => { d with tsc := 6000000000 }).lane 1 5).bkt
      ∧ (((lanes fun l => { l with bkt := 1 }).modDie 1 fun d => { d with tsc := 6000000000 }).lane 1 5).bktAt + 6000000000
        ≤ ((lanes fun l => { l with bkt := 1 }).modDie 1 fun d => { d with tsc := 6000000000 }).tsc 1)
    ∧ (((lanes).lane 1 5).los = false
      ∧ ((((lanes).modLane 1 5 fun l => { l with los := true, trn := false }).moveAll 1 5 ((lanes).lane 1 5)).lane 1 5).use = 3)
    ∧ ((lanes fun l => { l with los := true }).lane 1 5).los = true ∧ ((lanes fun l => { l with los := true }).lane 1 5).ret = false
    ∧ controlGood (List.replicate 36 0) = false := by decide

theorem test_witness_LaneEvents_flits :
    flitGood badFlit = false ∧ flitGood (flitOf 0) = true ∧ flitGood (flitOf 1) = true ∧ flitGood (flitOf 0xFFFFFFFF) = true
    ∧ (flitSeq (flitOf 0) = ((receiving []).link (.data 2) 3).next ∧ ((receiving []).link (.data 2) 3).early = [])
    ∧ 2 ^ 31 ≤ (flitSeq (flitOf 0xFFFFFFFF) - ((receiving []).link (.data 2) 3).next).toNat
    ∧ (0 < (flitSeq (flitOf 1) - ((receiving [(2, [])]).link (.data 2) 3).next).toNat
      ∧ (flitSeq (flitOf 1) - ((receiving [(2, [])]).link (.data 2) 3).next).toNat < 2 ^ 31
      ∧ ∀ e ∈ ((receiving [(2, [])]).link (.data 2) 3).early, e.1 ≠ flitSeq (flitOf 1)
        ∧ e.1 ≠ ((receiving [(2, [])]).link (.data 2) 3).next)
    ∧ (∃ e ∈ ((receiving [(1, [])]).link (.data 2) 3).early, e.1 = flitSeq (flitOf 1)) := by decide +kernel

/-- A header of rotation `n` of tag 7, 1 MiB, for die 0. -/
def hdrAt (n : BitVec 32) : SegHdr := ⟨0, 1, 0, 7, n, 0, true⟩

/-- Rotation 3 of tag 7 in frame 0 of die 0 and in freewheel slot 0, arrived at TSC 1000. -/
def arrived (tsc : Nat) (e : Cadence := cad false 1) : State :=
  ((ring (cadenced (at_ .K) e)).modChain fun c => { c with slots := [(0, some ⟨7, 3, false, [], [0]⟩)] }).modDie 0 fun d =>
    { d with tsc := tsc, credits := 1, lastArr := [(7, (3, 1000))]
             frames := [(0, { st := .full, tag := 7, rot := 3, size := 1, slot := some 0, got := 128, arrived := 1000 })] }

/-- All freewheel slots hold other rotations. -/
def noSlot : State := (cadenced State.reset (cad false 1)).modChain fun c =>
  { c with slots := (List.range 16).map fun n => (n, some ⟨9, BitVec.ofNat 32 n, false, [], []⟩) }

/-- Rotations of the LOST tag 7 are expected every 100 counts; die 0 has come to TSC `n`. -/
def expecting (n : Nat) : State :=
  ((cadenced State.reset (cad true)).modChain fun c => { c with trot := 100 }).modDie 0 fun d => { d with tsc := n }

/-- The head of a landing queue. -/
def landHead (begun : Bool) : Cmd :=
  { cmd (.land hk .fp16 9 3 4 63 0 7) 0 7 0 with target := some 3, begun := begun }
def landingAt (begun : Bool) (e : Cadence) : State :=
  withSeq (arrived 1003 (e := e)) .K fun q => { q with landQ := [landHead begun] }

theorem test_witness_ChainEvents_header :
    (State.reset.die 0).incoming = []
    ∧ ((cadenced State.reset).cadence? (hdrAt 0).tag = some cad ∧ (hdrAt 0).die.toNat = 0 ∧ 1 ≤ (hdrAt 0).size.toNat
      ∧ (hdrAt 0).size.toNat ≤ 64 ∧ (hdrAt 0).flags &&& 0xFC = 0 ∧ cad.size = (hdrAt 0).size ∧ cad.nreg = 0
      ∧ Tbl.get? ((cadenced State.reset).die 0).lastArr (hdrAt 0).tag.toNat = none ∧ cad.hdrRot ≠ some (hdrAt 0).rot)
    ∧ (cad false 1).nreg ≠ 0 ∧ (cadenced State.reset (cad false 1)).chain.freeSlot = some 0 ∧ noSlot.chain.freeSlot = none
    ∧ noSlot.cadence? 7 = some (cad false 1)
    ∧ ({ hdrAt 0 with rsvZero := false } : SegHdr).rsvZero = false ∧ (cadenced State.reset).chain.slotOf 7 0 = none
    ∧ State.reset.cadence? (hdrAt 0).tag = none
    ∧ (((arrived 1003).die 0).incoming = [] ∧ Tbl.get? ((arrived 1003).die 0).lastArr (hdrAt 3).tag.toNat = some (3, 1000)
      ∧ (arrived 1003).cadence? 7 = some (cad false 1) ∧ (hdrAt 3).rot = 3 ∧ (cad false 1).size = (hdrAt 3).size) := by decide

theorem test_witness_ChainEvents :
    ((arrived 1003).chain.successor = some 3 ∧ 0 < ((arrived 1003).die 0).credits ∧ ((arrived 1003).die 0).fwd = []
      ∧ Tbl.get {} ((arrived 1003).die 0).frames ((arrived 1003).die 0).nextSend
        = ({ st := .full, tag := 7, rot := 3, size := 1, slot := some 0, got := 128, arrived := 1000 } : Frame)
      ∧ (arrived 1003).cadence? 7 = some (cad false 1) ∧ (arrived 1003).departs (cad false 1) (3 : BitVec 32).toNat ≤ (arrived 1003).tsc 0)
    ∧ ((arrived 1003).chain.fslot 0 = some ⟨7, 3, false, [], [0]⟩
      ∧ Tbl.get? ((arrived 1003).die 0).lastArr (7 : BitVec 32).toNat = some (3, 1000)
      ∧ 1000 + (cad false 1).dwell.toNat ≤ (arrived 1003).tsc 0)
    ∧ ((expecting 101).cadence? 7 = some (cad true) ∧ (cad true).lost = true
      ∧ ∀ d < 8, (expecting 102).expectedNow (cad true) ((expecting 102).tsc d) ((expecting 102).die d).span = none)
    ∧ ((expecting 201).expectedNow (cad true) ((expecting 201).tsc 0) ((expecting 201).die 0).span = some (2, 201)
      ∧ ((expecting 201).die 0).lastOf 7 = none
      ∧ ∀ d < 8, d ≠ 0 → (expecting 201).expectedNow (cad true) ((expecting 201).tsc d) ((expecting 201).die d).span = none)
    ∧ (5 < (expecting 0).chain.trot ∧ (expecting 0).expectedNow (cad true) ((expecting 0).expected (cad true) 0 + 2 * 100 + 5) 6
      = some (2, 201))
    ∧ (landOf (landHead true).ins).isSome = true ∧ ((landingAt true (cad false 1)).seq (sq .K)).landQ = [landHead true]
    ∧ ((landingAt false (cad true)).seq (sq .K)).landQ = [landHead false]
    ∧ (landingAt false (cad true)).rotState 0 (low32 7) 3 = .lost := by decide

/-! ### Witnesses: ranges, work entries, remote units -/

/-- A CPYR of K waits in slot 0 of a range of words 0 to 63 of its accumulator; its round has begun at TSC 0. -/
def contrib (begun : Bool := false) : Contrib := ⟨.seq (sq .K) 1, 3, 4, some ⟨0, 0⟩, false, begun⟩
def ranged (tsc : Nat) (expired : Bool := false) (c : Cmd := cmd (.cpyr hk true .rne .fp32 4 5 6) 0 (win 0) 4) : State :=
  ((withSeq (at_ .K) .K fun q => { q with copyQ := [c] }).modDie 0 fun d => { d with tsc := tsc }).modCluster 0 0 fun x => { x with
    ranges := [(15, { v := true, len := 64, slots := [(0, 3)], tmo := 1, started := some 0, contribs := [contrib], expired := expired })] }

theorem test_witness_RangeEvents :
    (((ranged 4096).range (.acc 0 0 15)).v = true ∧ ((ranged 4096).range (.acc 0 0 15)).tmo ≠ 0
      ∧ ((ranged 4096).range (.acc 0 0 15)).tmd = false ∧ ((ranged 4096).range (.acc 0 0 15)).started = some 0
      ∧ 0 + 4096 * ((ranged 4096).range (.acc 0 0 15)).tmo.toNat ≤ (ranged 4096).tsc 0
      ∧ ∀ k ∈ ((ranged 4096).range (.acc 0 0 15)).contribs, k.begun = false ∧ k.go = false)
    ∧ (((ranged 0).cpyrServe (sq .K) (cmd (.cpyr hk true .rne .fp32 4 5 6) 0 (win 0) 4) true .rne .fp32).seq (sq .K)).collQ = []
    ∧ (ranged 0).rqid (sq .K) = 3 ∧ ((ranged 0).range (.acc 0 0 15)).admits 3 = true
    ∧ ((ranged 0).range (.acc 0 0 15)).contribs.any (fun k => k.who == .seq (sq .K) 1) = true
    ∧ (ranged 0).contrib? (.acc 0 0 15) (.seq (sq .K) 1) = some contrib
    ∧ ((ranged 0).range (.acc 0 0 15)).ready contrib = true ∧ 0 * 64 < 4 ∧ 4 ≤ (0 + 1) * 64
    ∧ (ranged 0).softWords (.acc 0 0) 0 4 = none ∧ contrib.claim = some ⟨0, 0⟩ ∧ ((ranged 0).range (.acc 0 0 15)).expired = false := by decide

/-- A work entry image (R277) with threshold 1 of counter 0 and the requester 3. -/
def workImage (op count src dst : Nat) (stat : Nat := 0) (group : Nat := 0) : List Byte :=
  [BitVec.ofNat 8 op, 0, 0, 0] ++ natBytes 4 1 ++ natBytes 4 count ++ natBytes 4 group ++ natBytes 8 src ++ natBytes 8 dst
    ++ zeros 16 ++ natBytes 8 stat ++ natBytes 4 3 ++ zeros 4

/-- An entry that its counter has armed; a fired one whose source is 8 bytes at the start of the slab. -/
def armedEntry (b : List Byte) : WorkEntry := { pos := 0, image := b, ctx := 0, armed := true }
def firedEntry (b : List Byte) (req : Nat := 0) : WorkEntry :=
  { armedEntry b with fired := true, req := req, source := some (.slab [(0, 8)]) }

/-- Queue pair 7 of die 0 with one entry; die 0 has besides a page of its staging memory at virtual page 2, in it a range of words 0
to 63 with slot 0 for requester 3, in which the entry waits; member 3 is bypassed if `skip` holds. -/
def works (w : WorkEntry) (tmd : Bool := false) (skip : Bool := false) : State :=
  let s := (mapped (ring (at_ .K))).modDie 0 fun d =>
    { d with
      tm := d.tm ++ [(2, 0x4000079000)]
      qps := [(7, { ctx := some 0, posted := 1, entries := [w] })]
      ranges := [(0, { v := true, len := 64, slots := [(0, 3)], tmd := tmd
                       contribs := [⟨.entry 0 7 0, 3, 2, some ⟨0, 0⟩, false, false⟩] })] }
  if skip then s.modChain fun c => { c with derail := [(0, 0x1800), (1, 0x1403)] } else s

theorem test_witness_WorkEntryEvents_fire :
    (let w : WorkEntry := { armedEntry (workImage 0 0 0 0) with armed := false };
      ((works w).qpair 0 7).entries.find? (fun w => !w.fired) = some w)
    ∧ (let e := Entry.of (workImage 0 0 0 0); e.stat = 0 ∧ e.moves 0 = false ∧ e.thresh = 1)
    ∧ (let e := Entry.of (workImage 0 0 0 0 0x100); let s := works (armedEntry (workImage 0 0 0 0 0x100))
      e.stat ≠ 0 ∧ e.moves s.chain.self = false ∧ (s.place 0 0 none e.stat 8).bind (checkPlace .write) = .ok 0x100)
    ∧ (let e := Entry.of (workImage 0 0 0 0 0x600000); let s := works (armedEntry (workImage 0 0 0 0 0x600000))
      e.stat ≠ 0 ∧ (s.place 0 0 none e.stat 8).bind (checkPlace .write) = .error .xlateMiss)
    ∧ (let e := Entry.of (workImage 1 8 0 0x200); let s := works (armedEntry (workImage 1 8 0 0x200))
      e.stat = 0 ∧ e.moves s.chain.self = true ∧ s.sourceOf 0 0 e.src e.bytes = .ok (.slab [(0, 8)])
        ∧ s.sourceRange (.slab [(0, 8)]) = none)
    ∧ (let e := Entry.of (workImage 1 8 0x400000 0x200); let s := works (armedEntry (workImage 1 8 0x400000 0x200)) true
      e.op = 1 ∧ e.moves s.chain.self = true ∧ s.sourceOf 0 0 e.src e.bytes = .ok (.stg [(0, 0, 8)])
        ∧ (s.sourceRange (.stg [(0, 0, 8)])).map (·.tmd) = some true)
    ∧ (let e := Entry.of (workImage 1 8 0x600000 0x200); let s := works (armedEntry (workImage 1 8 0x600000 0x200))
      e.moves s.chain.self = true ∧ s.sourceOf 0 0 e.src e.bytes = .error .xlateMiss) := by decide

/-- The outcome of `e` is open, its GROUP allows it, and its source is there. -/
def mayEnd (w : WorkEntry) (s : State) : Bool :=
  ((s.qpair 0 7).entries == [w]) && w.fired && w.outcome.isNone && (Entry.of w.image).groupOk s.chain.self

theorem test_witness_WorkEntryEvents_complete :
    (Entry.of (workImage 0 0 0 0 0 2)).groupOk 0 = false
    ∧ ([(0, 0, 0), (1, 0, 0x200), (1, 8, 0x200), (1, 8, 0x8003000000000200), (2, 2, 0x400000), (2, 2, 0x8003000000400000),
        (2, 0, 0x400000), (3, 1, 0), (3, 1, 0x4000000000000007), (3, 1, 0xC003000000000007), (4, 0, 0x400000), (4, 0, 0x1000000000000)].all
      fun x => mayEnd (firedEntry (workImage x.1 x.2.1 0 x.2.2)) (works (firedEntry (workImage x.1 x.2.1 0 x.2.2)))) = true
    ∧ (Entry.of (workImage 1 0 0 0x200)).still 0 = true ∧ (Entry.of (workImage 2 0 0 0x400000)).still 0 = true
    ∧ (let s := works (firedEntry (workImage 1 8 0 0x200)); let e := Entry.of (workImage 1 8 0 0x200)
      e.still 0 = false ∧ s.ptrFar e.dst = false ∧ s.sourceSoft (.slab [(0, 8)]) = none ∧ s.weak = []
        ∧ s.lostOf e (s.sourceRange (.slab [(0, 8)])) = 0 ∧ (e.acc = false ∧ (s.sourceBytes (.slab [(0, 8)]) 0 8).length = e.count)
        ∧ s.slabRuns 0 0 (field e.dst 0 48) e.count .remote = .ok [(0x200, 8)])
    ∧ (let s := works (firedEntry (workImage 1 8 0 0x8003000000000200) 5); let e := Entry.of (workImage 1 8 0 0x8003000000000200)
      e.still 0 = false ∧ s.ptrFar e.dst = true ∧ s.chain.skipped (ptrMid e.dst) = false ∧ 4096 * 0 < e.count)
    ∧ (let w := firedEntry (workImage 2 2 0 0x400000); let s := works w; let e := Entry.of w.image
      s.redTarget 0 0 e.dst e.acc = .ok (.stg 0, 0) ∧ s.findRange (.stg 0) 0 e.count = some (.stg 0 0)
        ∧ (s.range (.stg 0 0)).admits e.rqid = true ∧ (s.contrib? (.stg 0 0) (.entry 0 7 0)).any ((s.range (.stg 0 0)).ready ·) = true
        ∧ s.softWords (.stg 0) 0 e.count = none)
    ∧ (let s := works (firedEntry (workImage 2 2 0 0x8003000000400000) 5); s.ptrFar 0x8003000000400000 = true
      ∧ s.chain.skipped 3 = false)
    ∧ (BitVec.getLsbD (0 : Word) 62 = false ∧ (works (firedEntry [])).namesCounter 0x4000000000000007 0 7)
    ∧ ((works (firedEntry [])).farName 0xC003000000000007 3 ∧ (works (firedEntry [])).chain.skipped 3 = false
      ∧ (works (firedEntry []) false true).farName 0xC003000000000007 3 ∧ (works (firedEntry []) false true).chain.skipped 3 = true)
    ∧ (let s := works (firedEntry (workImage 4 0 0 0x400000)); s.redTarget 0 0 0x400000 false .clear = .ok (.stg 0, 0)
      ∧ (((s.die 0).ranges.find? fun p => p.2.v && p.2.base.toNat == 0).isSome) = true ∧ 2 ^ 48 ≤ (0x1000000000000 : Word).toNat)
    ∧ ({ firedEntry (workImage 0 0 0 0 0x100) with stat := some 0x100 } : WorkEntry).stat = some 0x100
    ∧ (0 : BitVec 64).toNat % 8 < 4 := by
  unfold State.namesCounter State.farName; decide

/-- A write unit of member 3, of bytes 0 to 1 of page 0 of context 0, in window 0; a read unit; a contribution; an add. -/
def wru : WrUnit := ⟨1, 0, 0, 0, 0x8000000000000000, 2, none, false, false, .rne, false, 0⟩
def rdu : RdUnit := ⟨1, 0, 0, 0, 0, 2⟩
def redh : RedHdr := ⟨1, 0x6003, 0, 0x8000000000000000, true, 4⟩
def cadd (c : BitVec 4 := 0) : CntAdd := ⟨1, 0, c, handle255, 1⟩

/-- Bytes from member 3 are expected; window `n` of 4096 cycles. -/
def linked (n : Nat) (ex : List Expect := []) (refused : List (Nat × Nat) := []) : State :=
  { ((mapped (counting 7)).modLink (.data 0) 3 fun l => { l with expect := ex }).modDie 0 fun d => { d with tsc := n * 4096 } with
    refused := refused }

/-- A range of words 0 to 63 of the accumulator of cluster 0 of die 0, with slot 0 for the requester of `redh`. -/
def farRange (n : Nat) (tmd : Bool) (slots : Tbl (BitVec 18)) (ks : List Contrib := []) : State :=
  (linked n).modCluster 0 0 fun x =>
    { x with ranges := [(15, { v := true, len := 64, slots := slots, tmd := tmd, contribs := ks })] }

theorem test_witness_RemoteEvents_home :
    ((linked 0).link (.data 0) 3).expect = [] ∧ ((linked 0).link (.data 0) 3).inbox.length < (wru.len + 511) / 512 * 512
    ∧ ((3, wru.req) ∉ (linked 1).refused ∧ windowOf ((linked 1).tsc 0) < wru.window + 2
      ∧ wru.red = none ∧ wru.acc = false ∧ wru.last = false
      ∧ (linked 1).slabRuns 0 wru.ctx (field wru.dst 0 48) 2 .remote = .ok [(0, 2)])
    ∧ (windowOf ((linked 1).tsc 0) < rdu.window + 2 ∧ (3, rdu.req) ∉ (linked 1).refused
      ∧ (linked 1).slabRuns 0 rdu.ctx rdu.va.toNat rdu.len .read = .ok [(0, 2)] ∧ (linked 1).bad = [] ∧ (linked 1).weak = [])
    ∧ ((3, rdu.req) ∉ (linked 2).refused ∧ rdu.window + 2 ≤ windowOf ((linked 2).tsc 0)
      ∧ (linked 2).farContrib 3 rdu.req = none) := by decide

theorem test_witness_RemoteEvents_refused :
    ((3, wru.req) ∈ (linked 1 [] [(3, 1)]).refused ∧ (linked 1 [] [(3, 1)]).farContrib 3 wru.req = none)
    ∧ (let s := farRange 2 false [(0, 0x6003)] [⟨.member 3 1, 0x6003, 4, some ⟨0, 0⟩, true, false⟩]
      s.farContrib 3 wru.req = some (.acc 0 0 15) ∧ (3, wru.req) ∉ s.refused ∧ wru.window + 2 ≤ windowOf (s.tsc 0))
    ∧ (((linked 2 [.write 0 wru]).link (.data 0) 3).expect = .write 0 wru :: []
      ∧ (∀ m < 32, m ≠ 3 → ((linked 2 [.write 0 wru]).link (.data 0) m).expect = [])
      ∧ (3, wru.req) ∉ (linked 2 [.write 0 wru]).refused ∧ wru.window + 2 ≤ windowOf ((linked 2 [.write 0 wru]).tsc 0)
      ∧ (linked 2 [.write 0 wru]).farContrib 3 wru.req = none) := by decide

theorem test_witness_RemoteEvents_shared :
    (let s := farRange 0 false [(0, 0x6003)];
      s.farContrib 3 redh.req = none ∧ s.redTarget 0 redh.ctx redh.dst redh.acc = .ok (.acc 0 0, 0)
        ∧ s.findRange (.acc 0 0) 0 redh.count.toNat = some (.acc 0 0 15) ∧ (s.range (.acc 0 0 15)).tmd = false
        ∧ (s.range (.acc 0 0 15)).admits redh.requester = true ∧ (s.range (.acc 0 0 15)).contribs = [])
    ∧ ((farRange 0 true []).range (.acc 0 0 15)).tmd = true
    ∧ ((farRange 0 false []).range (.acc 0 0 15)).admits redh.requester = false
    ∧ (linked 0).findRange (.acc 0 0) 0 redh.count.toNat = none
    ∧ (windowOf ((linked 1).tsc 0) < cadd.window + 2 ∧ field cadd.handle 40 3 = 0 ∧ field cadd.handle 0 8 = 255
      ∧ ((linked 1).counter 0 255).ctx = some cadd.ctx ∧ ((linked 1).counter 0 255).value.toNat + cadd.addend.toNat < 2 ^ 32
      ∧ 2 ^ 32 ≤ (((linked 1).putCounter 0 255 fun c => { c with value := 0xFFFFFFFF }).counter 0 255).value.toNat + cadd.addend.toNat)
    ∧ cadd.window + 2 ≤ windowOf ((linked 2).tsc 0)
    ∧ ((cadd 1).req ≠ 0 ∧ ((linked 1).counter (field (cadd 1).handle 40 3) (field (cadd 1).handle 0 8)).ctx ≠ some (cadd 1).ctx) := by
  decide

/-- K's remote write, whose unit 0 has been sent in window 0, or whose grant it waits for. -/
def remoteCmd (r : Remote) (sent : List Nat := []) : Cmd :=
  { cmd (.rwr hk 4 5 6) 1 0x8003000000000000 (win 0) with req := 5, remote := r, sent := sent }
def remoting (n : Nat) (r : Remote := .idle) (sent : List Nat := [0]) : State :=
  withSeq (linked n) .K fun q => { q with collQ := [remoteCmd r sent] }
def masking (s : State) : State := s.modStrand st0 fun t => { t with cmask := maskable }

theorem test_witness_RemoteEvents_sender :
    (remoting 0).lateReads = [] ∧ (remoting 0).findColl 5 = some (sq .K, remoteCmd .idle [0])
    ∧ ((remOf (remoteCmd .idle [0])).map fun k => (k.read, k.units)) = some (false, 1) ∧ (remoteCmd .idle [0]).pix = 0
    ∧ (1 : BitVec 64).toNat % 8 = 1 ∧ (remoting 0).masked st0 .remoteNack = false
    ∧ (masking (remoting 0)).masked st0 .remoteNack = true ∧ (masking (remoting 4)).masked st0 .remoteTimeout = true
    ∧ (remoting 4).masked st0 .remoteTimeout = false
    ∧ (remoteCmd .idle [0]).sent = 0 :: [] ∧ 0 + 4 ≤ windowOf ((remoting 4).tsc 0)
    ∧ ((remoting 0 .askedGo []).findColl 5 = some (sq .K, remoteCmd .askedGo)
      ∧ ((remoting 0 .askedGo []).strand st0).stop = .running) := by decide

/-- A request of member 3 for a tuple at `va`. -/
def tspreq (va : BitVec 48) : TspReq := ⟨1, true, 7, 0, 0, va, 0, 0x6003, 9, List.replicate 64 0⟩

theorem test_witness_RemoteEvents_tuples :
    (tmLookup ((linked 0).die 0).goodTm 0 ((tspreq 0x200000).base.toNat / 0x200000)).isSome = true
    ∧ (((linked 0).page 0 0 0x200000).bind (checkPlace (tupleKind 1)) = .ok 0x200000
      ∧ (((linked 0).die (0x200000 / 0x80000000)).region? 0x200000 0).map (·.1) = some 5)
    ∧ ((((linked 0).modDie 0 fun d => { d with regions := [] }).die (0x200000 / 0x80000000)).region? 0x200000 0).isNone = true
    ∧ ((linked 0).page 0 0 0).bind (checkPlace (tupleKind 1)) = .error .xlateClass
    ∧ (((linked 0).modDie 0 fun d => { d with tm := [(1, 0x0000002000000000 ||| 0x125000)] }).page 0 0 0x200000).bind
      (checkPlace (tupleKind 1)) = .error .xlatePerm
    ∧ ((requested (.tcpy hk false 3 1 2 0 0) none false (some 3) none).findTup 9).map (·.2.remote) = some (some 3) := by decide


/-! ### Witnesses: membership, power, resets, the mailbox, launches -/

def prop (w : Nat) : Proposal := ⟨3, w, []⟩
def members (own : Option Proposal) (held : List Proposal) : State :=
  (ring State.reset).modChain fun c => { c with member := { own := own, held := held } }

/-- Member 3 of a ring of three is dead, and a stripe is queued for it; member 5 is next. -/
def bereaved : State :=
  ((State.reset).modChain fun c => { c with derail := [(0, 0x1800), (1, 0x1003), (2, 0x1005)], member := { dead := [3] } }).modDie 0
    fun d => { d with fwd := [⟨0x10000, 7, 3, 1, 0, 3, none, false⟩] }

theorem test_witness_MembershipEvents :
    (∀ q ∈ (members (some (prop 5)) []).chain.member.own.toList ++ (members (some (prop 5)) []).chain.member.held,
      q = prop 4 ∨ (prop 4).window < q.window)
    ∧ prop 4 ∉ (members (some (prop 5)) []).chain.member.held
    ∧ (prop 5 ∈ (members (some (prop 5)) []).chain.member.own.toList ++ (members (some (prop 5)) []).chain.member.held
      ∧ prop 5 ≠ prop 6 ∧ (prop 5).window ≤ (prop 6).window)
    ∧ ((members (some (prop 5)) []).chain.member.own = some (prop 5) ∧ (members (some (prop 5)) []).chain.member.accepts = []
      ∧ (members (some (prop 5)) []).chain.live = [3])
    ∧ (5 ∈ (bereaved.modChain fun c => { c with member := { own := some (prop 5) } }).chain.live ∧ 5 ≠ 3)
    ∧ (members none [prop 5]).chain.member.held = [prop 5]
    ∧ ((members (some (prop 5)) []).chain.successor = some 3 ∧ 3 ∉ (members (some (prop 5)) []).chain.member.dead)
    ∧ ((members none []).chain.successor = some 3 ∧ 3 ∉ (members none []).chain.member.dead ∧ (members none []).chain.member.own = none)
    ∧ (bereaved.chain.successor = some 3 ∧ 3 ∈ bereaved.chain.member.dead) := by decide

theorem test_witness_MembershipEvents_change :
    (bereaved.die 0).fwd = [⟨0x10000, 7, 3, 1, 0, 3, none, false⟩]
    ∧ (bereaved.chain.member.committed = [] ∧ (1, 0x1403) ∈ bereaved.chain.repairs ∧ bereaved.chain.live ≠ [])
    ∧ (let e : BitVec 32 := 0x1006; let s := bereaved; let u := s.modChain fun c => { c with derail := Tbl.set 0 c.derail 2 (e &&& 0x1FFF) }
      derSkip e = false ∧ u.chain.successor = s.chain.successor
        ∧ ({ mid := 0, window := 5, entries := [(2, e)] } : Proposal).entries = [(2, e)])
    ∧ (let e : BitVec 32 := 0x1005; let s := bereaved; let u := s.modChain fun c => { c with derail := Tbl.set 0 c.derail 2 (e &&& 0x1FFF) }
      u.chain.successor = s.chain.successor ∧ u.chain.predecessor = s.chain.predecessor)
    ∧ (State.reset.tablesSound = true ∧ (∀ p ∈ State.reset.clusters, p.2.droopLost ≤ 256)
      ∧ ∀ d < 8, (State.reset.die d).crossed 4096 = false)
    ∧ (let s := State.reset.modDie 3 fun d => { d with tsc := 4096 }
      s.tablesSound = true ∧ (s.die 3).crossed 4096 = true ∧ ∀ d < 8, d ≠ 3 → (s.die d).crossed 4096 = false)
    ∧ (let s := State.reset.modDie 0 fun d => { d with tsc := 4096 }
      (s.die 0).crossed 4096 = true ∧ s.chain.member = {} ∧ s.chain.isOrigin = false)
    ∧ (members none []).chain.isOrigin = true := by decide

theorem test_witness_PowerEvents :
    (State.reset.cycles - (State.reset.cluster 7 53).lag) % 64 = 0
    ∧ (State.reset.cluster 7 53).refilled = State.reset.cycles - (State.reset.cluster 7 53).lag
    ∧ (let s : State := { State.reset with cycles := 64 }
      (s.cycles - (s.cluster 7 53).lag) % 64 = 0 ∧ (s.cluster 7 53).refilled ≠ s.cycles - (s.cluster 7 53).lag)
    ∧ (∃ n < 8, field 0x4040404040404000#64 (8 * n) 8 = 0) ∧ (∀ n < 8, field 0x4040404040404001#64 (8 * n) 8 ≠ 0)
    ∧ (({ clockStop := 1, droop := 1 } : Cluster).clockStop ≠ 0 ∧ ({ clockStop := 1, droop := 1 } : Cluster).droop ≠ 0)
    ∧ ({} : Cluster).clockStop = 0
    ∧ (let s : State := { State.reset with clusters := [(64 * 7 + 53, { droopLost := 257 })] }
      s.clusters = [(64 * 7 + 53, { droopLost := 257 })] ∧ 53 < 64 ∧ 256 < ({ droopLost := 257 } : Cluster).droopLost)
    ∧ (State.reset.islandAt 7 2).hot = false ∧ ((State.reset.setIsland 7 2 { hot := true }).islandAt 7 2).hot = true
    ∧ State.reset.badAt 0x3FFFFFFFF 1 = none ∧ ({ State.reset with bad := [8] } : State).badAt 8 1 = some 8
    ∧ 0x3FFFFFFFC + 4 ≤ slabSize ∧ State.reset.weak = []
    ∧ State.reset.hitsTable 0x3FFFFFFFC 4 = false ∧ State.reset.hitsTable 8 4 = false := by decide

theorem test_witness_ResetEvents :
    31 < 32 ∧ State.reset.chain.successor = (State.reset.modChain fun c => { c with
        derail := Tbl.set 0 c.derail 31 (low32 0x1000 &&& 0x1FFF#32), badDerail := c.badDerail.filter (· != 31) }).chain.successor
    ∧ 255 < 256 ∧ (0x600#64).extractLsb' 9 5 ≠ (State.reset.lane 7 255).ch
    ∧ ((0xC000#64).extractLsb' 9 5 = (State.reset.lane 7 255).ch ∧ (0xC000#64).extractLsb' 14 2 ≠ (State.reset.lane 7 255).use)
    ∧ State.reset.mailbox.authPending = false ∧ field 20#64 0 8 ≤ 20
    ∧ (hub.modMail fun m => { m with authPending := true }).mailbox.authPending = true ∧ hub.mailbox.boot = .running
    ∧ State.reset.mailbox.boot ≠ .running ∧ (0x1000 ≤ 0x1FF8 ∧ 0x1FF8 + 8 ≤ 0x2000)
    ∧ hub.mailbox.doorbell.getLsbD 16 = false ∧ field 0xFF#64 0 8 ≠ 0
    ∧ (hub.modMail fun m => { m with doorbell := 0x10000 }).mailbox.doorbell.getLsbD 16 = true ∧ 53 ≤ 53 := by decide

/-- The hub serves command `n` with the request `bs`, in a machine with context 0 and launch 1. -/
def mail (n : Nat) (bs : List Byte) : State :=
  ({ State.reset with ctxs := [(0, { live := true })]
                      sched := { launches := [(1, { ctx := 0, queue := 0, hdr := goodHdr, nteams := 2 })] } } : State).modMail
    fun m => { m with doorbell := BitVec.ofNat 64 (0x10000 + n), request := Tbl.writeRun 0 [] 0 bs }

/-- It serves SUBMIT to queue 63 of context 0, which holds `k` launches, of the header at 0x1000, on a page that the context lists. -/
def submitting (k : Nat) (hdr : List Byte) : State :=
  ((({ mail 1 [63, 0, 0, 0, 0, 0, 0, 0, 0, 0x10] with ctxs := [(0, { live := true, pages := some (0x3000, 1) })] } : State).modSched
    fun c => { c with nextId := 2, queues := [(63, { cfg := 0x8000000000, ids := List.replicate k 1 })] }).writeMem 0x1000
      hdr).writeMem 0x3000 (natBytes 8 0x1D000)

/-- REGION of region 5 of die 0: one page at virtual page 1 of context 0, of capacity 2. -/
def regionOf (v : Byte) : List Byte := [0, 5] ++ zeros 14 ++ [v, 0x10, 0x20, 0, 0, 0, 0, 0, 2]

theorem test_witness_MailboxEvents :
    ([0x01, 0x03, 0x04, 0x05, 0x06, 0x07, 0x08, 0x09, 0x0A, 0x0B, 0xFF].all fun n => (mail n []).serving n) = true
    ∧ (mail 1 []).onlyListed [(0, 2), (8, 8)] = true ∧ (mail 1 [0, 0, 1]).onlyListed [(0, 2), (8, 8)] = false
    ∧ (let s := submitting 63 goodHdr
      s.request 0 1 = 63 ∧ s.request 1 1 = 0 ∧ s.request 8 8 = 0x1000 ∧ (s.context 0).live = true ∧ (s.queue 63).valid = true
        ∧ (s.queue 63).ctx.toNat = 0 ∧ (s.queue 63).ids.length < 64 ∧ s.sched.nextId.toNat ∉ s.sched.launches.map (·.1)
        ∧ s.onlyListed [(0, 2), (8, 8)] = true)
    ∧ ((mail 1 [63]).queue 63).valid = false ∧ (mail 1 [64]).request 0 1 = 64
    ∧ ((mail 2 [9]).serving 0x02 = true ∧ (mail 2 [9]).onlyListed [(0, 4)] = true ∧ (mail 2 [9]).mailbox.stopped = 0
      ∧ (mail 2 [9]).launch? (BitVec.ofNat 32 ((mail 2 [9]).request 0 4)) = none)
    ∧ (((mail 2 [9]).modMail fun m => { m with stopped := 3 }).mailbox.stopped = 2 + 1)
    ∧ (((mail 2 [1]).launch? (BitVec.ofNat 32 ((mail 2 [1]).request 0 4))).any fun l => l.ending.isNone) = true := by decide

theorem test_witness_MailboxEvents_submit :
    ((submitting 63 goodHdr).listedRead 0 0x1000 192).toOption = some goodHdr ∧ headerBad goodHdr = false
    ∧ headerBad (zeros 192) = true ∧ ((submitting 63 goodHdr).listedRead 0 0x200000 192).toOption = none
    ∧ 64 ≤ ((submitting 64 goodHdr).queue 63).ids.length := by decide

theorem test_witness_MailboxEvents_tables :
    (let s := mail 3 (regionOf 1); let e : Word := BitVec.ofNat 64 (s.request 16 8)
      s.request 0 1 < 8 ∧ s.request 1 1 < 64 ∧ (s.context (e.extractLsb' 48 4).toNat).live = true ∧ e.getLsbD 0 = true
        ∧ e.extractLsb' 12 9 ≠ 0 ∧ 0 < s.request 24 4 ∧ s.request 24 4 < 2 ^ 32 ∧ s.request 24 4 ≤ 26214 * (e.extractLsb' 12 9).toNat
        ∧ s.onlyListed [(0, 2), (16, 16)] = true)
    ∧ (BitVec.ofNat 64 ((mail 3 (regionOf 0)).request 16 8)).getLsbD 0 = false ∧ 8 ≤ (mail 3 [8]).request 0 1
    ∧ (let s := mapped State.reset; (Tbl.get? (s.die 0).regions 5).map (·.v) = some true ∧ (s.die 0).slices = [])
    ∧ ((mail 4 [7]).request 0 1 < 8 ∧ 8 ≤ (mail 4 [8]).request 0 1)
    ∧ (let v : State → Word := fun s => BitVec.ofNat 64 (s.request 8 8) &&& 0xFFFF0FF0FFFFF000
      let s := mail 10 (63 :: zeros 7 ++ natBytes 8 0x1008000001000)
      s.request 0 1 < 64 ∧ (s.context (field (v s) 40 4)).live = true ∧ (s.queue (s.request 0 1)).ids = []
        ∧ ((mail 10 (63 :: zeros 7 ++ natBytes 8 0x10000000000)).context
          (field (v (mail 10 (63 :: zeros 7 ++ natBytes 8 0x10000000000))) 40 4)).live = false)
    ∧ 64 ≤ (mail 10 [64]).request 0 1 := by decide

/-- MODEL 0 with key slot 7, its manifest at 0x1000 and its image at the start of the slab: one segment of 1 MiB. -/
def modelling : State :=
  (((mail 5 ([0, 7, 0, 0, 0, 0, 0, 0] ++ natBytes 8 0x1000 ++ zeros 8)).writeMem 0x1001 [1, 0, 0, 1]).modMail fun m =>
    { m with keys := [(7, [])] }).modChain fun c => { c with derail := [(0, 0x1800)] }

theorem test_witness_MailboxEvents_model :
    modelling.request 1 1 < 8 ∧ modelling.request 16 8 % 65536 = 0
    ∧ nat (modelling.readMem 0x1000 64) 0 1 = modelling.request 0 1 ∧ nat (modelling.readMem 0x1000 64) 4 4 = 1
    ∧ nat (modelling.readMem 0x1000 64) 1 1 = 1 ∧ nat (modelling.readMem 0x1000 64) 2 2 = 0
    ∧ nat (modelling.readMem 0x1000 64) 8 56 = 0 ∧ modelling.chain.isOrigin = true
    ∧ modelling.request 8 8 + (64 + 64 * 1) + 4627 ≤ slabSize ∧ modelling.request 16 8 + 1 * 1 * 0x100000 ≤ slabSize
    ∧ Tbl.get? modelling.mailbox.keys (modelling.request 1 1) = some []
    ∧ Tbl.get? ((modelling.modMail fun m => { m with keys := [] }).mailbox.keys) (modelling.request 1 1) = none
    ∧ 8 ≤ (mail 5 [0, 8]).request 1 1 ∧ ({ size := 1, count := 1, image := 0, manifest := 0x1000 } : Model).count = 1 := by decide

theorem test_witness_MailboxEvents_contexts :
    ((mail 7 [1]).request 0 1 < 16 ∧ (mail 7 [1]).request 1 1 = 0 ∧ ((mail 7 [1]).context ((mail 7 [1]).request 0 1)).live = false)
    ∧ 16 ≤ (mail 7 [16]).request 0 1
    ∧ (let s := (mail 7 [0, 1]).modSched fun c => { c with launches := [] }
      s.onlyListed [(0, 2)] = true ∧ s.request 0 1 = 0 ∧ s.request 1 1 = 1 ∧ (s.context 0).live = true ∧ s.launchesOf 0 = [])
    ∧ ((mail 7 [1, 1]).request 1 1 = 1 ∧ ((mail 7 [1, 1]).context 1).live = false)
    ∧ (let s := (mail 7 [0, 1]).modSched fun c => { c with teams := [(1, team1)] }
      (s.context 0).live = true ∧ ((s.launchesOf 0).foldl (fun a id => a.abortLaunch id) s).launchesOf 0 ≠ [])
    ∧ (let s := mail 8 [0, 0, 0, 0, 1, 0, 0, 0, 0, 0x30]
      s.request 0 1 < 16 ∧ s.request 1 1 ≤ 1 ∧ s.request 4 4 = 1 ∧ s.request 8 8 = 0x3000 ∧ (s.context 0).live = true
        ∧ s.onlyListed [(0, 2), (4, 12)] = true)
    ∧ (0x1D000#64).getLsbD 12 = true ∧ field 0x1D000#64 0 12 = 0 ∧ entryClass 0x1D000 < 4 ∧ field 0x1D000#64 33 4 = 0
    ∧ (0#64).getLsbD 12 = false
    ∧ (let s := mail 9 [0, 0, 0, 0, 7, 0, 0, 0, 1, 0, 0, 0, 0, 0, 0, 0, 0, 0x30]
      s.request 0 1 < 16 ∧ s.request 4 4 = 7 ∧ s.request 8 4 = 1 ∧ s.request 16 8 = 0x3000 ∧ s.words 0x3000 1 = [0]
        ∧ s.onlyListed [(0, 1), (4, 8), (16, 8)] = true)
    ∧ (mail 9 [0]).request 8 4 = 0 := by decide

theorem test_witness_MailboxEvents_assign :
    ((mail 11 [0, 7, 255]).request 0 1 = 0 ∧ (mail 11 [0, 7, 255]).request 1 1 = 7 ∧ (mail 11 [0, 7, 255]).request 2 1 = 255
      ∧ (mail 11 [0, 7, 255]).request 3 1 = 0 ∧ (mail 11 [0, 7, 255]).request 4 1 = 0
      ∧ ((mail 11 [0, 7, 255]).context 0).live = true ∧ ((mail 11 [0, 7, 255]).counter 7 255).ctx = none)
    ∧ ((mail 11 [1, 7, 63]).request 2 1 < 64 ∧ ((mail 11 [1, 7, 63]).qpair 7 63).ctx = none)
    ∧ (let given (c : BitVec 4) := (mail 11 [0, 7, 255, 0, 1]).putCounter 7 255 fun k => { k with ctx := some c }
      ((given 0).counter 7 255).ctx = some (BitVec.ofNat 4 ((given 0).request 3 1)) ∧ (given 0).request 4 1 = 1
        ∧ (given 0).counterUsed 7 255 = false ∧ ((given 1).counter 7 255).ctx = some 1)
    ∧ (let s := (mail 11 [1, 7, 63, 0, 1]).modQpair 7 63 fun q => { q with ctx := some 0 }
      (s.qpair 7 63).ctx = some 0 ∧ (s.qpair 7 63).entries = []) := by decide

/-- Queue 63 with AGE 1, its head ready since TSC 0; launch 1 with a team that has not started, or whose strand has ended. -/
def ageing : State :=
  (State.reset.modSched fun c => { c with queues := [(63, { cfg := 0x0001008000000000, readySince := some 0 })] }).modDie 0 fun d =>
    { d with tsc := 600 }
def placed (t : Team) : State :=
  { (mail 0 []).modSched fun c => { c with teams := [(1, t)] } with
    seqs := allCls.map fun k => (seqKey (seqOf st0 k), { live := true, ended := true }) }

theorem test_witness_LaunchEvents :
    ((ageing.queue 63).readySince = some 0 ∧ 0 < field (ageing.queue 63).cfg 48 16
      ∧ field (ageing.queue 63).cfg 48 16 * 600 ≤ (ageing.queue 63).aged + (ageing.tsc 0 - 0))
    ∧ (Tbl.get? (placed { team1 with started := false }).sched.teams 1 = some { team1 with started := false }
      ∧ ((placed { team1 with started := false }).launch? 1).isSome = true ∧ ({ team1 with started := false } : Team).slots = [0])
    ∧ ((placed team1).teamEnded team1 = true ∧ (∀ st ∈ team1.strands, ∀ c ∈ allCls, ((placed team1).seq (seqOf st c)).quiet = true)
      ∧ (∀ st ∈ team1.strands, ∀ n < 8, ((placed team1).strand st).count n = 0)
      ∧ ((placed team1).launch? 1).map (fun l => decide (l.retired + 1 < l.nteams)) = some true)
    ∧ (((placed team1).modSched fun c => { c with
        launches := [(1, { ctx := 0, queue := 0, hdr := goodHdr, nteams := 2, retired := 1 })] }).launch? 1).map
          (fun l => (decide (l.retired + 1 = l.nteams), l.ending)) = some (true, none) := by decide

/-! ### Witnesses: landings, frames, whole runs -/

def nexts (i : Instr) (s : State) : Bool := match exec i s with
  | .next _ => true
  | _ => false

theorem test_witness_frames :
    (flight 1).dest = .x 3 ∧ ({ flight 1 with dest := .p 0 } : Flight).dest = .p 0
    ∧ ({ flight 1 with dest := .z 3 } : Flight).op = .set ∧ ({ flight 1 with dest := .tag 3 true } : Flight).dest = .tag 3 true
    ∧ ([0x008, 0x025, 0x038, 0x000].all fun n => ({ flight 1 with dest := .csr n } : Flight).dest == .csr n) = true
    ∧ (flight 1 (some 3)).post = some 3 ∧ ((at_ .C).strand st0).count 3 < 255
    ∧ ([Instr.add hq 3 1 2, .wtag hq 3 0, .fcclr h32 3, .vcvt h96 .bf16 .fp32 .rne false true 3 4 ⟨1, 1, 1⟩,
        .std h64 1 2 0].all fun i => i.toRaw.isSome && nexts i (at_ .C [(1, win 248)])) = true
    ∧ resultAtIssue (.fcclr h32 3) = some 3 ∧ resultAtIssue (.add hq 3 1 2) = none
    ∧ ((stores h64 1 2 0).all fun x => nexts x.1 (at_ .C [(1, win 248)]) && nexts x.1 (hub [(1, 0x100)])) = true
    ∧ inSpad team1 255 = true ∧ inTid team1 0x3000F8 = true := by decide

theorem test_witness_DecodeEncode :
    (Instr.add hq 3 1 2).wf = true ∧ (Instr.add hq 3 1 2).toRaw.isSome = true
    ∧ (Instr.mmak h96 true true .ru 255 255 31 31 31 ⟨63, 7, 7, 7⟩ 2047).wf = true
    ∧ (Instr.mmak h96 true true .ru 255 255 31 31 31 ⟨63, 7, 7, 7⟩ 2047).toRaw.isSome = true := by decide

/-- A NOP at 0x1000 of context 0, which leads to the same place of the slab; the agenda is `a`. -/
def turn (a : List Turn) : State :=
  { (mapped (at_ .K)).writeMem 0x1000 (encodeBytes (.nop h32)) with agenda := a }
def hubTurn : State := ({ hub with agenda := [.hub 0] } : State).writeMem 0x1000 (encodeBytes (.nop h32))

theorem test_witness_StepRuns :
    State.reset.mailbox.boot = .cold ∧ (turn []).mailbox.boot ≠ .cold ∧ (turn []).inputs = []
    ∧ (let b := { hubTurn with agenda := [] }
      hubTurn.agenda = .hub 0 :: [] ∧ (b.seqAt (hubKey 0)).live = true ∧ (b.seqAt (hubKey 0)).wait.any Wait.holds = false
        ∧ (b.seqAt (hubKey 0)).ended = false ∧ (b.seqAt (hubKey 0)).gap = 0 ∧ (b.seqAt (hubKey 0)).pc.toNat + b.hubSize 0 ≤ slabSize
        ∧ b.badAt (b.seqAt (hubKey 0)).pc.toNat (b.hubSize 0) = none
        ∧ decodeBytes (b.readMem (b.seqAt (hubKey 0)).pc.toNat 12) = .ok (.nop h32))
    ∧ external (.freefr 0 1) = true := by decide

/-- The issue turn of K, whose strand has the RUN 1 afterwards. -/
def issuing (s : State) (i : Instr) : Option (State × State) :=
  match s.stepFlights (sq .K) with
  | (a, true) => match exec i { a.fetchReads (sq .K) with cur := .seq (sq .K) } with
    | .next u => if s.eligible (sq .K) ∧ (s.seq (sq .K)).stepDone = false ∧ a.fetch (sq .K) = .got (.ok i) then some (a, u) else none
    | _ => none
  | _ => none
def withWord (i : Instr) : State := (turn []).writeMem 0x1000 (encodeBytes i)

theorem test_witness_StepRuns_issue :
    ((issuing (turn []) (.nop h32)).any fun p => ((turn []).stoppedAt p.2 (sq .K)).isNone
      && ((p.2.seq (sq .K)).no != ((turn []).seq (sq .K)).no) && !(p.2.seq (sq .K)).step) = true
    ∧ (let i := Instr.tkw ⟨false, 0, .w32, none, none⟩ 3 9
      (issuing (withWord i) i).any fun p => ((withWord i).stoppedAt p.2 (sq .K)).isNone
        && ((p.2.seq (sq .K)).no == ((withWord i).seq (sq .K)).no) && (p.2.seq (sq .K)).wait == some .tokens) = true
    ∧ (let i := Instr.bra h32 1
      (issuing (withWord i) i).any fun p => ((withWord i).stoppedAt p.2 (sq .K)).isSome) = true := by decide

theorem test_witness_whole_runs :
    (turn []).cur = .seq (sq .K) ∧ Memory.wf (turn []).mem = true
    ∧ (match step (turn [.event .launchPass]) with
      | .next t => Memory.wf t.mem
      | _ => false) = true
    ∧ (exec (.wpub h32 0) hub matches .fault _) = true ∧ hub.precheck (.wpub h32 0) h32 = some .wrongSequencer := by decide

theorem test_witness_StepKeepsCounts :
    (({ hub with agenda := [.event .launchPass] } : State).CountsHold ∧ ({ hub with agenda := [.event .launchPass] } : State).WheelsHold)
    ∧ (match step { hub with agenda := [.event .launchPass] } with
      | .next _ => true
      | _ => false) = true := by
  refine ⟨⟨⟨fun k q => ?_, fun k p => ?_⟩, fun k n => ?_⟩, by decide⟩
  · exact (show (0 : Nat) ≤ 255 by decide)
  · exact (show ∀ p : Permit, ({} : Cluster).held p ≤ ({} : Cluster).depth p from fun p => by cases p <;> decide) p
  · exact (show (Wheel.ofWord 0).Sound from ⟨by decide, by decide⟩)

end Sys2Proof.Tests
end

section
/-! PROOFS. What reset leaves (O58): every table of a reset package is empty, so a register reads its default. -/

namespace Sys2Proof.Machine

/-- Every cluster of a reset package is the cluster at its defaults. -/
theorem State.reset_cluster (die cl : Nat) : State.reset.cluster die cl = {} := rfl

/-- R352: a cluster at its defaults holds 64 permits of every class, the whole depth of the class. -/
theorem Cluster.held_default (p : Permit) : ({} : Cluster).held p = 64 := by cases p <;> decide

theorem Cluster.depth_default (p : Permit) : ({} : Cluster).depth p = 64 := by cases p <;> decide

/-- R173: the wheel word 0 is a wheel with no buffer filled or claimed. -/
theorem Wheel.ofWord_zero_sound : (Wheel.ofWord 0).Sound := ⟨by decide, by decide⟩

theorem State.reset_countsHold : State.reset.CountsHold := by
  refine ⟨fun k q => ?_, fun k p => ?_⟩
  · show 0 ≤ 255
    omega
  · show ({} : Cluster).held p ≤ ({} : Cluster).depth p
    rw [Cluster.held_default, Cluster.depth_default]

theorem State.reset_wheelsHold : State.reset.WheelsHold := fun _ _ => Wheel.ofWord_zero_sound

/-- Nothing has written the memory of a reset package, and a memory without cells is canonical. -/
theorem State.reset_safe : Safe State.reset := rfl

/-- Settles O58: every table of a reset package is empty, so each register reads its default. -/
theorem resetValues : Obligations.ResetValues := by
  refine ⟨fun die cl => ?_, fun die => ?_, fun k => rfl, rfl, State.reset_safe, State.reset_countsHold,
    State.reset_wheelsHold⟩
  · rw [State.reset_cluster]
    exact ⟨rfl, rfl, rfl, rfl, rfl, rfl, Cluster.held_default⟩
  · exact ⟨rfl, rfl, fun n => rfl, fun n => rfl⟩

end Sys2Proof.Machine
end

section
/-! PROOFS. What each function of the model does to the slab's bytes (R5, R101), and so what a step does (O59).  Most
leave them alone: `f_mem` says so.  The others write runs of bytes, which keeps the canonical form: `f_memWf`.  `f_keeps`
speaks of the next state of a result, or of what a unit's actions leave; there `P` is any predicate of memory where
nothing is written.  One lemma for each function, in the order of the model's files. -/

namespace Sys2Proof.Machine

/-! ### What a result says of memory -/

/-- `P` holds of the memory of the next state, where there is one. -/
def Res.Keeps (P : List Host.Cell → Prop) (r : Res) : Prop := ∀ t, r = .next t → P t.mem

/-- A unit's actions take a memory of which `P` holds to one of which `P` holds. -/
def EM.Keeps {α : Type} (P : List Host.Cell → Prop) (m : EM α) : Prop :=
  ∀ g a g', m.run g = .ok (a, g') → P g.s.mem → P g'.s.mem

/-- The state of what a hold comes to. -/
def Hold.state : Hold → State
  | .stays s => s
  | .ends s => s

/-- `P` holds of the memory that a try to issue leaves. -/
def Tried.Keeps (P : List Host.Cell → Prop) : Tried → Prop
  | .issued a => Res.Keeps P a
  | .waits s => P s.mem

/-- The canonical form of memory. -/
def MemWf (m : List Host.Cell) : Prop := Memory.wf m = true

section rules
variable {P : List Host.Cell → Prop} {α β : Type}

@[simp] theorem Res.keeps_next {s : State} : Res.Keeps P (.next s) ↔ P s.mem :=
  ⟨fun h => h s rfl, fun h t e => by cases e; exact h⟩

@[simp] theorem Res.keeps_fault {e : Fault} : Res.Keeps P (.fault e) := fun _ h => nomatch h

@[simp] theorem Res.keeps_ite {c : Prop} [Decidable c] {a b : Res} :
    Res.Keeps P (if c then a else b) ↔ if c then Res.Keeps P a else Res.Keeps P b := by split <;> rfl

@[simp] theorem State.ite_mem (c : Prop) [Decidable c] (s t : State) :
    (if c then s else t).mem = if c then s.mem else t.mem := apply_ite State.mem c s t

@[simp] theorem Hold.stays_state (s : State) : (Hold.stays s).state = s := rfl
@[simp] theorem Hold.ends_state (s : State) : (Hold.ends s).state = s := rfl

@[simp] theorem Hold.ite_state (c : Prop) [Decidable c] (a b : Hold) :
    (if c then a else b).state = if c then a.state else b.state := apply_ite Hold.state c a b

/-! A loop over states keeps what each round keeps. -/

theorem foldl_keeps {f : State → α → State} (hf : ∀ s a, P s.mem → P (f s a).mem) (l : List α) {s : State}
    (h : P s.mem) : P (l.foldl f s).mem := by
  induction l generalizing s with
  | nil => exact h
  | cons a l ih => exact ih (hf s a h)

@[simp] theorem foldl_mem {f : State → α → State} (hf : ∀ s a, (f s a).mem = s.mem) (l : List α) (s : State) :
    (l.foldl f s).mem = s.mem :=
  foldl_keeps (P := (· = s.mem)) (fun t a h => (hf t a).trans h) l rfl

@[simp] theorem foldr_mem {f : α → State → State} (hf : ∀ a s, (f a s).mem = s.mem) (l : List α) (s : State) :
    (l.foldr f s).mem = s.mem := by
  induction l with
  | nil => rfl
  | cons a l ih => exact (hf _ _).trans ih

theorem foldl_fst_keeps {f : State × β → α → State × β} (hf : ∀ p a, P p.1.mem → P (f p a).1.mem) (l : List α)
    {p : State × β} (h : P p.1.mem) : P (l.foldl f p).1.mem := by
  induction l generalizing p with
  | nil => exact h
  | cons a l ih => exact ih (hf p a h)

@[simp] theorem foldl_fst_mem {f : State × β → α → State × β} (hf : ∀ p a, (f p a).1.mem = p.1.mem) (l : List α)
    (p : State × β) : (l.foldl f p).1.mem = p.1.mem :=
  foldl_fst_keeps (P := (· = p.1.mem)) (fun q a h => (hf q a).trans h) l rfl

/-! The actions of a unit, put together. -/

theorem EM.keeps_pure (a : α) : EM.Keeps P (pure a) := fun _ _ _ e h => by cases e; exact h

theorem EM.keeps_throw (e : Cause × Word) : EM.Keeps P (throw e : EM α) := fun _ _ _ e _ => nomatch e

theorem EM.keeps_get : EM.Keeps P (get : EM Eng) := fun _ _ _ e h => by cases e; exact h

theorem EM.keeps_set {g' : Eng} (h : P g'.s.mem) : EM.Keeps P (set g' : EM Unit) := fun _ _ _ e _ => by cases e; exact h

theorem EM.keeps_modify {f : Eng → Eng} (hf : ∀ g, P g.s.mem → P (f g).s.mem) : EM.Keeps P (modify f : EM Unit) :=
  fun g _ _ e h => by cases e; exact hf g h

theorem EM.Keeps.bind {m : EM α} {f : α → EM β} (hm : EM.Keeps P m) (hf : ∀ a, EM.Keeps P (f a)) :
    EM.Keeps P (m >>= f) := by
  intro g b g' e h
  cases hx : m.run g with
  | error c => simp [StateT.run_bind, hx] at e; exact nomatch e
  | ok p =>
    simp only [StateT.run_bind, hx] at e
    exact hf p.1 p.2 b g' e (hm g p.1 p.2 hx h)

/-- What is read of the unit is the unit that the rest works on. -/
theorem EM.keeps_get_bind {f : Eng → EM β} (hf : ∀ g, P g.s.mem → EM.Keeps P (f g)) : EM.Keeps P (get >>= f) :=
  fun g b g' e h => hf g h g b g' e h

theorem EM.keeps_forM {f : α → EM PUnit} (hf : ∀ a, EM.Keeps P (f a)) (l : List α) : EM.Keeps P (l.forM f) := by
  induction l with
  | nil => exact EM.keeps_pure _
  | cons a l ih => exact (hf a).bind fun _ => ih

theorem EM.keeps_mapM {f : α → EM β} (hf : ∀ a, EM.Keeps P (f a)) (l : List α) : EM.Keeps P (l.mapM f) := by
  induction l with
  | nil => exact EM.keeps_pure _
  | cons a l ih =>
    rw [List.mapM_cons]
    exact (hf a).bind fun _ => ih.bind fun _ => EM.keeps_pure _

theorem EM.keeps_foldlM {f : β → α → EM β} (hf : ∀ b a, EM.Keeps P (f b a)) (l : List α) (b : β) :
    EM.Keeps P (l.foldlM f b) := by
  induction l generalizing b with
  | nil => exact EM.keeps_pure _
  | cons a l ih => exact (hf b a).bind fun _ => ih _

end rules

section frames
variable {P : List Host.Cell → Prop} {s t : State}

/-! ### Ops -/

@[simp] theorem State.writeMem_memWf (pa : Nat) (bs : List Byte) (hs : MemWf s.mem) :
    MemWf (s.writeMem pa bs).mem := wf_writeMem s hs pa bs

@[simp] theorem State.post_mem (die : Nat) (e : EvRec) : (s.post die e).mem = s.mem := by simp [State.post]

@[simp] theorem State.missRecord_mem (die : Nat) (ctx : BitVec 4) (vpn : Nat) :
    (s.missRecord die ctx vpn).mem = s.mem := by
  unfold State.missRecord
  split <;> simp

@[simp] theorem State.posRecord_mem (die ctx req tpg : Nat) : (s.posRecord die ctx req tpg).mem = s.mem := by
  unfold State.posRecord
  split <;> simp

@[simp] theorem State.softMiss_mem (die : Nat) (ctx : BitVec 4) (c : Cause) (detail : Word) :
    (s.softMiss die ctx c detail).mem = s.mem := by
  unfold State.softMiss
  split <;> simp

@[simp] theorem State.writeSlab_memWf (die pa : Nat) (bs : List Byte) (hs : MemWf s.mem) :
    MemWf (s.writeSlab die pa bs).mem := by
  unfold State.writeSlab
  split
  · exact wf_writeMem s hs pa bs
  · exact wf_writeMem s hs pa bs

@[simp] theorem State.noteCorrected_mem (w : Nat) : (s.noteCorrected w).mem = s.mem := by simp [State.noteCorrected]
@[simp] theorem State.correct_mem (w : Nat) : (s.correct w).mem = s.mem := by simp [State.correct]
@[simp] theorem State.corrected_mem (pa n : Nat) : (s.corrected pa n).mem = s.mem := by simp [State.corrected]

@[simp] theorem State.readLine_mem (die since line : Nat) : (s.readLine die since line).1.mem = s.mem := by
  unfold State.readLine
  simp only
  (repeat' split) <;> simp

@[simp] theorem State.readLines_mem (die since line n : Nat) : (s.readLines die since line n).1.mem = s.mem := by
  induction n generalizing s line with
  | zero => rfl
  | succ n ih => simp [State.readLines, ih]

@[simp] theorem State.dropLines_mem (die pa n : Nat) : (s.dropLines die pa n).mem = s.mem := rfl

@[simp] theorem State.readSlab_mem (die since pa n : Nat) : (s.readSlab die since pa n).1.mem = s.mem := by
  unfold State.readSlab
  split <;> simp

@[simp] theorem State.loadTrap_mem (die : Nat) : (s.loadTrap die).mem = s.mem := by
  unfold State.loadTrap
  simp only
  (repeat' split) <;> simp

@[simp] theorem State.postLate_mem (st : StrandRef) (i : StopInfo) : (s.postLate st i).mem = s.mem := by
  simp [State.postLate]

@[simp] theorem State.raise_mem (r : SeqRef) (c : Cause) (pt : Point) (tepc : BitVec 48) (pix : Nat) (detail : Word) :
    (s.raise r c pt tepc pix detail).mem = s.mem := by
  unfold State.raise
  simp only
  (repeat' split) <;> simp

theorem State.pushTok_mem {st : StrandRef} {post : Option (BitVec 3)} (e : s.pushTok st post = some t) :
    t.mem = s.mem := by
  unfold State.pushTok at e
  split at e
  · cases e; rfl
  · split at e <;> cases e
    rfl

@[simp] theorem State.pushPost?_mem (r : SeqRef) (post : Option (BitVec 3)) (addr : BitVec 48) (pix : Nat) :
    (s.pushPost? r post addr pix).1.mem = s.mem := by
  unfold State.pushPost?
  split
  case h_1 e => exact State.pushTok_mem e
  case h_2 => simp

@[simp] theorem State.pushPost_mem (r : SeqRef) (post : Option (BitVec 3)) (addr : BitVec 48) (pix : Nat) :
    (s.pushPost r post addr pix).mem = s.mem := by
  simp [State.pushPost]

@[simp] theorem State.popQ_mem (r : SeqRef) (q : BitVec 3) (n : Nat) : (s.popQ r q n).mem = s.mem := rfl

@[simp] theorem State.ldsFinish_mem (r : SeqRef) (q : LdsReq) : (s.ldsFinish r q).mem = s.mem := by
  unfold State.ldsFinish
  split <;> simp

@[simp] theorem State.ldsAll_mem (r : SeqRef) (n : Nat) : (s.ldsAll r n).mem = s.mem := by
  induction n generalizing s with
  | zero => rfl
  | succ n ih =>
    unfold State.ldsAll
    split
    · rfl
    · simp [ih]

@[simp] theorem State.unpark_mem (req : Nat) : (s.unpark req).mem = s.mem := rfl
@[simp] theorem State.cancelFar_mem (r : SeqRef) (t : TupOut) (mid : Nat) : (s.cancelFar r t mid).mem = s.mem := rfl
@[simp] theorem State.cancelAll_mem (r : SeqRef) : (s.cancelAll r).mem = s.mem := by simp [State.cancelAll]

@[simp] theorem State.askCancel_mem (st : StrandRef) : (s.askCancel st).mem = s.mem := by
  unfold State.askCancel
  split
  · rfl
  · refine foldl_mem (fun a c => foldl_mem (fun b t => ?_) _ _) _ _
    simp only
    (repeat' split) <;> simp

@[simp] theorem State.completeTup_mem (r : SeqRef) (o : TupOut) (status : BitVec 64) (out : List Byte) :
    (s.completeTup r o status out).mem = s.mem := by
  simp [State.completeTup]

@[simp] theorem State.takeDone_mem (r : SeqRef) : (s.takeDone r).mem = s.mem := by
  refine foldl_mem (fun a t => ?_) _ _
  (repeat' split) <;> simp

@[simp] theorem State.unpop_mem (st : StrandRef) (q : Option (BitVec 3)) : (s.unpop st q).mem = s.mem := by
  unfold State.unpop
  split <;> simp

@[simp] theorem State.recall_mem (r : SeqRef) (c : Cmd) : (s.recall r c).mem = s.mem := by simp [State.recall]

@[simp] theorem State.abandonWait_mem (r : SeqRef) : (s.abandonWait r).mem = s.mem := by
  unfold State.abandonWait
  simp only
  (repeat' split) <;> simp

@[simp] theorem State.dropClaims_mem (r : SeqRef) (seqNos : List Nat) : (s.dropClaims r seqNos).mem = s.mem := rfl

@[simp] theorem State.releaseFar_mem (r : SeqRef) (c : Cmd) : (s.releaseFar r c).mem = s.mem := by
  unfold State.releaseFar
  split <;> simp

@[simp] theorem State.stopSeq_mem (r : SeqRef) : (s.stopSeq r).mem = s.mem := by
  unfold State.stopSeq
  simp only
  split <;> simp

@[simp] theorem State.finishStop_memWf (st : StrandRef) (hs : MemWf s.mem) : MemWf (s.finishStop st).mem := by
  unfold State.finishStop
  extract_lets s1 s2 b
  have h1 : MemWf s1.mem := by
    unfold s1
    exact foldl_keeps (fun _ _ h => by simpa using h) _ hs
  have h2 : MemWf s2.mem := by
    unfold s2
    exact foldl_keeps (fun _ _ h => by rwa [State.modSeq_mem]) _ h1
  split
  · extract_lets s3 s4 s5
    have h4 : MemWf s4.mem := by
      unfold s4
      exact foldl_keeps (fun _ _ h => by rwa [State.modSeq_mem]) _ (State.writeMem_memWf _ _ h2)
    rw [State.loadTrap_mem]
    exact h4
  · exact h1

@[simp] theorem State.settleStop_memWf (st : StrandRef) (hs : MemWf s.mem) : MemWf (s.settleStop st).mem := by
  unfold State.settleStop
  simp only
  (repeat' split) <;> simp [hs]

theorem State.resume_mem {st : StrandRef} {x : Strand} {bs : List Byte} {fresh : List Nat}
    (e : s.resume st x bs = some (t, fresh)) : t.mem = s.mem := by
  unfold State.resume at e
  simp only at e
  split at e
  · exact nomatch e
  · cases e
    exact foldl_mem (fun _ _ => by rfl) _ _

@[simp] theorem State.trapHere_keeps {c : Cause} {detail : Word} (hs : P s.mem) :
    Res.Keeps P (s.trapHere c detail) := by
  unfold State.trapHere
  split <;> simp [hs]

@[simp] theorem State.advance_mem (h : Hdr) : (s.advance h).mem = s.mem := by
  unfold State.advance
  split <;> simp

@[simp] theorem State.popWq_mem (r : SeqRef) (h : Hdr) : (s.popWq r h).mem = s.mem := by
  unfold State.popWq
  split <;> simp

@[simp] theorem State.popPlan_mem (r : SeqRef) (t : Option (BitVec 3 × Nat)) : (s.popPlan r t).mem = s.mem := by
  unfold State.popPlan
  split <;> simp

@[simp] theorem State.waits_mem (r : SeqRef) (i : Instr) (w : Wait) : (s.waits r i w).mem = s.mem := rfl

@[simp] theorem State.takePermit_mem (r : SeqRef) (k : Option Permit) : (s.takePermit r k).mem = s.mem := by
  unfold State.takePermit
  split <;> simp

theorem State.issueSeq_keeps {r : SeqRef} {i : Instr} {h : Hdr} {p : Plan}
    {act : State → Res} (hs : P s.mem) (ha : ∀ t, P t.mem → Res.Keeps P (act t)) :
    Res.Keeps P (s.issueSeq r i h p act) := by
  unfold State.issueSeq
  (repeat' split) <;> simp [hs, ha]

theorem State.issueHub_keeps {d : Nat} {i : Instr} {h : Hdr} {p : Plan}
    {act : State → Res} (hs : P s.mem) (ha : ∀ t, P t.mem → Res.Keeps P (act t)) :
    Res.Keeps P (s.issueHub d i h p act) := by
  unfold State.issueHub
  (repeat' split) <;> simp [hs, ha]

@[simp] theorem State.openValue_mem : s.openValue.1.mem = s.mem := rfl

/-- Whatever keeps an instruction from issuing leaves memory alone; if it issues, its effect decides. -/
@[simp] theorem State.issue_keeps {i : Instr} {h : Hdr} {p : Plan}
    {act : State → Res} (hs : P s.mem) (ha : ∀ t, P t.mem → Res.Keeps P (act t)) : Res.Keeps P (s.issue i h p act) := by
  unfold State.issue
  split
  · exact issueSeq_keeps hs ha
  · exact issueHub_keeps hs ha

@[simp] theorem State.holdIn_keeps {c : Cmd} {w : Wait} {f : State → Cmd → Hold}
    (hf : P (f s c).state.mem) : Res.Keeps P (s.holdIn c w f) := by
  unfold State.holdIn
  split <;> simp_all

@[simp] theorem State.acquire_mem : s.acquire.mem = s.mem := rfl
@[simp] theorem State.putNow_mem (d : Reg) (v : Word) : (s.putNow d v).mem = s.mem := rfl

@[simp] theorem State.finishAt_mem (h : Hdr) (addr : BitVec 48) : (s.finishAt h addr).mem = s.mem := by
  unfold State.finishAt
  split <;> simp

@[simp] theorem State.endHold_mem (c : Cmd) (d : Reg) (v : Word) : (s.endHold c d v).mem = s.mem := by
  simp [State.endHold]

@[simp] theorem State.finish_mem (h : Hdr) : (s.finish h).mem = s.mem := by simp [State.finish]

@[simp] theorem andThen_keeps {r : Res} {f : State → State} (hr : Res.Keeps P r)
    (hf : ∀ s, P s.mem → P (f s).mem) : Res.Keeps P (andThen r f) := by
  unfold andThen
  split
  · exact Res.keeps_next.mpr (hf _ (Res.keeps_next.mp hr))
  · exact hr

@[simp] theorem State.landCsr_mem (r : SeqRef) (n : BitVec 12) (v : Word) : (s.landCsr r n v).mem = s.mem := by
  unfold State.landCsr
  split <;> simp

@[simp] theorem State.land_mem (r : SeqRef) (f : Flight) : (s.land r f).mem = s.mem := by
  unfold State.land
  split <;> simp

@[simp] theorem State.pushLanded_mem (st : StrandRef) (fs : List Flight) : (s.pushLanded st fs).1.mem = s.mem := by
  induction fs generalizing s with
  | nil => rfl
  | cons f fs ih =>
    unfold State.pushLanded
    split
    next e => rw [ih, pushTok_mem e]
    next => exact ih

@[simp] theorem State.launchOp_keeps {i : Instr} {h : Hdr} {dest : Dest} {lat : Nat}
    {val o1 o2 o3 : Word} {op : LandOp} (hs : P s.mem) : Res.Keeps P (s.launchOp i h dest lat val o1 o2 o3 op) := by
  unfold State.launchOp
  split
  · simp [hs]
  · split <;> simp [hs]

@[simp] theorem State.stepFlights_mem (r : SeqRef) : (s.stepFlights r).1.mem = s.mem := by
  unfold State.stepFlights
  simp only
  split <;> simp

/-! ### Lanes -/

@[simp] theorem State.modLane_mem (die n : Nat) (f : Lane → Lane) : (s.modLane die n f).mem = s.mem := rfl

@[simp] theorem State.modLink_mem (p : Machine.Path) (mid : Nat) (f : Link → Link) :
    (s.modLink p mid f).mem = s.mem := rfl

@[simp] theorem State.putFlit_mem (mid die n : Nat) (f : SentFlit) : (s.putFlit mid die n f).mem = s.mem := by
  simp [State.putFlit]

@[simp] theorem State.emitFlit_mem (p : Machine.Path) (mid : Nat) (f : SentFlit) :
    (s.emitFlit p mid f).mem = s.mem := by
  unfold State.emitFlit
  simp only
  (repeat' split) <;> simp

@[simp] theorem State.flush_mem (p : Machine.Path) (mid : Nat) : (s.flush p mid).mem = s.mem := by simp [State.flush]

@[simp] theorem State.newFlit_mem (p : Machine.Path) (mid window : Nat) (payload : List Byte) :
    (s.newFlit p mid window payload).mem = s.mem := by
  simp [State.newFlit]

@[simp] theorem State.sendBytes_mem (p : Machine.Path) (mid window : Nat) (bs : List Byte) :
    (s.sendBytes p mid window bs).mem = s.mem := by
  simp [State.sendBytes]

@[simp] theorem State.moveTo_mem (path : SentFlit → Option Path) (mid : Nat) (fs : List SentFlit) :
    (s.moveTo path mid fs).mem = s.mem := by
  unfold State.moveTo
  rw [foldr_mem (fun f a => by split <;> simp)]
  exact foldl_mem (fun a f => by split <;> simp) _ _

@[simp] theorem State.moveAll_mem (die n : Nat) (old : Lane) : (s.moveAll die n old).mem = s.mem := by
  simp [State.moveAll]

@[simp] theorem State.replaceControl_mem (die lane : Nat) : (s.replaceControl die lane).mem = s.mem := by
  unfold State.replaceControl
  split <;> simp

@[simp] theorem State.laneFailed_mem (die n : Nat) : (s.laneFailed die n).mem = s.mem := by simp [State.laneFailed]

@[simp] theorem State.retrain_mem (die n replay : Nat) : (s.retrain die n replay).mem = s.mem := by
  simp [State.retrain]

@[simp] theorem State.rejoin_mem (die n : Nat) : (s.rejoin die n).mem = s.mem := by simp [State.rejoin]

theorem execNak_keeps {die lane : Nat} {flit : FlitNo} (hs : P s.mem) :
    Res.Keeps P (execNak die lane flit s) := by
  unfold execNak
  simp only
  (repeat' split) <;> simp [hs]

theorem execLaneTrainDone_keeps {die lane : Nat} (hs : P s.mem) :
    Res.Keeps P (execLaneTrainDone die lane s) := by
  simp [execLaneTrainDone, hs]

theorem execBktDecay_keeps {die lane : Nat} (hs : P s.mem) : Res.Keeps P (execBktDecay die lane s) := by
  simp [execBktDecay, hs]

theorem execLaneLos_keeps {die : Nat} {light : LostLight} (hs : P s.mem) :
    Res.Keeps P (execLaneLos die light s) := by
  simp [execLaneLos, hs]

theorem execLightReturn_keeps {die lane : Nat} (hs : P s.mem) : Res.Keeps P (execLightReturn die lane s) := by
  simp [execLightReturn, hs]

theorem execLaneRetuneDone_keeps {die lane : Nat} (hs : P s.mem) :
    Res.Keeps P (execLaneRetuneDone die lane s) := by
  unfold execLaneRetuneDone
  extract_lets l
  split
  · exact Res.keeps_next.mpr (foldl_keeps (fun _ _ h => by exact h) _ hs)
  · simp [hs]

theorem execUnlistedControlFlit_keeps {die lane : Nat} {flit : List Byte} (hs : P s.mem) :
    Res.Keeps P (execUnlistedControlFlit die lane flit s) := by
  simp [execUnlistedControlFlit, hs]

@[simp] theorem State.writeLane_mem (die n : Nat) (use : BitVec 2) (ch : BitVec 5) :
    (s.writeLane die n use ch).mem = s.mem := by
  simp [State.writeLane]

@[simp] theorem State.receive_mem (p : Machine.Path) (die lane : Nat) (f : DataFlit) :
    (s.receive p die lane f).1.mem = s.mem := by
  unfold State.receive
  simp only
  (repeat' split) <;> simp

/-! ### Scalar -/

@[simp] theorem State.alu_keeps {i : Instr} {h : Hdr} {op : AluOp} {d a : Reg} {y : Word} (hs : P s.mem) :
    Res.Keeps P (s.alu i h op d a y) := issue_keeps hs fun _ => launchOp_keeps

@[simp] theorem State.cmp_keeps {i : Instr} {h : Hdr} {op : Machine.Rel} {pd : BitVec 3} {a : Reg} {y : Word}
    (hs : P s.mem) : Res.Keeps P (s.cmp i h op pd a y) := issue_keeps hs fun _ => launchOp_keeps

@[simp] theorem State.plog_keeps {i : Instr} {h : Hdr} {op : PLog} {pd : BitVec 3} {x y : Bool} (hs : P s.mem) :
    Res.Keeps P (s.plog i h op pd x y) := issue_keeps hs fun _ => launchOp_keeps

@[simp] theorem State.li_keeps {i : Instr} {h : Hdr} {f : Nat} {d : Reg} {lit : BitVec 32} (hs : P s.mem) :
    Res.Keeps P (s.li i h f d lit) := issue_keeps hs fun _ => launchOp_keeps

@[simp] theorem State.fsc_keeps {i : Instr} {h : Hdr} {op : FscOp} {rm : RMode} {d a b : Reg} (hs : P s.mem) :
    Res.Keeps P (s.fsc i h op rm d a b) := issue_keeps hs fun _ => launchOp_keeps

@[simp] theorem State.fsf_keeps {i : Instr} {h : Hdr} {op : FsfOp} {d a : Reg} (hs : P s.mem) :
    Res.Keeps P (s.fsf i h op d a) := issue_keeps hs fun _ => launchOp_keeps

@[simp] theorem State.writeCtl_memWf (die pa : Nat) (bs : List Byte) (hs : MemWf s.mem) :
    MemWf (s.writeCtl die pa bs).mem := by
  unfold State.writeCtl
  split
  · refine foldl_keeps (fun a ⟨b, j⟩ ha => ?_) _ hs
    dsimp only
    split
    · exact ha
    · exact State.writeSlab_memWf _ _ _ ha
  · simp [hs]

@[simp] theorem State.loadOp_keeps {i : Instr} {h : Hdr} {n : Nat} {sg : Bool} {d a : Reg} {off : BitVec 16}
    (hs : P s.mem) : Res.Keeps P (s.loadOp i h n sg d a off) := by
  unfold State.loadOp
  simp only
  split
  · refine issue_keeps hs fun t ht => ?_
    split
    · exact launchOp_keeps (by simpa using ht)
    · split <;> simp [ht]
  · split
    · simp [hs]
    · refine issue_keeps hs fun t ht => ?_
      (repeat' split) <;> simp [ht]

@[simp] theorem State.storeOp_keeps {i : Instr} {h : Hdr} {n : Nat} {a b : Reg} {off : BitVec 16} (hs : MemWf s.mem) :
    Res.Keeps MemWf (s.storeOp i h n a b off) := by
  unfold State.storeOp
  simp only
  split
  · refine issue_keeps hs fun t ht => ?_
    split <;> simp [ht]
  · split
    · simp [hs]
    · refine issue_keeps hs fun t ht => ?_
      split <;> simp [ht]

/-! ### Tuples -/

theorem execLds_keeps {h : Hdr} {sz : BitVec 2} {sg : Bool} {d a : Reg} {off : LdsOff} (hs : P s.mem) :
    Res.Keeps P (execLds h sz sg d a off s) := by
  unfold execLds
  simp only
  (repeat' split) <;> simp [hs]

theorem execLdsComplete_keeps {g : Agent} (hs : P s.mem) : Res.Keeps P (execLdsComplete g s) := by
  unfold execLdsComplete
  (repeat' split) <;> simp [hs]

@[simp] theorem State.modSlice_mem (die sl : Nat) (f : Slice → Slice) : (s.modSlice die sl f).mem = s.mem := rfl
@[simp] theorem State.reach_mem (die rid : Nat) (q : TupReq) : (s.reach die rid q).mem = s.mem := rfl

@[simp] theorem State.sendTuple_mem (r : SeqRef) (o : TupOut) (target : Target) (block : List Byte) :
    (s.sendTuple r o target block).mem = s.mem := by
  unfold State.sendTuple
  (repeat' split) <;> simp

@[simp] theorem State.tuple_keeps {i : Instr} {h : Hdr} {k : AccKind} {n : Nat} {a b : Reg} (hs : P s.mem) :
    Res.Keeps P (s.tuple i h k n a b) := by
  unfold State.tuple
  simp only
  (repeat' split) <;> simp [hs]

theorem execTcnl_keeps {h : Hdr} {d a b : Reg} (hs : P s.mem) : Res.Keeps P (execTcnl h d a b s) := by
  unfold execTcnl
  simp only
  (repeat' split) <;> simp [hs]

@[simp] theorem State.modTup_mem (r : SeqRef) (req : Nat) (f : TupOut → TupOut) : (s.modTup r req f).mem = s.mem := rfl

theorem State.asSeq_keeps {r : SeqRef} {f : State → State} (hf : ∀ t, P t.mem → P (f t).mem) (hs : P s.mem) :
    P (s.asSeq r f).mem := hf { s with cur := .seq r } hs

@[simp] theorem State.acceptTup_mem (r : SeqRef) (o : TupOut) : (s.acceptTup r o).mem = s.mem := by
  unfold State.acceptTup
  have hf (t : State) : ((t.popWq r (hdrOf o.ins)).advance (hdrOf o.ins)).mem = t.mem := by simp
  split
  · rfl
  · split
    · rfl
    · rw [if_neg Bool.false_ne_true, State.modTup_mem]
      exact hf { s with cur := .seq r }

@[simp] theorem State.answerTup_mem (r : SeqRef) (req : Nat) (a : TupAns) : (s.answerTup r req a).mem = s.mem := by
  unfold State.answerTup
  simp only
  (repeat' split) <;> simp

@[simp] theorem State.answer_mem (who : Requester) (req : Nat) (a : TupAns) : (s.answer who req a).mem = s.mem := by
  unfold State.answer
  split <;> simp

@[simp] theorem State.addCount_mem (die rid : Nat) (f : Nat → Nat) : (s.addCount die rid f).mem = s.mem := rfl
@[simp] theorem State.purge_mem (die slice rid : Nat) : (s.purge die slice rid).mem = s.mem := by simp [State.purge]

@[simp] theorem State.serveTake_mem (die slice rid : Nat) (q : TupReq) :
    (s.serveTake die slice rid q).mem = s.mem := by
  unfold State.serveTake
  simp only
  (repeat' split) <;> simp

@[simp] theorem State.serveDeposit_mem (die slice rid : Nat) (g : Region) (q : TupReq) :
    (s.serveDeposit die slice rid g q).mem = s.mem := by
  unfold State.serveDeposit
  extract_lets sl hit copies take tsc out gone s1 s2 give s3
  have hg (a : State) (p : TupReq) : (give a p).mem = a.mem := State.answer_mem ..
  have h2 : s2.mem = s.mem := by simp [s2, s1]
  split
  · simp
  · rw [State.answer_mem, foldl_mem hg, foldl_mem hg, h2]

@[simp] theorem State.serveCancel_mem (die slice : Nat) (q : TupReq) : (s.serveCancel die slice q).mem = s.mem := by
  simp [State.serveCancel]

@[simp] theorem State.serve_mem (die slice : Nat) (kinds : List Nat) : (s.serve die slice kinds).mem = s.mem := by
  unfold State.serve
  simp only
  (repeat' split) <;> simp

theorem execTupleTakeService_keeps {die slice : Nat} (hs : P s.mem) :
    Res.Keeps P (execTupleTakeService die slice s) := by
  simp [execTupleTakeService, hs]

theorem execTupleDepositService_keeps {die slice : Nat} (hs : P s.mem) :
    Res.Keeps P (execTupleDepositService die slice s) := by
  simp [execTupleDepositService, hs]

theorem execTupleCancelService_keeps {die slice : Nat} (hs : P s.mem) :
    Res.Keeps P (execTupleCancelService die slice s) := by
  simp [execTupleCancelService, hs]

theorem execTupleParkExpire_keeps {die slice : Nat} (hs : P s.mem) :
    Res.Keeps P (execTupleParkExpire die slice s) := by
  simp [execTupleParkExpire, hs]

theorem execTupleComplete_keeps {req : Nat} (hs : P s.mem) : Res.Keeps P (execTupleComplete req s) := by
  unfold execTupleComplete
  (repeat' split) <;> simp [hs]

@[simp] theorem State.tupLost_mem (r : SeqRef) (o : TupOut) : (s.tupLost r o).mem = s.mem := by simp [State.tupLost]

theorem execTupleRemoteTimeout_keeps {req : Nat} (hs : P s.mem) :
    Res.Keeps P (execTupleRemoteTimeout req s) := by
  unfold execTupleRemoteTimeout
  split <;> simp [hs]

@[simp] theorem State.tupUnreach_mem (mid : Nat) : (s.tupUnreach mid).mem = s.mem := by simp [State.tupUnreach]

@[simp] theorem State.resendTup_mem (r : SeqRef) (o : TupOut) : (s.resendTup r o).mem = s.mem := by
  unfold State.resendTup
  simp only
  (repeat' split) <;> simp

theorem execTupleResend_keeps {req : Nat} (hs : P s.mem) : Res.Keeps P (execTupleResend req s) := by
  unfold execTupleResend
  split <;> simp [hs]

@[simp] theorem State.resendAll_mem (r : SeqRef) : (s.resendAll r).mem = s.mem := by simp [State.resendAll]

/-! ### Tensor -/

theorem fail_keeps {α : Type} {c : Cause} {detail : Word} :
    EM.Keeps P (fail c detail : EM α) := EM.keeps_throw _

theorem check_keeps {ok : Bool} {c : Cause} : EM.Keeps P (check ok c) := by
  unfold check
  split
  · exact EM.keeps_pure _
  · exact fail_keeps

theorem modS_keeps {f : State → State} (hf : ∀ s, P s.mem → P (f s).mem) :
    EM.Keeps P (modS f) := EM.keeps_modify fun _ => hf _

theorem modC_keeps {f : Cmd → Cmd} : EM.Keeps P (modC f) := EM.keeps_modify fun _ h => h
theorem getCl_keeps : EM.Keeps P getCl := EM.keeps_get.bind fun _ => EM.keeps_pure _

theorem modCl_keeps {f : Cluster → Cluster} : EM.Keeps P (modCl f) :=
  EM.keeps_modify fun _ h => h

theorem getTeam_keeps : EM.Keeps P getTeam := EM.keeps_get.bind fun _ => EM.keeps_pure _

theorem keepPage_keeps {vpn : Nat} : EM.Keeps P (keepPage vpn) := by
  refine EM.keeps_get_bind fun g hg => ?_
  split
  · exact EM.keeps_pure _
  · split
    · exact fail_keeps
    · refine EM.Keeps.bind (EM.keeps_set ?_) fun _ => EM.keeps_pure _
      exact hg

theorem eccRead_keeps {pa n : Nat} : EM.Keeps P (eccRead pa n) := by
  refine EM.keeps_get_bind fun g _ => ?_
  split
  · exact fail_keeps
  · exact modS_keeps fun s hs => by simp [hs]

theorem readPhys_keeps {pa : Int} {n : Nat} {whole : Bool} :
    EM.Keeps P (readPhys pa n whole) := by
  unfold readPhys
  refine check_keeps.bind fun _ => eccRead_keeps.bind fun _ => EM.keeps_get_bind fun g hg => ?_
  split
  next s' bs e =>
    have hs' : g.s.mem = s'.mem := by simpa using congrArg (fun p => p.1.mem) e
    exact EM.Keeps.bind (EM.keeps_set (by exact hs' ▸ hg)) fun _ => EM.keeps_pure _

theorem writePhys_keeps {pa : Int} {bs : List Byte} : EM.Keeps MemWf (writePhys pa bs) :=
  check_keeps.bind fun _ => EM.keeps_modify fun g hg => g.s.writeSlab_memWf _ _ _ hg

theorem spadRange_keeps {va n : Nat} : EM.Keeps P (spadRange va n) := by
  obtain ⟨o, ho⟩ : ∃ o, va - windowBase = o := ⟨_, rfl⟩
  unfold spadRange
  rw [ho]
  refine getTeam_keeps.bind fun t => ?_
  split
  · exact fail_keeps
  · split
    · exact fail_keeps
    · exact check_keeps.bind fun _ => EM.keeps_pure _
    · exact fail_keeps

theorem spadCheck_keeps {o n : Nat} : EM.Keeps P (spadCheck o n) := by
  refine EM.keeps_get.bind fun g => ?_
  split
  · exact fail_keeps
  · exact EM.keeps_pure _

theorem accCheck_keeps {lo n : Nat} : EM.Keeps P (accCheck lo n) := by
  refine EM.keeps_get.bind fun g => ?_
  split
  · exact fail_keeps
  · exact EM.keeps_pure _

theorem plainAt_keeps {va : Nat} {k : AccKind} : EM.Keeps P (plainAt va k) := by
  refine keepPage_keeps.bind fun w => ?_
  split
  · exact EM.keeps_pure _
  · exact fail_keeps

theorem splitV_keeps {va : Int} {n : Nat} : EM.Keeps P (splitV va n) :=
  check_keeps.bind fun _ => EM.keeps_pure _

theorem readV_keeps {va : Int} {n : Nat} {whole : Bool} : EM.Keeps P (readV va n whole) := by
  unfold readV
  split
  · exact EM.keeps_pure _
  · refine splitV_keeps.bind fun (ps, w) =>
      EM.Keeps.bind (EM.keeps_mapM (fun _ => plainAt_keeps.bind fun _ => readPhys_keeps) _)
      fun parts => ?_
    split
    · exact EM.keeps_pure _
    · exact spadRange_keeps.bind fun _ => getCl_keeps.bind fun _ => spadCheck_keeps.bind fun _ => EM.keeps_pure _

theorem writeV_keeps {va : Int} {bs : List Byte} : EM.Keeps MemWf (writeV va bs) := by
  unfold writeV
  split
  · exact EM.keeps_pure _
  · refine splitV_keeps.bind fun (ps, w) =>
      EM.Keeps.bind (EM.keeps_forM (fun _ => plainAt_keeps.bind fun _ => writePhys_keeps) _)
      fun _ => ?_
    split
    · exact EM.keeps_pure _
    · exact spadRange_keeps.bind fun _ => modCl_keeps

theorem Loc.read_keeps {l : Loc} {n : Nat} {whole : Bool} : EM.Keeps P (l.read n whole) := by
  cases l
  · exact readV_keeps
  · exact readPhys_keeps

theorem Loc.local_keeps {l : Loc} : EM.Keeps P l.local := by
  cases l
  · exact check_keeps.bind fun _ => check_keeps
  · exact EM.keeps_pure _

theorem Loc.write_keeps {l : Loc} {bs : List Byte} : EM.Keeps MemWf (l.write bs) := by
  cases l
  · exact writeV_keeps
  · exact writePhys_keeps

theorem modTid_keeps {n : Nat} {f : BitVec 512 → BitVec 512} : EM.Keeps P (modTid n f) := by
  refine getTeam_keeps.bind fun t => ?_
  split
  · exact EM.keeps_pure _
  · exact modCl_keeps

theorem satCount_keeps {tid n : Nat} : EM.Keeps P (satCount tid n) := by
  unfold satCount
  split
  · exact EM.keeps_pure _
  · exact modTid_keeps

theorem rbCount_keeps {tid n : Nat} : EM.Keeps P (rbCount tid n) := by
  unfold rbCount
  split
  · exact EM.keeps_pure _
  · exact modTid_keeps

theorem amaxUpdate_keeps {tid : Nat} {v : ExtNum} : EM.Keeps P (amaxUpdate tid v) := by
  unfold amaxUpdate
  split
  · exact EM.keeps_pure _
  · exact modTid_keeps

theorem readBlock_keeps {t : Tens} {ix : List Nat} : EM.Keeps P (readBlock t ix) :=
  EM.Keeps.bind (EM.keeps_mapM (fun x => x.1.read_keeps) _) fun _ => EM.keeps_pure _

theorem writeBlock_keeps {t : Tens} {ix : List Nat} {bs : List Byte} : EM.Keeps MemWf (writeBlock t ix bs) := by
  unfold writeBlock
  split
  · exact Loc.write_keeps
  · exact Loc.write_keeps.bind fun _ => Loc.write_keeps
  · exact EM.keeps_pure _

theorem readElem_keeps {t : Tens} {ix : List Nat} : EM.Keeps P (readElem t ix) :=
  readBlock_keeps.bind fun _ => EM.keeps_pure _

@[simp] theorem State.reserve_mem (r : SeqRef) (n : Nat) : (s.reserve r n).1.mem = s.mem := rfl

@[simp] theorem State.enqueue_mem (r : SeqRef) (e : Engine) (i : Instr) (h : Hdr) (xd xa xb : Word)
    (tids : List (BitVec 512)) (lfsr : BitVec 32) : (s.enqueue r e i h xd xa xb tids lfsr).mem = s.mem := rfl

@[simp] theorem State.setHead_mem (r : SeqRef) (e : Engine) (c : Cmd) : (s.setHead r e c).mem = s.mem := rfl

@[simp] theorem State.completeCmd?_mem (r : SeqRef) (e : Engine) (c : Cmd) :
    (s.completeCmd? r e c).1.mem = s.mem := by
  simp [State.completeCmd?]

@[simp] theorem State.completeCmd_mem (r : SeqRef) (e : Engine) (c : Cmd) : (s.completeCmd r e c).mem = s.mem := by
  simp [State.completeCmd]

@[simp] theorem State.completeStatus_mem (r : SeqRef) (e : Engine) (c : Cmd) (d : Reg) (w : Word)
    (cause : Option Cause) (detail : Word) : (s.completeStatus r e c d w cause detail).mem = s.mem := by
  unfold State.completeStatus
  simp only
  (repeat' split) <;> simp

@[simp] theorem State.unitTrap_mem (r : SeqRef) (c : Cmd) (cause : Cause) (detail : Word) :
    (s.unitTrap r c cause detail).mem = s.mem := by
  simp [State.unitTrap]

theorem State.doUnit_keeps {r : SeqRef} {e : Engine} {units step : Cmd → Nat}
    {body : EM Bool} (hb : EM.Keeps P body) (hs : P s.mem) : P (s.doUnit r e units step body).mem := by
  unfold State.doUnit
  split
  · exact hs
  · split
    · exact hs
    · split
      · simp [hs]
      · split
        case _ => simp [hs]
        case _ g hx =>
          have hg := hb _ _ _ hx hs
          simp only
          (repeat' split) <;> simp [hg]

theorem State.doUnits_keeps {r : SeqRef} {e : Engine} {units step : Cmd → Nat}
    {body : EM Bool} (hb : EM.Keeps P body) {per n : Nat} (hs : P s.mem) :
    P (s.doUnits r e units step body per n).mem := by
  induction n generalizing s with
  | zero => exact hs
  | succ n ih =>
    have h1 := State.doUnit_keeps (r := r) (e := e) (units := units) (step := step) hb hs
    unfold State.doUnits
    simp only
    split
    · split
      · exact ih h1
      · exact h1
    · exact h1

/-! ### Chain -/

@[simp] theorem State.modCadence_mem (tag : BitVec 32) (f : Cadence → Cadence) : (s.modCadence tag f).mem = s.mem := rfl

@[simp] theorem State.register_mem (value mask : BitVec 32) (f : BitVec 16 → BitVec 16) :
    (s.register value mask f).mem = s.mem := rfl

@[simp] theorem State.deliver_mem (die : Nat) (a : Arrival) : (s.deliver die a).mem = s.mem := rfl
@[simp] theorem State.modFrame_mem (die i : Nat) (f : Frame → Frame) : (s.modFrame die i f).mem = s.mem := rfl
@[simp] theorem State.modFSlot_mem (n : Nat) (f : FSlot → FSlot) : (s.modFSlot n f).mem = s.mem := rfl
@[simp] theorem State.freeSlots_mem : s.freeSlots.mem = s.mem := rfl

@[simp] theorem State.release_mem (die : Nat) : (s.release die).mem = s.mem := by
  unfold State.release
  extract_lets done s1 s2
  have h1 : s1.mem = s.mem := foldl_mem (fun _ _ => by rfl) _ _
  have h2 : s2.mem = s1.mem := by
    unfold s2
    split <;> rfl
  split
  · rfl
  · rw [freeSlots_mem, h2, h1]

@[simp] theorem State.pushStripe_mem (die : Nat) : (s.pushStripe die).mem = s.mem := by
  unfold State.pushStripe
  split <;> simp

theorem execStripeSendStart_keeps {die : Nat} (hs : P s.mem) : Res.Keeps P (execStripeSendStart die s) := by
  unfold execStripeSendStart
  simp only
  (repeat' split) <;> simp [hs]

theorem execFreefr_keeps {die count : Nat} (hs : P s.mem) : Res.Keeps P (execFreefr die count s) := by
  simp [execFreefr, hs]

@[simp] theorem State.stripeAcked_mem (die : Nat) (seq : BitVec 32) : (s.stripeAcked die seq).mem = s.mem := by
  unfold State.stripeAcked
  extract_lets d s1 jobs s2
  have h1 : s1.mem = s.mem := foldl_mem (fun a ⟨i, f⟩ => by dsimp only; split <;> rfl) _ _
  have h2 : s2.mem = s1.mem := foldl_mem (fun _ _ => by rfl) _ _
  rw [State.release_mem, State.modDie_mem, h2, h1]

theorem execAck_keeps {die lane : Nat} {flit : FlitNo} (hs : P s.mem) :
    Res.Keeps P (execAck die lane flit s) := by
  unfold execAck
  extract_lets l mid
  split
  · simp [hs]
  · extract_lets keep s1 s2
    have h1 : P s1.mem := by
      unfold s1
      exact foldl_keeps (fun _ _ h => by exact h) _ hs
    have h2 : s2.mem = s1.mem := State.modLink_mem ..
    split <;> simp [h1, h2]

@[simp] theorem State.noteDie_mem (die : Nat) (tag rot : BitVec 32) : (s.noteDie die tag rot).mem = s.mem := by
  unfold State.noteDie
  split <;> simp

@[simp] theorem State.firstHeader_mem (die : Nat) (e : Cadence) (rot : BitVec 32) :
    (s.firstHeader die e rot).mem = s.mem := by
  unfold State.firstHeader
  simp only
  (repeat' split) <;> simp

@[simp] theorem State.dropStale_mem (die : Nat) (hd : SegHdr) : (s.dropStale die hd).mem = s.mem := by
  unfold State.dropStale
  split <;> simp

theorem execSeghdr_keeps {die : Nat} {hd : SegHdr} (hs : P s.mem) : Res.Keeps P (execSeghdr die hd s) := by
  unfold execSeghdr
  simp only
  (repeat' split) <;> simp [hs]

@[simp] theorem State.arrival_mem (die : Nat) (h : SegHdr) (reg : Bool) : (s.arrival die h reg).mem = s.mem := by
  simp [State.arrival]

@[simp] theorem State.endAudit_mem (die : Nat) (a : Audit) : (s.endAudit die a).mem = s.mem := by
  simp [State.endAudit]

@[simp] theorem State.auditStripe_mem (die : Nat) (h : SegHdr) (pa : Nat) : (s.auditStripe die h pa).mem = s.mem := by
  unfold State.auditStripe
  split <;> simp

@[simp] theorem State.chainFlit_memWf (die : Nat) (payload : List Byte) (hs : MemWf s.mem) :
    MemWf (s.chainFlit die payload).mem := by
  unfold State.chainFlit
  simp only
  (repeat' split) <;> simp [hs]

theorem execDwellExpire_keeps {die fslot : Nat} (hs : P s.mem) :
    Res.Keeps P (execDwellExpire die fslot s) := by
  unfold execDwellExpire
  split <;> simp [hs]

theorem execLostStandin_keeps {tag : BitVec 32} (hs : P s.mem) : Res.Keeps P (execLostStandin tag s) := by
  unfold execLostStandin
  split
  · simp [hs]
  · split
    · simp [hs]
    · refine Res.keeps_next.mpr (foldl_keeps (fun a d ha => ?_) _ hs)
      split <;> simp [ha]

@[simp] theorem State.wtagTake_mem (r : SeqRef) (c : Cmd) (d : Reg) (a : Arrival) (n : Nat) :
    (s.wtagTake r c d a n).mem = s.mem := by
  simp [State.wtagTake]

@[simp] theorem wtagHold_mem (d : Reg) (c : Cmd) : (wtagHold d s c).state.mem = s.mem := by
  unfold wtagHold
  simp only
  (repeat' split) <;> simp

theorem execWtag_keeps {h : Hdr} {d : Reg} {tmo : BitVec 16} (hs : P s.mem) :
    Res.Keeps P (execWtag h d tmo s) := by
  unfold execWtag
  split
  · simp [hs]
  · exact State.issue_keeps hs fun t ht => State.holdIn_keeps (by simp [ht])

theorem execTagq_keeps {h : Hdr} {d a : Reg} {which : BitVec 2} (hs : P s.mem) :
    Res.Keeps P (execTagq h d a which s) := by
  simp [execTagq, hs]

theorem execFwd_keeps {h : Hdr} {reinj audit : Bool} {d a b : Reg} {size : BitVec 7} (hs : P s.mem) :
    Res.Keeps P (execFwd h reinj audit d a b size s) := by
  unfold execFwd
  split <;> simp [hs]

/-! ### Copy -/

@[simp] theorem State.copyCmd_keeps {i : Instr} {h : Hdr} {d a b : Reg} {early late : Option Cause} {n : Nat}
    {tids : List (BitVec 512)} (hs : P s.mem) : Res.Keeps P (s.copyCmd i h d a b early late n tids) := by
  unfold State.copyCmd
  (repeat' split) <;> simp [hs]

theorem execCpy_keeps {h : Hdr} {d a b : Reg} (hs : P s.mem) : Res.Keeps P (execCpy h d a b s) := by
  simp [execCpy, hs]

theorem cpyUnit_keeps : EM.Keeps MemWf cpyUnit :=
  EM.keeps_get.bind fun _ => readV_keeps.bind fun _ => writeV_keeps.bind fun _ => EM.keeps_pure _

theorem execCpyt_keeps {h : Hdr} {tn tm : BitVec 8} {d a b : Reg} (hs : P s.mem) :
    Res.Keeps P (execCpyt h tn tm d a b s) := by
  unfold execCpyt
  (repeat' split) <;> simp [hs]

theorem copyBlock_keeps {src dst : Tens} {ia ib : List Nat} : EM.Keeps MemWf (copyBlock src ia dst ib) :=
  readBlock_keeps.bind fun _ => writeBlock_keeps

theorem cpytUnit_keeps : EM.Keeps MemWf cpytUnit :=
  EM.keeps_get.bind fun _ => check_keeps.bind fun _ => (EM.keeps_forM (fun _ => copyBlock_keeps) _).bind fun _ =>
    EM.keeps_pure _

theorem posPage_keeps {req token : Nat} : EM.Keeps P (posPage req token) := by
  unfold posPage
  refine EM.keeps_get.bind fun g => ?_
  extract_lets ctx d tpg
  split
  · exact EM.keeps_pure _
  · exact fail_keeps

theorem posPlace_keeps {t : Tens} {req : Nat} {ix : List Nat} : EM.Keeps P (posPlace t req ix) :=
  posPage_keeps.bind fun _ => EM.keeps_pure _

@[simp] theorem State.rowsCmd_keeps {i : Instr} {h : Hdr} {gath pos : Bool} {tn tm : BitVec 8} {d a b : Reg}
    (hs : P s.mem) : Res.Keeps P (s.rowsCmd i h gath pos tn tm d a b) := by
  unfold State.rowsCmd
  (repeat' split) <;> simp [hs]

theorem indexedRow_keeps {r : RowCmd} {c : Cmd} {k : Nat} : EM.Keeps P (indexedRow r c k) := by
  unfold indexedRow
  split
  · exact check_keeps.bind fun _ => posPlace_keeps
  · exact readV_keeps.bind fun _ => check_keeps.bind fun _ => EM.keeps_pure _

theorem rowUnit_keeps {gath pos : Bool} : EM.Keeps MemWf (rowUnit gath pos) := by
  unfold rowUnit
  refine EM.keeps_get.bind fun g => ?_
  extract_lets c r k row len jp
  have hjp (u : PUnit) : EM.Keeps MemWf (jp u) := by
    refine indexedRow_keeps.bind fun (it, ix) => EM.Keeps.bind (EM.keeps_forM (fun i0 => ?_) _) fun _ => EM.keeps_pure _
    extract_lets p q
    split
    · exact (EM.keeps_forM (fun x => x.1.local_keeps) _).bind fun _ => copyBlock_keeps
    · exact copyBlock_keeps
  refine check_keeps.bind fun _ => ?_
  split
  · exact check_keeps.bind hjp
  · exact hjp ⟨⟩

theorem execCpyx_keeps {h : Hdr} {sr sat : Bool} {rm : RMode} {pos app tr : Bool} {tn tm : BitVec 8}
    {d a b : Reg} (hs : P s.mem) : Res.Keeps P (execCpyx h sr sat rm pos app tr tn tm d a b s) := by
  unfold execCpyx
  (repeat' split) <;> simp [hs]

theorem XCmd.place_keeps {x : XCmd} {xb : Word} {j : List Nat} : EM.Keeps P (x.place xb j) := by
  unfold XCmd.place
  split
  · exact posPlace_keeps
  · exact EM.keeps_pure _

theorem writeElem_keeps {t : Tens} {tid : Nat} {ix : List Nat} {sat : Bool} {y : ExtNum × Rnd} :
    EM.Keeps MemWf (writeElem t tid ix sat y) := by
  unfold writeElem
  refine writeBlock_keeps.bind fun _ => ?_
  split
  · exact satCount_keeps
  · exact EM.keeps_pure _

theorem appendElem_keeps {t : Tens} {tid token : Nat} {ix : List Nat} {y : ExtNum × Rnd} :
    EM.Keeps MemWf (appendElem t tid token ix y) := by
  unfold appendElem
  simp only
  split
  · exact writeBlock_keeps.bind fun _ => satCount_keeps.bind fun _ => EM.keeps_pure _
  · refine readBlock_keeps.bind fun bs => ?_
    split
    · exact writeBlock_keeps.bind fun _ => satCount_keeps.bind fun _ => rbCount_keeps.bind fun _ => EM.keeps_pure _
    · exact writeBlock_keeps.bind fun _ => satCount_keeps.bind fun _ => rbCount_keeps.bind fun _ => EM.keeps_pure _
    · exact EM.keeps_pure _

theorem cpyxUnit_keeps {sr sat : Bool} {rm : RMode} {pos app tr : Bool} {tn : Nat} :
    EM.Keeps MemWf (cpyxUnit sr sat rm pos app tr tn) := by
  unfold cpyxUnit
  refine EM.keeps_get.bind fun g => check_keeps.bind fun _ => EM.Keeps.bind (EM.keeps_mapM (fun i => ?_) _) fun ys => ?_
  · exact readElem_keeps.bind fun _ => amaxUpdate_keeps.bind fun _ => EM.keeps_pure _
  · split
    · refine EM.Keeps.bind (EM.keeps_forM (fun y => ?_) _) fun _ => EM.keeps_pure _
      exact XCmd.place_keeps.bind fun _ => writeElem_keeps
    · split
      · refine EM.Keeps.bind (EM.keeps_forM (fun key => ?_) _) fun _ => EM.keeps_pure _
        exact XCmd.place_keeps.bind fun _ => writeBlock_keeps.bind fun _ => satCount_keeps
      · refine EM.keeps_foldlM (fun past y => ?_) _ _
        exact XCmd.place_keeps.bind fun _ => appendElem_keeps.bind fun _ => EM.keeps_pure _

theorem copyBody_keeps {i : Instr} : EM.Keeps MemWf (copyBody i) := by
  unfold copyBody
  split
  · exact cpyUnit_keeps
  · exact cpytUnit_keeps
  · exact rowUnit_keeps
  · exact rowUnit_keeps
  · exact cpyxUnit_keeps
  · exact EM.keeps_pure _

theorem execCopyUnit_keeps {g : Agent} (hs : MemWf s.mem) : Res.Keeps MemWf (execCopyUnit g s) := by
  unfold execCopyUnit
  split
  · simp [hs]
  · split
    · refine Res.keeps_next.mpr ?_
      split
      · exact hs
      · exact State.doUnits_keeps copyBody_keeps hs
    · simp [hs]

/-! ### Matrix -/

@[simp] theorem State.mmCmd_keeps {i : Instr} {h : Hdr} {m : MmCmd} {tA tB : BitVec 8} {d a b : Reg} (hs : P s.mem) :
    Res.Keeps P (s.mmCmd i h m tA tB d a b) := by
  unfold State.mmCmd
  split <;> simp [hs]

theorem execMma_keeps {h : Hdr} {lst zr : Bool} {rm : RMode} {tA tB : BitVec 8} {a b : Reg} {ml : MmaLit}
    (hs : P s.mem) : Res.Keeps P (execMma h lst zr rm tA tB a b ml s) := by
  simp [execMma, hs]

theorem execMmak_keeps {h : Hdr} {lst zr : Bool} {rm : RMode} {tA tB : BitVec 8} {d a b : Reg}
    {ml : MmaLit} {off : BitVec 11} (hs : P s.mem) : Res.Keeps P (execMmak h lst zr rm tA tB d a b ml off s) := by
  simp [execMmak, hs]

theorem execMmakTargetChoice_keeps {g : Agent} (hs : P s.mem) : Res.Keeps P (execMmakTargetChoice g s) := by
  unfold execMmakTargetChoice
  (repeat' split) <;> simp [hs]

@[simp] theorem State.mmakEnd_mem (r : SeqRef) (c : Cmd) (m : MmCmd) (status : Nat) (cause : Option Cause) :
    (s.mmakEnd r c m status cause).mem = s.mem := by
  simp [State.mmakEnd]

theorem execMmakStartTime_keeps {g : Agent} (hs : P s.mem) : Res.Keeps P (execMmakStartTime g s) := by
  unfold execMmakStartTime
  simp only
  (repeat' split) <;> simp [hs]

@[simp] theorem State.mismatch_mem (r : SeqRef) (unit aw fid : Nat) (k : Checked) (inj : Bool) :
    (s.mismatch r unit aw fid k inj).mem = s.mem := by
  simp [State.mismatch]

@[simp] theorem State.residues_mem (r : SeqRef) (unit aw fid : Nat) (ks : List Checked) :
    (s.residues r unit aw fid ks).mem = s.mem := by
  simp [State.residues]

theorem mmRow_keeps {m : MmCmd} : EM.Keeps P (mmRow m) := by
  unfold mmRow
  refine EM.keeps_get.bind fun g => ?_
  split
  · exact readV_keeps.bind fun _ => check_keeps.bind fun _ => check_keeps.bind fun _ => EM.keeps_pure _
  · exact EM.keeps_pure _

theorem readRow_keeps {t : Tens} {row n : Nat} : EM.Keeps P (readRow t row n) :=
  EM.Keeps.bind (EM.keeps_mapM (fun _ => readBlock_keeps) _) fun _ => EM.keeps_pure _

theorem checkTiles_keeps {m : MmCmd} : EM.Keeps P (checkTiles m) :=
  getCl_keeps.bind fun _ => check_keeps.bind fun _ => modC_keeps

theorem mmUnit_keeps {m : MmCmd} {f : Nat} {exact_ : Bool} : EM.Keeps P (mmUnit m f exact_) := by
  unfold mmUnit
  refine EM.keeps_get.bind fun g => mmRow_keeps.bind fun (a, row, aw) => checkTiles_keeps.bind fun _ =>
    getCl_keeps.bind fun cl => check_keeps.bind fun _ => ?_
  extract_lets scale jp
  have hjp (u : PUnit) : EM.Keeps P (jp u) := by
    refine readRow_keeps.bind fun as => ?_
    extract_lets outs
    split
    · exact fail_keeps
    · exact modCl_keeps.bind fun _ => (modS_keeps fun _ h => by exact h).bind fun _ =>
        (modS_keeps fun s h => by rwa [State.residues_mem]).bind fun _ => EM.keeps_pure _
  split
  · exact accCheck_keeps.bind hjp
  · exact hjp ⟨⟩

theorem execMmaUnit_keeps {g : Agent} (hs : P s.mem) : Res.Keeps P (execMmaUnit g s) := by
  unfold execMmaUnit
  split
  · simp [hs]
  case _ r =>
    split
    · simp [hs]
    case _ c m _ =>
      extract_lets cl rows f other s0 s1
      have h1 : P s1.mem := State.doUnit_keeps mmUnit_keeps (by simp [s0, hs])
      clear_value s1
      (repeat' split) <;> simp [hs, h1]

theorem execFidRailSwitchDone_keeps {die cl : Nat} (hs : P s.mem) :
    Res.Keeps P (execFidRailSwitchDone die cl s) := by
  simp [execFidRailSwitchDone, hs]

theorem execAclr_keeps {h : Hdr} {a b : Reg} (hs : P s.mem) : Res.Keeps P (execAclr h a b s) := by
  unfold execAclr
  split <;> simp [hs]

theorem aclrUnit_keeps : EM.Keeps P aclrUnit := EM.keeps_get.bind fun _ => modCl_keeps.bind fun _ => EM.keeps_pure _

theorem execAclrUnit_keeps {g : Agent} (hs : P s.mem) : Res.Keeps P (execAclrUnit g s) := by
  unfold execAclrUnit
  split
  · simp [hs]
  · split
    · refine Res.keeps_next.mpr ?_
      split
      · exact State.doUnit_keeps aclrUnit_keeps hs
      · exact hs
    · simp [hs]

theorem execAdrn_keeps {h : Hdr} {sr sat : Bool} {rm : RMode} {clr tr : Bool} {tn : BitVec 8}
    {d a b : Reg} {lda : BitVec 17} (hs : P s.mem) : Res.Keeps P (execAdrn h sr sat rm clr tr tn d a b lda s) := by
  unfold execAdrn
  simp only
  (repeat' split) <;> simp [hs]

theorem drainUnit_keeps {d : Drain} {sr sat : Bool} {rm : RMode} {clr : Bool} {tn : Nat} :
    EM.Keeps MemWf (drainUnit d sr sat rm clr tn) := by
  unfold drainUnit
  refine EM.keeps_get.bind fun g => getCl_keeps.bind fun cl => ?_
  extract_lets c r0 rows pts word dest end_
  have hend (u : PUnit) : EM.Keeps MemWf (end_ u) := by
    unfold end_
    split
    · exact modCl_keeps.bind fun _ => EM.keeps_pure _
    · exact EM.keeps_pure _
  refine check_keeps.bind fun _ => check_keeps.bind fun _ => (EM.keeps_forM (fun _ => accCheck_keeps) _).bind fun _ =>
    EM.Keeps.bind (EM.keeps_mapM (fun p => amaxUpdate_keeps.bind fun _ => EM.keeps_pure _) _) fun ys => ?_
  split
  · exact (EM.keeps_forM (fun _ => writeElem_keeps) _).bind hend
  · exact (EM.keeps_forM (fun key => writeBlock_keeps.bind fun _ => satCount_keeps) _).bind hend

theorem execDrainUnit_keeps {g : Agent} (hs : MemWf s.mem) : Res.Keeps MemWf (execDrainUnit g s) := by
  unfold execDrainUnit
  split
  · simp [hs]
  · split
    · simp [hs]
    · split
      · refine Res.keeps_next.mpr ?_
        split
        · exact State.doUnits_keeps drainUnit_keeps hs
        · exact State.doUnit_keeps drainUnit_keeps hs
      · simp [hs]

@[simp] theorem fcrdHold_mem (which : BitVec 2) (d : Reg) (c : Cmd) : (fcrdHold which d s c).state.mem = s.mem := by
  unfold fcrdHold
  split <;> simp

@[simp] theorem fcclrHold_mem (d : Reg) (c : Cmd) : (fcclrHold d s c).state.mem = s.mem := by
  unfold fcclrHold
  split <;> simp

theorem execFcrd_keeps {h : Hdr} {d : Reg} {which : BitVec 2} (hs : P s.mem) :
    Res.Keeps P (execFcrd h d which s) := State.issue_keeps hs fun t ht => State.holdIn_keeps (by simp [ht])

theorem execFcclr_keeps {h : Hdr} {d : Reg} (hs : P s.mem) : Res.Keeps P (execFcclr h d s) :=
  State.issue_keeps hs fun t ht => State.holdIn_keeps (by simp [ht])

/-! ### Attention -/

@[simp] theorem State.atnCmd_keeps {i : Instr} {h : Hdr} {d a b : Reg} {early : Option Cause}
    {tids : SeqRef → Except Cause (List (BitVec 512))} (hs : P s.mem) :
    Res.Keeps P (s.atnCmd i h d a b early tids) := by
  unfold State.atnCmd
  split <;> simp [hs]

theorem execAtf_keeps {h : Hdr} {u : Bool} {a b : Reg} (hs : P s.mem) : Res.Keeps P (execAtf h u a b s) := by
  simp [execAtf, hs]

theorem rowValues_keeps {t : Tens} {row n : Nat} : EM.Keeps P (rowValues t row n) :=
  EM.keeps_mapM (fun _ => readElem_keeps) _

theorem atqUnit_keeps : EM.Keeps P atqUnit :=
  EM.keeps_get.bind fun _ => (EM.keeps_mapM (fun _ => rowValues_keeps) _).bind fun _ => modCl_keeps.bind fun _ =>
    EM.keeps_pure _

theorem atsUnit_keeps : EM.Keeps P atsUnit := by
  unfold atsUnit
  refine EM.keeps_get.bind fun g => getCl_keeps.bind fun cl => ?_
  extract_lets c p n
  split
  · exact EM.keeps_pure _
  · exact check_keeps.bind fun _ => (EM.keeps_mapM (fun _ => rowValues_keeps) _).bind fun _ =>
      (EM.keeps_mapM (fun _ => rowValues_keeps) _).bind fun _ => modCl_keeps.bind fun _ => EM.keeps_pure _

theorem atfUnit_keeps {u : Bool} : EM.Keeps P (atfUnit u) :=
  EM.keeps_get.bind fun _ => getCl_keeps.bind fun _ => check_keeps.bind fun _ => modCl_keeps.bind fun _ =>
    EM.keeps_pure _

theorem execAttentionPerform_keeps {g : Agent} (hs : P s.mem) : Res.Keeps P (execAttentionPerform g s) := by
  unfold execAttentionPerform
  split
  · simp [hs]
  · split
    · simp [hs]
    · split
      · exact Res.keeps_next.mpr (State.doUnit_keeps atqUnit_keeps hs)
      · exact Res.keeps_next.mpr (State.doUnit_keeps atsUnit_keeps hs)
      · exact Res.keeps_next.mpr (State.doUnit_keeps atfUnit_keeps hs)
      · simp [hs]

@[simp] theorem State.atomicCmd_keeps {i : Instr} {h : Hdr} {a b : Reg} (hs : P s.mem) :
    Res.Keeps P (s.atomicCmd i h a b) := by
  unfold State.atomicCmd
  split <;> simp [hs]

@[simp] theorem State.putWords_mem (r : SeqRef) (k : Atomic) (pos : Nat) (ws : List (BitVec 32)) :
    (s.putWords r k pos ws).mem = s.mem := by
  simp [State.putWords]

theorem execAatPerformed_keeps {g : Agent} (hs : P s.mem) : Res.Keeps P (execAatPerformed g s) := by
  unfold execAatPerformed
  split
  · simp [hs]
  case _ r =>
    split
    · simp [hs]
    · split
      · simp [hs]
      · extract_lets pos cl at_ n
        split
        split
        · simp [hs]
        · split
          · simp [hs]
          · refine Res.keeps_next.mpr (State.asSeq_keeps (fun t ht => ?_) (by simpa using hs))
            (repeat' split) <;> simp [ht]

/-! ### Land -/

theorem execLand_keeps {h : Hdr} {fmt : Fmt} {d a b : Reg} {mac : BitVec 6} {slot cnt : BitVec 3}
    (hs : P s.mem) : Res.Keeps P (execLand h fmt d a b mac slot cnt s) := by
  unfold execLand
  simp only
  (repeat' split) <;> simp [hs]

@[simp] theorem State.landEnd_mem (r : SeqRef) (c : Cmd) (l : LandCmd) (status : Nat) :
    (s.landEnd r c l status).mem = s.mem := by
  simp [State.landEnd]

@[simp] theorem State.landTile_mem (r : SeqRef) (c : Cmd) (l : LandCmd) (rot : BitVec 32) :
    (s.landTile r c l rot).mem = s.mem := by
  simp [State.landTile]

@[simp] theorem State.landServe_mem (r : SeqRef) (c0 : Cmd) (l : LandCmd) : (s.landServe r c0 l).mem = s.mem := by
  unfold State.landServe
  simp only
  (repeat' split) <;> simp

theorem execLandTile_keeps {g : Agent} (hs : P s.mem) : Res.Keeps P (execLandTile g s) := by
  unfold execLandTile
  split
  · simp [hs]
  · refine Res.keeps_next.mpr (foldl_keeps (fun a c0 ha => ?_) _ hs)
    (repeat' split) <;> simp [ha]

/-! ### Collective -/

@[simp] theorem State.modCounter_mem (die n : Nat) (f : Counter → Counter) : (s.modCounter die n f).mem = s.mem := rfl

@[simp] theorem State.counterAdd_mem (die n add : Nat) : (s.counterAdd die n add).mem = s.mem := by
  simp [State.counterAdd]

@[simp] theorem State.bump_mem (die : Nat) (ctx : BitVec 4) (h : Word) (add : BitVec 32) :
    (s.bump die ctx h add).mem = s.mem := by
  simp [State.bump]

@[simp] theorem State.modColl_mem (r : SeqRef) (n : Nat) (f : Cmd → Cmd) : (s.modColl r n f).mem = s.mem := rfl

@[simp] theorem State.collEnd_mem (r : SeqRef) (c : Cmd) (w : BitVec 64) : (s.collEnd r c w).mem = s.mem := by
  simp [State.collEnd]

@[simp] theorem State.modRange_mem (rr : RangeRef) (f : Range → Range) : (s.modRange rr f).mem = s.mem := by
  unfold State.modRange
  split <;> simp

@[simp] theorem State.addWords_mem (m : RMem) (w : Nat) (vs : List ExtNum) (add : BitVec 32 → ExtNum → BitVec 32) :
    (s.addWords m w vs add).mem = s.mem := by
  unfold State.addWords
  split <;> simp

@[simp] theorem State.clearWords_mem (m : RMem) (w n : Nat) : (s.clearWords m w n).mem = s.mem := by
  unfold State.clearWords
  split <;> simp

@[simp] theorem State.modContrib_mem (rr : RangeRef) (who : Contributor) (f : Contrib → Contrib) :
    (s.modContrib rr who f).mem = s.mem := by
  simp [State.modContrib]

@[simp] theorem State.joinRange_mem (rr : RangeRef) (k : Contrib) : (s.joinRange rr k).mem = s.mem := by
  simp [State.joinRange]

@[simp] theorem State.cut_mem (miss : BitVec 32) (k : Contrib) : (s.cut miss k).mem = s.mem := by
  unfold State.cut
  simp only
  (repeat' split) <;> simp

@[simp] theorem State.bumpRange_mem (rr : RangeRef) : (s.bumpRange rr).mem = s.mem := by simp [State.bumpRange]
@[simp] theorem State.settleRange_mem (rr : RangeRef) : (s.settleRange rr).mem = s.mem := by simp [State.settleRange]

theorem execRoundTimeout_keeps {rr : RangeRef} (hs : P s.mem) : Res.Keeps P (execRoundTimeout rr s) := by
  simp [execRoundTimeout, hs]

@[simp] theorem State.fillSlot_mem (rr : RangeRef) (who : Contributor) : (s.fillSlot rr who).mem = s.mem := by
  unfold State.fillSlot
  split <;> simp

@[simp] theorem State.leaveRange_mem (rr : RangeRef) (who : Contributor) : (s.leaveRange rr who).mem = s.mem := by
  simp [State.leaveRange]

theorem execCpyr_keeps {h : Hdr} {acc : Bool} {rm : RMode} {fmt : Fmt} {d a b : Reg} (hs : P s.mem) :
    Res.Keeps P (execCpyr h acc rm fmt d a b s) := by
  simp [execCpyr, hs]

theorem State.contribute_keeps {r : SeqRef} {e : Engine} {c : Cmd} {rr : RangeRef} {w n per : Nat}
    {add : BitVec 32 → ExtNum → BitVec 32} {read : EM (List ExtNum)} (hr : EM.Keeps P read) (hs : P s.mem) :
    P (s.contribute r e c rr w n per add read).1.mem := by
  unfold State.contribute
  extract_lets me rq g same mine s0 s1
  have h1 : P s1.mem := by
    unfold s1 s0
    (repeat' split) <;> simp [hs]
  clear_value s1
  split
  · exact hs
  · split
    · exact hs
    · split
      · exact h1
      · split
        · exact h1
        · split
          · simp [h1]
          · split
            · exact h1
            · exact h1
            case _ x _ hx =>
              extract_lets y c' s2 s3
              have h3 : P s3.mem := by simpa [s3, s2] using hr _ _ _ hx h1
              split <;> simp [h3]

theorem readUnit_keeps {src : Word} {fmt : Fmt} {n per : Nat} : EM.Keeps P (readUnit src fmt n per) := by
  unfold readUnit
  refine EM.keeps_get.bind fun g => ?_
  extract_lets c m jp
  have hjp (u : PUnit) : EM.Keeps P (jp u) := readV_keeps.bind fun _ => EM.keeps_pure _
  split
  · exact Loc.local_keeps.bind hjp
  · exact hjp ⟨⟩

theorem cpyrTarget_keeps {cl : RMem} {acc : Bool} {xd : Word} : EM.Keeps P (cpyrTarget cl acc xd) := by
  unfold cpyrTarget
  split
  · exact EM.keeps_pure _
  · exact check_keeps.bind fun _ => check_keeps.bind fun _ => plainAt_keeps.bind fun _ => EM.keeps_pure _

@[simp] theorem State.cpyrServe_mem (r : SeqRef) (c : Cmd) (acc : Bool) (rm : RMode) (fmt : Fmt) :
    (s.cpyrServe r c acc rm fmt).mem = s.mem := by
  unfold State.cpyrServe
  simp only
  split
  · simp
  case _ m w x hx =>
    have hg : x.s.mem = s.mem := cpyrTarget_keeps (P := (· = s.mem)) _ _ _ hx rfl
    split
    · simp [hg]
    case _ rr _ =>
      have hc : ((x.s.setHead r .copy x.c).contribute r .copy x.c rr w (field c.xb 0 32) 64 (cpyrAdd rm)
          (readUnit c.xa fmt (field c.xb 0 32) 64)).1.mem = s.mem :=
        contribute_keeps (P := (· = s.mem)) readUnit_keeps (by simp [hg])
      split <;> simp_all

theorem execQslot_keeps {h : Hdr} {acc clr : Bool} {a b : Reg} (hs : P s.mem) :
    Res.Keeps P (execQslot h acc clr a b s) := by
  unfold execQslot
  split <;> simp [hs]

theorem execCarm_keeps {h : Hdr} {a b : Reg} (hs : P s.mem) : Res.Keeps P (execCarm h a b s) := by
  unfold execCarm
  split <;> simp [hs]

theorem execCrd_keeps {h : Hdr} {d a : Reg} (hs : P s.mem) : Res.Keeps P (execCrd h d a s) := by
  unfold execCrd
  split <;> simp [hs]

@[simp] theorem cwaitHold_mem (d : Reg) (c : Cmd) : (cwaitHold d s c).state.mem = s.mem := by
  unfold cwaitHold
  split <;> simp

theorem execCwait_keeps {h : Hdr} {d a b : Reg} {tmo : BitVec 16} (hs : P s.mem) :
    Res.Keeps P (execCwait h d a b tmo s) := by
  unfold execCwait
  split
  · simp [hs]
  · exact State.issue_keeps hs fun t ht => State.holdIn_keeps (by simp [ht])

/-! ### Pages -/

@[simp] theorem State.tld_mem (die : Nat) (v : BitVec 64) (idx : Option (BitVec 12)) :
    (s.tld die v idx).1.mem = s.mem := by
  unfold State.tld
  (repeat' split) <;> simp

@[simp] theorem State.servePage_mem (die : Nat) (ctx : BitVec 4) (vpn : Nat) :
    (s.servePage die ctx vpn).mem = s.mem := by
  unfold State.servePage
  (repeat' split) <;> simp

@[simp] theorem State.servePages_mem (die : Nat) (ctx : BitVec 4) (va n : Nat) :
    (s.servePages die ctx va n).mem = s.mem := by
  simp [State.servePages]

/-! ### Fabric -/

@[simp] theorem State.unitFail_mem (die : Nat) (ctx : BitVec 4) (unit va : Nat) (c : Cause) :
    (s.unitFail die ctx unit va c).1.mem = s.mem := by
  unfold State.unitFail
  split <;> simp

@[simp] theorem State.writeUnit_memWf (die : Nat) (ctx : BitVec 4) (dst : Word) (acc : Bool) (unit : Nat)
    (bs : List Byte)
    (hs : MemWf s.mem) : MemWf (s.writeUnit die ctx dst acc unit bs).1.mem := by
  unfold State.writeUnit
  split
  · simp only
    split <;> simp [hs]
  · split
    · simp [hs]
    · exact foldl_fst_keeps (fun p a hp => by simp [hp]) _ hs

@[simp] theorem State.refuse_mem (mid req : Nat) : (s.refuse mid req).mem = s.mem := rfl

@[simp] theorem State.refuseRed_mem (rr : RangeRef) (mid req : Nat) : (s.refuseRed rr mid req).mem = s.mem := by
  simp [State.refuseRed]

@[simp] theorem State.redUnit_mem (die mid : Nat) (w : WrUnit) (bs : List Byte) :
    (s.redUnit die mid w bs).1.mem = s.mem := by
  unfold State.redUnit
  simp only
  (repeat' split) <;> simp

@[simp] theorem State.refuseUnit_mem (mid req unit : Nat) (st : BitVec 64) :
    (s.refuseUnit mid req unit st).mem = s.mem := by
  unfold State.refuseUnit
  simp only
  (repeat' split) <;> simp

@[simp] theorem State.performUnit_memWf (die mid : Nat) (w : WrUnit) (bs : List Byte) (hs : MemWf s.mem) :
    MemWf (s.performUnit die mid w bs).mem := by
  unfold State.performUnit
  simp only
  (repeat' split) <;> simp [hs]

@[simp] theorem State.leaveReads_mem (r : SeqRef) (c : Cmd) : (s.leaveReads r c).mem = s.mem := by
  unfold State.leaveReads
  split <;> simp

@[simp] theorem State.commitUnit_mem (r : SeqRef) (c : Cmd) (k : RemCmd) : (s.commitUnit r c k).mem = s.mem := by
  simp [State.commitUnit]

@[simp] theorem State.collFail_mem (r : SeqRef) (c : Cmd) (w : BitVec 64) : (s.collFail r c w).mem = s.mem := by
  unfold State.collFail
  split <;> simp

@[simp] theorem State.readBack_memWf (req unit : Nat) (bs : List Byte) (hs : MemWf s.mem) :
    MemWf (s.readBack req unit bs).mem := by
  unfold State.readBack
  split
  · exact hs
  · split
    · exact hs
    · split
      · exact hs
      · split
        · simp [hs]
        case _ x hx =>
          have hg : MemWf x.s.mem := writeV_keeps _ _ _ hx hs
          simp [hg]

@[simp] theorem State.consume_memWf (die mid n : Nat) (hs : MemWf s.mem) : MemWf (s.consume die mid n).mem := by
  induction n generalizing s with
  | zero => exact hs
  | succ n ih =>
    unfold State.consume
    extract_lets l
    split
    · exact hs
    · extract_lets len bs s1
      have h1 : MemWf s1.mem := by simpa [s1] using hs
      split
      · exact hs
      · refine ih ?_
        split
        · simp [h1]
        · simp [h1]
        · split <;> simp [h1]

@[simp] theorem State.consumeAll_memWf (die mid : Nat) (hs : MemWf s.mem) : MemWf (s.consumeAll die mid).mem :=
  consume_memWf _ _ _ hs

@[simp] theorem State.awaitBytes_memWf (die mid : Nat) (e : Expect) (hs : MemWf s.mem) :
    MemWf (s.awaitBytes die mid e).mem := consumeAll_memWf _ _ (by simp [hs])

theorem execDataFlit_keeps {die lane : Nat} {fl : DataFlit} (hs : MemWf s.mem) :
    Res.Keeps MemWf (execDataFlit die lane fl s) := by
  unfold execDataFlit
  split
  · simp [hs]
  · simp only [Res.keeps_next]
    split
    · exact foldl_keeps (fun a p ha => by simp [ha]) _ (by simp [hs])
    · simp [hs]

theorem execWrhdr_keeps {mid die : Nat} {wr : WrUnit} (hs : MemWf s.mem) :
    Res.Keeps MemWf (execWrhdr mid die wr s) := by
  simp [execWrhdr, hs]

theorem execRemoteUnitDeadline_keeps {die req : Nat} (hs : P s.mem) :
    Res.Keeps P (execRemoteUnitDeadline die req s) := by
  unfold execRemoteUnitDeadline
  simp only
  (repeat' split) <;> simp [hs]

theorem execRdreq_keeps {mid die : Nat} {rd : RdUnit} (hs : P s.mem) :
    Res.Keeps P (execRdreq mid die rd s) := by
  unfold execRdreq
  simp only
  (repeat' split) <;> simp [hs]

@[simp] theorem State.grant_mem (rr : RangeRef) : (s.grant rr).mem = s.mem := by
  unfold State.grant
  simp only
  (repeat' split) <;> simp

@[simp] theorem State.grantAll_mem : s.grantAll.mem = s.mem := by simp [State.grantAll]

theorem execRedhdr_keeps {mid die : Nat} {rh : RedHdr} (hs : P s.mem) :
    Res.Keeps P (execRedhdr mid die rh s) := by
  unfold execRedhdr
  simp only
  (repeat' split) <;> simp [hs]

theorem execCntadd_keeps {mid die : Nat} {ca : CntAdd} (hs : P s.mem) :
    Res.Keeps P (execCntadd mid die ca s) := by
  simp [execCntadd, hs]

@[simp] theorem State.remoteCmd_keeps {i : Instr} {h : Hdr} {d a b : Reg} (hs : P s.mem) :
    Res.Keeps P (s.remoteCmd i h d a b) := by
  unfold State.remoteCmd
  simp only
  (repeat' split) <;> simp [hs]

@[simp] theorem State.sendUnit_mem (r : SeqRef) (c : Cmd) (k : RemCmd) : (s.sendUnit r c k).mem = s.mem := by
  unfold State.sendUnit
  simp only
  split
  · rfl
  · split
    · simp
    · split
      · simp
      case _ x hx =>
        have hg : x.s.mem = s.mem := readV_keeps (P := (· = s.mem)) _ _ _ hx rfl
        simp [hg]

@[simp] theorem State.pumpCmd_mem (r : SeqRef) (c0 : Cmd) : (s.pumpCmd r c0).mem = s.mem := by
  unfold State.pumpCmd
  simp only
  (repeat' split) <;> simp

@[simp] theorem State.pumpSeq_mem (r : SeqRef) : (s.pumpSeq r).mem = s.mem := by
  unfold State.pumpSeq
  split
  · rfl
  · refine foldl_mem (fun a mid => ?_) _ _
    split <;> simp

theorem execRedgo_keeps {req : Nat} (hs : P s.mem) : Res.Keeps P (execRedgo req s) := by
  unfold execRedgo
  split <;> simp [hs]

@[simp] theorem State.rwrrServe_mem (r : SeqRef) (c : Cmd) (k : RemCmd) : (s.rwrrServe r c k).mem = s.mem := by
  unfold State.rwrrServe
  simp only
  split
  · split <;> simp
  case _ m w _ =>
    split
    · simp
    case _ rr _ =>
      have hc : (s.contribute r .coll c rr w (field c.xd 0 32) (4096 / k.esz) (redAdd k.rm)
          (readUnit c.xb k.fmt (field c.xd 0 32) (4096 / k.esz))).1.mem = s.mem :=
        contribute_keeps (P := (· = s.mem)) readUnit_keeps rfl
      split <;> simp_all

@[simp] theorem State.ownServe_memWf (r : SeqRef) (c : Cmd) (k : RemCmd) (hs : MemWf s.mem) :
    MemWf (s.ownServe r c k).mem := by
  unfold State.ownServe
  simp only
  split
  · simp [hs]
  · split
    · split
      · split <;> simp [hs]
      · split
        · simp [hs]
        · split
          · simp [hs]
          case _ x hx =>
            have hg : MemWf x.s.mem := writeV_keeps _ _ _ hx (by simp [hs])
            simp [hg]
    · split
      · simp [hs]
      case _ x hx =>
        have hg : MemWf x.s.mem := readV_keeps _ _ _ hx hs
        split <;> simp [hg]

theorem execCpyrAdd_keeps {g : Agent} (hs : MemWf s.mem) : Res.Keeps MemWf (execCpyrAdd g s) := by
  unfold execCpyrAdd
  simp only
  (repeat' split) <;> simp [hs]

theorem execCadd_keeps {h : Hdr} {a b : Reg} (hs : P s.mem) : Res.Keeps P (execCadd h a b s) := by
  unfold execCadd
  split <;> simp [hs]

@[simp] theorem State.caddEnd_mem (r : SeqRef) (c : Cmd) (status : Nat) : (s.caddEnd r c status).mem = s.mem := by
  simp [State.caddEnd]

@[simp] theorem State.modQpair_mem (die n : Nat) (f : QPair → QPair) : (s.modQpair die n f).mem = s.mem := rfl

theorem execQpost_keeps {h : Hdr} {nb : Bool} {d a : Reg} {qp : BitVec 6} (hs : P s.mem) :
    Res.Keeps P (execQpost h nb d a qp s) := by
  unfold execQpost
  split <;> simp [hs]

@[simp] theorem State.modEntry_mem (die qp pos : Nat) (f : WorkEntry → WorkEntry) :
    (s.modEntry die qp pos f).mem = s.mem := rfl

theorem execWorkEntryFire_keeps {die qp : Nat} (hs : P s.mem) : Res.Keeps P (execWorkEntryFire die qp s) := by
  unfold execWorkEntryFire
  simp only
  (repeat' split) <;> simp [hs]

@[simp] theorem State.entryEnd_memWf (die qp : Nat) (w : WorkEntry) (status : BitVec 64) (rcnt : Bool)
    (hs : MemWf s.mem) : MemWf (s.entryEnd die qp w status rcnt).mem := by
  unfold State.entryEnd
  split <;> simp [hs]

@[simp] theorem State.writeLocal_memWf (die : Nat) (ctx : BitVec 4) (e : Entry) (bs : List Byte) (hs : MemWf s.mem) :
    MemWf (s.writeLocal die ctx e bs).1.mem := by
  refine foldl_fst_keeps (fun p u hp => ?_) _ hs
  obtain ⟨a, ans⟩ := p
  dsimp only
  split
  · exact hp
  · simp [show MemWf a.mem from hp]

@[simp] theorem State.entryRed_memWf (die qp : Nat) (w : WorkEntry) (e : Entry) (n : Nat) (bs : List Byte)
    (hs : MemWf s.mem) : MemWf (s.entryRed die qp w e n bs).mem := by
  unfold State.entryRed
  simp only
  (repeat' split) <;> simp [hs]

@[simp] theorem State.entrySend_memWf (die qp : Nat) (w0 : WorkEntry) (e : Entry) (n : Nat) (src : Src) (ok : BitVec 64)
    (hs : MemWf s.mem) : MemWf (s.entrySend die qp w0 e n src ok).mem := by
  unfold State.entrySend
  extract_lets mid now k w'
  split
  case _ s1 w hw =>
    have h1 : MemWf s1.mem := by
      revert hw
      split <;> rintro ⟨⟩ <;> exact hs
    extract_lets u unit
    have hu : MemWf (unit s1).mem := by simpa [unit] using h1
    clear_value unit
    (repeat' split) <;> simp [h1, hu]

@[simp] theorem State.entryClear_memWf (die qp : Nat) (w : WorkEntry) (e : Entry) (hs : MemWf s.mem) :
    MemWf (s.entryClear die qp w e).mem := by
  unfold State.entryClear
  (repeat' split) <;> simp [hs]

@[simp] theorem State.entryMove_memWf (die qp : Nat) (w : WorkEntry) (e : Entry) (src : Src) (far : Bool)
    (hs : MemWf s.mem) : MemWf (s.entryMove die qp w e src far).mem := by
  unfold State.entryMove
  extract_lets lost ok s' bs
  have h' : MemWf s'.mem := by
    unfold s'
    split
    · exact foldl_keeps (fun _ _ h => by simpa using h) _ hs
    · exact hs
  have h1 : MemWf (s'.writeLocal die w.ctx e bs).1.mem := State.writeLocal_memWf _ _ _ _ h'
  clear_value s'
  (repeat' split) <;> simp_all

@[simp] theorem State.entryServe_memWf (die qp : Nat) (w : WorkEntry) (hs : MemWf s.mem) :
    MemWf (s.entryServe die qp w).mem := by
  unfold State.entryServe
  simp only
  (repeat' split) <;> simp [hs]

theorem execWorkEntryComplete_keeps {die qp : Nat} (hs : MemWf s.mem) :
    Res.Keeps MemWf (execWorkEntryComplete die qp s) := by
  refine Res.keeps_next.mpr (foldl_keeps (fun a w0 ha => ?_) _ hs)
  (repeat' split) <;> simp [ha]

theorem State.takeLate_mem {req unit : Nat} {l : LateRead} (e : s.takeLate req unit = some (l, t)) : t.mem = s.mem := by
  unfold State.takeLate at e
  obtain ⟨_, _, e⟩ := Option.map_eq_some_iff.mp e
  cases e
  rfl

theorem execWrack_keeps {req unit : Nat} (hs : MemWf s.mem) : Res.Keeps MemWf (execWrack req unit s) := by
  unfold execWrack
  split
  case _ l s1 e => simp [State.takeLate_mem e, hs]
  case _ => (repeat' split) <;> simp [hs]

@[simp] theorem State.unitLost_memWf (req : Nat) (w : BitVec 64) (hs : MemWf s.mem) :
    MemWf (s.unitLost req w).mem := by
  unfold State.unitLost
  split <;> simp [hs]

theorem execWrnack_keeps {req unit : Nat} {status : BitVec 64} (hs : MemWf s.mem) :
    Res.Keeps MemWf (execWrnack req unit status s) := by
  unfold execWrnack
  split
  case _ l s1 e => simp [State.takeLate_mem e, hs]
  case _ => split <;> simp [hs]

theorem execRemoteUnitUnreached_keeps {req : Nat} (hs : MemWf s.mem) :
    Res.Keeps MemWf (execRemoteUnitUnreached req s) := by
  unfold execRemoteUnitUnreached
  simp only
  (repeat' split) <;> simp [hs]

@[simp] theorem State.dropMember_mem (mid : Nat) : (s.dropMember mid).mem = s.mem := by simp [State.dropMember]

/-! ### Members -/

@[simp] theorem State.modMember_mem (f : Machine.Membership → Machine.Membership) : (s.modMember f).mem = s.mem := rfl

@[simp] theorem State.tryCommit_mem : s.tryCommit.mem = s.mem := by
  unfold State.tryCommit
  split <;> simp

@[simp] theorem State.propose_mem (window : Nat) (entries : List (Nat × BitVec 32)) :
    (s.propose window entries).mem = s.mem := by
  simp [State.propose]

@[simp] theorem State.proposeAgain_mem : s.proposeAgain.mem = s.mem := by simp [State.proposeAgain]

theorem execPropose_keeps {pr : Proposal} (hs : P s.mem) : Res.Keeps P (execPropose pr s) := by
  simp [execPropose, hs]

theorem execAccept_keeps {mid window : Nat} (hs : P s.mem) : Res.Keeps P (execAccept mid window s) := by
  simp [execAccept, hs]

theorem execReject_keeps (mid : Nat) {window : Nat} (hs : P s.mem) :
    Res.Keeps P (execReject mid window s) := by
  unfold execReject
  split <;> simp [hs]

theorem execCommit_keeps {mid window : Nat} (hs : P s.mem) : Res.Keeps P (execCommit mid window s) := by
  unfold execCommit
  split <;> simp [hs]

@[simp] theorem State.failJobs_mem (die : Nat) : (s.failJobs die).mem = s.mem := by
  unfold State.failJobs
  rw [State.modDie_mem]
  exact foldl_mem (fun _ _ => by rfl) _ _

theorem execMemberLost_keeps {mid : Nat} (hs : P s.mem) : Res.Keeps P (execMemberLost mid s) := by
  simp [execMemberLost, hs]

@[simp] theorem State.resendStripes_mem (die old : Nat) : (s.resendStripes die old).mem = s.mem := by
  simp [State.resendStripes]

@[simp] theorem State.newPredecessor_mem (die mid : Nat) : (s.newPredecessor die mid).mem = s.mem := rfl

@[simp] theorem State.retuneChain_mem (die : Nat) (ch : BitVec 5) : (s.retuneChain die ch).mem = s.mem := by
  simp [State.retuneChain]

@[simp] theorem State.loseSegments_mem : s.loseSegments.mem = s.mem := rfl
@[simp] theorem State.newTable_mem : s.newTable.mem = s.mem := rfl

@[simp] theorem State.applyChange_mem (p : Proposal) : (s.applyChange p).mem = s.mem := by
  unfold State.applyChange
  extract_lets lost s1 s2 s3
  have h2 : s2.mem = s.mem := by
    unfold s2
    rw [State.newTable_mem]
    refine (foldl_mem (fun a mid => ?_) _ _).trans (State.modChain_mem ..)
    simp
  have h3 : s3.mem = s.mem := by
    unfold s3
    split
    · extract_lets ch
      split
      · exact h2
      · exact (foldl_mem (fun x d => by simp) _ _).trans h2
    · exact h2
  split
  · split
    · exact h3
    · exact (foldl_mem (fun x d => by simp) _ _).trans h3
  · exact h3

@[simp] theorem State.inject_mem (tag rot : BitVec 32) (pa size : Nat) (flags : BitVec 8) :
    (s.inject tag rot pa size flags).mem = s.mem := by
  unfold State.inject
  exact foldl_mem (fun _ _ => by rfl) _ _

@[simp] theorem State.injectOne_mem (m : Model) (tag : BitVec 32) (flags : BitVec 8) :
    (s.injectOne m tag flags).1.mem = s.mem := by
  unfold State.injectOne
  simp only
  (repeat' split) <;> simp

@[simp] theorem State.reinject_mem : s.reinject.mem = s.mem := by
  unfold State.reinject
  split
  · rfl
  · refine foldl_mem (fun a e => ?_) _ _
    split <;> simp

@[simp] theorem State.dropLate_mem (now : Nat) : (s.dropLate now).mem = s.mem := by simp [State.dropLate]

@[simp] theorem State.sendSync_mem : s.sendSync.mem = s.mem := by
  unfold State.sendSync
  split
  · rfl
  · exact foldl_mem (fun _ _ => by rfl) _ _

@[simp] theorem State.reloadTables_mem : s.reloadTables.mem = s.mem := by simp [State.reloadTables]

@[simp] theorem State.clusterWindow_mem (die : Nat) : (s.clusterWindow die).mem = s.mem := by
  simp [State.clusterWindow]

@[simp] theorem State.chiefWindow_mem : s.chiefWindow.mem = s.mem := by simp [State.chiefWindow]

theorem execWindowBoundary_keeps (hs : P s.mem) : Res.Keeps P (execWindowBoundary s) := by
  unfold execWindowBoundary
  split <;> simp [hs]

theorem execFollow_keeps {mid : Nat} (t1 : BitVec 64) (hs : P s.mem) : Res.Keeps P (execFollow mid t1 s) := by
  simp [execFollow, hs]

theorem execDreq_keeps {mid : Nat} {t4 : BitVec 64} (hs : P s.mem) : Res.Keeps P (execDreq mid t4 s) := by
  simp [execDreq, hs]

theorem execDrsp_keeps (mid : Nat) (t4 : BitVec 64) (hs : P s.mem) : Res.Keeps P (execDrsp mid t4 s) := by
  simp [execDrsp, hs]

/-! ### Place -/

@[simp] theorem State.placeAt_mem (id : BitVec 32) (l : Launch) (index die cl : Nat) (p : Spot) :
    (s.placeAt id l index die cl p).mem = s.mem := by
  unfold State.placeAt
  exact foldl_mem (fun a ⟨slot, i⟩ => foldl_mem (fun _ _ => by rfl) _ _) _ _

theorem State.placeNext_mem {id : BitVec 32} {l : Launch} {index : Nat} (e : s.placeNext id l index = some t) :
    t.mem = s.mem := by
  obtain ⟨_, _, e⟩ := Option.map_eq_some_iff.mp e
  simp [← e]

@[simp] theorem State.placeMany_mem (id : BitVec 32) (l : Launch) (index n : Nat) :
    (s.placeMany id l index n).1.mem = s.mem := by
  induction n generalizing s index with
  | zero => rfl
  | succ n ih =>
    unfold State.placeMany
    split
    next e => rw [ih, placeNext_mem e]
    next => rfl

theorem execTeamStart_keeps {team : Nat} (hs : P s.mem) : Res.Keeps P (execTeamStart team s) := by
  unfold execTeamStart
  split
  · simp [hs]
  · split
    · simp [hs]
    · extract_lets now s1
      split
      · simp [hs]
      · refine Res.keeps_next.mpr (foldl_keeps (fun a ⟨slot, i⟩ ha => ?_) _ hs)
        exact foldl_keeps (fun b c hb => by exact hb) _ ha

@[simp] theorem State.freeTeam_mem (team : Nat) (t : Team) : (s.freeTeam team t).mem = s.mem := by
  simp [State.freeTeam]

@[simp] theorem State.lowerRaised_mem (die cl : Nat) : (s.lowerRaised die cl).mem = s.mem := by
  simp [State.lowerRaised]

/-! ### System -/

@[simp] theorem State.writeFinj_mem (die cl : Nat) (v : BitVec 32) : (s.writeFinj die cl v).mem = s.mem := rfl
@[simp] theorem State.writeFidthr_mem (die cl : Nat) (v : BitVec 16) : (s.writeFidthr die cl v).mem = s.mem := rfl
@[simp] theorem State.writeLfsr_mem (die cl : Nat) (v : BitVec 32) : (s.writeLfsr die cl v).mem = s.mem := rfl

@[simp] theorem State.writePermit_mem (die cl : Nat) (v : BitVec 64) : (s.writePermit die cl v).mem = s.mem := by
  simp [State.writePermit]

@[simp] theorem State.writeClusterCsr_mem (die cl n : Nat) (v : Word) :
    (s.writeClusterCsr die cl n v).mem = s.mem := by
  unfold State.writeClusterCsr
  split <;> simp

@[simp] theorem State.modHub_mem (die : Nat) (f : Hub → Hub) : (s.modHub die f).mem = s.mem := rfl
@[simp] theorem State.hubRelease_mem (die : Nat) : (s.hubRelease die).mem = s.mem := by simp [State.hubRelease]

@[simp] theorem State.hubWrite_memWf (die n : Nat) (v : Word) (hs : MemWf s.mem) : MemWf (s.hubWrite die n v).mem := by
  unfold State.hubWrite
  split
  case h_6 =>
    split
    · exact hs
    · exact State.writeMem_memWf _ _ hs
  case h_7 => split <;> simp [hs]
  all_goals simp [hs]

theorem execCsrw_keeps {h : Hdr} {csr : BitVec 12} {a : Reg} (hs : MemWf s.mem) :
    Res.Keeps MemWf (execCsrw h csr a s) := by
  refine State.issue_keeps hs fun t ht => ?_
  split <;> simp [ht]

theorem execTrap_keeps {h : Hdr} {n : BitVec 5} {m : BitVec 16} (hs : P s.mem) :
    Res.Keeps P (execTrap h n m s) := by
  unfold execTrap
  split <;> simp [hs]

@[simp] theorem idleHold_mem (c : Cmd) : (idleHold s c).state.mem = s.mem := by
  unfold idleHold
  (repeat' split) <;> simp

theorem execIdle_keeps {h : Hdr} {d : Reg} (hs : P s.mem) : Res.Keeps P (execIdle h d s) := by
  unfold execIdle
  split
  · simp [hs]
  · exact State.issue_keeps hs fun t ht => State.holdIn_keeps (by simp [ht])

@[simp] theorem State.captureTids_mem (r : SeqRef) (fresh : List Nat) : (s.captureTids r fresh).mem = s.mem := rfl

@[simp] theorem State.postOf_mem (die : Nat) (st : StrandRef) (c : Cause) : (s.postOf die st c).mem = s.mem := by
  simp [State.postOf]

@[simp] theorem State.eret_mem (die : Nat) : (s.eret die).1.mem = s.mem := by
  unfold State.eret
  split
  · rfl
  · split
    · split
      · simp
      case _ e => simp [resume_mem e]
    · rfl

theorem execEret_keeps {h : Hdr} {d : Reg} (hs : P s.mem) : Res.Keeps P (execEret h d s) := by
  unfold execEret
  split <;> simp [hs]

@[simp] theorem State.rplyLand_memWf (r : SeqRef) (base : Nat) (f : Flight) (hs : MemWf s.mem) :
    MemWf (s.rplyLand r base f).mem := by
  unfold State.rplyLand
  extract_lets rec_ fid act bit s1
  have h1 : MemWf s1.mem := by
    unfold s1
    split
    · exact hs
    · split <;> simp [hs]
    · simp [hs]
    · simp [hs]
    · simp [hs]
    · simp [hs]
    · split <;> simp [hs]
    · split <;> simp [hs]
  clear_value s1
  split
  · exact h1
  · extract_lets k
    split <;> simp [h1]

@[simp] theorem State.rply_memWf (die : Nat) (c : Cls) (hs : MemWf s.mem) : MemWf (s.rply die c).mem := by
  unfold State.rply
  split
  · exact hs
  · simp only
    split
    · simp [hs]
    · exact foldl_keeps (fun a f ha => by simp [ha]) _ (by simp [hs])

theorem execRply_keeps {h : Hdr} {a : Reg} (hs : MemWf s.mem) : Res.Keeps MemWf (execRply h a s) := by
  unfold execRply
  split
  · simp [hs]
  · exact State.issue_keeps hs fun t ht => by simp [ht]

theorem execTld_keeps {h : Hdr} {d b : Reg} {idx : Option (BitVec 12)} (hs : P s.mem) :
    Res.Keeps P (execTld h d b idx s) := by
  unfold execTld
  split <;> simp [hs]

theorem execTlk_keeps {h : Hdr} {a : Reg} {l : Bool} (hs : P s.mem) : Res.Keeps P (execTlk h a l s) := by
  unfold execTlk
  split <;> simp [hs]

theorem execTinv_keeps {h : Hdr} {d a : Reg} {mode : BitVec 2} (hs : P s.mem) :
    Res.Keeps P (execTinv h d a mode s) := by
  unfold execTinv
  split <;> simp [hs]

@[simp] theorem State.pmld_mem (die : Nat) (v : BitVec 128) (way : Option (BitVec 2)) :
    (s.pmld die v way).1.mem = s.mem := by
  unfold State.pmld
  simp only
  (repeat' split) <;> simp

theorem execPmld_keeps {h : Hdr} {d a b : Reg} {way : Option (BitVec 2)} (hs : P s.mem) :
    Res.Keeps P (execPmld h d a b way s) := by
  unfold execPmld
  split <;> simp [hs]

theorem execFixedLatencyLanding_keeps {g : Agent} (hs : P s.mem) :
    Res.Keeps P (execFixedLatencyLanding g s) := by
  unfold execFixedLatencyLanding
  split <;> simp [hs]

theorem execStrandStop_keeps {r : StrandRef} {c : Cause} (hs : MemWf s.mem) :
    Res.Keeps MemWf (execStrandStop r c s) := by
  unfold execStrandStop
  split <;> simp [hs]

theorem execPreemptRequest_keeps {launch team : Nat} (hs : P s.mem) :
    Res.Keeps P (execPreemptRequest launch team s) :=
  Res.keeps_next.mpr (foldl_keeps (fun _ ⟨_, _⟩ ha => foldl_keeps (fun _ _ hb => by exact hb) _ ha) _ hs)

theorem execWatchdog_keeps {r : StrandRef} (hs : P s.mem) : Res.Keeps P (execWatchdog r s) := by
  simp [execWatchdog, hs]

/-! ### Context -/

@[simp] theorem State.dropTraps_mem (t : Team) : (s.dropTraps t).mem = s.mem := by simp [State.dropTraps]

@[simp] theorem State.saveTeam_memWf (die : Nat) (rel : Bool) (xa xb : Word) (hs : MemWf s.mem) :
    MemWf (s.saveTeam die rel xa xb).1.mem := by
  unfold State.saveTeam
  simp only
  (repeat' split) <;> simp [hs]

theorem execCtxs_keeps {h : Hdr} {rel : Bool} {d a b : Reg} (hs : MemWf s.mem) :
    Res.Keeps MemWf (execCtxs h rel d a b s) := by
  unfold execCtxs
  split
  · simp [hs]
  · exact State.issue_keeps hs fun t ht => by simp [ht]

@[simp] theorem State.restoreStrand_memWf (k i : Nat) (st : StrandRef) (rec_ : List Byte) (cmds : List (List Byte))
    (hs : MemWf s.mem) : MemWf (s.restoreStrand k i st rec_ cmds).mem := writeMem_memWf _ _ hs

theorem State.restoreTeam_memWf {xa : Nat} {loc w : Word} (e : s.restoreTeam xa loc = some (t, w)) (hs : MemWf s.mem) :
    MemWf t.mem := by
  unfold State.restoreTeam at e
  simp only at e
  split at e
  · exact nomatch e
  · split at e
    · exact nomatch e
    · split at e
      · exact nomatch e
      · split at e
        · exact nomatch e
        · cases e
          exact foldl_keeps (fun a x ha => by simp [ha]) _ (by simp [hs])

theorem execCtxl_keeps {h : Hdr} {d a b : Reg} (hs : MemWf s.mem) : Res.Keeps MemWf (execCtxl h d a b s) := by
  unfold execCtxl
  split
  · simp [hs]
  · refine State.issue_keeps hs fun t ht => ?_
    split
    case _ e => simpa using State.restoreTeam_memWf e ht
    case _ => simp [ht]

/-! ### Control -/

@[simp] theorem State.jump_mem (target : BitVec 48) : (s.jump target).mem = s.mem := rfl

@[simp] theorem State.jumpTo_mem (fixed : Bool) (target : BitVec 48) : (s.jumpTo fixed target).mem = s.mem := by
  simp [State.jumpTo]

@[simp] theorem State.branch_keeps {i : Instr} {h : Hdr} {bd : BitVec 2} {taken : Bool} (hs : P s.mem) :
    Res.Keeps P (s.branch i h bd taken) := by
  simp [State.branch, hs]

theorem execPbr_keeps {h : Hdr} {bd : BitVec 2} {tgt : PbrTarget} (hs : P s.mem) :
    Res.Keeps P (execPbr h bd tgt s) := by
  unfold execPbr
  extract_lets v bad
  refine State.issue_keeps hs fun t ht => ?_
  split
  · exact State.launchOp_keeps (by simpa using ht)
  · simp [ht]

theorem execCall_keeps {h : Hdr} {bd : BitVec 2} (hs : P s.mem) : Res.Keeps P (execCall h bd s) :=
  State.issue_keeps hs fun _ ht => andThen_keeps (State.launchOp_keeps ht) fun u hu => by simp [hu]

theorem execRet_keeps {h : Hdr} (hs : P s.mem) : Res.Keeps P (execRet h s) := by simp [execRet, hs]
theorem execEndI_keeps {h : Hdr} (hs : P s.mem) : Res.Keeps P (execEndI h s) := by simp [execEndI, hs]

theorem execYield_keeps {h : Hdr} (hs : P s.mem) : Res.Keeps P (execYield h s) := by
  refine State.issue_keeps hs fun t ht => ?_
  simp only
  split <;> simp [ht]

theorem execNop_keeps {h : Hdr} (hs : P s.mem) : Res.Keeps P (execNop h s) := by simp [execNop, hs]

theorem execBrk_keeps {h : Hdr} (hs : P s.mem) : Res.Keeps P (execBrk h s) := by
  unfold execBrk
  split <;> simp [hs]

theorem execTkp_keeps {h : Hdr} {q : BitVec 3} {n : Reg} (hs : P s.mem) : Res.Keeps P (execTkp h q n s) := by
  unfold execTkp
  split <;> simp [hs]

theorem execTkw_keeps {h : Hdr} {q : BitVec 3} {n : Reg} (hs : P s.mem) : Res.Keeps P (execTkw h q n s) := by
  unfold execTkw
  split <;> simp [hs]

theorem execTkq_keeps {h : Hdr} {d : Reg} {q : BitVec 3} (hs : P s.mem) : Res.Keeps P (execTkq h d q s) := by
  unfold execTkq
  split
  · simp [hs]
  · exact State.issue_keeps hs fun _ => State.launchOp_keeps

@[simp] theorem State.setWheel_mem (r : SeqRef) (w : BitVec 4) (v : Wheel) : (s.setWheel r w v).mem = s.mem := rfl

theorem execWinit_keeps {h : Hdr} {w : BitVec 4} {base cfg : Reg} (hs : P s.mem) :
    Res.Keeps P (execWinit h w base cfg s) := by
  unfold execWinit
  split <;> simp [hs]

theorem State.wheelOp_keeps {i : Instr} {h : Hdr} {r : SeqRef} {w : BitVec 4} {ok : Wheel → Bool}
    {act : State → Wheel → Res} (hs : P s.mem) (ha : ∀ t v, P t.mem → Res.Keeps P (act t v)) :
    Res.Keeps P (s.wheelOp i h r w ok act) := issue_keeps hs fun t => ha t _

theorem execWclm_keeps {h : Hdr} {d : Reg} {w : BitVec 4} (hs : P s.mem) : Res.Keeps P (execWclm h d w s) := by
  unfold execWclm
  split
  · simp [hs]
  · exact State.wheelOp_keeps hs fun t v ht => State.launchOp_keeps (by simpa using ht)

theorem execWpub_keeps {h : Hdr} {w : BitVec 4} (hs : P s.mem) : Res.Keeps P (execWpub h w s) := by
  unfold execWpub
  split
  · simp [hs]
  · exact State.wheelOp_keeps hs fun t v ht => by simp [ht]

theorem execWrel_keeps {h : Hdr} {w : BitVec 4} (hs : P s.mem) : Res.Keeps P (execWrel h w s) := by
  unfold execWrel
  split
  · simp [hs]
  · exact State.wheelOp_keeps hs fun t v ht => by simp [ht]

@[simp] theorem State.wheelWait_keeps {i : Instr} {h : Hdr} {d : Reg} {w : BitVec 4} {ready : Wheel → Bool}
    {buf : Wheel → Nat} (hs : P s.mem) : Res.Keeps P (s.wheelWait i h d w ready buf) := by
  unfold State.wheelWait
  split
  · simp [hs]
  · exact issue_keeps hs fun t ht => launchOp_keeps (by simp [ht])

theorem execWwf_keeps {h : Hdr} {d : Reg} {w : BitVec 4} (hs : P s.mem) : Res.Keeps P (execWwf h d w s) := by
  simp [execWwf, hs]

theorem execWwe_keeps {h : Hdr} {d : Reg} {w : BitVec 4} (hs : P s.mem) : Res.Keeps P (execWwe h d w s) := by
  simp [execWwe, hs]

theorem execPhase_keeps {h : Hdr} {scope : Scope} (hs : P s.mem) : Res.Keeps P (execPhase h scope s) := by
  simp [execPhase, hs]

@[simp] theorem fenceHold_mem (c : Cmd) : (fenceHold s c).state.mem = s.mem := by simp [fenceHold]

theorem execFenceE_keeps {h : Hdr} (hs : P s.mem) : Res.Keeps P (execFenceE h s) :=
  State.issue_keeps hs fun t ht => State.holdIn_keeps (by simp [ht])

/-! ### Launch -/

@[simp] theorem State.modQueue_mem (n : Nat) (f : LQueue → LQueue) : (s.modQueue n f).mem = s.mem := rfl

@[simp] theorem State.append_mem (ctx : BitVec 4) (queue : Nat) (hdr : List Byte) :
    (s.append ctx queue hdr).1.mem = s.mem := rfl

@[simp] theorem lnchHold_mem (nb : Bool) (d : Reg) (lq : Nat) (c : Cmd) :
    (lnchHold nb d lq s c).state.mem = s.mem := by
  simp [lnchHold]

@[simp] theorem State.launchWith_keeps {i : Instr} {h : Hdr} {nb : Bool} {d : Reg} {lq : Nat} {va : Word}
    {hdr : List Byte} (hs : P s.mem) : Res.Keeps P (s.launchWith i h nb d lq va hdr) := by
  simp [State.launchWith, hs]

@[simp] theorem State.lnchSeq_keeps {r : SeqRef} {i : Instr} {h : Hdr} {nb : Bool} {d a : Reg} {lq : Nat}
    (hs : P s.mem) :
    Res.Keeps P (s.lnchSeq r i h nb d a lq) := issue_keeps hs fun _ => launchWith_keeps

@[simp] theorem State.lnchHub_keeps {die : Nat} {i : Instr} {h : Hdr} {nb : Bool} {d a : Reg} {lq : Nat}
    (hs : P s.mem) :
    Res.Keeps P (s.lnchHub die i h nb d a lq) := by
  refine issue_keeps hs fun t ht => ?_
  split <;> simp [ht]

theorem execLnch_keeps {h : Hdr} {nb : Bool} {d a : Reg} {lq : BitVec 6} (hs : P s.mem) :
    Res.Keeps P (execLnch h nb d a lq s) := by
  unfold execLnch
  split <;> simp [hs]

@[simp] theorem State.completion_mem (id : BitVec 32) (c : Cause) : (s.completion id c).mem = s.mem := by
  simp [State.completion]

@[simp] theorem State.unqueue_mem (qn : Nat) (id : BitVec 32) : (s.unqueue qn id).mem = s.mem := rfl

@[simp] theorem State.dropLaunch_mem (id : BitVec 32) (l : Launch) : (s.dropLaunch id l).mem = s.mem := by
  simp [State.dropLaunch]

@[simp] theorem State.retireLaunch_mem (id : BitVec 32) (l : Launch) (c : Cause) :
    (s.retireLaunch id l c).mem = s.mem := by
  simp [State.retireLaunch]

@[simp] theorem State.endLaunch_mem (id : BitVec 32) : (s.endLaunch id).mem = s.mem := by
  unfold State.endLaunch
  (repeat' split) <;> simp

@[simp] theorem State.terminate_mem (id : BitVec 32) (c : Cause) : (s.terminate id c).mem = s.mem := by
  unfold State.terminate
  split
  · rfl
  · split
    · rfl
    · rw [endLaunch_mem]
      refine foldl_mem (fun a p => ?_) _ _
      split
      · refine foldl_mem (fun b st => ?_) _ _
        split <;> simp
      · rfl

@[simp] theorem State.abortLaunch_mem (id : BitVec 32) : (s.abortLaunch id).mem = s.mem := by simp [State.abortLaunch]
@[simp] theorem State.depPages_mem (l : Launch) : (s.depPages l).mem = s.mem := by simp [State.depPages]

@[simp] theorem State.commitTuple_memWf (id : BitVec 32) (l : Launch) (tuple stamp : List Byte) (hs : MemWf s.mem) :
    MemWf (s.commitTuple id l tuple stamp).mem := by
  unfold State.commitTuple
  simp only [setLaunch_mem]
  split
  · exact hs
  · exact foldl_fst_keeps (fun p a hp => by simp [hp]) _ hs

@[simp] theorem State.takeTuple_memWf (id : BitVec 32) (l : Launch) (hs : MemWf s.mem) :
    MemWf (s.takeTuple id l).mem := by
  unfold State.takeTuple
  (repeat' split) <;> simp [hs]

@[simp] theorem State.startFrom_mem (k : Nat) : (s.startFrom k).mem = s.mem := rfl

theorem State.place1_mem {id : BitVec 32} {l : Launch} {n : Nat} {tids wheels : List Byte}
    (e : s.place1 id l n tids wheels = some t) : t.mem = s.mem := by
  unfold State.place1 at e
  simp only at e
  split at e
  · exact nomatch e
  · cases e
    simp

@[simp] theorem State.endAtDispatch_mem (id : BitVec 32) (l : Launch) (c : Option Cause) :
    (s.endAtDispatch id l c).mem = s.mem := by
  unfold State.endAtDispatch
  split <;> simp

@[simp] theorem State.imagePages_mem (l : Launch) : (s.imagePages l).mem = s.mem := by simp [State.imagePages]

@[simp] theorem State.visit_memWf (qn : Nat) (hs : MemWf s.mem) : MemWf (s.visit qn).1.mem := by
  unfold State.visit
  split
  · exact hs
  · split
    · exact hs
    · extract_lets far s1 take fits s2
      have h1 : MemWf s1.mem := by simpa [s1] using hs
      have h2 : MemWf s2.mem := by
        unfold s2
        split <;> simp [h1]
      clear_value s2
      split
      · exact hs
      · split
        · exact h1
        · split
          · exact h2
          · split
            · exact h2
            · split
              · simp [h2]
              · split
                case _ e => simpa [State.place1_mem e] using h2
                case _ => exact h2

@[simp] theorem State.visitAll_memWf (qs : List Nat) (hs : MemWf s.mem) : MemWf (s.visitAll qs).mem := by
  induction qs generalizing s with
  | nil => exact hs
  | cons q qs ih =>
    have h1 := s.visit_memWf q hs
    unfold State.visitAll
    split <;> simp_all

@[simp] theorem State.placeRest_mem (id : BitVec 32) : (s.placeRest id).mem = s.mem := by
  unfold State.placeRest
  split <;> simp

@[simp] theorem State.noteReady_mem (qn : Nat) : (s.noteReady qn).mem = s.mem := by
  unfold State.noteReady
  split <;> simp

theorem execLaunchPass_keeps (hs : MemWf s.mem) : Res.Keeps MemWf (execLaunchPass s) := by
  simp [execLaunchPass, hs]

theorem execQueueAgeing_keeps {q : Nat} (hs : P s.mem) : Res.Keeps P (execQueueAgeing q s) := by
  unfold execQueueAgeing
  simp only
  (repeat' split) <;> simp [hs]

@[simp] theorem State.dropParked_mem (r : SeqRef) : (s.dropParked r).mem = s.mem := by
  refine foldl_mem (fun a o => ?_) _ _
  split <;> simp

@[simp] theorem State.tokenCheck_mem (st : StrandRef) : (s.tokenCheck st).mem = s.mem := by simp [State.tokenCheck]

theorem execTeamRetire_keeps {team : Nat} (hs : P s.mem) : Res.Keeps P (execTeamRetire team s) := by
  unfold execTeamRetire
  simp only
  (repeat' split) <;> simp [hs]

theorem execTspreq_keeps {mid : Nat} {rq : TspReq} (hs : P s.mem) : Res.Keeps P (execTspreq mid rq s) := by
  unfold execTspreq
  simp only
  (repeat' split) <;> simp [hs]

@[simp] theorem State.depAnswer_memWf (id : BitVec 32) (l : Launch) (rs : TspRsp) (hs : MemWf s.mem) :
    MemWf (s.depAnswer id l rs).mem := by
  unfold State.depAnswer
  split <;> simp [hs]

theorem execTsprsp_keeps {mid : Nat} {rs : TspRsp} (hs : MemWf s.mem) :
    Res.Keeps MemWf (execTsprsp mid rs s) := by
  unfold execTsprsp
  (repeat' split) <;> simp [hs]

/-! ### Holds -/

@[simp] theorem State.holdStep_mem (c : Cmd) : (s.holdStep c).state.mem = s.mem := by
  unfold State.holdStep
  split <;> simp

@[simp] theorem State.holdOn_mem (g : Agent) (c : Cmd) : (s.holdOn g c).mem = s.mem := by
  have hm := State.holdStep_mem (s := { s with cur := g }) c
  unfold State.holdOn
  split <;> simp_all

@[simp] theorem State.holdEnd_mem (g : Agent) : (s.holdEnd g).mem = s.mem := by
  unfold State.holdEnd
  split <;> simp

theorem execWaitSatisfied_keeps {g : Agent} (hs : P s.mem) : Res.Keeps P (execWaitSatisfied g s) := by
  simp [execWaitSatisfied, hs]

@[simp] theorem State.lateHold_keeps {g : Agent} {f : Instr → Bool} (hs : P s.mem) :
    Res.Keeps P (s.lateHold g f) := by
  unfold State.lateHold
  (repeat' split) <;> simp [hs]

theorem execWtagTimeout_keeps {g : Agent} (hs : P s.mem) : Res.Keeps P (execWtagTimeout g s) := by
  simp [execWtagTimeout, hs]

theorem execCwaitTimeout_keeps {g : Agent} (hs : P s.mem) : Res.Keeps P (execCwaitTimeout g s) := by
  simp [execCwaitTimeout, hs]

/-! ### Power -/

theorem execPermitRefill_keeps {die cl : Nat} (hs : P s.mem) : Res.Keeps P (execPermitRefill die cl s) := by
  simp [execPermitRefill, hs]

theorem execPermitWrite_keeps {die cl : Nat} {v : BitVec 64} (hs : P s.mem) :
    Res.Keeps P (execPermitWrite die cl v s) := by
  simp [execPermitWrite, hs]

theorem execFinjWrite_keeps {die cl : Nat} {v : BitVec 32} (hs : P s.mem) :
    Res.Keeps P (execFinjWrite die cl v s) := by
  simp [execFinjWrite, hs]

theorem execFidthrWrite_keeps {die cl : Nat} {v : BitVec 16} (hs : P s.mem) :
    Res.Keeps P (execFidthrWrite die cl v s) := by
  simp [execFidthrWrite, hs]

theorem execLfsrseedWrite_keeps {die cl : Nat} {v : BitVec 32} (hs : P s.mem) :
    Res.Keeps P (execLfsrseedWrite die cl v s) := by
  simp [execLfsrseedWrite, hs]

theorem execDroopDetect_keeps {die cl cycles : Nat} (hs : P s.mem) :
    Res.Keeps P (execDroopDetect die cl cycles s) := by
  simp [execDroopDetect, hs]

@[simp] theorem State.modIsland_mem (die island : Nat) (f : Cluster → Cluster) : (s.modIsland die island f).mem =
    s.mem :=
  foldl_mem (fun _ _ => by rfl) _ _

@[simp] theorem State.setIsland_mem (die island : Nat) (v : Island) : (s.setIsland die island v).mem = s.mem := rfl

theorem execThermalLimit_keeps {die island : Nat} (hs : P s.mem) :
    Res.Keeps P (execThermalLimit die island s) := by
  unfold execThermalLimit
  simp [hs]

theorem execThermalRecover_keeps {die island : Nat} (hs : P s.mem) :
    Res.Keeps P (execThermalRecover die island s) := by
  unfold execThermalRecover
  simp [hs]

theorem execLogicRailSwitch_keeps {die cl : Nat} (hs : P s.mem) :
    Res.Keeps P (execLogicRailSwitch die cl s) := by
  simp [execLogicRailSwitch, hs]

theorem execTrimRailPark_keeps {die island : Nat} {parked : Bool} (hs : P s.mem) :
    Res.Keeps P (execTrimRailPark die island parked s) := by
  simp [execTrimRailPark, hs]

theorem execScrubRead_keeps {pa : Nat} (hs : P s.mem) : Res.Keeps P (execScrubRead pa s) := by
  unfold execScrubRead
  split <;> simp [hs]

@[simp] theorem State.setLanePlan_mem : s.setLanePlan.mem = s.mem := by
  unfold State.setLanePlan
  exact foldl_mem (fun _ _ => by rfl) _ _

@[simp] theorem State.boot_mem : s.boot.mem = s.mem := by simp [State.boot]
@[simp] theorem State.afterReset_mem : s.afterReset.mem = [] := rfl

theorem execColdReset_keeps : Res.Keeps MemWf (execColdReset s) :=
  Res.keeps_next.mpr (by rw [State.boot_mem]; rfl)

/-! ### HostPort -/

@[simp] theorem State.finishMail_mem (st : MailStatus) (result : Nat) : (s.finishMail st result).mem = s.mem := by
  unfold State.finishMail
  rw [State.send_mem, State.modMail_mem]

@[simp] theorem State.ring_mem (v : BitVec 64) : (s.ring v).mem = s.mem := by simp [State.ring]
@[simp] theorem State.postAuth_mem : s.postAuth.mem = s.mem := by simp [State.postAuth]

@[simp] theorem State.writeEventQ_mem (die off : Nat) (v : BitVec 64) : (s.writeEventQ die off v).mem = s.mem := by
  simp [State.writeEventQ]

@[simp] theorem State.writeBar0_mem (off : Nat) (v : BitVec 64) : (s.writeBar0 off v).mem = s.mem := by
  simp [State.writeBar0]

@[simp] theorem State.writeDerail_mem (i : Nat) (v : BitVec 64) : (s.writeDerail i v).mem = s.mem := by
  simp [State.writeDerail]

@[simp] theorem State.writeDevCsr_memWf (die cl : Nat) (num : BitVec 12) (v : BitVec 64) (hs : MemWf s.mem) :
    MemWf (s.writeDevCsr die cl num v).mem := by
  unfold State.writeDevCsr
  split <;> simp [hs]

theorem execRegisterWrite_keeps {dr : DevReg} {v : BitVec 64} (hs : MemWf s.mem) :
    Res.Keeps MemWf (execRegisterWrite dr v s) := by
  unfold execRegisterWrite
  split <;> simp [hs]

theorem execHostBar2Write_keeps {pa : Nat} {data : List (BitVec 8)} (hs : MemWf s.mem) :
    Res.Keeps MemWf (execHostBar2Write pa data s) := by
  simp [execHostBar2Write, hs]

theorem execHostBar2Read_keeps {pa len : Nat} (hs : P s.mem) : Res.Keeps P (execHostBar2Read pa len s) := by
  unfold execHostBar2Read
  simp only
  (repeat' split) <;> simp [hs]

/-! ### Mailbox -/

@[simp] theorem State.modContext_mem (ctx : Nat) (f : Machine.Context → Machine.Context) :
    (s.modContext ctx f).mem = s.mem := rfl

@[simp] theorem turnDown_mem (st : MailStatus) : (turnDown s st).1.mem = s.mem := rfl

@[simp] theorem State.serve1_keeps {cmd : Nat} {listed : List (Nat × Nat)} {f : State → Served}
    (hf : ∀ s : State, (f s).1.mem = s.mem) (hs : P s.mem) : Res.Keeps P (s.serve1 cmd listed f) := by
  have h1 : (if s.onlyListed listed then f s else turnDown s .badCmd).1.mem = s.mem := by
    split
    · exact hf s
    · rfl
  unfold State.serve1
  split
  · simp [hs]
  · split
    case _ he =>
      rw [he] at h1
      rw [Res.keeps_next, State.finishMail_mem]
      exact h1.symm ▸ hs

@[simp] theorem State.submit_mem : s.submit.1.mem = s.mem := by
  unfold State.submit
  simp only
  (repeat' split) <;> simp

theorem execSubmit_keeps (hs : P s.mem) : Res.Keeps P (execSubmit s) := by simp [execSubmit, hs]

theorem execAbort_keeps (hs : P s.mem) : Res.Keeps P (execAbort s) := by
  unfold execAbort
  extract_lets id n s1
  have h1 : P s1.mem := by simpa [s1] using hs
  clear_value s1
  (repeat' split) <;> simp [hs, h1]

@[simp] theorem State.removeRegion_mem (die rid : Nat) : (s.removeRegion die rid).mem = s.mem := by
  simp [State.removeRegion]

@[simp] theorem State.setRegion_mem : s.setRegion.1.mem = s.mem := by
  unfold State.setRegion
  simp only
  (repeat' split) <;> simp

theorem execRegion_keeps (hs : P s.mem) : Res.Keeps P (execRegion s) := by simp [execRegion, hs]

@[simp] theorem State.setKey_mem : s.setKey.1.mem = s.mem := by
  unfold State.setKey
  simp only
  (repeat' split) <;> simp

theorem execPubkey_keeps (hs : P s.mem) : Res.Keeps P (execPubkey s) := by simp [execPubkey, hs]

@[simp] theorem State.injectAll_mem (model : Nat) (m : Model) : (s.injectAll model m).1.mem = s.mem := by
  simp [State.injectAll]

@[simp] theorem State.injectModel_mem : s.injectModel.1.mem = s.mem := by
  unfold State.injectModel
  simp only
  (repeat' split) <;> simp

theorem execModel_keeps (hs : P s.mem) : Res.Keeps P (execModel s) := by simp [execModel, hs]
@[simp] theorem State.attest_mem : s.attest.1.mem = s.mem := rfl

theorem execAttest_keeps (hs : P s.mem) : Res.Keeps P (execAttest s) :=
  State.serve1_keeps (fun _ => State.attest_mem) hs

@[simp] theorem State.createContext_mem : s.createContext.1.mem = s.mem := by
  unfold State.createContext
  simp only
  (repeat' split) <;> simp

theorem execContextCreate_keeps (hs : P s.mem) : Res.Keeps P (execContextCreate s) := by
  simp [execContextCreate, hs]

@[simp] theorem State.dropContext_mem (ctx : Nat) : (s.dropContext ctx).mem = s.mem := by
  unfold State.dropContext
  extract_lets s1 s2 shut
  have h1 : s1.mem = s.mem := foldl_mem (fun _ _ => foldl_mem (fun _ _ => by simp) _ _) _ _
  have h2 : s2.mem = s1.mem := foldl_mem (fun _ _ => by rfl) _ _
  rw [State.modContext_mem, State.modSched_mem, h2, h1]

theorem execContextDestroy_keeps (hs : P s.mem) : Res.Keeps P (execContextDestroy s) := by
  unfold execContextDestroy
  split <;> simp [hs]

theorem State.loadLocked_mem {die : Nat} {es : List (BitVec 64)} (e : s.loadLocked die es = some t) :
    t.mem = s.mem := by
  induction es generalizing s with
  | nil => cases e; rfl
  | cons x es ih =>
    unfold State.loadLocked at e
    simp only at e
    split at e
    · exact ih e
    · split at e
      · exact nomatch e
      · simpa using ih e

theorem State.loadEverywhere_mem {es : List (BitVec 64)} {ds : List Nat} (e : s.loadEverywhere es ds = some t) :
    t.mem = s.mem := by
  induction ds generalizing s with
  | nil => cases e; rfl
  | cons d ds ih =>
    obtain ⟨u, hu, e⟩ := Option.bind_eq_some_iff.mp e
    exact (ih e).trans (loadLocked_mem hu)

@[simp] theorem State.setPages_mem : s.setPages.1.mem = s.mem := by
  unfold State.setPages
  simp only
  split
  · simp
  · split
    · simp
    · split
      · simp
      · split
        · simp
        · split
          case _ e => simpa using loadEverywhere_mem e
          case _ => simp

theorem execPages_keeps (hs : P s.mem) : Res.Keeps P (execPages s) := by simp [execPages, hs]

@[simp] theorem State.setPosmap_mem : s.setPosmap.1.mem = s.mem := by
  unfold State.setPosmap
  extract_lets ctx req n pa
  split
  · rfl
  · split
    · rfl
    · split
      · exact foldl_mem (fun _ _ => by rfl) _ _
      · split <;> rfl

theorem execPosmap_keeps (hs : P s.mem) : Res.Keeps P (execPosmap s) := by simp [execPosmap, hs]

@[simp] theorem State.setQueue_mem : s.setQueue.1.mem = s.mem := by
  unfold State.setQueue
  simp only
  (repeat' split) <;> simp

theorem execLqcfg_keeps (hs : P s.mem) : Res.Keeps P (execLqcfg s) := by simp [execLqcfg, hs]

@[simp] theorem State.assignTo_mem : s.assignTo.1.mem = s.mem := by
  unfold State.assignTo
  (repeat' split) <;> simp

theorem execAssign_keeps (hs : P s.mem) : Res.Keeps P (execAssign s) := by simp [execAssign, hs]

@[simp] theorem State.releaseFrom_mem : s.releaseFrom.1.mem = s.mem := by
  unfold State.releaseFrom
  simp only
  (repeat' split) <;> simp

theorem execAssignRelease_keeps (hs : P s.mem) : Res.Keeps P (execAssignRelease s) := by
  simp [execAssignRelease, hs]

theorem execMailboxUnknownCmd_keeps {cmd : BitVec 8} (hs : P s.mem) :
    Res.Keeps P (execMailboxUnknownCmd cmd s) := by
  simp [execMailboxUnknownCmd, hs]

/-! ### Vector -/

@[simp] theorem State.vecCmd_keeps {i : Instr} {h : Hdr} {d a b : Reg} (hs : P s.mem) :
    Res.Keeps P (s.vecCmd i h d a b) := by
  unfold State.vecCmd
  (repeat' split) <;> simp [hs]

theorem vecUnit_keeps {v : VCmd} : EM.Keeps P (vecUnit v) := by
  unfold vecUnit
  refine EM.keeps_get.bind fun g => getTeam_keeps.bind fun t => getCl_keeps.bind fun c => ?_
  extract_lets is a rs jp
  refine EM.Keeps.bind (EM.keeps_forM (fun x => EM.keeps_forM (fun _ => spadCheck_keeps) _) _) fun _ => ?_
  have hjp (u : PUnit) : EM.Keeps P (jp u) := EM.keeps_pure _
  split
  · exact (EM.keeps_forM (fun _ => amaxUpdate_keeps) _).bind fun _ => EM.keeps_pure _
  · split
    · exact fail_keeps
    · split
      · exact modCl_keeps.bind hjp
      · exact hjp ⟨⟩

theorem execVectorUnit_keeps {g : Agent} (hs : P s.mem) : Res.Keeps P (execVectorUnit g s) := by
  unfold execVectorUnit
  split
  · simp [hs]
  · refine Res.keeps_next.mpr (State.doUnit_keeps (EM.keeps_get.bind fun g => ?_) hs)
    split
    · exact vecUnit_keeps
    · exact EM.keeps_pure _

@[simp] theorem State.vred_keeps {i : Instr} {h : Hdr} {fmt : Fmt} {z : BitVec 2} {a : Reg} {v : VecLitA} {op : LandOp}
    {form : List ExtNum → BitVec 32} (hs : P s.mem) : Res.Keeps P (s.vred i h fmt z a v op form) := by
  unfold State.vred
  split
  · simp [hs]
  · refine issue_keeps hs fun t ht => ?_
    simp only
    (repeat' split) <;> simp [ht]

/-! ### Cycle -/

@[simp] theorem State.fetchReads_mem (r : SeqRef) : (s.fetchReads r).mem = s.mem := by
  refine foldl_mem (fun a k => ?_) _ _
  split <;> simp

@[simp] theorem State.afterIssue_mem (r : SeqRef) : (s.afterIssue r).mem = s.mem := by simp [State.afterIssue]

@[simp] theorem State.beginWait_mem (s u : State) (r : SeqRef) : (s.beginWait u r).mem = s.mem := by
  unfold State.beginWait
  simp only
  (repeat' split) <;> simp

@[simp] theorem State.choose1_mem (r : SeqRef) (run : Nat) : (s.choose1 r run).mem = s.mem := rfl

@[simp] theorem State.pickFrom_mem (d : State) (die cl : Nat) (k : Cls) (l : List (Nat × Nat)) :
    (s.pickFrom d die cl k l).1.mem = s.mem := by
  induction l generalizing s d with
  | nil => rfl
  | cons p l ih =>
    obtain ⟨slot, run⟩ := p
    unfold State.pickFrom
    simp only
    split
    · exact ih _
    · split <;> simp [ih]

@[simp] theorem State.picks_mem (die cl : Nat) : (s.picks die cl).1.mem = s.mem := by
  unfold State.picks
  extract_lets d
  split
  case _ he =>
    refine (congrArg (·.1.mem) he).symm.trans (foldl_fst_mem (fun p k => ?_) _ _)
    obtain ⟨a, d, ps⟩ := p
    exact State.pickFrom_mem ..

@[simp] theorem State.takeAhead_mem (ps : List Pick) : (s.takeAhead ps).mem = s.mem :=
  foldl_mem (fun _ _ => by rw [State.modSeq_mem]; exact foldl_mem (fun _ _ => by rfl) _ _) _ _

@[simp] theorem State.giveBack_mem (r : SeqRef) : (s.giveBack r).mem = s.mem := by
  unfold State.giveBack
  rw [State.modSeq_mem]
  exact foldl_mem (fun _ _ => by rfl) _ _

@[simp] theorem State.clusterTurn_mem (die cl : Nat) : (s.clusterTurn die cl).mem = s.mem := by simp [State.clusterTurn]

@[simp] theorem State.giveUp_mem (die : Nat) (st : StrandRef) (i : StopInfo) : (s.giveUp die st i).mem = s.mem := by
  simp [State.giveUp]

@[simp] theorem State.goOn_mem (die : Nat) (st : StrandRef) (i : StopInfo) : (s.goOn die st i).mem = s.mem := by
  have he := s.eret_mem (die := die)
  unfold State.goOn
  split <;> simp_all

theorem State.servePageMiss_mem {die : Nat} {ctx : BitVec 4} {vpn : Nat} (e : s.servePageMiss die ctx vpn = some t) :
    t.mem = s.mem := by
  unfold State.servePageMiss at e
  split at e
  · cases e; rfl
  · obtain ⟨x, _, e⟩ := Option.bind_eq_some_iff.mp e
    simp only at e
    split at e
    · exact nomatch e
    · cases e
      simp

theorem State.servePosMiss_mem {die : Nat} {ctx : BitVec 4} {req tpg : Nat}
    (e : s.servePosMiss die ctx req tpg = some t) : t.mem = s.mem := by
  unfold State.servePosMiss at e
  split at e
  · exact nomatch e
  · extract_lets a v at e
    clear_value v
    split at e
    · exact nomatch e
    · split at e
      case _ he =>
        have h := congrArg (·.1.mem) he
        split at e
        · exact nomatch e
        · cases e
          exact h.symm.trans (State.pmld_mem ..)

@[simp] theorem State.rescheduled_mem (st : StrandRef) : (s.rescheduled st).mem = s.mem := foldl_mem
    (fun _ _ => by rfl) _ _

@[simp] theorem State.serveTrap_mem (die : Nat) (st : StrandRef) (i : StopInfo) : (s.serveTrap die st i).mem =
    s.mem := by
  unfold State.serveTrap
  simp only
  split
  · simp
  · split
    · split
      case _ e => simp [servePageMiss_mem e]
      case _ => simp
    · split
      case _ e => simp [servePosMiss_mem e]
      case _ => simp
    all_goals (repeat' split) <;> simp

@[simp] theorem State.firmware_mem (die : Nat) : (s.firmware die).mem = s.mem := by
  unfold State.firmware
  simp only
  (repeat' split) <;> simp

@[simp] theorem State.tick_mem : s.tick.mem = s.mem := by
  unfold State.tick
  extract_lets s1 s2 s3 s4 s5
  have h2 : s2.mem = s.mem := by
    unfold s2
    exact (foldl_mem (fun _ _ => by rfl) _ s1).trans (rfl : s1.mem = s.mem)
  have h3 : s3.mem = s2.mem := by
    unfold s3
    rw [State.grantAll_mem]
    exact foldl_mem (fun _ _ => State.pumpSeq_mem _) _ _
  have h4 : s4.mem = s3.mem := by
    unfold s4
    exact foldl_mem (fun _ _ => State.release_mem _) _ _
  have h5 : s5.mem = s4.mem := by
    unfold s5
    exact foldl_mem (fun _ _ => State.noteReady_mem _) _ _
  simp only [h5, h4, h3, h2]

/-! ### One step

Every instruction and event either is a shared operation at its own operands or has its own lemma above; the turns are
put together from them. -/

/-- Every instruction and every event keeps the canonical form of memory. -/
theorem exec_keeps {i : Instr} (hs : MemWf s.mem) : Res.Keeps MemWf (exec i s) := by
  cases i with
  | add | sub | and | or | xor | andn | shl | shr | sra | rol | min | max | minu | maxu | mul | mulh | mulhu | div |
    divu | rem | remu | clz | popc | abs | addi | andi | ori | xori | shli | shri | srai | roli | mini | maxi |
    muli => exact State.alu_keeps hs
  | liz | lis | lih => exact State.li_keeps hs
  | eq | ne | lt | ltu | ge | geu | eqi | nei | lti | ltui | gei | geui => exact State.cmp_keeps hs
  | pand | por | pxor | pnot | pmov => exact State.plog_keeps hs
  | ldb | ldh | ldw | ldd | ldbs | ldhs | ldws => exact State.loadOp_keeps hs
  | stb | sth | stw | std => exact State.storeOp_keeps hs
  | fadd | fsub | fmul | ffma | fmin | fmax | fabs | fneg | fcmpeq | fcmplt | fcmple | fcvti | fcvtf =>
    exact State.fsc_keeps hs
  | exp2 | log2 | rcp | rsqrt | sqrt | tanh | sin | cos => exact State.fsf_keeps hs
  | brt | brf | bra => exact State.branch_keeps hs
  | wwf => exact execWwf_keeps hs
  | wwe => exact execWwe_keeps hs
  | tdep | tcpy | ttak => exact State.tuple_keeps hs
  | gath | scat => exact State.rowsCmd_keeps hs
  | vadd | vsub | vmul | vmin | vmax | vand | vor | vxor | vshl | vshr | vfma | vfms | vabs | vneg | vcvt | vmov |
    vexp2 | vlog2 | vrcp | vrsq | vtanh | vsilu | vceq | vclt | vcle | vsel | vpsum | vamx | vfill | vperm =>
    exact State.vecCmd_keeps hs
  | vrsum | vrmax | vrmin => exact State.vred_keeps hs
  | atq | ats => exact State.atnCmd_keeps hs
  | aadd | aaddf | awr | aaddx | aaddfx | awrx => exact State.atomicCmd_keeps hs
  | rwr | rrd | rwrr => exact State.remoteCmd_keeps hs
  | wtagTimeout => exact execWtagTimeout_keeps hs
  | cwaitTimeout => exact execCwaitTimeout_keeps hs
  | notAnInstruction => exact State.trapHere_keeps hs
  | sel | csrr | tsr | tagb | tagbClr | setfid | zget | zset | zclr =>
    exact State.issue_keeps hs fun _ => State.launchOp_keeps
  | endI => exact execEndI_keeps hs
  | nop => exact execNop_keeps hs
  | fenceE => exact execFenceE_keeps hs
  | tagq => exact execTagq_keeps hs
  | fcrd => exact execFcrd_keeps hs
  | fcclr => exact execFcclr_keeps hs
  | pbr => exact execPbr_keeps hs
  | call => exact execCall_keeps hs
  | ret => exact execRet_keeps hs
  | yield => exact execYield_keeps hs
  | brk => exact execBrk_keeps hs
  | tkp => exact execTkp_keeps hs
  | tkw => exact execTkw_keeps hs
  | tkq => exact execTkq_keeps hs
  | winit => exact execWinit_keeps hs
  | wclm => exact execWclm_keeps hs
  | wpub => exact execWpub_keeps hs
  | wrel => exact execWrel_keeps hs
  | phase => exact execPhase_keeps hs
  | wtag => exact execWtag_keeps hs
  | tcnl => exact execTcnl_keeps hs
  | cpy => exact execCpy_keeps hs
  | cpyt => exact execCpyt_keeps hs
  | cpyx => exact execCpyx_keeps hs
  | cpyr => exact execCpyr_keeps hs
  | land => exact execLand_keeps hs
  | fwd => exact execFwd_keeps hs
  | lds => exact execLds_keeps hs
  | mma => exact execMma_keeps hs
  | mmak => exact execMmak_keeps hs
  | aclr => exact execAclr_keeps hs
  | adrn => exact execAdrn_keeps hs
  | atf => exact execAtf_keeps hs
  | qpost => exact execQpost_keeps hs
  | carm => exact execCarm_keeps hs
  | cadd => exact execCadd_keeps hs
  | cwait => exact execCwait_keeps hs
  | crd => exact execCrd_keeps hs
  | qslot => exact execQslot_keeps hs
  | csrw => exact execCsrw_keeps hs
  | trap => exact execTrap_keeps hs
  | eret => exact execEret_keeps hs
  | tld => exact execTld_keeps hs
  | tlk => exact execTlk_keeps hs
  | tinv => exact execTinv_keeps hs
  | pmld => exact execPmld_keeps hs
  | rply => exact execRply_keeps hs
  | ctxs => exact execCtxs_keeps hs
  | ctxl => exact execCtxl_keeps hs
  | lnch => exact execLnch_keeps hs
  | idle => exact execIdle_keeps hs
  | fixedLatencyLanding => exact execFixedLatencyLanding_keeps hs
  | waitSatisfied => exact execWaitSatisfied_keeps hs
  | ldsComplete => exact execLdsComplete_keeps hs
  | copyUnit => exact execCopyUnit_keeps hs
  | vectorUnit => exact execVectorUnit_keeps hs
  | mmaUnit => exact execMmaUnit_keeps hs
  | fidRailSwitchDone => exact execFidRailSwitchDone_keeps hs
  | mmakTargetChoice => exact execMmakTargetChoice_keeps hs
  | mmakStartTime => exact execMmakStartTime_keeps hs
  | drainUnit => exact execDrainUnit_keeps hs
  | aclrUnit => exact execAclrUnit_keeps hs
  | attentionPerform => exact execAttentionPerform_keeps hs
  | landTile => exact execLandTile_keeps hs
  | aatPerformed => exact execAatPerformed_keeps hs
  | cpyrAdd => exact execCpyrAdd_keeps hs
  | roundTimeout => exact execRoundTimeout_keeps hs
  | workEntryFire => exact execWorkEntryFire_keeps hs
  | workEntryComplete => exact execWorkEntryComplete_keeps hs
  | remoteUnitDeadline => exact execRemoteUnitDeadline_keeps hs
  | remoteUnitUnreached => exact execRemoteUnitUnreached_keeps hs
  | tupleTakeService => exact execTupleTakeService_keeps hs
  | tupleDepositService => exact execTupleDepositService_keeps hs
  | tupleCancelService => exact execTupleCancelService_keeps hs
  | tupleParkExpire => exact execTupleParkExpire_keeps hs
  | tupleComplete => exact execTupleComplete_keeps hs
  | tupleRemoteTimeout => exact execTupleRemoteTimeout_keeps hs
  | tupleResend => exact execTupleResend_keeps hs
  | strandStop => exact execStrandStop_keeps hs
  | watchdog => exact execWatchdog_keeps hs
  | queueAgeing => exact execQueueAgeing_keeps hs
  | teamStart => exact execTeamStart_keeps hs
  | teamRetire => exact execTeamRetire_keeps hs
  | permitRefill => exact execPermitRefill_keeps hs
  | memberLost => exact execMemberLost_keeps hs
  | stripeSendStart => exact execStripeSendStart_keeps hs
  | dwellExpire => exact execDwellExpire_keeps hs
  | lostStandin => exact execLostStandin_keeps hs
  | laneTrainDone => exact execLaneTrainDone_keeps hs
  | bktDecay => exact execBktDecay_keeps hs
  | laneRetuneDone => exact execLaneRetuneDone_keeps hs
  | mailboxUnknownCmd => exact execMailboxUnknownCmd_keeps hs
  | preemptRequest => exact execPreemptRequest_keeps hs
  | launchPass => exact execLaunchPass_keeps hs
  | windowBoundary => exact execWindowBoundary_keeps hs
  | dataFlit => exact execDataFlit_keeps hs
  | ack => exact execAck_keeps hs
  | nak => exact execNak_keeps hs
  | laneLos => exact execLaneLos_keeps hs
  | lightReturn => exact execLightReturn_keeps hs
  | train | sync => exact Res.keeps_next.mpr hs
  | follow _ t => exact execFollow_keeps t hs
  | dreq => exact execDreq_keeps hs
  | drsp mid t => exact execDrsp_keeps mid t hs
  | seghdr => exact execSeghdr_keeps hs
  | freefr => exact execFreefr_keeps hs
  | propose => exact execPropose_keeps hs
  | accept => exact execAccept_keeps hs
  | reject mid _ => exact execReject_keeps mid hs
  | commit => exact execCommit_keeps hs
  | tspreq => exact execTspreq_keeps hs
  | tsprsp => exact execTsprsp_keeps hs
  | wrhdr => exact execWrhdr_keeps hs
  | wrack => exact execWrack_keeps hs
  | wrnack => exact execWrnack_keeps hs
  | rdreq => exact execRdreq_keeps hs
  | redhdr => exact execRedhdr_keeps hs
  | redgo => exact execRedgo_keeps hs
  | cntadd => exact execCntadd_keeps hs
  | droopDetect => exact execDroopDetect_keeps hs
  | thermalLimit => exact execThermalLimit_keeps hs
  | thermalRecover => exact execThermalRecover_keeps hs
  | logicRailSwitch => exact execLogicRailSwitch_keeps hs
  | scrubRead => exact execScrubRead_keeps hs
  | coldReset => exact execColdReset_keeps
  | finjWrite => exact execFinjWrite_keeps hs
  | fidthrWrite => exact execFidthrWrite_keeps hs
  | lfsrseedWrite => exact execLfsrseedWrite_keeps hs
  | permitWrite => exact execPermitWrite_keeps hs
  | registerWrite => exact execRegisterWrite_keeps hs
  | hostBar2Write => exact execHostBar2Write_keeps hs
  | hostBar2Read => exact execHostBar2Read_keeps hs
  | submit => exact execSubmit_keeps hs
  | region => exact execRegion_keeps hs
  | pubkey => exact execPubkey_keeps hs
  | model => exact execModel_keeps hs
  | attest => exact execAttest_keeps hs
  | contextCreate => exact execContextCreate_keeps hs
  | pages => exact execPages_keeps hs
  | posmap => exact execPosmap_keeps hs
  | lqcfg => exact execLqcfg_keeps hs
  | assign => exact execAssign_keeps hs
  | assignRelease => exact execAssignRelease_keeps hs
  | abort => exact execAbort_keeps hs
  | contextDestroy => exact execContextDestroy_keeps hs
  | unlistedControlFlit => exact execUnlistedControlFlit_keeps hs
  | trimRailPark => exact execTrimRailPark_keeps hs

theorem State.perform_keeps {d : Decoded} (hs : MemWf s.mem) : Res.Keeps MemWf (s.perform d) := by
  cases d with
  | ok i => exact exec_keeps hs
  | bad c => exact State.trapHere_keeps hs
  | reserved maj f imm => exact State.trapHere_keeps hs

theorem State.runOne_keeps {r : SeqRef} (hs : MemWf s.mem) : Res.Keeps MemWf (s.runOne r) := by
  have h1 : MemWf (s.fetchReads r).mem := by simpa using hs
  unfold State.runOne
  extract_lets s1
  split
  · exact State.perform_keeps h1
  · exact State.trapHere_keeps h1
  · rw [Res.keeps_next, State.raise_mem]
    exact h1

/-- A try to issue keeps the canonical form, whether the sequencer issues or comes to wait. -/
theorem State.tryIssue_keeps {r : SeqRef} (hs : MemWf s.mem) : Tried.Keeps MemWf (s.tryIssue r) := by
  unfold State.tryIssue
  extract_lets stepped s'
  have h' : MemWf s'.mem := by
    unfold s'
    split <;> simp [hs]
  clear_value s'
  split
  · exact Res.keeps_next.mpr h'
  · split
    case _ a ok ha =>
      have h1 : MemWf a.mem := by
        have h := congrArg (·.1.mem) ha
        simp only [State.stepFlights_mem] at h
        exact h ▸ h'
      split
      · exact Res.keeps_next.mpr h1
      · split
        case _ u hu =>
          have h2 : MemWf u.mem := State.runOne_keeps h1 u hu
          (repeat' split) <;> simp [Tried.Keeps, h', h2]
        case _ h => exact fun t e => nomatch h t e

theorem State.tryPick_keeps {r : SeqRef} (hs : MemWf s.mem) : Tried.Keeps MemWf (s.tryPick r) := by
  unfold State.tryPick
  split
  · exact State.tryIssue_keeps hs
  · exact hs

theorem State.issueTurn_keeps {r : SeqRef} {run : Nat} (hs : MemWf s.mem) : Res.Keeps MemWf (s.issueTurn r run) := by
  have h := State.tryPick_keeps (r := r) hs
  unfold State.issueTurn
  split
  case _ u hu =>
    rw [hu] at h
    have hu' : MemWf u.mem := Res.keeps_next.mp h
    simp [hu']
  case _ a _ ha =>
    rw [ha] at h
    exact h
  case _ u hu =>
    rw [hu] at h
    have hu' : MemWf u.mem := h
    simp [hu']

theorem State.hubRun_keeps {die : Nat} (hs : MemWf s.mem) : Res.Keeps MemWf (s.hubRun die) := by
  unfold State.hubRun
  extract_lets pc
  have hc : MemWf (s.corrected pc (s.hubSize die)).mem := by simpa using hs
  split
  · exact Res.keeps_fault
  · split
    · simp [hs]
    · exact State.perform_keeps hc

theorem State.hubTurn_keeps {die : Nat} (hs : MemWf s.mem) : Res.Keeps MemWf (s.hubTurn die) := by
  unfold State.hubTurn
  extract_lets q
  split
  · simp [hs]
  · split
    · simp [hs]
    · split
      · simp [hs]
      · split
        · simp [hs]
        · exact State.hubRun_keeps hs

theorem State.turn_keeps {u : Turn} (hs : MemWf s.mem) : Res.Keeps MemWf (s.turn u) := by
  cases u with
  | event i => exact exec_keeps hs
  | cluster d c => simp [State.turn, hs]
  | issue r run => exact State.issueTurn_keeps hs
  | hub d => exact State.hubTurn_keeps hs
  | scrub pa => exact execScrubRead_keeps hs

theorem State.advanceOne_keeps (hs : MemWf s.mem) : Res.Keeps MemWf s.advanceOne := by
  unfold State.advanceOne
  split
  · simp [hs]
  · split
    · split
      · exact exec_keeps hs
      · exact Res.keeps_next.mpr hs
    · split
      · exact State.turn_keeps hs
      · simp [hs]

end frames

/-- Settles O59: a step changes memory only by writing runs of bytes, each of which keeps the canonical form. -/
theorem stepKeepsMemory : Obligations.StepKeepsMemory := fun _ t hs e => State.advanceOne_keeps hs t e

end Sys2Proof.Machine
end

section
/-! PROOFS. Power, permits, the scrubber and BAR2 (O47).  First what two states have in common, then one lemma for each
rule of an event, in the order of the statement. -/

namespace Sys2Proof.Machine

section power
variable {s t : State} {die cl island : Nat}

/-! ### What an update shares with the state before -/

theorem sameMem_of_mem_eq (h : t.mem = s.mem) : SameMem s t := fun a => congrArg (Tbl.get memDefault · a) h

theorem sameRegs_of_seqs_eq (h : t.seqs = s.seqs) : SameRegs s t := fun k => by
  have hk : t.seqAt k = s.seqAt k := congrArg (fun q => Tbl.get ({} : Seq) q k) h
  simp [hk]

@[simp] theorem State.post_clusters (e : EvRec) : (s.post die e).clusters = s.clusters := by
  simp [State.post, apply_ite State.clusters]

/-! ### Permits (R352) -/

/-- A class whose count is listed holds that count. -/
theorem Cluster.held_of_permits {c : Cluster} {f : Permit → Nat} (h : c.permits = allPermits.map fun k => (k.idx, f k))
    (k : Permit) : c.held k = f k := by
  unfold Cluster.held
  rw [h]
  cases k <;> rfl

/-- At a boundary of 64 local cycles each count rises by its rate, up to its depth. -/
theorem exec_permitRefill_due (hn : s.ccnt die cl % 64 = 0) (hr : (s.cluster die cl).refilled ≠ s.ccnt die cl) :
    ∃ t, exec (.permitRefill die cl) s = .next t ∧ SameMem s t ∧ SameRegs s t
      ∧ (t.cluster die cl).refilled = s.ccnt die cl ∧ ∀ k : Permit, (t.cluster die cl).held k
        = min ((s.cluster die cl).depth k) ((s.cluster die cl).held k + (s.cluster die cl).rate k) := by
  refine ⟨_, congrArg Host.Outcome.next (if_pos ⟨hn, hr⟩), sameMem_of_mem_eq rfl, sameRegs_of_seqs_eq rfl, ?_, fun k => ?_⟩
  · rw [cluster_modCluster, if_pos rfl]
  · rw [cluster_modCluster, if_pos rfl]
    exact Cluster.held_of_permits (f := fun k => min ((s.cluster die cl).depth k)
      ((s.cluster die cl).held k + (s.cluster die cl).rate k)) rfl k

/-- Between boundaries, and a second time at one, nothing comes about. -/
theorem exec_permitRefill_idle (h : s.ccnt die cl % 64 ≠ 0 ∨ (s.cluster die cl).refilled = s.ccnt die cl) :
    exec (.permitRefill die cl) s = .next s :=
  congrArg Host.Outcome.next (if_neg fun ⟨hn, hr⟩ => h.elim (· hn) hr)

/-- The check of PERMIT: one of its eight fields is 0. -/
theorem permit_field_zero_iff {v : BitVec 64} :
    ((List.range 8).any fun n => field v (8 * n) 8 == 0) = true ↔ ∃ n < 8, field v (8 * n) 8 = 0 := by
  simp only [List.any_eq_true, List.mem_range, beq_iff_eq]

theorem exec_permitWrite_refused {v : BitVec 64} (h : ∃ n < 8, field v (8 * n) 8 = 0) :
    exec (.permitWrite die cl v) s = .next (s.post die { cause := .permitConfig, cl := some cl }) :=
  congrArg Host.Outcome.next (if_pos (permit_field_zero_iff.mpr h))

theorem writePermit_taken {v : BitVec 64} (h : ∀ n < 8, field v (8 * n) 8 ≠ 0) :
    s.writePermit die cl v = s.modCluster die cl fun c =>
      { c with permit := v, coolRates := none
               permits := allPermits.map fun k => (k.idx, min (c.held k) (field v (k.lo + 8) 8)) } := by
  refine if_neg fun hz => ?_
  obtain ⟨n, hn, hf⟩ := permit_field_zero_iff.mp hz
  exact h n hn hf

theorem exec_permitWrite_taken {v : BitVec 64} (h : ∀ n < 8, field v (8 * n) 8 ≠ 0) :
    ∃ t, exec (.permitWrite die cl v) s = .next t ∧ (t.cluster die cl).permit = v
      ∧ ∀ k : Permit, (t.cluster die cl).held k = min ((s.cluster die cl).held k) (field v (k.lo + 8) 8) := by
  refine ⟨_, congrArg Host.Outcome.next (writePermit_taken h), ?_, fun k => ?_⟩
  · rw [cluster_modCluster, if_pos rfl]
  · rw [cluster_modCluster, if_pos rfl]
    exact Cluster.held_of_permits (f := fun k => min ((s.cluster die cl).held k) (field v (k.lo + 8) 8)) rfl k

/-! ### Droop (R350) -/

theorem Cluster.tick_droop {c : Cluster} (hs : c.clockStop ≠ 0) (hd : c.droop ≠ 0) :
    c.tick.droopLost = c.droopLost + 1 ∧ c.tick.clockStop + 1 = c.clockStop ∧ c.tick.droop + 1 = c.droop
      ∧ c.tick.lag = c.lag + 1 :=
  ⟨if_neg (not_or.mpr ⟨hs, hd⟩), Nat.sub_one_add_one hs, Nat.sub_one_add_one hd, if_neg hs⟩

theorem Cluster.tick_running {c : Cluster} (h : c.clockStop = 0) : c.tick.droopLost = c.droopLost ∧ c.tick.lag = c.lag :=
  ⟨if_pos (.inl h), if_pos h⟩

/-- A cluster that lost more than 256 cycles is posted as its window ends, and its counts begin again. -/
theorem clusterWindow_droopBudget {c : Cluster} (hc : s.clusters = [(64 * die + cl, c)]) (hcl : cl < 64)
    (hd : 256 < c.droopLost) : s.clusterWindow die =
      { s.post die { cause := .droopBudget, cl := some cl, detail := BitVec.ofNat 64 c.droopLost } with
        clusters := [(64 * die + cl, { c with wcnt := 0, fidRecords := 0, droopLost := 0 })] } := by
  have hdiv : (64 * die + cl) / 64 = die := by omega
  have hmod : (64 * die + cl) % 64 = cl := by omega
  simp [State.clusterWindow, hc, hd, hdiv, hmod]

/-! ### Heat (R351) -/

/-- A change of an island's clusters changes nothing but clusters. -/
theorem modIsland_frame (f : Cluster → Cluster) :
    s.modIsland die island f = { s with clusters := (s.modIsland die island f).clusters } := by
  unfold State.modIsland
  generalize List.range 18 = l
  induction l generalizing s with
  | nil => rfl
  | cons n l ih => exact ih

@[simp] theorem State.modIsland_islands (f : Cluster → Cluster) : (s.modIsland die island f).islands = s.islands := by
  rw [modIsland_frame]

@[simp] theorem State.modIsland_seqs (f : Cluster → Cluster) : (s.modIsland die island f).seqs = s.seqs := by
  rw [modIsland_frame]

/-- Each cluster of a run of clusters is changed once. -/
theorem cluster_foldl_modCluster (f : Cluster → Cluster) (b k : Nat) {l : List Nat} (hl : l.Nodup) :
    (l.foldl (fun a n => a.modCluster die (b + n) f) s).cluster die (b + k)
      = if k ∈ l then f (s.cluster die (b + k)) else s.cluster die (b + k) := by
  induction l generalizing s with
  | nil => rfl
  | cons n l ih =>
    obtain ⟨hn, hl⟩ := List.nodup_cons.mp hl
    rw [List.foldl_cons, ih hl, cluster_modCluster]
    by_cases hk : k = n
    · subst hk
      simp [hn]
    · have hne : clKey die (b + n) ≠ clKey die (b + k) := by
        unfold clKey
        omega
      simp [hk, hne]

theorem cluster_modIsland (f : Cluster → Cluster) {k : Nat} (hk : k < 18) :
    (s.modIsland die island f).cluster die (18 * island + k) = f (s.cluster die (18 * island + k)) := by
  unfold State.modIsland
  rw [cluster_foldl_modCluster f _ k List.nodup_range, if_pos (List.mem_range.mpr hk)]

theorem exec_thermalLimit_cool (h : (s.islandAt die island).hot = false) : exec (.thermalLimit die island) s = .next
    (((s.setIsland die island { s.islandAt die island with hot := true }).modIsland die island fun c =>
      { c with coolRates := some c.permit, permit := withRates c.permit (halfRate c.permit) }).post die
      { cause := .thermalLimit }) :=
  if_neg (by simp [h])

theorem exec_thermalLimit_hot (h : (s.islandAt die island).hot = true) :
    exec (.thermalLimit die island) s = .next s := if_pos h

theorem exec_thermalRecover_cool (h : (s.islandAt die island).hot = false) :
    exec (.thermalRecover die island) s = .next s := if_pos (by simp [h])

/-- The clusters of an island that recovers are changed by a function after which no rates wait to be restored. -/
theorem exec_thermalRecover_hot (h : (s.islandAt die island).hot = true) :
    ∃ warm : Cluster → Cluster, (∀ c, (warm c).coolRates = none) ∧ exec (.thermalRecover die island) s = .next
      ((s.setIsland die island { s.islandAt die island with hot := false }).modIsland die island warm) := by
  refine ⟨_, fun c => ?_, if_neg (by simp [h])⟩
  split
  · rfl
  · assumption

theorem islandAt_modIsland_setIsland (v : Island) (f : Cluster → Cluster) :
    ((s.setIsland die island v).modIsland die island f).islandAt die island = v := by
  simp [State.islandAt, State.setIsland]

theorem exec_thermalRecover_restores (h : (s.islandAt die island).hot = true) :
    ∃ t, exec (.thermalRecover die island) s = .next t ∧ (t.islandAt die island).hot = false ∧ SameMem s t ∧ SameRegs s t
      ∧ ∀ k < 18, (t.cluster die (18 * island + k)).coolRates = none := by
  obtain ⟨warm, hwarm, he⟩ := exec_thermalRecover_hot h
  refine ⟨_, he, ?_, sameMem_of_mem_eq (State.modIsland_mem ..), sameRegs_of_seqs_eq (State.modIsland_seqs _), fun k hk => ?_⟩
  · rw [islandAt_modIsland_setIsland]
  · rw [cluster_modIsland warm hk]
    exact hwarm _

/-! ### The scrubber and BAR2 (R103, R353) -/

theorem exec_scrubRead_sound {pa : Nat} (h : s.badAt pa 1 = none) :
    exec (.scrubRead pa) s = .next (s.corrected pa 1) := by
  show execScrubRead pa s = _
  simp [execScrubRead, h]

theorem exec_scrubRead_bad {pa w : Nat} (h : s.badAt pa 1 = some w) :
    exec (.scrubRead pa) s = .next (s.post (w / 0x80000000) (eventOf .sramUncorr w)) := by
  show execScrubRead pa s = _
  simp [execScrubRead, h, eventOf]

/-- A read outside the cadence table reads the slab. -/
theorem readCtl_outside {pa n : Nat} (h : s.hitsTable pa n = false) : s.readCtl pa n = s.readMem pa n :=
  if_neg (by simp [h])

/-- A write by the home die outside the cadence table changes the slab alone. -/
theorem writeCtl_outside {pa : Nat} {bs : List Byte} (h : s.hitsTable pa bs.length = false) :
    s.writeCtl (pa / 0x80000000) pa bs = s.writeMem pa bs := by
  simp [State.writeCtl, h, State.writeSlab]

/-- Where no word is weak, a read corrects nothing. -/
theorem corrected_of_no_weak {pa n : Nat} (h : s.weak = []) : s.corrected pa n = s := by
  simp [State.corrected, h]

theorem exec_hostBar2Write_outside {pa : Nat} {bs : List Byte}
    (h : s.hitsTable pa (bs.take (slabSize - pa)).length = false) :
    exec (.hostBar2Write pa bs) s = .next (s.writeMem pa (bs.take (slabSize - pa))) :=
  congrArg Host.Outcome.next (writeCtl_outside h)

theorem exec_hostBar2Read_sound {pa n : Nat} (hn : pa + n ≤ slabSize) (hb : s.badAt pa n = none) (hw : s.weak = [])
    (ht : s.hitsTable pa n = false) :
    exec (.hostBar2Read pa n) s = .next (s.send (.hostRead pa (s.readMem pa n) false)) := by
  show execHostBar2Read pa n s = _
  have hmin : min n (slabSize - pa) = n := by omega
  simp [execHostBar2Read, hmin, hb, corrected_of_no_weak hw, readCtl_outside ht]

theorem exec_hostBar2Read_bad {pa n w : Nat} (hn : pa + n ≤ slabSize) (hb : s.badAt pa n = some w)
    (ht : s.hitsTable pa n = false) :
    exec (.hostBar2Read pa n) s = .next ((s.post (w / 0x80000000) (eventOf .sramUncorr w)).send
      (.hostRead pa (s.readMem pa n) true)) := by
  show execHostBar2Read pa n s = _
  have hmin : min n (slabSize - pa) = n := by omega
  simp [execHostBar2Read, hmin, hb, eventOf, readCtl_outside ht]

end power

/-- Settles O47: each event of the power manager, the permits, the scrubber and BAR2 does what its rule says; a register
write, a droop, a rail switch and an operating point are their definitions. -/
theorem powerEvents : Obligations.PowerEvents := by
  intro s die cl
  refine ⟨?refill, fun v => exec_permitWrite_refused, fun v => exec_permitWrite_taken, fun v => rfl, fun v => rfl,
    fun v => rfl, fun n => rfl, fun c => Cluster.tick_droop, fun c => Cluster.tick_running, ?budget,
    fun island => exec_thermalLimit_cool, fun island => exec_thermalRecover_restores, fun island => exec_thermalLimit_hot,
    fun island => exec_thermalRecover_cool, rfl, fun island parked => rfl, fun island v => rfl,
    fun pa => exec_scrubRead_sound, fun pa w => exec_scrubRead_bad, fun pa bs => exec_hostBar2Write_outside,
    fun pa n => exec_hostBar2Read_sound, fun pa n w => exec_hostBar2Read_bad⟩
  case refill =>
    rintro n rfl
    exact ⟨exec_permitRefill_due, exec_permitRefill_idle⟩
  case budget =>
    rintro c hc hcl hd u rfl
    exact clusterWindow_droopBudget hc hcl hd

end Sys2Proof.Machine
end

section
/-! PROOFS. The decoder gives every well-formed instruction back (O55; R43 to R48).  The fields of an instruction are
laid out in its words, `Raw.ofWords` reads them back, and `Raw.candidate` the operands from them. -/

namespace Sys2Proof.Laws

/-! ### The words (R43, R44) -/

theorem form_ofCode (f : Form) : Form.ofCode f.code = some f := by cases f <;> rfl

theorem clauseOf_clauseBits (q : Option (BitVec 3)) : clauseOf (clauseBits q) = q := by
  cases q with
  | none => rfl
  | some q => revert q; decide

/-- Everything in the first word (R43). -/
theorem word0_fields (r : Raw) :
    r.word0.setWidth 2 = r.h.form.code ∧ r.word0.extractLsb' 2 2 = r.h.gap ∧ r.word0.getLsbD 4 = r.h.sw
      ∧ r.word0.extractLsb' 5 7 = r.maj ∧ r.word0.extractLsb' 12 5 = r.d ∧ r.word0.extractLsb' 17 5 = r.a
      ∧ r.word0.extractLsb' 22 5 = r.b ∧ r.word0.extractLsb' 27 5 = r.f := by
  unfold Raw.word0
  rw [setWidth_as_extract]
  refine ⟨?_, ?_, ?sw, ?_, ?_, ?_, ?_, ?f⟩
  case sw =>
    rw [BitVec.getLsbD_append, if_neg (by omega), BitVec.getLsbD_append, if_neg (by omega), BitVec.getLsbD_append,
      if_pos (by omega)]
    simp
  case f =>
    repeat rw [extract_append_high _ _ _ _ (by omega)]
    exact extract_all _
  all_goals
    repeat rw [extract_append_high _ _ _ _ (by omega)]
    rw [extract_append_low _ _ _ _ (by omega), extract_all]

/-- Everything in the second word (R44). -/
theorem word1_fields (r : Raw) :
    r.word1.setWidth 4 = clauseBits r.h.wq ∧ r.word1.extractLsb' 4 4 = clauseBits r.h.pq
      ∧ r.word1.extractLsb' 8 8 = r.m ∧ r.word1.extractLsb' 16 16 = r.imm := by
  unfold Raw.word1
  rw [setWidth_as_extract]
  refine ⟨?_, ?_, ?_, ?imm⟩
  case imm =>
    repeat rw [extract_append_high _ _ _ _ (by omega)]
    exact extract_all _
  all_goals
    repeat rw [extract_append_high _ _ _ _ (by omega)]
    rw [extract_append_low _ _ _ _ (by omega), extract_all]

/-! ### What the fields of an instruction hold -/

/-- The header of which `majorOf` asks whether a length is permitted. -/
def bareHdr (f : Form) : Hdr := { sw := false, gap := 0, form := f, wq := none, pq := none }

/-- What a shorter instruction has no word for is zero (R43, R44). -/
def Fits (r : Raw) : Prop :=
  (r.h.form = .w32 → r.h.wq = none ∧ r.h.pq = none ∧ r.imm = 0 ∧ r.m = 0) ∧ (r.h.form ≠ .w96 → r.lit = 0)

/-- The fields fit in the words of their length, and the major is assigned, permits that length and has that F (R48). -/
structure Placed (r : Raw) : Prop where
  fits : Fits r
  major : ∃ permits nf, majorOf r.maj = some (permits, nf) ∧ permits (bareHdr r.h.form) = true ∧ r.f.toNat < nf

/-- The second word, or the zero in its place, gives its fields back. -/
theorem second_fields {r : Raw} (hr : Fits r) {w1 : BitVec 32} (h1 : r.h.form ≠ .w32 → w1 = r.word1) {v : BitVec 32}
    (hv : v = if r.h.form = .w32 then 0 else w1) :
    clauseOf (v.setWidth 4) = r.h.wq ∧ clauseOf (v.extractLsb' 4 4) = r.h.pq ∧ v.extractLsb' 8 8 = r.m
      ∧ v.extractLsb' 16 16 = r.imm := by
  by_cases f : r.h.form = .w32
  · obtain ⟨hwq, hpq, himm, hm⟩ := hr.1 f
    rw [hv, if_pos f, hwq, hpq, himm, hm]
    decide
  · obtain ⟨hwq, hpq, hm, himm⟩ := word1_fields r
    rw [hv, if_neg f, h1 f, hwq, hpq, hm, himm, clauseOf_clauseBits, clauseOf_clauseBits]
    exact ⟨rfl, rfl, rfl, rfl⟩

/-- The fields of an instruction fill its words, and its words give them back. -/
theorem ofWords_words {r : Raw} (hr : Fits r) {w1 w2 : BitVec 32} (h1 : r.h.form ≠ .w32 → w1 = r.word1)
    (h2 : r.h.form = .w96 → w2 = r.lit) : Raw.ofWords r.h.form r.word0 w1 w2 = r := by
  obtain ⟨_, hgap, hsw, hmaj, hd, ha, hb, hf⟩ := word0_fields r
  obtain ⟨hwq, hpq, hm, himm⟩ := second_fields hr h1 rfl
  have hlit : (if r.h.form = .w96 then w2 else 0) = r.lit := by
    split
    case isTrue f => exact h2 f
    case isFalse f => exact (hr.2 f).symm
  simp only [Raw.ofWords, hgap, hsw, hmaj, hd, ha, hb, hf, hwq, hpq, hm, himm, hlit]

section families
variable {r : Raw} {nf : Nat}

theorem form_of_f64 {h : Hdr} (w : h.f64 = true) : h.form = .w64 := eq_of_beq w

theorem form_of_f96 {h : Hdr} (w : h.f96 = true) : h.form = .w96 := eq_of_beq w

theorem bare_f6496 {h : Hdr} (w : h.f6496 = true) : (bareHdr h.form).f6496 = true := w

theorem bare_f3264 {h : Hdr} (w : h.f3264 = true) : (bareHdr h.form).f3264 = true := by
  simp only [Hdr.f3264, Bool.and_eq_true] at w ⊢
  exact ⟨w.1, by simp [Hdr.clauses, bareHdr]⟩

/-- A 32-bit instruction has no token clause. -/
theorem no_clauses {h : Hdr} (w : h.clauses = true) (f : h.form = .w32) : h.wq = none ∧ h.pq = none := by
  simpa [Hdr.clauses, f] using w

theorem Placed.of3264 (hm : majorOf r.maj = some (Hdr.f3264, nf)) (hf : decide (r.f.toNat < nf) = true)
    (w : r.h.f3264 = true) (hs : r.h.form = .w32 → r.imm = 0 ∧ r.m = 0) (hl : r.lit = 0) : Placed r := by
  have hc := (Bool.and_eq_true_iff.mp w).2
  exact ⟨⟨fun f => ⟨(no_clauses hc f).1, (no_clauses hc f).2, hs f⟩, fun _ => hl⟩, _, _, hm, bare_f3264 w,
    of_decide_eq_true hf⟩

theorem Placed.of64 (hm : majorOf r.maj = some (Hdr.f64, nf)) (hf : decide (r.f.toNat < nf) = true)
    (w : r.h.f64 = true) (hl : r.lit = 0) : Placed r :=
  ⟨⟨fun f => by simp [form_of_f64 w] at f, fun _ => hl⟩, _, _, hm, w, of_decide_eq_true hf⟩

theorem Placed.of96 (hm : majorOf r.maj = some (Hdr.f96, nf)) (hf : decide (r.f.toNat < nf) = true)
    (w : r.h.f96 = true) : Placed r :=
  ⟨⟨fun f => by simp [form_of_f96 w] at f, fun f => absurd (form_of_f96 w) f⟩, _, _, hm, w, of_decide_eq_true hf⟩

theorem Placed.of6496 (hm : majorOf r.maj = some (Hdr.f6496, nf)) (hf : decide (r.f.toNat < nf) = true)
    (w : r.h.f6496 = true) (hl : r.h.form = .w64 → r.lit = 0) : Placed r := by
  refine ⟨⟨fun f => by simp [Hdr.f6496, f] at w, fun f => hl ?_⟩, _, _, hm, w, of_decide_eq_true hf⟩
  cases hx : r.h.form with
  | w32 => simp [Hdr.f6496, hx] at w
  | w64 => rfl
  | w96 => exact absurd hx f

theorem Placed.of32 (hm : majorOf r.maj = some (Hdr.f32, nf)) (hf : decide (r.f.toNat < nf) = true)
    (w : r.h.f32 = true) (hi : r.imm = 0) (hb : r.m = 0) (hl : r.lit = 0) : Placed r := by
  obtain ⟨hform, hc⟩ := Bool.and_eq_true_iff.mp w
  have hp : (bareHdr r.h.form).f32 = true := by simp [Hdr.f32, Hdr.clauses, bareHdr, eq_of_beq hform]
  exact ⟨⟨fun f => ⟨(no_clauses hc f).1, (no_clauses hc f).2, hi, hb⟩, fun _ => hl⟩, _, _, hm, hp, of_decide_eq_true hf⟩

end families

/-! An operand that stands in the literal is zero where there is none. -/

theorem litOk_of_form {h : Hdr} {z : Bool} (w : h.litOk z = true) (f : h.form = .w64) : z = true := by
  simpa [Hdr.litOk, f] using w

theorem pbr_lit {t : PbrTarget} {f : Form} (w : t.formOk f = true) (e : f = .w64) : t.lit = 0 := by
  cases t with
  | rel o => rfl
  | abs a l => simp [PbrTarget.formOk, e] at w

theorem lds_lit {o : LdsOff} {f : Form} (w : o.formOk f = true) (e : f = .w64) : o.lit32 = 0 := by
  cases o with
  | imm o => rfl
  | lit l => simp [LdsOff.formOk, e] at w

theorem getD_none {n : Nat} {o : Option (BitVec n)} {f : Form} (w : (o.isSome == (f == .w96)) = true)
    (e : f = .w64) : o.getD 0 = 0 := by
  subst e
  cases o with
  | none => rfl
  | some v => simp at w

/-- FSC names its rounding in the second word, so a 32-bit one rounds to nearest (R45). -/
theorem mByte_of_form {h : Hdr} {rm : RMode} {b : Bool} (w : (b && (h.form != .w32 || rm == .rne)) = true)
    (f : h.form = .w32) : mByte false false rm (lo4b false false false false) = 0 := by
  simp only [f, bne_self_eq_false, Bool.false_or, Bool.and_eq_true, beq_iff_eq] at w
  rw [w.2]
  rfl

/-- Every well-formed instruction places its operands so: its header permits its major's lengths, its major assigns its F
(R45, R48). -/
theorem toRaw_elim_placed {i : Instr} (w : i.wf = true) : i.toRaw.elim True Placed := by
  cases i with
  | add | sub | and | or | xor | andn | shl | shr | sra | rol | min | max | minu | maxu | mul | mulh | mulhu |
    div | divu | rem | remu | clz | popc | abs | eq | ne | lt | ltu | ge | geu | pand | por | pxor | pnot |
    pmov | fmin | fmax | fabs | fneg | fcmpeq | fcmplt | fcmple | exp2 | log2 | rcp | rsqrt | sqrt | tanh |
    sin | cos | brt | brf | bra | call | ret | endI | yield | nop | brk | tkq | winit | wclm | wpub | wwf |
    wwe | wrel | phase | fenceE | zget | zset | zclr | setfid | fcclr | rply | tsr | idle =>
    exact Placed.of3264 rfl rfl w (fun _ => ⟨rfl, rfl⟩) rfl
  | sel _ pk => exact Placed.of3264 rfl (decide_eq_true (pk.setWidth 5).isLt) w (fun _ => ⟨rfl, rfl⟩) rfl
  | addi | andi | ori | xori | shli | shri | srai | roli | mini | maxi | muli | eqi | nei | lti | ltui | gei |
    geui | ldb | ldh | ldw | ldd | ldbs | ldhs | ldws | stb | sth | stw | std | tlk | tinv =>
    exact Placed.of64 rfl rfl w rfl
  | liz | lis | lih | vcvt | vmov | vceq | vclt | vcle | vsel | vrsum | vrmax | vrmin | vamx | vfill | vperm =>
    exact Placed.of96 rfl rfl w
  | vadd | vsub | vmul | vmin | vmax | vand | vor | vxor | vshl | vshr | vfma | vfms | vabs | vneg | vexp2 |
    vlog2 | vrcp | vrsq | vtanh | vsilu | vpsum =>
    exact Placed.of96 rfl rfl (Bool.and_eq_true_iff.mp w).1
  | tagb | tagbClr | wtag | tagq | tdep | tcnl | cpy | cpyt | gath | scat | cpyx | cpyr | land | aclr | atq |
    ats | atf | aadd | aaddf | awr | aaddx | aaddfx | awrx | rwr | rrd | rwrr | qpost | carm | cadd | cwait |
    crd | qslot | ctxs | ctxl | lnch =>
    exact Placed.of6496 rfl rfl w fun _ => rfl
  | fadd h d a b rm => exact Placed.of3264 rfl rfl (Bool.and_eq_true_iff.mp w).1 (fun f => ⟨rfl, mByte_of_form w f⟩) rfl
  | fsub h d a b rm => exact Placed.of3264 rfl rfl (Bool.and_eq_true_iff.mp w).1 (fun f => ⟨rfl, mByte_of_form w f⟩) rfl
  | fmul h d a b rm => exact Placed.of3264 rfl rfl (Bool.and_eq_true_iff.mp w).1 (fun f => ⟨rfl, mByte_of_form w f⟩) rfl
  | ffma h d a b rm => exact Placed.of3264 rfl rfl (Bool.and_eq_true_iff.mp w).1 (fun f => ⟨rfl, mByte_of_form w f⟩) rfl
  | fcvti h d a rm => exact Placed.of3264 rfl rfl (Bool.and_eq_true_iff.mp w).1 (fun f => ⟨rfl, mByte_of_form w f⟩) rfl
  | fcvtf h d a rm => exact Placed.of3264 rfl rfl (Bool.and_eq_true_iff.mp w).1 (fun f => ⟨rfl, mByte_of_form w f⟩) rfl
  | tkp | tkw | fcrd => exact Placed.of3264 rfl rfl (Bool.and_eq_true_iff.mp w).1 (fun _ => ⟨rfl, rfl⟩) rfl
  | fwd => exact Placed.of6496 rfl rfl (Bool.and_eq_true_iff.mp w).1 fun _ => rfl
  | csrr | csrw => exact Placed.of64 rfl rfl (Bool.and_eq_true_iff.mp w).1 rfl
  | eret => exact Placed.of32 rfl rfl w rfl rfl rfl
  | pbr h _ tgt =>
    obtain ⟨hf, ht⟩ := Bool.and_eq_true_iff.mp w
    exact Placed.of6496 rfl rfl hf fun f => pbr_lit ht f
  | lds h sz sg _ _ off =>
    obtain ⟨⟨hf, _⟩, ho⟩ := Bool.and_eq_true_iff.mp w |>.imp_left Bool.and_eq_true_iff.mp
    exact Placed.of6496 rfl rfl hf fun f => lds_lit ho f
  | tcpy _ _ _ _ _ _ label | ttak _ _ _ _ _ _ label =>
    obtain ⟨hf, hl⟩ := Bool.and_eq_true_iff.mp w
    refine Placed.of6496 rfl rfl hf fun f => ?_
    simp [raw, eq_of_beq (litOk_of_form hl f)]
  | mma _ _ _ _ _ _ _ _ ml =>
    obtain ⟨hf, hl⟩ := Bool.and_eq_true_iff.mp w
    refine Placed.of6496 rfl rfl hf fun f => ?_
    simp [raw, eq_of_beq (litOk_of_form hl f), mmaLit]
  | mmak _ _ _ _ _ _ _ _ _ ml off =>
    obtain ⟨hf, hl⟩ := Bool.and_eq_true_iff.mp w
    refine Placed.of6496 rfl rfl hf fun f => ?_
    obtain ⟨hm, ho⟩ := Bool.and_eq_true_iff.mp (litOk_of_form hl f)
    simp [raw, eq_of_beq hm, eq_of_beq ho, mmaLit]
  | adrn _ _ _ _ _ _ _ _ _ _ lda =>
    obtain ⟨hf, hl⟩ := Bool.and_eq_true_iff.mp w
    refine Placed.of6496 rfl rfl hf fun f => ?_
    simp [raw, eq_of_beq (litOk_of_form hl f)]
  | tld _ _ _ idx =>
    obtain ⟨hf, hi⟩ := Bool.and_eq_true_iff.mp w
    refine Placed.of6496 rfl rfl hf fun f => ?_
    exact (congrArg (BitVec.setWidth 32) (getD_none hi f)).trans rfl
  | pmld _ _ _ _ way =>
    obtain ⟨hf, hi⟩ := Bool.and_eq_true_iff.mp w
    refine Placed.of6496 rfl rfl hf fun f => ?_
    exact (congrArg (BitVec.setWidth 32) (getD_none hi f)).trans rfl
  | trap h n m =>
    simp only [Instr.wf, Bool.and_eq_true, Bool.or_eq_true, bne_iff_ne, ne_eq, beq_iff_eq] at w
    obtain ⟨⟨hf, _⟩, hm⟩ := w
    exact Placed.of3264 rfl (decide_eq_true n.isLt) hf (fun f => ⟨hm.resolve_left (absurd f), rfl⟩) rfl
  | _ => exact trivial

theorem toRaw_placed {i : Instr} (w : i.wf = true) {r : Raw} (e : i.toRaw = some r) : Placed r := by
  have h := toRaw_elim_placed w
  rwa [e] at h

/-- The decoder's candidate is the instruction, whichever it is. -/
theorem candidate_toRaw {i : Instr} (w : i.wf = true) {r : Raw} (e : i.toRaw = some r) : r.candidate = some i := by
  cases i with
  | add => exact Candidate.add _ _ _ _ w _ e
  | sub => exact Candidate.sub _ _ _ _ w _ e
  | and => exact Candidate.and _ _ _ _ w _ e
  | or => exact Candidate.or _ _ _ _ w _ e
  | xor => exact Candidate.xor _ _ _ _ w _ e
  | andn => exact Candidate.andn _ _ _ _ w _ e
  | shl => exact Candidate.shl _ _ _ _ w _ e
  | shr => exact Candidate.shr _ _ _ _ w _ e
  | sra => exact Candidate.sra _ _ _ _ w _ e
  | rol => exact Candidate.rol _ _ _ _ w _ e
  | min => exact Candidate.min _ _ _ _ w _ e
  | max => exact Candidate.max _ _ _ _ w _ e
  | minu => exact Candidate.minu _ _ _ _ w _ e
  | maxu => exact Candidate.maxu _ _ _ _ w _ e
  | mul => exact Candidate.mul _ _ _ _ w _ e
  | mulh => exact Candidate.mulh _ _ _ _ w _ e
  | mulhu => exact Candidate.mulhu _ _ _ _ w _ e
  | div => exact Candidate.div _ _ _ _ w _ e
  | divu => exact Candidate.divu _ _ _ _ w _ e
  | rem => exact Candidate.rem _ _ _ _ w _ e
  | remu => exact Candidate.remu _ _ _ _ w _ e
  | clz => exact Candidate.clz _ _ _ w _ e
  | popc => exact Candidate.popc _ _ _ w _ e
  | abs => exact Candidate.abs _ _ _ w _ e
  | addi => exact Candidate.addi _ _ _ _ w _ e
  | andi => exact Candidate.andi _ _ _ _ w _ e
  | ori => exact Candidate.ori _ _ _ _ w _ e
  | xori => exact Candidate.xori _ _ _ _ w _ e
  | shli => exact Candidate.shli _ _ _ _ w _ e
  | shri => exact Candidate.shri _ _ _ _ w _ e
  | srai => exact Candidate.srai _ _ _ _ w _ e
  | roli => exact Candidate.roli _ _ _ _ w _ e
  | mini => exact Candidate.mini _ _ _ _ w _ e
  | maxi => exact Candidate.maxi _ _ _ _ w _ e
  | muli => exact Candidate.muli _ _ _ _ w _ e
  | liz => exact Candidate.liz _ _ _ w _ e
  | lis => exact Candidate.lis _ _ _ w _ e
  | lih => exact Candidate.lih _ _ _ w _ e
  | eq => exact Candidate.eq _ _ _ _ w _ e
  | ne => exact Candidate.ne _ _ _ _ w _ e
  | lt => exact Candidate.lt _ _ _ _ w _ e
  | ltu => exact Candidate.ltu _ _ _ _ w _ e
  | ge => exact Candidate.ge _ _ _ _ w _ e
  | geu => exact Candidate.geu _ _ _ _ w _ e
  | eqi => exact Candidate.eqi _ _ _ _ w _ e
  | nei => exact Candidate.nei _ _ _ _ w _ e
  | lti => exact Candidate.lti _ _ _ _ w _ e
  | ltui => exact Candidate.ltui _ _ _ _ w _ e
  | gei => exact Candidate.gei _ _ _ _ w _ e
  | geui => exact Candidate.geui _ _ _ _ w _ e
  | pand => exact Candidate.pand _ _ _ _ w _ e
  | por => exact Candidate.por _ _ _ _ w _ e
  | pxor => exact Candidate.pxor _ _ _ _ w _ e
  | pnot => exact Candidate.pnot _ _ _ w _ e
  | pmov => exact Candidate.pmov _ _ _ w _ e
  | sel => exact Candidate.sel _ _ _ _ _ w _ e
  | ldb => exact Candidate.ldb _ _ _ _ w _ e
  | ldh => exact Candidate.ldh _ _ _ _ w _ e
  | ldw => exact Candidate.ldw _ _ _ _ w _ e
  | ldd => exact Candidate.ldd _ _ _ _ w _ e
  | ldbs => exact Candidate.ldbs _ _ _ _ w _ e
  | ldhs => exact Candidate.ldhs _ _ _ _ w _ e
  | ldws => exact Candidate.ldws _ _ _ _ w _ e
  | stb => exact Candidate.stb _ _ _ _ w _ e
  | sth => exact Candidate.sth _ _ _ _ w _ e
  | stw => exact Candidate.stw _ _ _ _ w _ e
  | std => exact Candidate.std _ _ _ _ w _ e
  | fadd => exact Candidate.fadd _ _ _ _ _ w _ e
  | fsub => exact Candidate.fsub _ _ _ _ _ w _ e
  | fmul => exact Candidate.fmul _ _ _ _ _ w _ e
  | ffma => exact Candidate.ffma _ _ _ _ _ w _ e
  | fmin => exact Candidate.fmin _ _ _ _ w _ e
  | fmax => exact Candidate.fmax _ _ _ _ w _ e
  | fabs => exact Candidate.fabs _ _ _ w _ e
  | fneg => exact Candidate.fneg _ _ _ w _ e
  | fcmpeq => exact Candidate.fcmpeq _ _ _ _ w _ e
  | fcmplt => exact Candidate.fcmplt _ _ _ _ w _ e
  | fcmple => exact Candidate.fcmple _ _ _ _ w _ e
  | fcvti => exact Candidate.fcvti _ _ _ _ w _ e
  | fcvtf => exact Candidate.fcvtf _ _ _ _ w _ e
  | exp2 => exact Candidate.exp2 _ _ _ w _ e
  | log2 => exact Candidate.log2 _ _ _ w _ e
  | rcp => exact Candidate.rcp _ _ _ w _ e
  | rsqrt => exact Candidate.rsqrt _ _ _ w _ e
  | sqrt => exact Candidate.sqrt _ _ _ w _ e
  | tanh => exact Candidate.tanh _ _ _ w _ e
  | sin => exact Candidate.sin _ _ _ w _ e
  | cos => exact Candidate.cos _ _ _ w _ e
  | pbr => exact Candidate.pbr _ _ _ w _ e
  | brt => exact Candidate.brt _ _ _ w _ e
  | brf => exact Candidate.brf _ _ _ w _ e
  | bra => exact Candidate.bra _ _ w _ e
  | call => exact Candidate.call _ _ w _ e
  | ret => exact Candidate.ret _ w _ e
  | endI => exact Candidate.endI _ w _ e
  | yield => exact Candidate.yield _ w _ e
  | nop => exact Candidate.nop _ w _ e
  | brk => exact Candidate.brk _ w _ e
  | tkp => exact Candidate.tkp _ _ _ w _ e
  | tkw => exact Candidate.tkw _ _ _ w _ e
  | tkq => exact Candidate.tkq _ _ _ w _ e
  | winit => exact Candidate.winit _ _ _ _ w _ e
  | wclm => exact Candidate.wclm _ _ _ w _ e
  | wpub => exact Candidate.wpub _ _ w _ e
  | wwf => exact Candidate.wwf _ _ _ w _ e
  | wwe => exact Candidate.wwe _ _ _ w _ e
  | wrel => exact Candidate.wrel _ _ w _ e
  | phase => exact Candidate.phase _ _ w _ e
  | fenceE => exact Candidate.fenceE _ w _ e
  | tagb => exact Candidate.tagb _ _ _ _ w _ e
  | tagbClr => exact Candidate.tagbClr _ _ w _ e
  | wtag => exact Candidate.wtag _ _ _ w _ e
  | tagq => exact Candidate.tagq _ _ _ _ w _ e
  | tdep => exact Candidate.tdep _ _ _ _ _ w _ e
  | tcpy => exact Candidate.tcpy _ _ _ _ _ _ _ w _ e
  | ttak => exact Candidate.ttak _ _ _ _ _ _ _ w _ e
  | tcnl => exact Candidate.tcnl _ _ _ _ w _ e
  | cpy => exact Candidate.cpy _ _ _ _ w _ e
  | cpyt => exact Candidate.cpyt _ _ _ _ _ _ w _ e
  | gath => exact Candidate.gath _ _ _ _ _ _ _ w _ e
  | scat => exact Candidate.scat _ _ _ _ _ _ _ w _ e
  | cpyx => exact Candidate.cpyx _ _ _ _ _ _ _ _ _ _ _ _ w _ e
  | cpyr => exact Candidate.cpyr _ _ _ _ _ _ _ w _ e
  | land => exact Candidate.land _ _ _ _ _ _ _ _ w _ e
  | fwd => exact Candidate.fwd _ _ _ _ _ _ _ w _ e
  | lds => exact Candidate.lds _ _ _ _ _ _ w _ e
  | vadd => exact Candidate.vadd _ _ _ _ _ _ _ _ w _ e
  | vsub => exact Candidate.vsub _ _ _ _ _ _ _ _ w _ e
  | vmul => exact Candidate.vmul _ _ _ _ _ _ _ _ w _ e
  | vmin => exact Candidate.vmin _ _ _ _ _ _ _ _ w _ e
  | vmax => exact Candidate.vmax _ _ _ _ _ _ _ _ w _ e
  | vand => exact Candidate.vand _ _ _ _ _ _ _ _ w _ e
  | vor => exact Candidate.vor _ _ _ _ _ _ _ _ w _ e
  | vxor => exact Candidate.vxor _ _ _ _ _ _ _ _ w _ e
  | vshl => exact Candidate.vshl _ _ _ _ _ _ _ _ w _ e
  | vshr => exact Candidate.vshr _ _ _ _ _ _ _ _ w _ e
  | vfma => exact Candidate.vfma _ _ _ _ _ _ _ _ w _ e
  | vfms => exact Candidate.vfms _ _ _ _ _ _ _ _ w _ e
  | vabs => exact Candidate.vabs _ _ _ _ _ _ _ w _ e
  | vneg => exact Candidate.vneg _ _ _ _ _ _ _ w _ e
  | vcvt => exact Candidate.vcvt _ _ _ _ _ _ _ _ _ w _ e
  | vmov => exact Candidate.vmov _ _ _ _ _ w _ e
  | vexp2 => exact Candidate.vexp2 _ _ _ _ _ _ _ w _ e
  | vlog2 => exact Candidate.vlog2 _ _ _ _ _ _ _ w _ e
  | vrcp => exact Candidate.vrcp _ _ _ _ _ _ _ w _ e
  | vrsq => exact Candidate.vrsq _ _ _ _ _ _ _ w _ e
  | vtanh => exact Candidate.vtanh _ _ _ _ _ _ _ w _ e
  | vsilu => exact Candidate.vsilu _ _ _ _ _ _ _ w _ e
  | vceq => exact Candidate.vceq _ _ _ _ _ _ w _ e
  | vclt => exact Candidate.vclt _ _ _ _ _ _ w _ e
  | vcle => exact Candidate.vcle _ _ _ _ _ _ w _ e
  | vsel => exact Candidate.vsel _ _ _ _ _ _ _ w _ e
  | vrsum => exact Candidate.vrsum _ _ _ _ _ _ w _ e
  | vrmax => exact Candidate.vrmax _ _ _ _ _ _ w _ e
  | vrmin => exact Candidate.vrmin _ _ _ _ _ _ w _ e
  | vpsum => exact Candidate.vpsum _ _ _ _ _ _ _ w _ e
  | vamx => exact Candidate.vamx _ _ _ _ _ w _ e
  | vfill => exact Candidate.vfill _ _ _ _ _ w _ e
  | vperm => exact Candidate.vperm _ _ _ _ _ _ w _ e
  | zget => exact Candidate.zget _ _ _ w _ e
  | zset => exact Candidate.zset _ _ _ w _ e
  | zclr => exact Candidate.zclr _ _ w _ e
  | mma => exact Candidate.mma _ _ _ _ _ _ _ _ _ w _ e
  | mmak => exact Candidate.mmak _ _ _ _ _ _ _ _ _ _ _ w _ e
  | aclr => exact Candidate.aclr _ _ _ w _ e
  | adrn => exact Candidate.adrn _ _ _ _ _ _ _ _ _ _ _ w _ e
  | atq => exact Candidate.atq _ _ _ _ w _ e
  | ats => exact Candidate.ats _ _ _ _ _ w _ e
  | atf => exact Candidate.atf _ _ _ _ w _ e
  | aadd => exact Candidate.aadd _ _ _ _ w _ e
  | aaddf => exact Candidate.aaddf _ _ _ _ _ w _ e
  | awr => exact Candidate.awr _ _ _ _ w _ e
  | aaddx => exact Candidate.aaddx _ _ _ _ _ w _ e
  | aaddfx => exact Candidate.aaddfx _ _ _ _ _ _ w _ e
  | awrx => exact Candidate.awrx _ _ _ _ _ w _ e
  | setfid => exact Candidate.setfid _ _ w _ e
  | fcrd => exact Candidate.fcrd _ _ _ w _ e
  | fcclr => exact Candidate.fcclr _ _ w _ e
  | rwr => exact Candidate.rwr _ _ _ _ w _ e
  | rrd => exact Candidate.rrd _ _ _ _ w _ e
  | rwrr => exact Candidate.rwrr _ _ _ _ _ _ _ w _ e
  | qpost => exact Candidate.qpost _ _ _ _ _ w _ e
  | carm => exact Candidate.carm _ _ _ w _ e
  | cadd => exact Candidate.cadd _ _ _ w _ e
  | cwait => exact Candidate.cwait _ _ _ _ _ w _ e
  | crd => exact Candidate.crd _ _ _ w _ e
  | qslot => exact Candidate.qslot _ _ _ _ _ w _ e
  | csrr => exact Candidate.csrr _ _ _ w _ e
  | csrw => exact Candidate.csrw _ _ _ w _ e
  | trap => exact Candidate.trap _ _ _ w _ e
  | eret => exact Candidate.eret _ _ w _ e
  | tld => exact Candidate.tld _ _ _ _ w _ e
  | tlk => exact Candidate.tlk _ _ _ w _ e
  | tinv => exact Candidate.tinv _ _ _ _ w _ e
  | pmld => exact Candidate.pmld _ _ _ _ _ w _ e
  | rply => exact Candidate.rply _ _ w _ e
  | ctxs => exact Candidate.ctxs _ _ _ _ _ w _ e
  | ctxl => exact Candidate.ctxl _ _ _ _ w _ e
  | tsr => exact Candidate.tsr _ _ w _ e
  | lnch => exact Candidate.lnch _ _ _ _ _ w _ e
  | idle => exact Candidate.idle _ _ w _ e
  | _ => exact nomatch e

/-! ### Decoding (R46, R47) -/

/-- The words of a well-formed instruction decode to it, whatever stands behind them. -/
theorem decodeWords_words {i : Instr} (w : i.wf = true) {r : Raw} (e : i.toRaw = some r) {w1 w2 : BitVec 32}
    (h1 : r.h.form ≠ .w32 → w1 = r.word1) (h2 : r.h.form = .w96 → w2 = r.lit) :
    decodeWords r.word0 w1 w2 = .ok i := by
  obtain ⟨hfits, permits, nf, hmaj, hperm, hf⟩ := toRaw_placed w e
  obtain ⟨hform, _, _, hm, _, _, _, hff⟩ := word0_fields r
  have hne : r.word0 ≠ 0 := by
    intro h0
    rw [h0] at hm
    rw [← hm] at hmaj
    exact nomatch hmaj
  have henc : encode i = [r.word0, w1, w2].take r.h.form.words := by
    simp only [encode, e, Raw.words]
    cases hx : r.h.form <;> simp_all [Form.words]
  unfold decodeWords
  rw [if_neg hne, hform, form_ofCode, hm, hmaj]
  have hp : permits { sw := false, gap := 0, form := r.h.form, wq := none, pq := none } = true := hperm
  simp only [hp, ofWords_words hfits h1 h2, Bool.not_true, Bool.false_eq_true, if_false, Nat.not_le.mpr hf,
    candidate_toRaw w e, henc, w, and_self, if_true]

/-- A word's bytes read back as the word (R5). -/
theorem leWord_wordBytes (v : BitVec 32) (rest : List Byte) : leWord (wordBytes v ++ rest) = v := by
  show v.extractLsb' 24 8 ++ v.extractLsb' 16 8 ++ v.extractLsb' 8 8 ++ v.setWidth 8 = v
  apply BitVec.eq_of_getLsbD_eq
  intro j hj
  simp only [BitVec.getLsbD_append, BitVec.getLsbD_extractLsb', BitVec.getLsbD_setWidth]
  grind

theorem drop_wordBytes (v : BitVec 32) (rest : List Byte) : (wordBytes v ++ rest).drop 4 = rest := rfl

/-- Settles O55: the words give the fields back, and the fields the instruction. -/
theorem decodeEncode : Obligations.DecodeEncode := by
  intro i rest w hsome
  obtain ⟨r, e⟩ := Option.isSome_iff_exists.mp hsome
  have hb : encodeBytes i = r.words.flatMap wordBytes := by simp [encodeBytes, encode, e]
  have h4 (v : BitVec 32) (l : List Byte) : (wordBytes v ++ l).drop 8 = l.drop 4 := rfl
  unfold decodeBytes
  rw [hb]
  cases hform : r.h.form <;>
    simp only [Raw.words, hform, List.flatMap_cons, List.flatMap_nil, List.append_assoc, List.append_nil,
      leWord_wordBytes, drop_wordBytes, h4]
  case w32 => exact decodeWords_words w e (absurd hform) (by simp [hform])
  case w64 => exact decodeWords_words w e (fun _ => rfl) (by simp [hform])
  case w96 => exact decodeWords_words w e (fun _ => rfl) (fun _ => rfl)

end Sys2Proof.Laws
end

section
/-! PROOFS. Wheels that a step loads (O60; R173, R346).  `step` executes whatever event stands on the agenda, for the agent
that `cur` names: with CTXL there and a hub as the agent, a step that is no hub's turn loads an image's wheel words as they
stand. -/

namespace Sys2Proof.Machine

/-- The bytes at address 0 of an image of a team with no strand, 328 bytes long: the magic number, version 1, its size, and the
word of its one wheel, in which NFILL is 2 and every other field is 0, so that there is one buffer. -/
def overfullImage : List Host.Cell :=
  [(0, 0x5A), (1, 0x43), (2, 0x54), (3, 0x58), (4, 1), (224, 0x48), (225, 1), (326, 4)]

/-- The image's launch: no strand, wheel 0 alone. -/
def oneWheelLaunch : Launch := { ctx := 0, queue := 0, hdr := zeros 14 ++ [1, 0] }

/-- A package whose agenda holds an event turn of CTXL, of the image at 0 to cluster 0 of die 0, with hub 0 as the agent. -/
def loadsAsEvent : State :=
  { cur := .hub 0, agenda := [.event (.ctxl ⟨false, 0, .w64, none, none⟩ 0 0 0)], mem := overfullImage
    mailbox := { boot := .running }, ctxs := [(0, { live := true })], sched := { launches := [(0, oneWheelLaunch)] } }

/-- The loaded wheel has two buffers filled of one. -/
theorem step_loadsAsEvent : ∃ t, step loadsAsEvent = .next t ∧
    Wheel.ofWord (Tbl.get 0 (Tbl.get {} t.clusters 0 : Cluster).wheels 0) = ⟨2, 0, 0, 0, 1, false, 0, 0⟩ :=
  ⟨_, rfl, by decide⟩

/-- Nothing has touched a cluster before the step. -/
theorem loadsAsEvent_wheelsHold : loadsAsEvent.WheelsHold := fun _ _ => Wheel.ofWord_zero_sound

/-- Refutes O60: the statement leaves out the turns of hubs alone, and CTXL on the agenda as an event, which the model itself
never puts there, loads a wheel with NFILL above the number of its buffers. -/
theorem not_stepKeepsCounts : ¬ Obligations.StepKeepsCounts := by
  intro h
  obtain ⟨t, ht, hw⟩ := step_loadsAsEvent
  have hsound := (h _ t ht).2 (fun _ _ _ => nofun) loadsAsEvent_wheelsHold 0 0
  rw [hw] at hsound
  exact absurd hsound.1 (by decide)

end Sys2Proof.Machine
end

section
/-! PROOFS. What comes before an instruction's own checks (O36; R47, R50, R51, R57 to R59, R64): `precheck` names a cause, and
then the token of WQ and the permit are waited for. -/

namespace Sys2Proof.Machine

section order
variable {s : State} {r : SeqRef} {i : Instr} {h : Hdr} {p : Plan} {act : State → Res} {c : Cause}

/-! ### Which cause `precheck` names (R47 checks 8 to 10, R58) -/

theorem precheck_of_wrong (hc : s.cur = .seq r) (hm : mayExecute (majOf i) (minOf i) (immOf i) r.cls = .wrong) :
    s.precheck i h = some .wrongSequencer := by
  simp [State.precheck, hc, hm]

theorem precheck_of_priv (hc : s.cur = .seq r) (hm : mayExecute (majOf i) (minOf i) (immOf i) r.cls = .priv) :
    s.precheck i h = some .privileged := by
  simp [State.precheck, hc, hm]

/-- An ill-formed instruction, and one with a queue that its launch does not bind to its class. -/
theorem precheck_of_reserved (hc : s.cur = .seq r) (hm : mayExecute (majOf i) (minOf i) (immOf i) r.cls = .yes)
    (hbad : i.wf = false ∨ (∃ q, h.wq = some q ∧ s.isConsumer r q = false) ∨
      ∃ q, h.pq = some q ∧ s.isProducer r q = false) : s.precheck i h = some .operandReserved := by
  have hq : i.wf = true → ((h.wq.any fun q => !s.isConsumer r q) || (h.pq.any fun q => !s.isProducer r q)) = true := by
    intro hw
    rcases hbad with hf | ⟨q, e, hn⟩ | ⟨q, e, hn⟩
    · exact absurd hw (by simp [hf])
    · simp [e, hn]
    · simp [e, hn]
  cases hw : i.wf with
  | false => simp [State.precheck, hc, hm, hw]
  | true => simp [State.precheck, hc, hm, hw, hq hw]

/-! ### What `issue` then does -/

/-- A cause that `precheck` names is raised at the instruction, and nothing else changes. -/
theorem issue_trap_precheck (hc : s.cur = .seq r) (ha : s.acts (strandOf r) = true)
    (hf : (p.fixed && decide (8 ≤ (s.seq r).flights.length)) = false) (hp : s.precheck i h = some c) :
    s.issue i h p act = .next (s.raise r c .i (s.seq r).pc 0 0) := by
  simp only [State.issue, hc, State.issueSeq, ha, hf, hp, State.trapHere, Bool.not_true, Bool.false_eq_true, if_false]

/-- The token of WQ is waited for behind the checks of words and registers. -/
theorem issue_wait_token (hc : s.cur = .seq r) (ha : s.acts (strandOf r) = true)
    (hf : (p.fixed && decide (8 ≤ (s.seq r).flights.length)) = false) (hp : s.precheck i h = none)
    (he : p.early s = none) (hw : s.wqReady r h = false) : s.issue i h p act = .next (s.waits r i .queue) := by
  simp only [State.issue, hc, State.issueSeq, ha, hf, hp, he, hw, Bool.not_true, Bool.not_false, Bool.false_eq_true,
    if_false, if_true]

/-- The permit is waited for behind the tokens. -/
theorem issue_wait_permit (hc : s.cur = .seq r) (ha : s.acts (strandOf r) = true)
    (hf : (p.fixed && decide (8 ≤ (s.seq r).flights.length)) = false) (hp : s.precheck i h = none)
    (he : p.early s = none) (hw : s.wqReady r h = true) (ht : p.tokens = none)
    (hk : s.permitOk r p.permit = false) : s.issue i h p act = .next (s.waits r i .permit) := by
  simp only [State.issue, hc, State.issueSeq, ha, hf, hp, he, hw, ht, hk, Bool.not_true, Bool.not_false,
    Option.isSome_none, Bool.false_and, Bool.false_eq_true, if_false, if_true]

end order

/-- Settles O36: `precheck` stands before everything else of an instruction, the token of WQ before the permit. -/
theorem issueOrder : Obligations.IssueOrder := by
  constructor
  · intro s r h i p act hc ha hf
    exact ⟨fun hm => issue_trap_precheck hc ha hf (precheck_of_wrong hc hm),
      fun hm => issue_trap_precheck hc ha hf (precheck_of_priv hc hm),
      fun hm hbad => issue_trap_precheck hc ha hf (precheck_of_reserved hc hm hbad)⟩
  · intro s r h i p act hc ha hf hp he hpop
    constructor
    · intro q hq h0
      exact issue_wait_token hc ha hf hp he (by simp [State.wqReady, hpop, hq, h0])
    · intro k hq ht hk h0
      have hw : s.wqReady r h = true := by
        cases hx : h.wq with
        | none => simp [State.wqReady, hx]
        | some q => simp [State.wqReady, hx, hq q hx]
      exact issue_wait_permit hc ha hf hp he hw ht (by simp [State.permitOk, hk, h0])

end Sys2Proof.Machine
end

section
/-! PROOFS. Landings (O51; R53, R61, R63): one rule for each kind of destination, and the registers that no write changes. -/

namespace Sys2Proof.Machine

/-! ### Registers (R53, R63) -/

section registers
variable (q : Seq)

theorem getX_zero : q.getX 0 = 0 := rfl

theorem getP_zero : q.getP 0 = true := rfl

theorem setX_zero (v : Word) : q.setX 0 v = q := rfl

/-- What an x register reads after a result has come to one of them. -/
theorem getX_putX (d j : Reg) (v : Word) (no now : Nat) :
    (q.putX d v no now).getX j =
      if j = d ∧ d ≠ 0 ∧ ¬ ((Tbl.get (0, 0) q.wrote d.toNat).1 = now ∧ no < (Tbl.get (0, 0) q.wrote d.toNat).2) then v
      else q.getX j := by
  unfold Seq.putX
  extract_lets w
  by_cases hw : w.1 = now ∧ no < w.2
  · rw [if_pos hw, if_neg fun h => h.2.2 hw]
  · rw [if_neg hw]
    show (q.setX d v).getX j = _
    rw [getX_setX]
    by_cases hj : j = 0
    · subst hj
      rw [if_pos rfl, if_neg fun h => h.2.1 h.1.symm]
      rfl
    · rw [if_neg hj]
      by_cases hd : d = j
      · subst hd
        rw [if_pos rfl, if_pos ⟨rfl, hj, hw⟩]
      · rw [if_neg hd, if_neg fun h => hd h.1.symm]

theorem putX_p (d : Reg) (v : Word) (no now : Nat) : (q.putX d v no now).p = q.p := by
  unfold Seq.putX
  extract_lets
  split
  · rfl
  · exact setX_p q d v

theorem putX_b (d : Reg) (v : Word) (no now : Nat) : (q.putX d v no now).b = q.b := by
  unfold Seq.putX
  extract_lets
  split
  · rfl
  · exact setX_b q d v

/-- A result for x0 is discarded. -/
theorem getX_putX_zero (v : Word) (no now : Nat) (j : Reg) : (q.putX 0 v no now).getX j = q.getX j := by
  rw [getX_putX, if_neg fun h => h.2.1 rfl]

/-- Bit `j` of the mask of predicate `d`. -/
theorem predMask_bit (d j : BitVec 3) : (1#8 <<< d.toNat).getLsbD j.toNat = decide (j = d) := by
  revert d j
  decide

/-- A write of a predicate changes its bit alone. -/
theorem predWrite_bit (p : BitVec 8) (d j : BitVec 3) (v : Bool) :
    (if v then p ||| (1#8 <<< d.toNat) else p &&& ~~~(1#8 <<< d.toNat)).getLsbD j.toNat
      = if j = d then v else p.getLsbD j.toNat := by
  have hj : j.toNat < 8 := j.isLt
  have hb := predMask_bit d j
  generalize 1#8 <<< d.toNat = m at hb
  cases v with
  | false =>
    rw [if_neg nofun, BitVec.getLsbD_and, BitVec.getLsbD_not, hb]
    by_cases h : j = d <;> simp [h, hj]
  | true =>
    rw [if_pos rfl, BitVec.getLsbD_or, hb]
    by_cases h : j = d <;> simp [h]

/-- What a predicate reads after a write of one of them. -/
theorem getP_setP (d j : BitVec 3) (v : Bool) : (q.setP d v).getP j = if j = d ∧ d ≠ 0 then v else q.getP j := by
  unfold Seq.setP
  by_cases h0 : d = 0
  · rw [if_pos h0, if_neg fun h => h.2 h0]
  · rw [if_neg h0]
    simp only [Seq.getP, predWrite_bit]
    have h0' : ¬ d = 0#3 := h0
    by_cases hjd : j = d
    · simp [hjd, h0']
    · simp [hjd]

end registers

/-! ### Each destination (R61) -/

section land
variable {s : State} {r : SeqRef} {f : Flight}

theorem landCsr_seqs (n : BitVec 12) (v : Word) : (s.landCsr r n v).seqs = s.seqs := by
  unfold State.landCsr
  split <;> rfl

/-- R324: the bits of CMASK that a strand may mask. -/
theorem landCsr_cmask {n : BitVec 12} (v : Word) (e : n.toNat = 0x008) :
    s.landCsr r n v = s.modStrand (strandOf r) fun t => { t with cmask := v &&& 0x000C80C350800000 } := by
  simp only [State.landCsr, e, maskable]
  rfl

theorem landCsr_finj {n : BitVec 12} (v : Word) (e : n.toNat = 0x025) :
    s.landCsr r n v = s.modCluster r.die r.cl fun c =>
      { c with finj := v.setWidth 32 &&& 0x80FFFFFF, finjLeft := v.toNat % 2 ^ 24 } := by
  simp only [State.landCsr, e, BitVec.toNat_setWidth]
  rfl

theorem landCsr_lfsr {n : BitVec 12} (v : Word) (e : n.toNat = 0x038) :
    s.landCsr r n v = s.modCluster r.die r.cl fun c => { c with lfsr := if low32 v = 0 then 1 else low32 v } := by
  simp only [State.landCsr, e]

/-- R339: a sequencer writes no other control register. -/
theorem landCsr_other {n : BitVec 12} (v : Word) (h1 : n.toNat ≠ 0x008) (h2 : n.toNat ≠ 0x025) (h3 : n.toNat ≠ 0x038) :
    s.landCsr r n v = s := by
  unfold State.landCsr
  split
  case h_1 e => exact absurd e h1
  case h_2 e => exact absurd e h2
  case h_3 e => exact absurd e h3
  case h_4 => rfl

theorem land_x {d : Reg} (e : f.dest = .x d) :
    s.land r f = s.modSeq r fun q => q.putX d f.val f.no s.cycles := by simp only [State.land, e]

theorem land_p {d : BitVec 3} (e : f.dest = .p d) :
    s.land r f = s.modSeq r fun q => q.setP d (f.val != 0) := by simp only [State.land, e]

theorem land_b {d : BitVec 2} (e : f.dest = .b d) :
    s.land r f = s.modSeq r fun q => q.setB d ⟨f.val.setWidth 48, true⟩ := by simp only [State.land, e]

theorem land_fid (e : f.dest = .fid) :
    s.land r f = s.modStrand (strandOf r) fun t => { t with fid := f.val.setWidth 2 } := by simp only [State.land, e]

theorem land_z {d : BitVec 2} (e : f.dest = .z d) (ho : f.op = .set) :
    s.land r f = s.modCluster r.die r.cl fun c => { c with z := Tbl.set 0 c.z d.toNat (low32 f.val) } := by
  simp only [State.land, e, ho, combineZ]

theorem land_tag {n : BitVec 2} {on : Bool} (e : f.dest = .tag n on) :
    s.land r f = s.modStrand (strandOf r) fun t => { t with
      tagged := true
      binds := Tbl.set {} t.binds n.toNat
        (if on then ⟨low32 f.val, f.val.extractLsb' 32 32, true⟩
         else { Tbl.get {} t.binds n.toNat with active := false }) } := by
  simp only [State.land, e]

theorem land_csr {n : BitVec 12} (e : f.dest = .csr n) : s.land r f = s.landCsr r n f.val := by
  simp only [State.land, e]

/-- No landing changes a sequencer but its own. -/
theorem land_seqAt {k : Nat} (hk : k ≠ seqKey r) : (s.land r f).seqAt k = s.seqAt k := by
  have hs (g : Seq → Seq) : (s.modSeq r g).seqAt k = s.seqAt k := by rw [seqAt_modSeq, if_neg fun h => hk h.symm]
  unfold State.land
  split
  case h_2 => exact hs _
  case h_3 => exact hs _
  case h_4 => exact hs _
  case h_8 => exact congrArg (Tbl.get {} · k) (landCsr_seqs ..)
  all_goals rfl

end land

/-! ### Tokens of landings (R57) -/

/-- Whether a token is pushed does not depend on where the result goes. -/
theorem pushLanded_dest (s : State) (st : StrandRef) (f : Flight) (fs : List Flight) (d : Dest) :
    (s.pushLanded st (f :: fs)).1 = (s.pushLanded st ({ f with dest := d } :: fs)).1 := by
  simp only [State.pushLanded]
  cases s.pushTok st f.post <;> rfl

/-- A push counts the token in its queue. -/
theorem count_push (t : Strand) (q j : BitVec 3) (n : Nat) :
    (t.push q n).count j = if j = q then t.count q + n else t.count j := by
  by_cases h : j = q
  · simp [Strand.push, Strand.count, h]
  · have hn : ¬ q.toNat = j.toNat := fun e => h (BitVec.eq_of_toNat_eq e.symm)
    simp [Strand.push, Strand.count, h, hn]

/-- The token of one landing, where its queue has room. -/
theorem pushLanded_one {s : State} {st : StrandRef} {f : Flight} {q : BitVec 3} (e : f.post = some q)
    (h : (s.strand st).count q < 255) : s.pushLanded st [f] = (s.modStrand st fun t => t.push q 1, []) := by
  have hn : ¬ (s.strand st).count q ≥ 255 := by omega
  simp [State.pushLanded, State.pushTok, e, hn]

/-- Settles O51: each kind of destination has its rule. -/
theorem landResults : Obligations.LandResults := by
  refine ⟨?_, fun q v w => ⟨getX_zero q, getP_zero q, setX_zero q v, getX_putX_zero q v, fun j => ?_⟩, pushLanded_dest, ?_⟩
  · rintro s t r f rfl
    refine ⟨fun a => congrArg (Tbl.get memDefault · a) (State.land_mem r f), fun k hk => land_seqAt hk, fun d e => ?_,
      fun d e => ?_, fun d e => ?_, fun e => ?_, fun d e ho => ?_, fun n on e => ?_, fun n e => ?_⟩
    · rw [land_x e, seq_modSeq_self]
      exact ⟨fun j => getX_putX _ d j _ _ _, putX_p .., putX_b ..⟩
    · rw [land_p e, seq_modSeq_self]
      exact ⟨fun j => getP_setP _ d j _, setP_x .., setP_b ..⟩
    · rw [land_b e, seq_modSeq_self]
      refine ⟨fun j => ?_, rfl, rfl⟩
      simp only [getB_setB, eq_comm]
    · rw [land_fid e]
      exact ⟨rfl, by simp⟩
    · rw [land_z e ho]
      refine ⟨rfl, fun j => ?_⟩
      simp only [cluster_modCluster, Tbl.get_set, if_true, BitVec.toNat_inj, eq_comm]
    · rw [land_tag e]
      refine ⟨rfl, rfl, fun j => ?_⟩
      simp only [strand_modStrand, if_true, Tbl.get_set, BitVec.toNat_inj]
      by_cases h : j = n
      · subst h
        simp only [if_true]
      · rw [if_neg h, if_neg fun e => h e.symm]
    · rw [land_csr e]
      refine ⟨landCsr_seqs _ _, fun h => ?_, fun h => ?_, fun h => ?_, landCsr_other _⟩
      · rw [landCsr_cmask _ h]
        exact ⟨by simp, rfl⟩
      · rw [landCsr_finj _ h]
        exact ⟨by simp, by simp, rfl⟩
      · rw [landCsr_lfsr _ h]
        exact ⟨by simp, rfl⟩
  · rw [getP_setP, if_neg fun h => h.2 rfl]
  · intro s st f q e h
    rw [pushLanded_one e h]
    refine ⟨rfl, fun j => ?_⟩
    simp only [strand_modStrand, if_true, count_push]

end Sys2Proof.Machine
end

section
/-! PROOFS. Words of the spec (O54; R43 to R49): the decoder runs on each of them. -/

namespace Sys2Proof.Machine

/-- Settles O54: each word is decoded. -/
theorem decodeWordsOfSpec : Obligations.DecodeWords := by
  refine ⟨rfl, rfl, rfl, rfl, rfl, rfl, rfl, rfl, rfl, rfl, rfl, rfl, rfl, rfl, rfl, rfl, rfl⟩

end Sys2Proof.Machine
end

section
/-! PROOFS. Control registers (O34; R54, R250, R337, R339, R341). -/

namespace Sys2Proof.Machine

section csr
variable {h : Hdr} {d : Reg}

/-- CSRR of a sequencer lands what the register of its cluster, or else of its strand, reads. -/
theorem csrr_landsOnSeq {csr : BitVec 12} {v : State → SeqRef → Word}
    (hv : ∀ s r, ((s.clusterCsr r.die r.cl csr.toNat).orElse fun _ => s.strandCsr r csr.toNat).getD 0 = v s r) :
    LandsOnSeq (.csrr h d csr) h none (.x d) 1 (fun _ _ => true) v := by
  intro s r m hr _
  refine ⟨v s r, 0, 0, ?_⟩
  show execCsrr h d csr s = _
  simp only [execCsrr, cur_of_mayIssue m, hv]
  rw [issue_eq (p := { fixed := true }) m (fun _ => hr) rfl rfl rfl rfl rfl]
  exact launchOp_seq (cur_of_mayIssue m) ..

/-- CSRR of a hub reads the register of its die. -/
theorem csrr_landsOnHub {csr : BitVec 12} {v : State → Word}
    (hv : ∀ s, s.hubRead (agentDie s.cur) csr.toNat = v s) :
    LandsOnHub (.csrr h d csr) h (.x d) (fun _ => true) v := by
  intro s dd m _
  have hread : s.hubRead dd csr.toNat = v s := by rw [← hv s, cur_of_hubMay m]; rfl
  show execCsrr h d csr s = _
  simp only [execCsrr, cur_of_hubMay m, hread]
  rw [issue_hub_eq m rfl]
  exact launchOp_hub (cur_of_hubMay m) ..

theorem csrw_landsOnSeq (csr : BitVec 12) (a : Reg) :
    LandsOnSeq (.csrw h csr a) h none (.csr csr) 1 (fun _ _ => true) (fun s _ => s.X a) := by
  intro s r m hr _
  refine ⟨s.X a, csr.setWidth 64, 0, ?_⟩
  show execCsrw h csr a s = _
  unfold execCsrw
  rw [issue_eq (p := { fixed := true }) m (fun _ => hr) rfl rfl rfl rfl rfl]
  simp only [cur_of_mayIssue m]
  exact launchOp_seq (cur_of_mayIssue m) ..

/-- CSRW of a hub writes at once. -/
theorem csrw_hub {s : State} {die : Nat} {csr : BitVec 12} {a : Reg} (m : s.hubMay die (.csrw h csr a) h = true) :
    exec (.csrw h csr a) s = .next ((s.advance h).hubWrite die csr.toNat (s.X a)) := by
  show execCsrw h csr a s = _
  unfold execCsrw
  rw [issue_hub_eq m rfl]
  simp only [cur_of_hubMay m]

@[simp] theorem die_advance (s : State) (h : Hdr) (e : Nat) : (s.advance h).die e = s.die e := by
  unfold State.advance
  cases s.cur <;> rfl

/-- The cluster that CSEL selects (R352). -/
theorem hubCluster_csel {s : State} {die : Nat} (hv : (s.die die).hub.regs.csel.getLsbD 7 = true)
    (hc : ((s.die die).hub.regs.csel.setWidth 6 : BitVec 6).toNat ≤ 53) :
    s.hubCluster die = some (die, ((s.die die).hub.regs.csel.setWidth 6 : BitVec 6).toNat) := by
  unfold State.hubCluster
  extract_lets hub sel
  rw [if_pos hv]
  exact if_pos hc

end csr

/-- Settles O34: each register that CSRR names is read, and each that CSRW names is written. -/
theorem csrResults : Obligations.CsrResults := by
  intro h d a
  refine ⟨?_, ?_, fun csr => csrw_landsOnSeq csr a, fun s die m _ => csrw_hub m, fun s die m hok => ?_,
    lands_of (fun s => BitVec.ofNat 64 (s.tsc (agentDie s.cur))) (fun _ => 0) (fun _ => 0) fun s => rfl⟩
  · simp only [List.forall_mem_cons]
    exact ⟨csrr_landsOnSeq fun s r => rfl, csrr_landsOnSeq fun s r => rfl, csrr_landsOnSeq fun s r => rfl,
      csrr_landsOnSeq fun s r => rfl, csrr_landsOnSeq fun s r => rfl, csrr_landsOnSeq fun s r => rfl,
      csrr_landsOnSeq fun s r => rfl, csrr_landsOnSeq fun s r => rfl, csrr_landsOnSeq fun s r => rfl,
      csrr_landsOnSeq fun s r => rfl, csrr_landsOnSeq fun s r => rfl, csrr_landsOnSeq fun s r => rfl,
      csrr_landsOnSeq fun s r => rfl, csrr_landsOnSeq fun s r => rfl, nofun⟩
  · simp only [List.forall_mem_cons]
    exact ⟨csrr_landsOnHub fun s => rfl, csrr_landsOnHub fun s => rfl, csrr_landsOnHub fun s => rfl,
      csrr_landsOnHub fun s => rfl, nofun⟩
  · obtain ⟨hv, hc⟩ := hok
    have hsel : (s.advance h).hubCluster die = some (die, ((s.die die).hub.regs.csel.setWidth 6 : BitVec 6).toNat) := by
      rw [← die_advance s h die] at hv hc ⊢
      exact hubCluster_csel hv hc
    rw [csrw_hub m]
    show Host.Outcome.next (match (s.advance h).hubCluster die with
      | some p => (s.advance h).writeClusterCsr p.1 p.2 0x024 (s.X a)
      | none => s.advance h) = _
    rw [hsel]
    rfl

end Sys2Proof.Machine
end

section
/-! PROOFS. What a step runs (O56; R59, R317, R330): one rule for each kind of turn. -/

namespace Sys2Proof.Machine

section turns
variable {s : State}

theorem step_cold (h : s.mailbox.boot = .cold) : step s = .next s.boot := if_pos h

/-- A running package takes what comes from outside first. -/
theorem step_input {i : Instr} {rest : List Instr} (hb : s.mailbox.boot ≠ .cold) (hi : s.inputs = i :: rest)
    (he : external i = true) : step s = exec i { s with inputs := rest } := by
  simp only [step, State.advanceOne, if_neg hb, hi, he, if_true]

/-- It takes the next turn of its cycle. -/
theorem step_turn {t : Turn} {rest : List Turn} (hb : s.mailbox.boot ≠ .cold) (hi : s.inputs = [])
    (ha : s.agenda = t :: rest) : step s = { s with agenda := rest }.turn t := by
  simp only [step, State.advanceOne, if_neg hb, hi, ha]

/-- With no turn left the next cycle begins. -/
theorem step_tick (hb : s.mailbox.boot ≠ .cold) (hi : s.inputs = []) (ha : s.agenda = []) : step s = .next s.tick := by
  simp only [step, State.advanceOne, if_neg hb, hi, ha]

/-- A hub that neither waits nor is held executes the instruction at its program counter. -/
theorem hubTurn_executes {d : Nat} {i : Instr} (hl : (s.seqAt (hubKey d)).live = true)
    (hw : (s.seqAt (hubKey d)).wait.any Wait.holds = false) (he : (s.seqAt (hubKey d)).ended = false)
    (hg : (s.seqAt (hubKey d)).gap = 0) (h4 : (s.seqAt (hubKey d)).pc.toNat + 4 ≤ slabSize)
    (hz : (s.seqAt (hubKey d)).pc.toNat + s.hubSize d ≤ slabSize)
    (hbad : s.badAt (s.seqAt (hubKey d)).pc.toNat (s.hubSize d) = none)
    (hi : decodeBytes (s.readMem (s.seqAt (hubKey d)).pc.toNat 12) = .ok i) :
    s.hubTurn d = exec i { (s.corrected (s.seqAt (hubKey d)).pc.toNat (s.hubSize d)).modSeqAt (hubKey d)
      (fun q => { q with wait := none }) with cur := .hub d } := by
  have hin : ¬ (slabSize < (s.seqAt (hubKey d)).pc.toNat + 4 ∨
      slabSize < (s.seqAt (hubKey d)).pc.toNat + s.hubSize d) := by omega
  simp only [State.hubTurn, hl, hw, he, hg, Bool.not_true, Bool.false_eq_true, if_false, ne_eq, not_true_eq_false,
    State.hubRun, hin, hbad, State.hubFetch, hi, State.perform]

/-! ### The issue turn of a sequencer -/

section issue
variable {a u : State} {r : SeqRef} {run : Nat} {i : Instr}

/-- A sequencer that issues executes the instruction that it fetches. -/
theorem runOne_fetched (hf : s.fetch r = .got (.ok i)) : s.runOne r = exec i { s.fetchReads r with cur := .seq r } := by
  simp only [State.runOne, hf, State.perform]

/-- Not under STEP, nothing follows an instruction that has issued. -/
theorem afterIssue_of_not_step (h : (u.seq r).step = false) : u.afterIssue r = u := by
  simp only [State.afterIssue, h, Bool.not_false, if_true]

section tries
variable (he : s.eligible r = true) (hs : (s.seq r).stepDone = false) (hl : s.stepFlights r = (a, true))
  (hu : a.runOne r = .next u)
include he hs hl hu

/-- An eligible sequencer, whose landings leave `a` and whose instruction, executed there, leaves `u`, issues. -/
theorem tryPick_issues (hstop : s.stoppedAt u r = none)
    (hno : (u.seq r).no ≠ (s.seq r).no ∨ (u.seq r).wait = some .held) :
    s.tryPick r = .issued (.next (u.afterIssue r)) := by
  simp only [State.tryPick, State.tryIssue, he, hs, hl, hu, hstop, Bool.not_true, Bool.false_and, Bool.false_eq_true,
    if_false, if_true]
  by_cases hn : (u.seq r).no ≠ (s.seq r).no
  · rw [if_pos hn]
  · rw [if_neg hn, hno.resolve_left hn]

/-- R59: what waits leaves nothing but its wait. -/
theorem tryPick_waits (hstop : s.stoppedAt u r = none) (hno : (u.seq r).no = (s.seq r).no) {w : Wait}
    (hw : (u.seq r).wait = some w) (hne : w ≠ .held) : s.tryPick r = .waits (s.beginWait u r) := by
  simp only [State.tryPick, State.tryIssue, he, hs, hl, hu, hstop, hno, hw, Bool.not_true, Bool.false_and,
    Bool.false_eq_true, if_false, if_true, ne_eq, not_true_eq_false]

/-- R330: what traps before it issues leaves its step untaken. -/
theorem tryPick_traps {j : StopInfo} (hstop : s.stoppedAt u r = some j) :
    s.tryPick r = .issued (.next ((s.fetchReads r).raise r j.cause j.point j.tepc 0 j.detail)) := by
  simp only [State.tryPick, State.tryIssue, he, hs, hl, hu, hstop, Bool.not_true, Bool.false_and, Bool.false_eq_true,
    if_false, if_true]

end tries

/-- R317: a sequencer that issues is the last of its class; the tokens that it has not popped go back. -/
theorem issueTurn_of_issued (h : s.tryPick r = .issued (.next u)) :
    s.issueTurn r run = .next ((u.giveBack r).choose1 r run) := by
  simp only [State.issueTurn, h]

theorem issueTurn_of_waits (h : s.tryPick r = .waits u) : s.issueTurn r run = .next (u.giveBack r) := by
  simp only [State.issueTurn, h]

end issue

end turns

/-- Settles O56: each kind of turn has its rule. -/
theorem stepRuns : Obligations.StepRuns := by
  intro s
  refine ⟨step_cold, fun hb => ⟨?hub, ?issue, fun i rest hi ha => step_turn hb hi ha,
    fun i rest hi he => step_input hb hi he, fun d c rest hi ha => step_turn hb hi ha, step_tick hb⟩⟩
  case hub =>
    rintro d rest i b hi ha rfl hl hw he hg h4 hz hbad hdec
    exact (step_turn hb hi ha).trans (hubTurn_executes hl hw he hg h4 hz hbad hdec)
  case issue =>
    rintro r run rest i b a u hi ha rfl he hs hl hf hu
    have hstep := step_turn hb hi ha
    have hrun := (runOne_fetched hf).trans hu
    refine ⟨fun hstop hno hst => ?_, fun w hstop hno hw hne => ?_, fun j hstop => ?_⟩
    · rw [hstep, ← afterIssue_of_not_step hst]
      exact issueTurn_of_issued (tryPick_issues he hs hl hrun hstop hno)
    · exact hstep.trans (issueTurn_of_waits (tryPick_waits he hs hl hrun hstop hno hw hne))
    · exact hstep.trans (issueTurn_of_issued (tryPick_traps he hs hl hrun hstop))

end Sys2Proof.Machine
end

section
/-! PROOFS. Events of a strand (O40; R59 to R63, R88, R197, R259, R291, R325, R333): landings of an idle step, results of one
cycle, ends of waits and holds, WATCHDOG, pre-emption. -/

namespace Sys2Proof.Machine

/-! ### Landings of an idle step (R59 to R61) -/

section idle
variable {s : State} {r : SeqRef}

theorem pushLanded_without_tokens (st : StrandRef) {fs : List Flight} (h : ∀ f ∈ fs, f.post = none) :
    s.pushLanded st fs = (s, []) := by
  induction fs with
  | nil => rfl
  | cons f fs ih =>
    have hf : s.pushTok st f.post = some s := by rw [h f (List.mem_cons_self ..)]; rfl
    rw [State.pushLanded, hf]
    exact ih fun g hg => h g (List.mem_cons_of_mem _ hg)

/-- Where the operations that are due have no token, a step lands them and brings the others nearer. -/
theorem stepFlights_without_tokens (h : ∀ f ∈ (s.seq r).flights, f.rem ≤ 1 → f.post = none) :
    s.stepFlights r =
      (((((s.seq r).flights.filter fun f => f.rem ≤ 1).foldl (fun a f => a.land r f)
          (s.modSeq r fun q => { q with flights := q.flights.filter fun f => !decide (f.rem ≤ 1) })).modStrand (strandOf r)
        fun t => { t with lastStep := s.tsc r.die }).modSeq r fun q =>
          { q with flights := q.flights.map fun f => { f with rem := f.rem - 1 } }, true) := by
  have hp : ∀ f ∈ (s.seq r).flights.filter fun f => decide (f.rem ≤ 1), f.post = none := by
    intro f hf
    obtain ⟨hm, hr⟩ := List.mem_filter.mp hf
    exact h f hm (of_decide_eq_true hr)
  simp only [State.stepFlights, pushLanded_without_tokens _ hp, List.isEmpty_nil, if_true]

theorem acts_of_running (h : (s.strand (strandOf r)).stop = .running) : s.acts (strandOf r) = true := by
  simp [State.acts, h]

/-- R59: an idle step spends a step of GAP. -/
theorem exec_fixedLatencyLanding (hr : (s.strand (strandOf r)).stop = .running) (hl : (s.seq r).live = true)
    (hs : (s.seq r).stepReady (s.tsc r.die) = true) {u : State} (hu : s.stepFlights r = (u, true)) :
    exec (.fixedLatencyLanding (.seq r)) s = .next (u.modSeq r fun q => { q with gap := q.gap - 1 }) := by
  show execFixedLatencyLanding (.seq r) s = _
  simp only [execFixedLatencyLanding, acts_of_running hr, hl, hs, hu, Bool.not_true, Bool.or_self, Bool.false_eq_true,
    if_false, if_true]

end idle

/-! ### Two results of one cycle (R63) -/

/-- The place in program order of the last result that a register has taken in a cycle. -/
theorem wrote_putX (q : Seq) (d : Reg) (v : Word) (no now : Nat)
    (h : ¬ ((Tbl.get (0, 0) q.wrote d.toNat).1 = now ∧ no < (Tbl.get (0, 0) q.wrote d.toNat).2)) :
    Tbl.get (0, 0) (q.putX d v no now).wrote d.toNat = (now, no) := by
  unfold Seq.putX
  extract_lets w
  rw [if_neg h]
  simp

theorem putX_of_later {q : Seq} {d : Reg} {v : Word} {no now : Nat}
    (h : (Tbl.get (0, 0) q.wrote d.toNat).1 = now ∧ no < (Tbl.get (0, 0) q.wrote d.toNat).2) : q.putX d v no now = q :=
  if_pos h

/-- The result of an earlier instruction does not take the place of that of a later one. -/
theorem putX_putX_earlier {q : Seq} {d : Reg} {v w : Word} {m n now : Nat} (h : n < m) :
    (q.putX d v m now).putX d w n now = q.putX d v m now := by
  by_cases hm : (Tbl.get (0, 0) q.wrote d.toNat).1 = now ∧ m < (Tbl.get (0, 0) q.wrote d.toNat).2
  · rw [putX_of_later hm]
    exact putX_of_later ⟨hm.1, h.trans hm.2⟩
  · refine putX_of_later ?_
    rw [wrote_putX q d v m now hm]
    exact ⟨rfl, h⟩

/-- That of a later one does. -/
theorem getX_putX_later {q : Seq} {d : Reg} {v w : Word} {m n now : Nat} (hd : d ≠ 0) (h : m ≤ n)
    (hq : ∀ x, Tbl.get (0, 0) q.wrote d.toNat = (now, x) → x ≤ m) :
    ((q.putX d v m now).putX d w n now).getX d = w := by
  have hm : ¬ ((Tbl.get (0, 0) q.wrote d.toNat).1 = now ∧ m < (Tbl.get (0, 0) q.wrote d.toNat).2) := by
    rintro ⟨e, hlt⟩
    exact absurd (hq _ (Prod.ext e rfl)) (Nat.not_le.mpr hlt)
  rw [getX_putX, wrote_putX q d v m now hm, if_pos ⟨rfl, hd, fun e => absurd e.2 (Nat.not_lt.mpr h)⟩]

/-! ### Ends of waits and holds (R57, R59) -/

section holds
variable {s : State} {r : SeqRef} {c : Cmd}

/-- A wait before issue that is over leaves nothing. -/
theorem exec_waitSatisfied_before {w : Wait} (hw : (s.seq r).wait = some w) (hh : w.holds = false) (hn : w ≠ .held) :
    exec (.waitSatisfied (.seq r)) s = .next (s.modSeq r fun q => { q with wait := none }) := by
  have hwait : (s.seqAt (agentKey (.seq r))).wait = some w := hw
  show execWaitSatisfied (.seq r) s = _
  have hne : ¬ (some w = some Wait.held) := fun e => hn (Option.some.inj e)
  simp only [execWaitSatisfied, hwait, Option.any_some, hh, Bool.false_eq_true, if_false]
  show Host.Outcome.next (s.setSeqAt (seqKey r) (if (s.seq r).wait = some .held then s.seq r
    else { s.seq r with wait := none })) = _
  rw [hw, if_neg hne]
  rfl

/-- The instruction that holds a sequencer. -/
theorem heldBack_eq {w : Wait} (hw : (s.seq r).wait = some w) (hh : w.holds = true) (hc : (s.seq r).held = some c) :
    s.heldBack (.seq r) = some c := by
  have hw' : (s.seqAt (agentKey (.seq r))).wait = some w := hw
  have hc' : (s.seqAt (agentKey (.seq r))).held = some c := hc
  simp only [State.heldBack, hw', hc', Option.any_some, hh, if_true]

/-- An instruction that has ended holds its sequencer no more. -/
theorem holdOn_ends {f : State → State} (h : ({ s with cur := .seq r } : State).holdStep c = .ends (f { s with cur := .seq r })) :
    s.holdOn (.seq r) c = s.asSeq r fun t => (f t).modSeq r fun q => { q with wait := none, held := none } := by
  simp only [State.holdOn, h]
  rfl

theorem exec_waitSatisfied_hold {w : Wait} (hw : (s.seq r).wait = some w) (hh : w.holds = true)
    (hc : (s.seq r).held = some c) :
    exec (.waitSatisfied (.seq r)) s = .next (s.holdOn (.seq r) { c with head := none }) := by
  have hw' : (s.seqAt (agentKey (.seq r))).wait = some w := hw
  show execWaitSatisfied (.seq r) s = _
  simp only [execWaitSatisfied, hw', Option.any_some, hh, if_true, State.holdEnd, heldBack_eq hw hh hc]

/-- R88, R291: a hold whose deadline has come goes on with it. -/
theorem lateHold_due {w : Wait} {f : Instr → Bool} {x : Nat} (hr : (s.strand (strandOf r)).stop = .running)
    (hw : (s.seq r).wait = some w) (hh : w.holds = true) (hc : (s.seq r).held = some c) (hf : f c.ins = true)
    (hx : c.head = some x) (hle : x ≤ s.tsc r.die) : s.lateHold (.seq r) f = .next (s.holdOn (.seq r) c) := by
  have hrun : s.runs r = true := by simp [State.runs, hr]
  simp only [State.lateHold, heldBack_eq hw hh hc, hrun, hf, hx, Option.any_some, decide_eq_true hle, Bool.and_self,
    if_true]

/-! What each instruction that holds a sequencer comes to. -/

section steps
variable (hcur : s.cur = .seq r)
include hcur

theorem endHold_seq (d : Reg) (v : Word) :
    s.endHold c d v = (s.putOn r d v c.no).pushPost r (hdrOf c.ins).pq c.addr := by
  have hm : (s.modMe fun q => q.putX d v c.no s.cycles) = s.putOn r d v c.no := by
    unfold State.modMe
    rw [hcur]
    rfl
  have hc : (s.putOn r d v c.no).cur = .seq r := hcur
  simp only [State.endHold, hm, State.finishAt, hc]

/-- R197: FENCE.E ends once nothing is to complete. -/
theorem holdStep_fenceE {h : Hdr} (hi : c.ins = .fenceE h) (hl : (s.seq r).lds = []) (hq : (s.seq r).cmds = []) :
    s.holdStep c = .ends ((s.acquires r).pushPost r h.pq c.addr) := by
  have hme : s.me = s.seq r := by rw [State.me, hcur]; rfl
  have hb : s.engaged = false := by simp [State.engaged, hcur, hme, hl, hq]
  have ha : s.acquire = s.acquires r := by rw [State.acquire, State.modMe, hcur]; rfl
  have hc : (s.acquires r).cur = .seq r := hcur
  simp only [State.holdStep, hi, fenceHold, hb, Bool.false_eq_true, if_false, ha, State.finishAt, hc]
  rfl

/-- R259: FCCLR reads and clears once the matrix commands before it have completed. -/
theorem holdStep_fcclr {h : Hdr} {d : Reg} (hi : c.ins = .fcclr h d) (hq : ∀ k ∈ (s.seq r).matQ, mmOf k.ins = none) :
    s.holdStep c = .ends (((s.modCluster r.die r.cl fun k => { k with fidErr := 0, fidChk := 0 }).putOn r d
      (zext32 (s.cluster r.die r.cl).fidErr) c.no).pushPost r h.pq c.addr) := by
  have hb : s.matrixBusy r = false := by
    simp only [State.matrixBusy, List.any_eq_false]
    intro k hk
    simp [hq k hk]
  have hc : (s.modCluster r.die r.cl fun k => { k with fidErr := 0, fidChk := 0 }).cur = .seq r := hcur
  simp only [State.holdStep, hi, fcclrHold, hcur, hb, Bool.false_eq_true, if_false, endHold_seq hc]
  rfl

/-- R286, R291: CWAIT ends at its threshold or its deadline, with bit 63 set where the threshold is not reached, and is
then a phase boundary. -/
theorem holdStep_cwait {h : Hdr} {d a b : Reg} {tmo : BitVec 16} {v : BitVec 32} {late : Nat}
    (hi : c.ins = .cwait h d a b tmo) (hv : (s.counter (field c.xa 40 3) (field c.xa 0 8)).value = v)
    (hend : low32 c.xb ≤ v ∨ c.head.any (fun x => decide (x ≤ s.tsc r.die)) = true)
    (hlate : (if low32 c.xb ≤ v then 0 else 2 ^ 63) = late) :
    s.holdStep c = .ends (((s.modSeq r fun q => { q with phase := s.tsc r.die }).putOn r d
      (BitVec.ofNat 64 (late + v.toNat)) c.no).pushPost r h.pq c.addr) := by
  have hm : (s.modMe fun q => { q with phase := s.tsc r.die }) = s.modSeq r fun q => { q with phase := s.tsc r.die } := by
    rw [State.modMe, hcur]
    rfl
  have hc : (s.modSeq r fun q => { q with phase := s.tsc r.die }).cur = .seq r := hcur
  have hb : (decide (low32 c.xb ≤ v) || c.head.any fun x => decide (x ≤ s.tsc r.die)) = true := by
    rcases hend with e | e <;> simp [e]
  simp only [State.holdStep, hi, cwaitHold, hcur, Handle.of, hv, hm, endHold_seq hc]
  refine (if_pos hb).trans ?_
  rw [← hlate]
  by_cases e : low32 c.xb ≤ v
  · rw [if_pos (decide_eq_true e), if_pos e]
    rfl
  · rw [if_neg (by simp [e]), if_neg e]
    rfl

/-- R88: WTAG ends with NONE at its deadline, where no record has a binding. -/
theorem holdStep_wtag_late {h : Hdr} {d : Reg} {tmo : BitVec 16} (hi : c.ins = .wtag h d tmo)
    (hx : c.head.any (fun x => decide (x ≤ s.tsc r.die)) = true) (hp : s.pendingArrivals (strandOf r) = []) :
    s.holdStep c = .ends (((s.modStrand (strandOf r) fun z => { z with arrivals := [] }).putOn r d 3 c.no).pushPost r
      h.pq c.addr) := by
  have hc : (s.modStrand (strandOf r) fun z => { z with arrivals := [] }).cur = .seq r := hcur
  simp only [State.holdStep, hi, wtagHold, hcur, hp, hx, if_true, endHold_seq hc]
  rfl

end steps

end holds

/-! ### WATCHDOG and pre-emption (R325, R333) -/

section stops
variable {s : State} {r : SeqRef}

/-- A cause that is no miss makes a running strand begin to stop. -/
theorem raise_of_running {c : Cause} {pt : Point} {pc : BitVec 48} {w : Word}
    (hr : (s.strand (strandOf r)).stop = .running) (h1 : c ≠ .xlateMiss) (h2 : c ≠ .posmapMiss) :
    s.raise r c pt pc 0 w = s.stopsFor (strandOf r) ⟨c, pt, r.cls, pc, 0, w, s.tsc r.die, 0⟩ := by
  have hm (d : Nat) (x : BitVec 4) : s.softMiss d x c w = s := by
    cases c with
    | xlateMiss => exact absurd rfl h1
    | posmapMiss => exact absurd rfl h2
    | _ => rfl
  simp only [State.raise, hr, hm]
  rfl

/-- A strand of which a sequencer waits, and none has taken a step for 2^24 cycles. -/
theorem starved_of_wait {st : StrandRef} {k : Cls} (h : (s.strand st).lastStep + 16777216 ≤ s.tsc st.die)
    (hw : (s.seq (seqOf st k)).wait ≠ none) : s.starved st = true := by
  have hk : k ∈ allCls := by cases k <;> decide
  simp only [State.starved, Bool.and_eq_true, decide_eq_true_eq, List.any_eq_true]
  exact ⟨h, k, hk, Option.isSome_iff_ne_none.mpr hw⟩

/-- The first class that waits. -/
theorem firstWaiting {st : StrandRef} {k : Cls} (hw : (s.seq (seqOf st k)).wait ≠ none) :
    (s.seq (seqOf st ((allCls.find? fun c => (s.seq (seqOf st c)).wait.isSome).getD .L))).wait ≠ none := by
  cases hf : allCls.find? fun c => (s.seq (seqOf st c)).wait.isSome with
  | none =>
    have hk : k ∈ allCls := by cases k <;> decide
    exact absurd (Option.isSome_iff_ne_none.mpr hw) (List.find?_eq_none.mp hf k hk)
  | some c =>
    have h : (s.seq (seqOf st c)).wait.isSome = true :=
      List.find?_some (p := fun k => (s.seq (seqOf st k)).wait.isSome) hf
    exact Option.isSome_iff_ne_none.mp h

/-- A loop over the strands of one team after another is one over all of them. -/
theorem foldl_teams (f : State → StrandRef → State) (ts : List (Nat × Team)) (s : State) :
    ts.foldl (fun a p => p.2.strands.foldl f a) s
      = (ts.flatMap fun p => p.2.slots.map fun n => (⟨p.2.die, p.2.cl, n⟩ : StrandRef)).foldl f s :=
  List.foldl_flatMap.symm

end stops

/-- Settles O40: each event has its rule. -/
theorem strandEvents : Obligations.StrandEvents := by
  refine ⟨?idle, fun s r f d e => land_x e, ?cycle, fun s r w => exec_waitSatisfied_before, ?holds, ?word, ?watchdog,
    ?preempt, ?wtag, ?cwait⟩
  case idle =>
    intro s r hr hl hs hp
    exact exec_fixedLatencyLanding hr hl hs (stepFlights_without_tokens hp)
  case cycle =>
    intro q d v w m n now hd
    exact ⟨fun h => by rw [putX_putX_earlier h], getX_putX_later hd⟩
  case holds =>
    intro s r c h hc
    refine ⟨fun hw hi hlds hcmds => ?_, fun d hw hi hq => ?_, fun d a b tmo x n hw hi hdie hnum hle => ?_⟩
    · rw [exec_waitSatisfied_hold hw rfl hc,
        holdOn_ends (c := { c with head := none }) (f := fun t => (t.acquires r).pushPost r h.pq c.addr) (holdStep_fenceE rfl hi hlds hcmds)]
    · rw [exec_waitSatisfied_hold hw rfl hc, holdOn_ends (c := { c with head := none }) (f := fun t =>
        ((t.modCluster r.die r.cl fun k => { k with fidErr := 0, fidChk := 0 }).putOn r d
          (zext32 (s.cluster r.die r.cl).fidErr) c.no).pushPost r h.pq c.addr) (holdStep_fcclr rfl hi hq)]
    · rw [exec_waitSatisfied_hold hw rfl hc, holdOn_ends (c := { c with head := none }) (f := fun t =>
        ((t.modSeq r fun q => { q with phase := s.tsc r.die }).putOn r d
          (BitVec.ofNat 64 (0 + (s.counter r.die n).value.toNat)) c.no).pushPost r h.pq c.addr)
        (holdStep_cwait rfl hi (by rw [← hdie, ← hnum]; rfl) (.inl hle) (if_pos hle)), Nat.zero_add]
  case word =>
    intro s r c hcur hr h1 h2
    show s.trapHere c = _
    simp only [State.trapHere, hcur, raise_of_running hr h1 h2]
  case watchdog =>
    intro s st k hr hold hw
    have hgo : ¬ ((s.strand st).stop ≠ .running ∨ (!s.starved st) = true) := by
      simp [hr, starved_of_wait hold hw]
    constructor
    · intro hm
      show execWatchdog st s = _
      rw [execWatchdog, if_neg hgo, if_pos hm]
      rfl
    · intro hm
      refine ⟨_, firstWaiting hw, ?_⟩
      show execWatchdog st s = _
      rw [execWatchdog, if_neg hgo, if_neg (by simp [hm])]
      exact congrArg Host.Outcome.next (raise_of_running (r := seqOf st _) hr nofun nofun)
  case preempt =>
    intro s launch team
    exact congrArg Host.Outcome.next (foldl_teams _ _ s)
  case wtag =>
    intro s r c h d tmo x y hr hw hc hi hx hle hp
    have hh : c.head.any (fun x => decide (x ≤ s.tsc r.die)) = true := by simp [hx, hle]
    show execWtagTimeout (.seq r) s = _
    rw [execWtagTimeout, lateHold_due hr hw rfl hc (by rw [hi]) hx hle, holdOn_ends (f := fun t =>
      ((t.modStrand (strandOf r) fun z => { z with arrivals := [] }).putOn r d 3 c.no).pushPost r h.pq c.addr)
      (holdStep_wtag_late rfl hi hh hp)]
  case cwait =>
    intro s r c h d a b tmo x n y hr hw hc hi hx hle hdie hnum hlt
    have hh : c.head.any (fun x => decide (x ≤ s.tsc r.die)) = true := by simp [hx, hle]
    show execCwaitTimeout (.seq r) s = _
    rw [execCwaitTimeout, lateHold_due hr hw rfl hc (by rw [hi]) hx hle, holdOn_ends (f := fun t =>
      ((t.modSeq r fun q => { q with phase := s.tsc r.die }).putOn r d
        (BitVec.ofNat 64 (2 ^ 63 + (s.counter r.die n).value.toNat)) c.no).pushPost r h.pq c.addr)
      (holdStep_cwait rfl hi (by rw [← hdie, ← hnum]; rfl) (.inr hh) (if_neg (BitVec.not_le.mpr hlt)))]

end Sys2Proof.Machine
end

section
/-! PROOFS. What executing answers (O57; R47 to R51, R323, log entry 6): a next state, but for a hub at a word that is no
instruction, or one that R47 refuses before it issues. -/

namespace Sys2Proof.Machine

/-- The machine goes on with a next state. -/
def Res.Goes (r : Res) : Prop := ∃ t, r = .next t

/-- A next state, or at a hub the fault of a cause for which R47 refuses `i` before it issues. -/
def State.Answers (s : State) (i : Instr) (r : Res) : Prop :=
  r.Goes ∨ ∃ d c, s.cur = .hub d ∧ r = .fault (.hubTrap d c)
    ∧ (i = .notAnInstruction c ∨ i.toRaw.isSome = true ∧ s.precheck i (hdrOf i) = some c)

section
variable {s : State} {i : Instr} {h : Hdr} {p : Plan} {act : State → Res} {r : SeqRef}

@[simp] theorem Res.goes_next (s : State) : Res.Goes (.next s) := ⟨s, rfl⟩

@[simp] theorem State.launchOp_goes {dest : Dest} {lat : Nat} {v o1 o2 o3 : Word} {op : LandOp} :
    (s.launchOp i h dest lat v o1 o2 o3 op).Goes := by
  unfold State.launchOp
  split <;> exact Res.goes_next _

@[simp] theorem State.holdIn_goes {c : Cmd} {w : Wait} {f : State → Cmd → Hold} : (s.holdIn c w f).Goes := by
  unfold State.holdIn
  split <;> exact Res.goes_next _

@[simp] theorem andThen_goes {x : Res} {f : State → State} (hx : x.Goes) : (andThen x f).Goes := by
  obtain ⟨t, rfl⟩ := hx
  exact Res.goes_next _

/-! ### Issuing -/

theorem State.trapHere_goes (hc : s.cur = .seq r) (c : Cause) (w : Word) : (s.trapHere c w).Goes := by
  simp [State.trapHere, hc]

/-- A sequencer traps, waits, or issues. -/
theorem State.issue_goes (hc : s.cur = .seq r) (ha : ∀ t, (act t).Goes) : (s.issue i h p act).Goes := by
  have htrap := s.trapHere_goes hc
  simp only [State.issue, hc, State.issueSeq]
  (repeat' split) <;> simp [htrap, ha]

/-- A hub stops where R47 refuses the instruction, and else waits or issues. -/
theorem State.issue_answers (hi : i.toRaw.isSome = true) (hh : hdrOf i = h) (ha : ∀ t, (act t).Goes) :
    s.Answers i (s.issue i h p act) := by
  cases hc : s.cur with
  | seq r => exact .inl (State.issue_goes hc ha)
  | hub d =>
    simp only [State.issue, hc, State.issueHub]
    cases hp : s.precheck i h with
    | some c => exact .inr ⟨d, c, hc, rfl, .inr ⟨hi, hh ▸ hp⟩⟩
    | none =>
      refine .inl ?_
      dsimp only
      split
      · exact Res.goes_next _
      · exact ha _

/-! ### Events -/

theorem State.serve1_goes {cmd : Nat} {listed : List (Nat × Nat)} {f : State → Served} : (s.serve1 cmd listed f).Goes := by
  unfold State.serve1
  (repeat' split) <;> exact Res.goes_next _

theorem State.lateHold_goes {g : Agent} {f : Instr → Bool} : (s.lateHold g f).Goes := by
  unfold State.lateHold
  (repeat' split) <;> exact Res.goes_next _

theorem execMmaUnit_goes {g : Agent} : (execMmaUnit g s).Goes := by
  unfold execMmaUnit
  split
  · exact Res.goes_next _
  · split
    · exact Res.goes_next _
    · extract_lets cl rows f other s0 s1
      clear_value s1
      (repeat' split) <;> exact Res.goes_next _

/-- An event answers a next state: none of its cases stops the machine. -/
theorem exec_event_goes (hi : i.toRaw = none) (hn : ∀ c, i ≠ .notAnInstruction c) : Res.Goes (exec i s) := by
  cases i with
  | notAnInstruction c => exact absurd rfl (hn c)
  | mmaUnit => exact execMmaUnit_goes
  | wtagTimeout | cwaitTimeout =>
    simp only [exec, execWtagTimeout, execCwaitTimeout]
    exact State.lateHold_goes
  | submit | region | pubkey | model | attest | contextCreate | pages | posmap | lqcfg | assign |
    assignRelease =>
    exact State.serve1_goes
  | fidRailSwitchDone | workEntryComplete | remoteUnitUnreached | tupleTakeService | tupleDepositService |
    tupleCancelService | tupleParkExpire | permitRefill | mailboxUnknownCmd | preemptRequest | launchPass |
    windowBoundary | train | lightReturn | sync | follow | dreq | drsp | freefr | wrhdr | droopDetect |
    logicRailSwitch | coldReset | finjWrite | fidthrWrite | lfsrseedWrite | permitWrite | registerWrite |
    hostBar2Write | unlistedControlFlit | trimRailPark =>
    exact Res.goes_next _
  | fixedLatencyLanding | waitSatisfied | ldsComplete | copyUnit | vectorUnit | mmakTargetChoice | mmakStartTime
    | drainUnit | aclrUnit | attentionPerform | landTile | aatPerformed | cpyrAdd =>
    simp only [exec, execFixedLatencyLanding, execWaitSatisfied, execLdsComplete, execCopyUnit, execVectorUnit,
      execMmakTargetChoice, execMmakStartTime, execDrainUnit, execAclrUnit, execAttentionPerform, execLandTile,
      execAatPerformed, execCpyrAdd]
    (repeat' split) <;> exact Res.goes_next _
  | tupleComplete | tupleRemoteTimeout | tupleResend | tspreq | tsprsp =>
    simp only [exec, execTupleComplete, execTupleRemoteTimeout, execTupleResend, execTspreq, execTsprsp]
    (repeat' split) <;> exact Res.goes_next _
  | roundTimeout | workEntryFire | remoteUnitDeadline | wrack | wrnack | rdreq | redhdr | redgo | cntadd =>
    simp only [exec, execRoundTimeout, execWorkEntryFire, execRemoteUnitDeadline, execWrack, execWrnack,
      execRdreq, execRedhdr, execRedgo, execCntadd]
    (repeat' split) <;> exact Res.goes_next _
  | memberLost | stripeSendStart | dwellExpire | lostStandin | seghdr | propose | accept | reject | commit =>
    simp only [exec, execMemberLost, execStripeSendStart, execDwellExpire, execLostStandin, execSeghdr,
      execPropose, execAccept, execReject, execCommit]
    (repeat' split) <;> exact Res.goes_next _
  | laneTrainDone | bktDecay | laneRetuneDone | dataFlit | ack | nak | laneLos =>
    simp only [exec, execLaneTrainDone, execBktDecay, execLaneRetuneDone, execDataFlit, execAck, execNak,
      execLaneLos]
    (repeat' split) <;> exact Res.goes_next _
  | strandStop | watchdog | queueAgeing | teamStart | teamRetire | thermalLimit | thermalRecover | scrubRead |
    hostBar2Read | abort | contextDestroy =>
    simp only [exec, execStrandStop, execWatchdog, execQueueAgeing, execTeamStart, execTeamRetire,
      execThermalLimit, execThermalRecover, execScrubRead, execHostBar2Read, execAbort, execContextDestroy]
    (repeat' split) <;> exact Res.goes_next _
  | _ => exact nomatch hi

/-! ### Instructions -/

/-- An instruction answers a next state on a sequencer, and on a hub unless R47 refuses it. -/
theorem exec_instruction_answers (hi : i.toRaw.isSome = true) : s.Answers i (exec i s) := by
  cases i with
  | add | sub | and | or | xor | andn | shl | shr | sra | rol | min | max | minu | maxu | mul | mulh | mulhu |
    div | divu | rem | remu | clz | popc | abs | addi | andi | ori | xori | shli | shri | srai | roli | mini |
    maxi | muli | liz | lis | lih | eq | ne | lt | ltu | ge | geu | eqi | nei | lti | ltui | gei | geui | pand |
    por | pxor | pnot | pmov | sel | fadd | fsub | fmul | ffma | fmin | fmax | fabs | fneg | fcmpeq | fcmplt |
    fcmple | fcvti | fcvtf | exp2 | log2 | rcp | rsqrt | sqrt | tanh | sin | cos | tagb | tagbClr | zget | zset
    | zclr | setfid | csrr | tsr =>
    exact State.issue_answers rfl rfl fun _ => State.launchOp_goes
  | brt | brf | bra | ret | endI | yield | nop | brk | phase | tagq | trap =>
    exact State.issue_answers rfl rfl fun _ => Res.goes_next _
  | fenceE | fcrd | fcclr =>
    exact State.issue_answers rfl rfl fun _ => State.holdIn_goes
  | call => exact State.issue_answers rfl rfl fun _ => andThen_goes State.launchOp_goes
  | vadd | vsub | vmul | vmin | vmax | vand | vor | vxor | vshl | vshr | vfma | vfms | vabs | vneg | vcvt | vmov
    | vexp2 | vlog2 | vrcp | vrsq | vtanh | vsilu | vceq | vclt | vcle | vsel | vpsum | vamx | vfill | vperm =>
    cases hc : s.cur <;>
      simp only [exec, execVadd, execVsub, execVmul, execVmin, execVmax, execVand, execVor, execVxor, execVshl,
        execVshr, execVfma, execVfms, execVabs, execVneg, execVcvt, execVmov, execVexp2, execVlog2, execVrcp,
        execVrsq, execVtanh, execVsilu, execVceq, execVclt, execVcle, execVsel, execVpsum, execVamx, execVfill,
        execVperm, State.vecCmd, hc] <;>
      exact State.issue_answers rfl rfl fun _ => Res.goes_next _
  | cpy | cpyr | land | aclr | adrn | atq | ats | atf | aadd | aaddf | awr | aaddx | aaddfx | awrx | rwr | rrd |
    rwrr | carm | crd | qslot =>
    cases hc : s.cur <;>
      simp only [exec, execCpy, execCpyr, execLand, execAclr, execAdrn, execAtq, execAts, execAtf, execAadd,
        execAaddf, execAwr, execAaddx, execAaddfx, execAwrx, execRwr, execRrd, execRwrr, execCarm, execCrd,
        execQslot, State.copyCmd, State.atnCmd, State.atomicCmd, State.remoteCmd, hc] <;>
      exact State.issue_answers rfl rfl fun _ => Res.goes_next _
  | tkp | tkw | winit | wpub | wrel | eret | tld | tlk | tinv | pmld | rply | ctxs =>
    cases hc : s.cur <;>
      simp only [exec, execTkp, execTkw, execWinit, execWpub, execWrel, execEret, execTld, execTlk, execTinv,
        execPmld, execRply, execCtxs, State.wheelOp, hc] <;>
      exact State.issue_answers rfl rfl fun _ => Res.goes_next _
  | mma | mmak =>
    cases hc : s.cur with
    | hub d =>
      simp only [exec, execMma, execMmak, State.mmCmd, hc]
      exact State.issue_answers rfl rfl fun _ => Res.goes_next _
    | seq r =>
      refine .inl ?_
      simp only [exec, execMma, execMmak, State.mmCmd, hc]
      exact State.issue_goes hc fun _ => Res.goes_next _
  | tkq | wclm | wwf | wwe | csrw =>
    cases hc : s.cur <;>
      simp only [exec, execTkq, execWclm, execWwf, execWwe, execCsrw, State.wheelOp, State.wheelWait, hc] <;>
      exact State.issue_answers rfl rfl fun _ => by simp
  | wtag | cwait =>
    cases hc : s.cur <;>
      simp only [exec, execWtag, execCwait, hc] <;>
      exact State.issue_answers rfl rfl fun _ => by simp
  | idle | lnch | fwd | ctxl =>
    cases hc : s.cur <;>
      simp only [exec, execIdle, execLnch, execFwd, execCtxl, State.lnchSeq, State.lnchHub, State.launchWith, hc] <;>
      exact State.issue_answers rfl rfl fun _ => by (repeat' split) <;> simp
  | lds | tdep | tcpy | ttak | tcnl | qpost =>
    cases hc : s.cur <;>
      simp only [exec, execLds, execTdep, execTcpy, execTtak, execTcnl, execQpost, State.tuple, hc] <;>
      exact State.issue_answers rfl rfl fun _ => by (repeat' split) <;> simp
  | vrsum | vrmax | vrmin =>
    cases hc : s.cur <;>
      simp only [exec, execVrsum, execVrmax, execVrmin, State.vred, hc] <;>
      exact State.issue_answers rfl rfl fun _ => by (repeat' split) <;> simp
  | pbr =>
    simp only [exec, execPbr]
    exact State.issue_answers rfl rfl fun _ => by (repeat' split) <;> exact State.launchOp_goes
  | cpyt | gath | scat | cpyx =>
    cases hc : s.cur <;>
      simp only [exec, execCpyt, execGath, execScat, execCpyx, State.rowsCmd, State.copyCmd, hc]
    case hub => exact State.issue_answers rfl rfl fun _ => Res.goes_next _
    case seq => split <;> exact State.issue_answers rfl rfl fun _ => Res.goes_next _
  | cadd =>
    cases hc : s.cur <;>
      simp only [exec, execCadd, hc]
    case hub => exact State.issue_answers rfl rfl fun _ => Res.goes_next _
    case seq => split <;> exact State.issue_answers rfl rfl fun _ => by (repeat' split) <;> simp
  | ldb | ldh | ldw | ldd | ldbs | ldhs | ldws =>
    cases hc : s.cur <;>
      simp only [exec, execLdb, execLdh, execLdw, execLdd, execLdbs, execLdhs, execLdws, State.loadOp, hc]
    case hub => exact State.issue_answers rfl rfl fun _ => by (repeat' split) <;> simp
    case seq =>
      split
      · exact .inl (Res.goes_next _)
      · exact State.issue_answers rfl rfl fun _ => by (repeat' split) <;> simp
  | stb | sth | stw | std =>
    cases hc : s.cur <;>
      simp only [exec, execStb, execSth, execStw, execStd, State.storeOp, hc]
    case hub => exact State.issue_answers rfl rfl fun _ => Res.goes_next _
    case seq =>
      split
      · exact .inl (Res.goes_next _)
      · exact State.issue_answers rfl rfl fun _ => Res.goes_next _
  | _ => exact nomatch hi

theorem exec_answers (i : Instr) (s : State) : s.Answers i (exec i s) := by
  cases hi : i.toRaw with
  | some w => exact exec_instruction_answers (by rw [hi]; rfl)
  | none =>
    by_cases hn : ∀ c, i ≠ .notAnInstruction c
    · exact .inl (exec_event_goes hi hn)
    · obtain ⟨c, hc⟩ := not_forall.mp hn
      obtain rfl := not_not.mp hc
      cases hcur : s.cur with
      | seq r => exact .inl (State.trapHere_goes hcur c 0)
      | hub d => exact .inr ⟨d, c, hcur, by simp only [exec, execNotAnInstruction, State.trapHere, hcur], .inl rfl⟩

/-! ### Steps -/

/-- No instruction is without a meaning. -/
theorem State.Answers.not_refused {x : Res} (h : s.Answers i x) (e : Refusal) : x ≠ .refused e := by
  rcases h with ⟨t, rfl⟩ | ⟨d, c, _, rfl, _⟩ <;> exact nofun

theorem Res.Goes.not_refused {x : Res} (h : x.Goes) (e : Refusal) : x ≠ .refused e := by
  obtain ⟨t, rfl⟩ := h
  exact nofun

theorem exec_goes_of_seq (hc : s.cur = .seq r) : Res.Goes (exec i s) := by
  rcases exec_answers i s with h | ⟨d, c, hd, _⟩
  · exact h
  · exact nomatch hc.symm.trans hd

theorem State.perform_not_refused {d : Decoded} (e : Refusal) : s.perform d ≠ .refused e := by
  cases d with
  | ok i => exact (exec_answers i s).not_refused e
  | bad c => exact (exec_answers (.notAnInstruction c) s).not_refused e
  | reserved maj f imm => exact (exec_answers (.notAnInstruction _) s).not_refused e

/-- What a sequencer fetches answers a next state. -/
theorem State.runOne_goes : (s.runOne r).Goes := by
  unfold State.runOne
  extract_lets s1
  split
  · next d _ =>
    cases d with
    | ok i => exact exec_goes_of_seq rfl
    | bad c => exact exec_goes_of_seq (i := .notAnInstruction c) rfl
    | reserved maj f imm => exact exec_goes_of_seq (i := .notAnInstruction _) rfl
  · exact State.trapHere_goes rfl _ _
  · exact Res.goes_next _

theorem State.tryIssue_goes {a : Res} (h : s.tryIssue r = .issued a) : a.Goes := by
  unfold State.tryIssue at h
  extract_lets stepped s' at h
  clear_value s'
  split at h
  · cases h
    exact Res.goes_next _
  · split at h
    next b ok _ =>
    split at h
    · cases h
      exact Res.goes_next _
    · obtain ⟨u, hu⟩ := b.runOne_goes (r := r)
      rw [hu] at h
      dsimp only at h
      (repeat' split at h) <;> cases h <;> exact Res.goes_next _

theorem State.issueTurn_goes {run : Nat} : (s.issueTurn r run).Goes := by
  unfold State.issueTurn State.tryPick
  split
  · exact Res.goes_next _
  · next a _ h =>
    split at h
    · exact State.tryIssue_goes h
    · cases h
  · exact Res.goes_next _

theorem State.hubRun_not_refused {d : Nat} (e : Refusal) : s.hubRun d ≠ .refused e := by
  unfold State.hubRun
  extract_lets pc
  split
  · exact nofun
  · split
    · exact nofun
    · exact State.perform_not_refused e

theorem State.hubTurn_not_refused {d : Nat} (e : Refusal) : s.hubTurn d ≠ .refused e := by
  unfold State.hubTurn
  extract_lets q
  split
  · exact nofun
  · split
    · exact nofun
    · split
      · exact nofun
      · split
        · exact nofun
        · exact State.hubRun_not_refused e

theorem State.turn_not_refused {t : Turn} (e : Refusal) : s.turn t ≠ .refused e := by
  cases t with
  | event i => exact (exec_answers i s).not_refused e
  | cluster d c => exact nofun
  | issue r run => exact s.issueTurn_goes.not_refused e
  | hub d => exact State.hubTurn_not_refused e
  | scrub pa => exact (exec_answers (.scrubRead pa) s).not_refused e

theorem step_not_refused (e : Refusal) : step s ≠ .refused e := by
  unfold step State.advanceOne
  split
  · exact nofun
  · split
    · split
      · exact (exec_answers _ _).not_refused e
      · exact nofun
    · split
      · exact State.turn_not_refused e
      · exact nofun

end

/-- Settles O57: every meaning answers a next state, or at a hub a cause of R47; a step runs meanings. -/
theorem execAnswers : Obligations.ExecAnswers := by
  refine ⟨fun i s r hc => exec_goes_of_seq hc, fun i s => (exec_answers i s).not_refused, fun s => step_not_refused, ?_⟩
  intro i s d e hc he
  rcases exec_answers i s with ⟨t, ht⟩ | ⟨d', c, hd, hf, hcause⟩
  · exact nomatch ht.symm.trans he
  · obtain rfl : d' = d := Agent.hub.inj (hd.symm.trans hc)
    exact ⟨c, Host.Outcome.fault.inj (he.symm.trans hf), hcause⟩

end Sys2Proof.Machine
end

section
/-! PROOFS. What an instruction of a sequencer leaves unchanged as it issues (O52; R59, R61, R106): a frame that lists
what may be written, one rule for each operation of the state, then each instruction. -/

namespace Sys2Proof.Machine

/-! ### The frame -/

/-- What may be written as an instruction issues: one register of one sequencer, the engine state of clusters, the
strand-wide registers. -/
structure Writes where
  reg : Option (Nat × Reg) := none
  engines : Bool := false
  strands : Bool := false

/-- From `s` to `t` the slab, the registers, the engine state and the strand-wide registers are as they were, but for
what `w` lists. -/
structure Within (w : Writes) (s t : State) : Prop where
  mem : t.mem = s.mem
  preds : ∀ k, (t.seqAt k).p = (s.seqAt k).p ∧ (t.seqAt k).b = (s.seqAt k).b
  regs : ∀ k, (∀ d, w.reg ≠ some (k, d)) → (t.seqAt k).x = (s.seqAt k).x
  others : ∀ k d, w.reg ≠ some (k, d) → (t.seqAt k).getX d = (s.seqAt k).getX d
  engines : w.engines = false → ∀ die cl, SameEngines (s.cluster die cl) (t.cluster die cl)
  strands : w.strands = false → ∀ st, SameStrandRegs (s.strand st) (t.strand st)

/-- The same of a next state that is answered. -/
def Res.Within (w : Writes) (s : State) (a : Res) : Prop := ∀ t, a = .next t → Machine.Within w s t

@[simp] theorem Res.within_next {w : Writes} {s t : State} : Res.Within w s (.next t) ↔ Machine.Within w s t :=
  ⟨fun h => h t rfl, fun h u e => by cases e; exact h⟩

theorem Within.ite {w : Writes} {s t u : State} {c : Prop} [Decidable c] (h : Within w s t) (g : Within w s u) :
    Within w s (if c then t else u) := by split <;> assumption

theorem Res.within_ite {w : Writes} {s : State} {a b : Res} {c : Prop} [Decidable c] (h : Res.Within w s a)
    (g : Res.Within w s b) : Res.Within w s (if c then a else b) := by split <;> assumption

theorem SameEngines.refl (c : Cluster) : SameEngines c c := ⟨rfl, rfl, rfl, rfl, rfl, rfl, rfl, rfl, rfl, rfl⟩

theorem SameEngines.trans {a b c : Cluster} (h : SameEngines a b) (g : SameEngines b c) : SameEngines a c := by
  obtain ⟨h1, h2, h3, h4, h5, h6, h7, h8, h9, h10⟩ := h
  obtain ⟨g1, g2, g3, g4, g5, g6, g7, g8, g9, g10⟩ := g
  exact ⟨g1.trans h1, g2.trans h2, g3.trans h3, g4.trans h4, g5.trans h5, g6.trans h6, g7.trans h7, g8.trans h8,
    g9.trans h9, g10.trans h10⟩

theorem SameStrandRegs.refl (t : Strand) : SameStrandRegs t t := ⟨rfl, rfl, rfl, rfl, rfl, rfl, rfl, rfl⟩

theorem SameStrandRegs.trans {a b c : Strand}
    (h : SameStrandRegs a b) (g : SameStrandRegs b c) : SameStrandRegs a c := by
  obtain ⟨h1, h2, h3, h4, h5, h6, h7, h8⟩ := h
  obtain ⟨g1, g2, g3, g4, g5, g6, g7, g8⟩ := g
  exact ⟨g1.trans h1, g2.trans h2, g3.trans h3, g4.trans h4, g5.trans h5, g6.trans h6, g7.trans h7, g8.trans h8⟩

section frame
variable {w : Writes} {s t u : State} {r : SeqRef}

theorem Within.trans (h : Within w s t) (g : Within w t u) : Within w s u where
  mem := g.mem.trans h.mem
  preds k := ⟨(g.preds k).1.trans (h.preds k).1, (g.preds k).2.trans (h.preds k).2⟩
  regs k hk := (g.regs k hk).trans (h.regs k hk)
  others k d hk := (g.others k d hk).trans (h.others k d hk)
  engines hw die cl := (h.engines hw die cl).trans (g.engines hw die cl)
  strands hw st := (h.strands hw st).trans (g.strands hw st)

/-- A change of none of the four tables. -/
theorem Within.of_tables (h : Within w s t) (hm : u.mem = t.mem) (hq : u.seqs = t.seqs) (hc : u.clusters = t.clusters)
    (hz : u.strands = t.strands) : Within w s u := by
  have hq' (k : Nat) : u.seqAt k = t.seqAt k := by simp only [State.seqAt, hq]
  have hc' (die cl : Nat) : u.cluster die cl = t.cluster die cl := by simp only [State.cluster, hc]
  have hz' (st : StrandRef) : u.strand st = t.strand st := by simp only [State.strand, State.strandAt, hz]
  refine h.trans ⟨hm, fun k => ?_, fun k _ => ?_, fun k d _ => ?_, fun _ die cl => ?_, fun _ st => ?_⟩
  · rw [hq']
    exact ⟨rfl, rfl⟩
  · rw [hq']
  · rw [hq']
  · rw [hc']
    exact SameEngines.refl _
  · rw [hz']
    exact SameStrandRegs.refl _

theorem Within.refl (w : Writes) (s : State) : Within w s s where
  mem := rfl
  preds _ := ⟨rfl, rfl⟩
  regs _ _ := rfl
  others _ _ _ := rfl
  engines _ _ _ := SameEngines.refl _
  strands _ _ := SameStrandRegs.refl _

/-! ### The tables -/

/-- A change of a sequencer that leaves its registers, but for the one that may be written. -/
theorem Within.setSeqAt {k : Nat} {q : Seq} (h : Within w s t) (hp : q.p = (t.seqAt k).p) (hb : q.b = (t.seqAt k).b)
    (hx : (∀ d, w.reg ≠ some (k, d)) → q.x = (t.seqAt k).x)
    (ho : ∀ d, w.reg ≠ some (k, d) → q.getX d = (t.seqAt k).getX d) : Within w s (t.setSeqAt k q) := by
  refine h.trans ⟨rfl, fun j => ?_, fun j hj => ?_, fun j d hj => ?_, fun _ _ _ => SameEngines.refl _,
    fun _ _ => SameStrandRegs.refl _⟩ <;> rw [seqAt_setSeqAt] <;> split
  · next e => exact e ▸ ⟨hp, hb⟩
  · exact ⟨rfl, rfl⟩
  · next e => exact e ▸ hx (e ▸ hj)
  · rfl
  · next e => exact e ▸ ho d (e ▸ hj)
  · rfl

@[simp] theorem Within.modSeqAt {k : Nat} {f : Seq → Seq} (h : Within w s t)
    (hf : ∀ q, (f q).x = q.x ∧ (f q).p = q.p ∧ (f q).b = q.b) : Within w s (t.modSeqAt k f) := by
  obtain ⟨hx, hp, hb⟩ := hf (t.seqAt k)
  exact h.setSeqAt hp hb (fun _ => hx) fun d _ => by simp only [Seq.getX, hx]

@[simp] theorem Within.modSeq {f : Seq → Seq} (h : Within w s t)
    (hf : ∀ q, (f q).x = q.x ∧ (f q).p = q.p ∧ (f q).b = q.b) : Within w s (t.modSeq r f) := h.modSeqAt hf

@[simp] theorem Within.modMe {f : Seq → Seq} (h : Within w s t)
    (hf : ∀ q, (f q).x = q.x ∧ (f q).p = q.p ∧ (f q).b = q.b) : Within w s (t.modMe f) := h.modSeqAt hf

@[simp] theorem Within.modStrand {st : StrandRef} {f : Strand → Strand} (h : Within w s t)
    (hf : ∀ z, SameStrandRegs z (f z)) : Within w s (t.modStrand st f) := by
  refine h.trans ⟨rfl, fun _ => ⟨rfl, rfl⟩, fun _ _ => rfl, fun _ _ _ => rfl, fun _ _ _ => SameEngines.refl _,
    fun _ st' => ?_⟩
  rw [strand_modStrand]
  split
  · next e =>
    have e' : t.strand st = t.strand st' := congrArg t.strandAt e
    exact e' ▸ hf _
  · exact SameStrandRegs.refl _

@[simp] theorem Within.modCluster {die cl : Nat} {f : Cluster → Cluster} (h : Within w s t)
    (hf : ∀ c, SameEngines c (f c)) : Within w s (t.modCluster die cl f) := by
  refine h.trans ⟨rfl, fun _ => ⟨rfl, rfl⟩, fun _ _ => rfl, fun _ _ _ => rfl, fun _ die' cl' => ?_,
    fun _ _ => SameStrandRegs.refl _⟩
  rw [cluster_modCluster]
  split
  · next e =>
    have e' : t.cluster die cl = t.cluster die' cl' := congrArg (Tbl.get ({} : Cluster) t.clusters) e
    exact e' ▸ hf _
  · exact SameEngines.refl _

/-- Where engine state may be written, any change of a cluster. -/
theorem Within.writeCluster {die cl : Nat} {f : Cluster → Cluster} (h : Within w s t) (hw : w.engines = true) :
    Within w s (t.modCluster die cl f) :=
  h.trans ⟨rfl, fun _ => ⟨rfl, rfl⟩, fun _ _ => rfl, fun _ _ _ => rfl, fun he => absurd (hw.symm.trans he) nofun,
    fun _ _ => SameStrandRegs.refl _⟩

/-- Where strand-wide registers may be written, any change of a strand. -/
theorem Within.writeStrand {st : StrandRef} {f : Strand → Strand} (h : Within w s t) (hw : w.strands = true) :
    Within w s (t.modStrand st f) :=
  h.trans ⟨rfl, fun _ => ⟨rfl, rfl⟩, fun _ _ => rfl, fun _ _ _ => rfl, fun _ _ _ => SameEngines.refl _,
    fun he => absurd (hw.symm.trans he) nofun⟩

/-- The register that may be written, written. -/
theorem Within.putX {d : Reg} {v : Word} {no now : Nat} (h : Within w s t) (hw : w.reg = some (seqKey r, d)) :
    Within w s (t.modSeq r fun q => q.putX d v no now) := by
  refine h.setSeqAt (putX_p ..) (putX_b ..) (fun hn => absurd hw (hn d)) fun j hj => ?_
  rw [getX_putX, if_neg]
  rintro ⟨rfl, _⟩
  exact hj hw

@[simp] theorem Within.setDie {d : Nat} {v : Die} (h : Within w s t) : Within w s (t.setDie d v) :=
  h.of_tables rfl rfl rfl rfl

@[simp] theorem Within.modDie {d : Nat} {f : Die → Die} (h : Within w s t) : Within w s (t.modDie d f) :=
  h.of_tables rfl rfl rfl rfl

@[simp] theorem Within.modSched {f : Sched → Sched} (h : Within w s t) : Within w s (t.modSched f) :=
  h.of_tables rfl rfl rfl rfl

@[simp] theorem Within.send {o : Out} (h : Within w s t) : Within w s (t.send o) := h.of_tables rfl rfl rfl rfl

@[simp] theorem Within.nextReq {n : Nat} (h : Within w s t) : Within w s { t with nextReq := n } :=
  h.of_tables rfl rfl rfl rfl

@[simp] theorem Within.nextCmd {n : Nat} (h : Within w s t) : Within w s { t with nextCmd := n } :=
  h.of_tables rfl rfl rfl rfl

/-! ### Raising a cause, tokens -/

@[simp] theorem Within.post {die : Nat} {e : EvRec} (h : Within w s t) : Within w s (t.post die e) := by
  unfold State.post
  extract_lets d q n rec64 hub s'
  split
  · exact h.setDie
  · exact h.setDie.send.send

theorem Within.missRecord {die : Nat} {ctx : BitVec 4} {vpn : Nat} (h : Within w s t) :
    Within w s (t.missRecord die ctx vpn) := by
  unfold State.missRecord
  split
  · exact h.post
  · exact h

theorem Within.posRecord {die ctx req tpg : Nat} (h : Within w s t) : Within w s (t.posRecord die ctx req tpg) := by
  unfold State.posRecord
  split
  · exact h.post
  · exact h

theorem Within.softMiss {die : Nat} {ctx : BitVec 4} {c : Cause} {detail : Word} (h : Within w s t) :
    Within w s (t.softMiss die ctx c detail) := by
  unfold State.softMiss
  split
  · exact h.missRecord
  · exact h.posRecord
  · exact h

theorem Within.postLate {st : StrandRef} {i : StopInfo} (h : Within w s t) : Within w s (t.postLate st i) := by
  unfold State.postLate
  split
  · exact h.post
  · exact h

theorem Within.stop {st : StrandRef} {x : Stop} (h : Within w s t) :
    Within w s (t.modStrand st fun z => { z with stop := x }) := h.modStrand fun _ => SameStrandRegs.refl _

@[simp] theorem Within.raise {c : Cause} {pt : Point} {tepc : BitVec 48} {pix : Nat} {detail : Word}
    (h : Within w s t) :
    Within w s (t.raise r c pt tepc pix detail) := by
  unfold State.raise
  extract_lets st i stopFor
  split
  · exact h.softMiss.stop
  · split
    · exact h.postLate.stop
    · exact h.postLate
  · exact h.postLate

theorem Within.push {st : StrandRef} {q : BitVec 3} {n : Nat} (h : Within w s t) :
    Within w s (t.modStrand st fun z => z.push q n) := h.modStrand fun _ => SameStrandRegs.refl _

@[simp] theorem Within.pushPost {post : Option (BitVec 3)} {addr : BitVec 48} {pix : Nat} (h : Within w s t) :
    Within w s (t.pushPost r post addr pix) := by
  unfold State.pushPost State.pushPost?
  split
  · next u e =>
    unfold State.pushTok at e
    split at e
    · cases e
      exact h
    · split at e
      · cases e
      · cases e
        exact h.push
  · exact h.raise

@[simp] theorem Within.popQ {q : BitVec 3} {n : Nat} (h : Within w s t) : Within w s (t.popQ r q n) := by
  unfold State.popQ
  exact Within.modSeq (h.modStrand fun _ => SameStrandRegs.refl _) fun _ => ⟨rfl, rfl, rfl⟩

/-! ### Issuing -/

@[simp] theorem Within.popWq {hd : Hdr} (h : Within w s t) : Within w s (t.popWq r hd) := by
  unfold State.popWq
  split
  · exact h.popQ.modSeq fun _ => ⟨rfl, rfl, rfl⟩
  · exact h

@[simp] theorem Within.popPlan {x : Option (BitVec 3 × Nat)} (h : Within w s t) : Within w s (t.popPlan r x) := by
  unfold State.popPlan
  split
  · exact h.popQ
  · exact h

@[simp] theorem Within.takePermit {k : Option Permit} (h : Within w s t) : Within w s (t.takePermit r k) := by
  unfold State.takePermit
  split
  · exact h.modCluster fun _ => SameEngines.refl _
  · exact h

@[simp] theorem Within.advance {hd : Hdr} (h : Within w s t) : Within w s (t.advance hd) := by
  unfold State.advance
  extract_lets s1
  have h1 : Within w s s1 := h.modMe fun _ => ⟨rfl, rfl, rfl⟩
  split
  · exact h1.modStrand fun _ => SameStrandRegs.refl _
  · exact h1

@[simp] theorem Within.waits {i : Instr} {x : Wait} (h : Within w s t) : Within w s (t.waits r i x) :=
  h.modSeq fun _ => ⟨rfl, rfl, rfl⟩

@[simp] theorem popPlan_cur (x : Option (BitVec 3 × Nat)) : (s.popPlan r x).cur = s.cur := by
  unfold State.popPlan
  split <;> rfl

@[simp] theorem takePermit_cur (k : Option Permit) : (s.takePermit r k).cur = s.cur := by
  unfold State.takePermit
  split <;> rfl

@[simp] theorem advance_cur (hd : Hdr) : (s.advance hd).cur = s.cur := by
  unfold State.advance
  extract_lets s1
  split <;> rfl

/-- Checks, waits and pops write nothing that the frame names: what an instruction writes is what its effect writes. -/
theorem issue_within {i : Instr} {hd : Hdr} {p : Plan} {act : State → Res} (hc : s.cur = .seq r)
    (ha : ∀ t, Within w s t → t.cur = .seq r → Res.Within w s (act t)) : Res.Within w s (s.issue i hd p act) := by
  have h0 := Within.refl w s
  have htrap (c : Cause) (x : Word) : Res.Within w s (s.trapHere c x) := by
    simp only [State.trapHere, hc]
    exact Res.within_next.mpr h0.raise
  have hdefer : Res.Within w s (act (s.takePermit r p.permit)) :=
    ha _ h0.takePermit (by simp [hc])
  have hissue : Res.Within w s (act ((((s.popWq r hd).popPlan r p.tokens).takePermit r p.permit).advance hd)) :=
    ha _ h0.popWq.popPlan.takePermit.advance (by simp [hc])
  simp only [State.issue, hc, State.issueSeq]
  (repeat' split) <;> simp [htrap, h0, hdefer, hissue]

/-! ### What effects are made of -/

@[simp] theorem Within.finishAt {hd : Hdr} {addr : BitVec 48} (h : Within w s t) : Within w s (t.finishAt hd addr) := by
  unfold State.finishAt
  split
  · exact h.pushPost
  · exact h

@[simp] theorem Within.finish {hd : Hdr} (h : Within w s t) : Within w s (t.finish hd) := h.finishAt

@[simp] theorem Within.jump {a : BitVec 48} (h : Within w s t) : Within w s (t.jump a) :=
  h.modMe fun _ => ⟨rfl, rfl, rfl⟩

@[simp] theorem Within.openValue (h : Within w s t) : Within w s t.openValue.1 := h.of_tables rfl rfl rfl rfl

@[simp] theorem Within.jumpTo {fixed : Bool} {a : BitVec 48} (h : Within w s t) : Within w s (t.jumpTo fixed a) := by
  unfold State.jumpTo
  split
  · exact h.jump
  · exact h.openValue.jump

@[simp] theorem Within.acquire (h : Within w s t) : Within w s t.acquire := h.modMe fun _ => ⟨rfl, rfl, rfl⟩

/-- A fixed-latency operation writes its result when it lands, not as it issues (R61). -/
theorem launchOp_within {i : Instr} {hd : Hdr} {dest : Dest} {lat : Nat} {v o1 o2 o3 : Word} {op : LandOp}
    (h : Within w s t) (hc : t.cur = .seq r) : Res.Within w s (t.launchOp i hd dest lat v o1 o2 o3 op) := by
  simp only [State.launchOp, hc]
  exact Res.within_next.mpr (h.modSeq fun _ => ⟨rfl, rfl, rfl⟩)

theorem Within.setQueue {e : Engine} {c : Seq → List Cmd} (h : Within w s t) :
    Within w s (t.modSeq r fun q => q.setQueue e (c q)) :=
  h.modSeq fun _ => by cases e <;> exact ⟨rfl, rfl, rfl⟩

@[simp] theorem Within.enqueue {e : Engine} {i : Instr} {hd : Hdr} {xd xa xb : Word} {tids : List (BitVec 512)}
    {lfsr : BitVec 32} (h : Within w s t) : Within w s (t.enqueue r e i hd xd xa xb tids lfsr) := h.nextCmd.setQueue

theorem Within.reserve {n : Nat} (h : Within w s t) (hw : w.engines = true) : Within w s (t.reserve r n).1 := by
  show Within w s (t.modCluster r.die r.cl fun c => { c with lfsr := lfsrWords (t.cluster r.die r.cl).lfsr n })
  exact h.writeCluster hw

theorem Within.setWheel {n : BitVec 4} {v : Wheel} (h : Within w s t) (hw : w.engines = true) :
    Within w s (t.setWheel r n v) := h.writeCluster hw

@[simp] theorem Within.modCounter {die n : Nat} {f : Counter → Counter} (h : Within w s t) :
    Within w s (t.modCounter die n f) := h.modDie

@[simp] theorem Within.counterAdd {die n k : Nat} (h : Within w s t) : Within w s (t.counterAdd die n k) := by
  unfold State.counterAdd
  extract_lets c v
  split
  · exact h.modCounter
  · exact h.modCounter.post

@[simp] theorem Within.modQpair {die n : Nat} {f : QPair → QPair}
    (h : Within w s t) : Within w s (t.modQpair die n f) :=
  h.modDie

theorem Within.modRange {rr : RangeRef} {f : Range → Range} (h : Within w s t) (hw : w.engines = true) :
    Within w s (t.modRange rr f) := by
  unfold State.modRange
  split
  · exact h.writeCluster hw
  · exact h.modDie

theorem Within.clearWords {m : RMem} {a n : Nat} (h : Within w s t) (hw : w.engines = true) :
    Within w s (t.clearWords m a n) := by
  unfold State.clearWords
  split
  · exact h.writeCluster hw
  · exact h.modDie

theorem Within.reach {die rid : Nat} {q : TupReq} (h : Within w s t) : Within w s (t.reach die rid q) :=
  h.of_tables rfl rfl rfl rfl

@[simp] theorem Within.sendTuple {o : TupOut} {g : Target} {block : List Byte} (h : Within w s t) :
    Within w s (t.sendTuple r o g block) := by
  unfold State.sendTuple
  obtain ⟨kind, nb, tmo, lab⟩ := tupFields o.ins
  cases g with
  | home die rid => exact Within.reach (h.modSeq fun _ => ⟨rfl, rfl, rfl⟩)
  | far mid => exact Within.send (h.modSeq fun _ => ⟨rfl, rfl, rfl⟩)

@[simp] theorem Within.append {ctx : BitVec 4} {queue : Nat} {hdr : List Byte} (h : Within w s t) :
    Within w s (t.append ctx queue hdr).1 := h.of_tables rfl rfl rfl rfl

/-! ### Results at issue, and instructions that hold their sequencer -/

/-- A register written in the step of issue. -/
theorem Within.putNow {d : Reg} {v : Word} (h : Within w s t) (hc : t.cur = .seq r) (hw : w.reg = some (seqKey r, d)) :
    Within w s (t.putNow d v) := by
  have e : t.putNow d v = t.modSeq r fun q => q.putX d v (t.seq r).no t.cycles := by
    simp only [State.putNow, State.modMe, State.modSeqAt, hc]
    rfl
  exact e ▸ h.putX hw

theorem Within.endHold {c : Cmd} {d : Reg} {v : Word} (h : Within w s t) (hc : t.cur = .seq r)
    (hw : w.reg = some (seqKey r, d)) : Within w s (t.endHold c d v) :=
  endHold_seq hc d v ▸ (h.putX hw).pushPost

theorem Within.unpop {st : StrandRef} {q : Option (BitVec 3)} (h : Within w s t) : Within w s (t.unpop st q) := by
  unfold State.unpop
  split
  · split
    · exact h.push
    · exact h
  · exact h

theorem Within.recall {c : Cmd} (h : Within w s t) : Within w s (t.recall r c) :=
  h.unpop.modSeq fun _ => ⟨rfl, rfl, rfl⟩

/-- What an instruction that holds its sequencer comes to is in the frame, whether it goes on holding it or not. -/
theorem holdIn_within {c : Cmd} {x : Wait} {f : State → Cmd → Hold} (h : Within w s (f t c).state) :
    Res.Within w s (t.holdIn c x f) := by
  unfold State.holdIn
  cases hf : f t c with
  | stays u =>
    rw [hf] at h
    exact Res.within_next.mpr (Within.modMe h fun _ => ⟨rfl, rfl, rfl⟩)
  | ends u =>
    rw [hf] at h
    exact Res.within_next.mpr h

theorem Within.fenceHold {c : Cmd} (h : Within w s t) : Within w s (fenceHold t c).state := by
  unfold Machine.fenceHold
  split
  · exact h
  · exact h.acquire.finishAt

section holds
variable {c : Cmd} {d : Reg} (h : Within w s t) (hc : t.cur = .seq r) (hw : w.reg = some (seqKey r, d))
include h hc hw

theorem Within.fcrdHold {which : BitVec 2} : Within w s (fcrdHold which d t c).state := by
  simp only [Machine.fcrdHold, hc]
  split
  · exact h
  · exact h.endHold hc hw

theorem Within.fcclrHold : Within w s (fcclrHold d t c).state := by
  simp only [Machine.fcclrHold, hc]
  split
  · exact h
  · exact Within.endHold (h.modCluster fun _ => SameEngines.refl _) hc hw

theorem Within.cwaitHold : Within w s (cwaitHold d t c).state := by
  simp only [Machine.cwaitHold, hc]
  split
  · exact Within.endHold (h.modMe fun _ => ⟨rfl, rfl, rfl⟩) hc hw
  · exact h

theorem Within.lnchHold {nb : Bool} {lq : Nat} : Within w s (lnchHold nb d lq t c).state := by
  simp only [Machine.lnchHold, hc]
  split
  · exact Within.endHold h.append hc hw
  · split
    · exact h.endHold hc hw
    · exact h

/-- A WTAG that takes its first record writes the arrival registers, X[D] and the program counter (R88). -/
theorem Within.wtagTake {a : Arrival} {n : Nat} (hz : w.strands = true) : Within w s (t.wtagTake r c d a n) := by
  unfold State.wtagTake
  extract_lets z v target s1
  have h1 : Within w s s1 := h.writeStrand hz
  have hc1 : s1.cur = .seq r := hc
  clear_value s1
  exact Within.endHold (h1.modSeq fun _ => ⟨rfl, rfl, rfl⟩) hc1 hw

theorem Within.wtagHold (hz : w.strands = true) : Within w s (wtagHold d t c).state := by
  have h1 (l : List Arrival) : Within w s (t.modStrand (strandOf r) fun z => { z with arrivals := l }) :=
    h.writeStrand hz
  simp only [Machine.wtagHold, hc]
  split
  · split
    · exact (h1 _).endHold hc hw
    · exact h1 _
  · split
    · exact (h1 _).recall.raise
    · exact (h1 _).wtagTake hc hw hz

end holds

/-! ### Families of instructions -/

theorem andThen_within {x : Res} {f : State → State} (h : Res.Within w s x)
    (hf : ∀ t, Within w s t → Within w s (f t)) : Res.Within w s (andThen x f) := by
  cases x with
  | next t => exact Res.within_next.mpr (hf t (Res.within_next.mp h))
  | fault e => exact fun _ e => nomatch e
  | refused e => exact fun _ e => nomatch e

/-- LFSR words are reserved only where there are some to reserve. -/
theorem Within.reserveSome {n : Nat} (h : Within w s t) (hn : n = 0 ∨ w.engines = true) :
    Within w s (if n = 0 then (t, 0) else t.reserve r n).1 := by
  split
  · exact h
  · next hne => exact h.reserve (hn.resolve_left hne)

section families
variable (hc : s.cur = .seq r)
include hc

/-- A fixed-latency operation that issues is in flight. -/
theorem issueOp_within {i : Instr} {hd : Hdr} {p : Plan} {dest : Dest} {lat : Nat} {v o1 o2 o3 : Word} :
    Res.Within w s (s.issue i hd p fun t => t.launchOp i hd dest lat v o1 o2 o3) :=
  issue_within hc fun _ ht hcur => launchOp_within ht hcur

theorem alu_within {i : Instr} {hd : Hdr} {op : AluOp} {d a : Reg} {y : Word} : Res.Within w s (s.alu i hd op d a y) :=
  issueOp_within hc

theorem cmp_within {i : Instr} {hd : Hdr} {op : Machine.Rel} {pd : BitVec 3} {a : Reg} {y : Word} :
    Res.Within w s (s.cmp i hd op pd a y) := issueOp_within hc

theorem plog_within {i : Instr} {hd : Hdr} {op : PLog} {pd : BitVec 3} {x y : Bool} :
    Res.Within w s (s.plog i hd op pd x y) := issueOp_within hc

theorem li_within {i : Instr} {hd : Hdr} {f : Nat} {d : Reg} {lit : BitVec 32} : Res.Within w s (s.li i hd f d lit) :=
  issueOp_within hc

theorem fsc_within {i : Instr} {hd : Hdr} {op : FscOp} {rm : RMode} {d a b : Reg} :
    Res.Within w s (s.fsc i hd op rm d a b) := issueOp_within hc

theorem fsf_within {i : Instr} {hd : Hdr} {op : FsfOp} {d a : Reg} : Res.Within w s (s.fsf i hd op d a) :=
  issueOp_within hc

theorem copyCmd_within {i : Instr} {hd : Hdr} {d a b : Reg} {early late : Option Cause} {n : Nat}
    {tids : List (BitVec 512)} (hn : n = 0 ∨ w.engines = true) :
    Res.Within w s (s.copyCmd i hd d a b early late n tids) := by
  simp only [State.copyCmd, hc]
  refine issue_within hc fun t ht _ => ?_
  have h1 := ht.reserveSome (r := r) hn
  revert h1
  generalize (if n = 0 then (t, 0) else t.reserve r n) = p
  exact fun h1 => Res.within_next.mpr h1.enqueue

theorem rowsCmd_within {i : Instr} {hd : Hdr} {gath pos : Bool} {tn tm : BitVec 8} {d a b : Reg} :
    Res.Within w s (s.rowsCmd i hd gath pos tn tm d a b) := by
  simp only [State.rowsCmd, hc]
  split <;> exact copyCmd_within hc (.inl rfl)

theorem vecCmd_within {i : Instr} {hd : Hdr} {d a b : Reg} (hn : vecWords i = 0 ∨ w.engines = true) :
    Res.Within w s (s.vecCmd i hd d a b) := by
  simp only [State.vecCmd, hc]
  split
  · exact issue_within hc fun t ht _ => Res.within_next.mpr ht
  · refine issue_within hc fun t ht _ => ?_
    have h1 := ht.reserveSome (r := r) hn
    revert h1
    generalize (if vecWords i = 0 then (t, 0) else t.reserve r (vecWords i)) = p
    exact fun h1 => Res.within_next.mpr h1.enqueue

theorem vred_within {i : Instr} {hd : Hdr} {fmt : Fmt} {z : BitVec 2} {a : Reg} {v : VecLitA} {op : LandOp}
    {form : List ExtNum → BitVec 32} : Res.Within w s (s.vred i hd fmt z a v op form) := by
  simp only [State.vred, hc]
  refine issue_within hc fun t ht hcur => ?_
  split
  · exact Res.within_next.mpr ht.finish
  · split
    · exact Res.within_next.mpr ht.raise
    · exact launchOp_within ht hcur

theorem loadOp_within {i : Instr} {hd : Hdr} {n : Nat} {sg : Bool} {d a : Reg} {off : BitVec 16} :
    Res.Within w s (s.loadOp i hd n sg d a off) := by
  simp only [State.loadOp, hc]
  split
  · exact Res.within_next.mpr (.refl w s)
  · refine issue_within hc fun t ht hcur => ?_
    split
    · split
      · exact Res.within_next.mpr ht.raise
      · exact launchOp_within ht hcur
    · exact Res.within_next.mpr ht

/-- A store writes its cluster (R187). -/
theorem storeOp_within {i : Instr} {hd : Hdr} {n : Nat} {a b : Reg} {off : BitVec 16} (hw : w.engines = true) :
    Res.Within w s (s.storeOp i hd n a b off) := by
  simp only [State.storeOp, hc]
  split
  · exact Res.within_next.mpr (.refl w s)
  · refine issue_within hc fun t ht _ => Res.within_next.mpr (Within.finish ?_)
    split
    · exact ht.writeCluster hw
    · exact ht.writeCluster hw
    · exact ht

theorem tuple_within {i : Instr} {hd : Hdr} {k : AccKind} {n : Nat} {a b : Reg} :
    Res.Within w s (s.tuple i hd k n a b) := by
  simp only [State.tuple, hc]
  refine issue_within hc fun t ht _ => ?_
  split
  · exact Res.within_next.mpr ht
  · exact Res.within_next.mpr ht.nextReq.waits.sendTuple

theorem wheelOp_within {i : Instr} {hd : Hdr} {x : BitVec 4} {ok : Wheel → Bool} {act : State → Wheel → Res}
    (ha : ∀ t, Within w s t → t.cur = .seq r → Res.Within w s (act t (t.wheel r x))) :
    Res.Within w s (s.wheelOp i hd r x ok act) := issue_within hc ha

theorem wheelWait_within {i : Instr} {hd : Hdr} {d : Reg} {x : BitVec 4} {ready : Wheel → Bool} {buf : Wheel → Nat} :
    Res.Within w s (s.wheelWait i hd d x ready buf) := by
  simp only [State.wheelWait, hc]
  exact issue_within hc fun t ht hcur => launchOp_within ht.acquire hcur

theorem branch_within {i : Instr} {hd : Hdr} {bd : BitVec 2} {taken : Bool} :
    Res.Within w s (s.branch i hd bd taken) := by
  refine issue_within hc fun t ht _ => Res.within_next.mpr (Within.finishAt ?_)
  split
  · exact ht.jumpTo
  · exact ht

/-! ### Branches, tokens and order -/

theorem execPbr_within {hd : Hdr} {bd : BitVec 2} {tgt : PbrTarget} :
    Res.Within w s (execPbr hd bd tgt s) :=
  issue_within hc fun _ ht hcur =>
    Res.within_ite (launchOp_within ht.openValue hcur) (launchOp_within ht hcur)

theorem execCall_within {hd : Hdr} {bd : BitVec 2} :
    Res.Within w s (execCall hd bd s) :=
  issue_within hc fun _ ht hcur => andThen_within (launchOp_within ht hcur) fun _ hu => hu.jumpTo

theorem execRet_within {hd : Hdr} :
    Res.Within w s (execRet hd s) :=
  issue_within hc fun _ ht _ => Res.within_next.mpr ht.jumpTo.finishAt

theorem execEndI_within {hd : Hdr} :
    Res.Within w s (execEndI hd s) :=
  issue_within hc fun _ ht _ => Res.within_next.mpr (Within.finish (ht.modMe fun _ => ⟨rfl, rfl, rfl⟩))

theorem execYield_within {hd : Hdr} :
    Res.Within w s (execYield hd s) := by
  refine issue_within hc fun t ht _ => Res.within_next.mpr ?_
  have h1 : Within w s ((t.modMe fun q => { q with sw := true }).finish hd) :=
    Within.finish (ht.modMe fun _ => ⟨rfl, rfl, rfl⟩)
  split
  · split
    · exact h1.raise
    · exact h1
  · exact h1

theorem execBrk_within {hd : Hdr} :
    Res.Within w s (execBrk hd s) := by
  refine issue_within hc fun t ht _ => Res.within_next.mpr ?_
  simp only [hc]
  split
  · exact ht.finish
  · exact ht.finish.raise

theorem execTrap_within {hd : Hdr} {n : BitVec 5} {m : BitVec 16} :
    Res.Within w s (execTrap hd n m s) := by
  refine issue_within hc fun t ht _ => Res.within_next.mpr ?_
  simp only [hc]
  exact ht.raise

theorem execPhase_within {hd : Hdr} {scope : Scope} :
    Res.Within w s (execPhase hd scope s) :=
  issue_within hc fun _ ht _ => Res.within_next.mpr <|
    Within.finish <| Within.ite (ht.modMe fun _ => ⟨rfl, rfl, rfl⟩) ht.acquire

theorem execTkp_within {hd : Hdr} {q : BitVec 3} {n : Reg} :
    Res.Within w s (execTkp hd q n s) := by
  simp only [execTkp, hc]
  exact issue_within hc fun t ht _ => Res.within_next.mpr ht.push.finish

theorem execTkw_within {hd : Hdr} {q : BitVec 3} {n : Reg} :
    Res.Within w s (execTkw hd q n s) := by
  simp only [execTkw, hc]
  exact issue_within hc fun t ht _ => Res.within_next.mpr ht.finish

theorem execTkq_within {hd : Hdr} {d : Reg} {q : BitVec 3} :
    Res.Within w s (execTkq hd d q s) := by
  simp only [execTkq, hc]
  exact issueOp_within hc

theorem execCsrw_within {hd : Hdr} {csr : BitVec 12} {a : Reg} :
    Res.Within w s (execCsrw hd csr a s) := by
  simp only [execCsrw, hc]
  exact issueOp_within hc

/-! ### Wheels -/

theorem execWinit_within {hd : Hdr} {x : BitVec 4} {a b : Reg} (hw : w.engines = true) :
    Res.Within w s (execWinit hd x a b s) := by
  simp only [execWinit, hc]
  exact issue_within hc fun t ht _ => Res.within_next.mpr (ht.setWheel hw).finish

theorem execWclm_within {hd : Hdr} {d : Reg} {x : BitVec 4} (hw : w.engines = true) :
    Res.Within w s (execWclm hd d x s) := by
  simp only [execWclm, hc]
  exact wheelOp_within hc fun t ht hcur => launchOp_within (ht.setWheel hw).acquire hcur

theorem execWpub_within {hd : Hdr} {x : BitVec 4} (hw : w.engines = true) :
    Res.Within w s (execWpub hd x s) := by
  simp only [execWpub, hc]
  exact wheelOp_within hc fun t ht _ => Res.within_next.mpr (ht.setWheel hw).finish

theorem execWrel_within {hd : Hdr} {x : BitVec 4} (hw : w.engines = true) :
    Res.Within w s (execWrel hd x s) := by
  simp only [execWrel, hc]
  exact wheelOp_within hc fun t ht _ => Res.within_next.mpr (ht.setWheel hw).finish

/-! ### Requests and commands -/

theorem execLds_within {hd : Hdr} {sz : BitVec 2} {sg : Bool} {d a : Reg} {off : LdsOff} :
    Res.Within w s (execLds hd sz sg d a off s) := by
  simp only [execLds, hc]
  refine issue_within hc fun t ht _ => ?_
  split
  · exact Res.within_next.mpr (ht.modSeq fun _ => ⟨rfl, rfl, rfl⟩)
  · exact Res.within_next.mpr ht

theorem execTcnl_within {hd : Hdr} {d a b : Reg} :
    Res.Within w s (execTcnl hd d a b s) := by
  simp only [execTcnl, hc]
  refine issue_within hc fun t ht _ => ?_
  split
  · exact Res.within_next.mpr ht
  · exact Res.within_next.mpr ht.nextReq.waits.sendTuple

theorem execCpyt_within {hd : Hdr} {tn tm : BitVec 8} {d a b : Reg} :
    Res.Within w s (execCpyt hd tn tm d a b s) := by
  simp only [execCpyt, hc]
  split <;> exact copyCmd_within hc (.inl rfl)

theorem execCpyx_within {hd : Hdr} {sr sat : Bool} {rm : RMode} {pos app tr : Bool} {tn tm : BitVec 8} {d a b : Reg}
    (hw : w.engines = true) :
    Res.Within w s (execCpyx hd sr sat rm pos app tr tn tm d a b s) := by
  simp only [execCpyx, hc]
  split
  · exact copyCmd_within hc (.inl rfl)
  · exact copyCmd_within hc (.inr hw)

theorem execLand_within {hd : Hdr} {fmt : Fmt} {d a b : Reg} {mac : BitVec 6} {slot cnt : BitVec 3} :
    Res.Within w s (execLand hd fmt d a b mac slot cnt s) := by
  simp only [execLand, hc]
  exact issue_within hc fun t ht _ => Res.within_next.mpr (ht.nextCmd.modSeq fun _ => ⟨rfl, rfl, rfl⟩)

theorem execAclr_within {hd : Hdr} {a b : Reg} :
    Res.Within w s (execAclr hd a b s) := by
  simp only [execAclr, hc]
  exact issue_within hc fun t ht _ => Res.within_next.mpr ht.enqueue

theorem execAdrn_within {hd : Hdr} {sr sat : Bool} {rm : RMode} {clr tr : Bool} {tn : BitVec 8} {d a b : Reg}
    {lda : BitVec 17} (hw : w.engines = true) :
    Res.Within w s (execAdrn hd sr sat rm clr tr tn d a b lda s) := by
  simp only [execAdrn, hc]
  refine issue_within hc fun t ht _ => ?_
  have h1 (n : Nat) := ht.reserveSome (r := r) (n := n) (.inr hw)
  exact Res.within_next.mpr (h1 _).enqueue

theorem mmCmd_within {i : Instr} {hd : Hdr} {m : MmCmd} {tA tB : BitVec 8} {d a b : Reg} :
    Res.Within w s (s.mmCmd i hd m tA tB d a b) := by
  simp only [State.mmCmd, hc]
  exact issue_within hc fun t ht _ => Res.within_next.mpr ht.enqueue

theorem atnCmd_within {i : Instr} {hd : Hdr} {d a b : Reg} {early : Option Cause}
    {tids : SeqRef → Except Cause (List (BitVec 512))} : Res.Within w s (s.atnCmd i hd d a b early tids) := by
  simp only [State.atnCmd, hc]
  exact issue_within hc fun t ht _ => Res.within_next.mpr ht.enqueue

theorem remoteCmd_within {i : Instr} {hd : Hdr} {d a b : Reg} : Res.Within w s (s.remoteCmd i hd d a b) := by
  simp only [State.remoteCmd, hc]
  split
  · exact issue_within hc fun t ht _ => Res.within_next.mpr ht
  · exact issue_within hc fun t ht _ => Res.within_next.mpr ht.enqueue

theorem atomicCmd_within {i : Instr} {hd : Hdr} {a b : Reg} : Res.Within w s (s.atomicCmd i hd a b) := by
  unfold State.atomicCmd
  split
  · exact issue_within hc fun t ht _ => Res.within_next.mpr (ht.modMe fun _ => ⟨rfl, rfl, rfl⟩)
  · exact issue_within hc fun t ht _ => Res.within_next.mpr ht

/-! ### Counters and queue pairs -/

theorem execCarm_within {hd : Hdr} {a b : Reg} :
    Res.Within w s (execCarm hd a b s) := by
  simp only [execCarm, hc]
  exact issue_within hc fun t ht _ => Res.within_next.mpr ht.modCounter.finish

theorem execCadd_within {hd : Hdr} {a b : Reg} : Res.Within w s (execCadd hd a b s) := by
  simp only [execCadd, hc]
  split
  · exact issue_within hc fun t ht _ => Res.within_next.mpr ht.counterAdd.finish
  · refine issue_within hc fun t ht _ => ?_
    split
    · exact Res.within_next.mpr ht.finish
    · exact Res.within_next.mpr (Within.send (ht.nextReq.modMe fun _ => ⟨rfl, rfl, rfl⟩))

theorem execQslot_within {hd : Hdr} {acc clr : Bool} {a b : Reg} (hw : w.engines = true) :
    Res.Within w s (execQslot hd acc clr a b s) := by
  simp only [execQslot, hc]
  refine issue_within hc fun t ht _ => Res.within_next.mpr (Within.finish ?_)
  split
  · exact (ht.modRange hw).clearWords hw
  · exact ht.modRange hw

theorem execCrd_within {hd : Hdr} {d a : Reg} (hw : w.reg = some (seqKey r, d)) :
    Res.Within w s (execCrd hd d a s) := by
  simp only [execCrd, hc]
  exact issue_within hc fun t ht hcur => Res.within_next.mpr (ht.putNow hcur hw).finish

theorem execQpost_within {hd : Hdr} {nb : Bool} {d a : Reg} {qp : BitVec 6} (hw : w.reg = some (seqKey r, d)) :
    Res.Within w s (execQpost hd nb d a qp s) := by
  simp only [execQpost, hc]
  refine issue_within hc fun t ht hcur => ?_
  split
  · exact Res.within_next.mpr (ht.putNow hcur hw).finish
  · exact Res.within_next.mpr (Within.putNow ht.modQpair hcur hw).finish

theorem execTagq_within {hd : Hdr} {d a : Reg} {which : BitVec 2} (hw : w.reg = some (seqKey r, d)) :
    Res.Within w s (execTagq hd d a which s) :=
  issue_within hc fun _ ht hcur => Res.within_next.mpr (ht.putNow hcur hw).finish

/-! ### Instructions that hold their sequencer -/

theorem execFenceE_within {hd : Hdr} :
    Res.Within w s (execFenceE hd s) :=
  issue_within hc fun _ ht _ => holdIn_within ht.fenceHold

theorem execFcrd_within {hd : Hdr} {d : Reg} {which : BitVec 2} (hw : w.reg = some (seqKey r, d)) :
    Res.Within w s (execFcrd hd d which s) :=
  issue_within hc fun _ ht hcur => holdIn_within (ht.fcrdHold hcur hw)

theorem execFcclr_within {hd : Hdr} {d : Reg} (hw : w.reg = some (seqKey r, d)) :
    Res.Within w s (execFcclr hd d s) :=
  issue_within hc fun _ ht hcur => holdIn_within (ht.fcclrHold hcur hw)

theorem execCwait_within {hd : Hdr} {d a b : Reg} {tmo : BitVec 16} (hw : w.reg = some (seqKey r, d)) :
    Res.Within w s (execCwait hd d a b tmo s) := by
  simp only [execCwait, hc]
  exact issue_within hc fun t ht hcur => holdIn_within (ht.cwaitHold hcur hw)

theorem execWtag_within {hd : Hdr} {d : Reg} {tmo : BitVec 16} (hw : w.reg = some (seqKey r, d))
    (hz : w.strands = true) :
    Res.Within w s (execWtag hd d tmo s) := by
  simp only [execWtag, hc]
  exact issue_within hc fun t ht hcur => holdIn_within (ht.wtagHold hcur hw hz)

theorem execLnch_within {hd : Hdr} {nb : Bool} {d a : Reg} {lq : BitVec 6} (hw : w.reg = some (seqKey r, d)) :
    Res.Within w s (execLnch hd nb d a lq s) := by
  simp only [execLnch, State.lnchSeq, State.launchWith, hc]
  exact issue_within hc fun t ht hcur => holdIn_within (ht.lnchHold hcur hw)

end families

/-! ### Each instruction -/

/-- What an instruction of sequencer `r` may write as it issues. -/
def writesOf (i : Instr) (r : SeqRef) : Writes :=
  ⟨(resultAtIssue i).map (seqKey r, ·), writesCluster i, i matches .wtag ..⟩

/-- An instruction of a sequencer writes no more than that, whether it issues, waits or traps. -/
theorem exec_within {i : Instr} (hi : i.toRaw.isSome = true) (hc : s.cur = .seq r) :
    Res.Within (writesOf i r) s (exec i s) := by
  cases i with
  | add | sub | and | or | xor | andn | shl | shr | sra | rol | min | max | minu | maxu | mul | mulh | mulhu |
    div | divu | rem | remu | clz | popc | abs | addi | andi | ori | xori | shli | shri | srai | roli | mini |
    maxi | muli =>
    exact alu_within hc
  | liz | lis | lih => exact li_within hc
  | eq | ne | lt | ltu | ge | geu | eqi | nei | lti | ltui | gei | geui => exact cmp_within hc
  | pand | por | pxor | pnot | pmov => exact plog_within hc
  | fadd | fsub | fmul | ffma | fmin | fmax | fabs | fneg | fcmpeq | fcmplt | fcmple | fcvti | fcvtf =>
    exact fsc_within hc
  | exp2 | log2 | rcp | rsqrt | sqrt | tanh | sin | cos => exact fsf_within hc
  | sel | tagb | tagbClr | zget | zset | zclr | setfid | csrr | tsr => exact issueOp_within hc
  | ldb | ldh | ldw | ldd | ldbs | ldhs | ldws => exact loadOp_within hc
  | stb | sth | stw | std => exact storeOp_within hc rfl
  | brt | brf | bra => exact branch_within hc
  | tdep | tcpy | ttak => exact tuple_within hc
  | vadd | vsub | vmul | vmin | vmax | vand | vor | vxor | vshl | vshr | vfma | vfms | vabs | vneg | vmov |
    vexp2 | vlog2 | vrcp | vrsq | vtanh | vsilu | vceq | vclt | vcle | vsel | vpsum | vamx | vfill | vperm =>
    exact vecCmd_within hc (.inl rfl)
  | vcvt => exact vecCmd_within hc (.inr rfl)
  | vrsum | vrmax | vrmin => exact vred_within hc
  | cpy =>
    unfold exec execCpy
    exact copyCmd_within hc (.inl rfl)
  | cpyr =>
    unfold exec execCpyr
    exact copyCmd_within hc (.inl rfl)
  | gath | scat => exact rowsCmd_within hc
  | wwf =>
    unfold exec execWwf
    exact wheelWait_within hc
  | wwe =>
    unfold exec execWwe
    exact wheelWait_within hc
  | mma | mmak => exact mmCmd_within hc
  | atq | ats | atf => exact atnCmd_within hc
  | aadd | aaddf | awr | aaddx | aaddfx | awrx => exact atomicCmd_within hc
  | rwr | rrd | rwrr => exact remoteCmd_within hc
  | nop => exact issue_within hc fun t ht _ => Res.within_next.mpr ht.finish
  | pbr => exact execPbr_within hc
  | call => exact execCall_within hc
  | ret => exact execRet_within hc
  | endI => exact execEndI_within hc
  | yield => exact execYield_within hc
  | brk => exact execBrk_within hc
  | trap => exact execTrap_within hc
  | phase => exact execPhase_within hc
  | tkp => exact execTkp_within hc
  | tkw => exact execTkw_within hc
  | tkq => exact execTkq_within hc
  | csrw => exact execCsrw_within hc
  | lds => exact execLds_within hc
  | tcnl => exact execTcnl_within hc
  | cpyt => exact execCpyt_within hc
  | land => exact execLand_within hc
  | aclr => exact execAclr_within hc
  | carm => exact execCarm_within hc
  | cadd => exact execCadd_within hc
  | fenceE => exact execFenceE_within hc
  | winit => exact execWinit_within hc rfl
  | wclm => exact execWclm_within hc rfl
  | wpub => exact execWpub_within hc rfl
  | wrel => exact execWrel_within hc rfl
  | cpyx => exact execCpyx_within hc rfl
  | adrn => exact execAdrn_within hc rfl
  | qslot => exact execQslot_within hc rfl
  | crd => exact execCrd_within hc rfl
  | qpost => exact execQpost_within hc rfl
  | tagq => exact execTagq_within hc rfl
  | fcrd => exact execFcrd_within hc rfl
  | fcclr => exact execFcclr_within hc rfl
  | cwait => exact execCwait_within hc rfl
  | lnch => exact execLnch_within hc rfl
  | wtag => exact execWtag_within hc rfl rfl
  | fwd | eret | tld | tlk | tinv | pmld | rply | ctxs | ctxl | idle =>
    simp only [exec, execFwd, execEret, execTld, execTlk, execTinv, execPmld, execRply, execCtxs, execCtxl,
      execIdle, hc]
    exact issue_within hc fun t ht _ => Res.within_next.mpr ht
  | _ => exact nomatch hi

end frame

/-- Settles O52: what an instruction issues stays within the frame of what it may write. -/
theorem issueFrame : Obligations.IssueFrame := by
  intro i s t r hi hc ht
  obtain ⟨hm, hp, hx, ho, he, hz⟩ := exec_within hi hc t ht
  refine ⟨sameMem_of_mem_eq hm, fun hn k => ⟨hx k ?_, hp k⟩, fun d hd => ⟨fun k hk => ⟨hx k ?_, hp k⟩,
    fun j hj => ?_, hp _⟩, he, hz⟩
  · simp [writesOf, hn]
  · simpa [writesOf, hd] using fun e => (hk e.symm).elim
  · exact ho _ j (by simpa [writesOf, hd] using hj.symm)

end Sys2Proof.Machine
end

section
/-! PROOFS. What an instruction of a sequencer, or of a hub, has left once it has issued (R57 to R59). -/

namespace Sys2Proof.Machine

section issuing
variable {s : State} {r : SeqRef} {h : Hdr} {k : Option Permit}

/-- WQ is popped, the permit is taken, the program counter moves on. -/
theorem issued_eq (s : State) (r : SeqRef) (h : Hdr) (k : Option Permit) :
    s.issued r h k = ((s.popWq r h).takePermit r k).advance h := by
  cases k <;> rfl

/-- Issuing writes sequencers, strands and clusters alone. -/
theorem issued_only (s : State) (r : SeqRef) (h : Hdr) (k : Option Permit) :
    ∃ q z c, s.issued r h k = { s with seqs := q, strands := z, clusters := c } := by
  have hpop : ∃ q z, s.popWq r h = { s with seqs := q, strands := z } := by
    unfold State.popWq
    split <;> exact ⟨_, _, rfl⟩
  have hadv (t : State) : ∃ q z, t.advance h = { t with seqs := q, strands := z } := by
    unfold State.advance
    extract_lets t1
    split <;> exact ⟨_, _, rfl⟩
  obtain ⟨q, z, e⟩ := hpop
  obtain ⟨q', z', e'⟩ := hadv ((s.popWq r h).takePermit r k)
  rw [issued_eq, e', e]
  cases k <;> exact ⟨_, _, _, rfl⟩

@[simp] theorem issued_chain : (s.issued r h k).chain = s.chain := by
  obtain ⟨q, z, c, e⟩ := issued_only s r h k
  rw [e]

@[simp] theorem issued_sched : (s.issued r h k).sched = s.sched := by
  obtain ⟨q, z, c, e⟩ := issued_only s r h k
  rw [e]

@[simp] theorem issued_nextCmd : (s.issued r h k).nextCmd = s.nextCmd := by
  obtain ⟨q, z, c, e⟩ := issued_only s r h k
  rw [e]

@[simp] theorem tsc_issued (d : Nat) : (s.issued r h k).tsc d = s.tsc d := by
  obtain ⟨q, z, c, e⟩ := issued_only s r h k
  rw [e]
  rfl

/-- No register is written. -/
theorem issued_within : Within {} s (s.issued r h k) := by
  rw [issued_eq]
  exact (Within.refl _ s).popWq.takePermit.advance

@[simp] theorem getB_issued (n : BitVec 2) : ((s.issued r h k).seq r).getB n = (s.seq r).getB n := by
  obtain ⟨_, hb⟩ := (issued_within (s := s) (r := r) (h := h) (k := k)).preds (seqKey r)
  exact congrArg (Tbl.get ({} : BReg) · n.toNat) hb

/-- Of a strand the tokens and the time of its last step may change. -/
theorem strand_issued (s : State) (r : SeqRef) (h : Hdr) (k : Option Permit) (st : StrandRef) :
    ∃ q f l, (s.issued r h k).strand st = { s.strand st with q := q, qFree := f, lastStep := l } := by
  have hpop : ∃ q f, (s.popWq r h).strand st = { s.strand st with q := q, qFree := f } := by
    unfold State.popWq
    split
    · simp only [State.popQ, strand_modSeq, strand_modStrand]
      split
      · next e =>
        have e' : s.strand (strandOf r) = s.strand st := congrArg s.strandAt e
        exact e' ▸ ⟨_, _, rfl⟩
      · exact ⟨_, _, rfl⟩
    · exact ⟨_, _, rfl⟩
  have hadv (t : State) : ∃ l, (t.advance h).strand st = { t.strand st with lastStep := l } := by
    unfold State.advance
    extract_lets t1
    split
    · next r' _ =>
      rw [strand_modStrand]
      split
      · next e =>
        have e' : t1.strand (strandOf r') = t.strand st := congrArg t.strandAt e
        exact e' ▸ ⟨_, rfl⟩
      · exact ⟨_, rfl⟩
    · exact ⟨_, rfl⟩
  have hpermit (t : State) : (t.takePermit r k).strand st = t.strand st := by
    cases k <;> rfl
  obtain ⟨q, f, e⟩ := hpop
  obtain ⟨l, e'⟩ := hadv ((s.popWq r h).takePermit r k)
  rw [issued_eq, e', hpermit, e]
  exact ⟨q, f, l, rfl⟩

@[simp] theorem arrivals_issued (st : StrandRef) : ((s.issued r h k).strand st).arrivals = (s.strand st).arrivals := by
  obtain ⟨q, f, l, e⟩ := strand_issued s r h k st
  rw [e]

@[simp] theorem arrOvf_issued (st : StrandRef) : ((s.issued r h k).strand st).arrOvf = (s.strand st).arrOvf := by
  obtain ⟨q, f, l, e⟩ := strand_issued s r h k st
  rw [e]

/-! ### The executing agent -/

theorem me_of_seq (hc : s.cur = .seq r) : s.me = s.seq r := by
  rw [State.me, hc]
  rfl

theorem modMe_of_seq (hc : s.cur = .seq r) (f : Seq → Seq) : s.modMe f = s.modSeq r f := by
  rw [State.modMe, hc]
  rfl

theorem modMe_of_hub {d : Nat} (hc : s.cur = .hub d) (f : Seq → Seq) : s.modMe f = s.modSeqAt (hubKey d) f := by
  rw [State.modMe, hc]
  rfl

theorem cur_issued (hc : s.cur = .seq r) : (s.issued r h k).cur = .seq r := (issued_cur ..).trans hc

@[simp] theorem putX_pc (q : Seq) (d : Reg) (v : Word) (no now : Nat) : (q.putX d v no now).pc = q.pc := by
  unfold Seq.putX
  extract_lets
  split
  · rfl
  · exact setX_pc q d v

/-- A token pushed at an address by a sequencer (R57). -/
theorem finishAt_of_seq (hc : s.cur = .seq r) (a : BitVec 48) : s.finishAt h a = s.pushPost r h.pq a := by
  simp only [State.finishAt, hc]

theorem finish_issued {u : State} (hc : s.cur = .seq r) (hu : u.cur = .seq r)
    (hp : (u.seq r).pc = ((s.issued r h k).seq r).pc) : u.finish h = u.finishAt h (s.seq r).pc := by
  have hpc : u.issuePc h = (s.seq r).pc := by
    rw [← issuePc_issued hc h k, State.issuePc, State.issuePc, me_of_seq hu, me_of_seq (cur_issued hc), hp]
  rw [State.finish, hpc]

/-- X[D] written as an instruction issues, with its place in program order (R63). -/
theorem putNow_issued (hc : s.cur = .seq r) (d : Reg) (v : Word) :
    (s.issued r h k).putNow d v = (s.issued r h k).putOn r d v ((s.seq r).no + 1) := by
  have hno := no_issued hc h k
  rw [me_of_seq (cur_issued hc)] at hno
  rw [State.putNow, modMe_of_seq (cur_issued hc), State.putOn, State.modSeq, State.modSeqAt, State.modSeq, State.modSeqAt,
    ← hno]
  rfl

/-- What is kept of an instruction that has issued and holds its sequencer. -/
theorem heldCmd_issued (hc : s.cur = .seq r) (i : Instr) (xa xb : Word) (w : Option Nat) :
    (s.issued r h k).heldCmd i h xa xb w = s.heldOf (.seq r) i xa xb w := by
  have ha := issuePc_issued hc h k
  have hno := no_issued hc h k
  rw [State.issuePc] at ha
  rw [State.heldCmd, State.heldOf, ha, hno]
  rfl

end issuing

/-- A strand changed twice. -/
theorem Tbl.put_put {α : Type} (t : Tbl α) (k : Nat) (v w : α) : Tbl.put (Tbl.put t k v) k w = Tbl.put t k w := by
  have herase : Tbl.erase (Tbl.put t k v) k = Tbl.erase t k := by
    unfold Tbl.put
    have hk := Tbl.erase_no_key t k
    generalize Tbl.erase t k = u at hk
    induction u with
    | nil => simp [Tbl.insert, Tbl.erase]
    | cons p u ih =>
      obtain ⟨hp, hu⟩ := List.forall_mem_cons.mp hk
      have hself : Tbl.erase u k = u := List.filter_eq_self.mpr fun q hq => bne_iff_ne.mpr (hu q hq)
      have hp' : (p.1 != k) = true := bne_iff_ne.mpr hp
      by_cases hlt : k < p.1
      · simpa [Tbl.insert, hlt, Tbl.erase, hp'] using hself
      · simpa [Tbl.insert, hlt, Tbl.erase, hp'] using ih hu
  rw [Tbl.put, herase, Tbl.put]

theorem modStrand_modStrand (s : State) (st : StrandRef) (f g : Strand → Strand) :
    (s.modStrand st f).modStrand st g = s.modStrand st fun t => g (f t) := by
  have hz : (s.modStrand st f).strand st = f (s.strand st) := by simp
  rw [State.modStrand, hz]
  simp only [State.modStrand, State.setStrandAt, Tbl.put_put]

end Sys2Proof.Machine
end

section
/-! PROOFS. Tags and their entries in the cadence table (O14; R87, R89). -/

namespace Sys2Proof.Machine

section tags
variable {s : State}

/-- R87: a binding holds the low halves of X[B] and X[A]. -/
theorem bindingWord (a b : Word) : zext32 (low32 a) ||| (b <<< 32) = low32 b ++ low32 a := by
  apply BitVec.eq_of_getLsbD_eq
  intro i hi
  rw [BitVec.getLsbD_append]
  by_cases hlt : i < 32
  · simp [zext32, low32, hlt, hi]
  · have hd : i - 32 < 32 := by omega
    simp [zext32, low32, hlt, hi, hd, BitVec.getLsbD_eq_getElem (show i - 32 < 64 by omega)]

/-- R89: the number of the next rotation. -/
theorem lastRot_succ (e : Cadence) : (e.lastRot + 1).toNat = (e.lastRot.toNat + 1) % 2 ^ 32 := BitVec.toNat_add ..

theorem ofNat_expected (e : Cadence) (n : Nat) :
    BitVec.ofNat 64 (s.expected e n) = BitVec.ofNat 64 (s.chain.rotBase + n * s.chain.trot + e.arroff.toNat) := by
  apply BitVec.eq_of_toNat_eq
  simp [State.expected]

/-- TAGQ of a tag without an entry. -/
theorem tagq_none {tag : BitVec 32} (w : BitVec 2) (e : s.cadence? tag = none) : s.tagq tag w = BitVec.allOnes 64 := by
  simp only [State.tagq, e]

/-- TAGQ of a tag with one, for each selector. -/
theorem tagq_some {tag : BitVec 32} (w : BitVec 2) {e : Cadence} (he : s.cadence? tag = some e) :
    s.tagq tag w =
      if w = 0 then BitVec.ofNat 64
          (s.chain.rotBase + (if e.seen then (e.lastRot.toNat + 1) % 2 ^ 32 else 0) * s.chain.trot + e.arroff.toNat)
      else if w = 1 then zext32 e.dwell
      else if w = 2 then BitVec.ofNat 64 (e.lastRot.toNat * 2 ^ 32 + e.size.toNat * 2 ^ 24
        + (if e.valid then 1 else 0) * 2 ^ 16 + (if e.missed then 1 else 0) * 2 ^ 17
        + (if e.lost then 1 else 0) * 2 ^ 18 + (if e.audit then 1 else 0) * 2 ^ 19 + e.nreg.toNat)
      else e.lastTsc := by
  have hflags : e.flags * 2 ^ 16 = (if e.valid then 1 else 0) * 2 ^ 16 + (if e.missed then 1 else 0) * 2 ^ 17
      + (if e.lost then 1 else 0) * 2 ^ 18 + (if e.audit then 1 else 0) * 2 ^ 19 := by
    unfold Cadence.flags
    (repeat' split) <;> rfl
  have hw : w = 0 ∨ w = 1 ∨ w = 2 ∨ w = 3 := by revert w; decide
  simp only [State.tagq, he]
  rcases hw with rfl | rfl | rfl | rfl
  · simp only [if_true, ofNat_expected, lastRot_succ]
    rfl
  · rfl
  · show BitVec.ofNat 64 (e.lastRot.toNat * 2 ^ 32 + e.size.toNat * 2 ^ 24 + e.flags * 2 ^ 16 + e.nreg.toNat) = _
    rw [hflags, ← Nat.add_assoc, ← Nat.add_assoc, ← Nat.add_assoc]
    rfl
  · rfl

/-- TAGQ writes X[D] as it issues. -/
theorem tagq_doesOnSeq {h : Hdr} {d a : Reg} {w : BitVec 2} {ok : State → SeqRef → Prop} {v : State → SeqRef → Word}
    (hv : ∀ s r, ok s r → s.tagq (low32 (s.X a)) w = v s r) :
    DoesOnSeq (.tagq h d a w) h none ok fun s r u => u.putOn r d (v s r) ((s.seq r).no + 1) := by
  intro s r m hok
  have hc := cur_of_mayIssue m
  show execTagq h d a w s = _
  rw [execTagq, issue_eq (p := {}) m nofun rfl rfl rfl rfl rfl, hv s r hok, putNow_issued hc]
  refine congrArg Host.Outcome.next (finish_issued (k := none) hc (cur_issued hc) ?_)
  simp only [State.putOn, seq_modSeq_self, putX_pc]

end tags

/-- Settles O14: TAGB and TAGB.clr land a binding, and TAGQ writes what the cadence entry says. -/
theorem tagResults : Obligations.TagResults := by
  intro h bd d a b
  refine ⟨?_, ?_, fun w => ⟨tagq_doesOnSeq fun s r e => tagq_none w e, fun e => tagq_doesOnSeq fun s r he => tagq_some w he⟩⟩
  · intro s r m hr _
    refine ⟨s.X a, s.X b, 0, ?_⟩
    show execTagb h bd a b s = _
    simp only [execTagb, ← bindingWord]
    rw [issue_eq (p := { fixed := true }) m (fun _ => hr) rfl rfl rfl rfl rfl]
    exact launchOp_seq (cur_of_mayIssue m) ..
  · intro s r m hr _
    refine ⟨0, 0, 0, ?_⟩
    show execTagbClr h bd s = _
    rw [execTagbClr, issue_eq (p := { fixed := true }) m (fun _ => hr) rfl rfl rfl rfl rfl]
    exact launchOp_seq (cur_of_mayIssue m) ..

end Sys2Proof.Machine
end

section
/-! PROOFS. Arrivals that WTAG delivers (O15; R84, R88). -/

namespace Sys2Proof.Machine

section arrivals
variable {s t : State} {r : SeqRef} {st : StrandRef} {h : Hdr} {d : Reg} {tmo : BitVec 16} {x : Arrival}
  {pre rest : List Arrival} {n : Nat}

/-- The binding of a tag depends on a strand's bindings, its team and its launch. -/
theorem bindingOf_congr (hz : (t.strand st).binds = (s.strand st).binds) (ht : (t.strand st).team = (s.strand st).team)
    (hs : t.sched = s.sched) (tag : BitVec 32) : t.bindingOf st tag = s.bindingOf st tag := by
  have hteam : t.team? st = s.team? st := by rw [State.team?, State.team?, ht, hs]
  have hfire (b : Binding) : t.canFire st b = s.canFire st b := by
    simp only [State.canFire, State.launch?, hteam, hs]
  simp only [State.bindingOf, hz, hfire]

theorem pendingArrivals_congr (ha : (t.strand st).arrivals = (s.strand st).arrivals)
    (hb : ∀ tag, t.bindingOf st tag = s.bindingOf st tag) : t.pendingArrivals st = s.pendingArrivals st := by
  simp only [State.pendingArrivals, ha, hb]

@[simp] theorem bindingOf_issued (k : Option Permit) (tag : BitVec 32) :
    (s.issued r h k).bindingOf st tag = s.bindingOf st tag := by
  obtain ⟨q, f, l, e⟩ := strand_issued s r h k st
  exact bindingOf_congr (by rw [e]) (by rw [e]) issued_sched tag

@[simp] theorem pendingArrivals_issued (k : Option Permit) :
    (s.issued r h k).pendingArrivals st = s.pendingArrivals st :=
  pendingArrivals_congr (arrivals_issued st) (bindingOf_issued k)

@[simp] theorem wtagUnprepared_issued (k : Option Permit) : (s.issued r h k).wtagUnprepared r = s.wtagUnprepared r := by
  simp only [State.wtagUnprepared, pendingArrivals_issued, bindingOf_issued, getB_issued]

/-! ### The records that come first (R84, R88) -/

/-- Records that no binding matches are passed over. -/
theorem pendingArrivals_of_unmatched (ha : (s.strand st).arrivals = pre ++ rest)
    (hp : ∀ y ∈ pre, s.bindingOf st y.tag = none) :
    s.pendingArrivals st = rest.dropWhile fun a => (s.bindingOf st a.tag).isNone := by
  rw [State.pendingArrivals, ha, List.dropWhile_append_of_pos]
  intro y hy
  simp [hp y hy]

theorem pendingArrivals_of_none (ha : (s.strand st).arrivals = pre) (hp : ∀ y ∈ pre, s.bindingOf st y.tag = none) :
    s.pendingArrivals st = [] :=
  pendingArrivals_of_unmatched (rest := []) (by rw [ha, List.append_nil]) hp

theorem pendingArrivals_of_match (ha : (s.strand st).arrivals = pre ++ x :: rest)
    (hp : ∀ y ∈ pre, s.bindingOf st y.tag = none) (hx : s.bindingOf st x.tag = some n) :
    s.pendingArrivals st = x :: rest := by
  rw [pendingArrivals_of_unmatched ha hp, List.dropWhile_cons, hx]
  rfl

theorem wtagUnprepared_of_none (hp : s.pendingArrivals (strandOf r) = []) : s.wtagUnprepared r = false := by
  rw [State.wtagUnprepared, hp]
  rfl

theorem wtagUnprepared_of_match (hp : s.pendingArrivals (strandOf r) = x :: rest)
    (hx : s.bindingOf (strandOf r) x.tag = some n) :
    s.wtagUnprepared r = !((s.seq r).getB (BitVec.ofNat 2 n)).prep := by
  rw [State.wtagUnprepared, hp]
  simp only [List.head?_cons, Option.any_some, hx]

theorem arrivalStatus_congr (hc : t.chain = s.chain) (x : Arrival) : t.arrivalStatus x = s.arrivalStatus x := by
  simp only [State.arrivalStatus, State.cadence?, hc]

/-! ### Issuing -/

/-- R88: a strand with an active binding passes the check of WTAG. -/
theorem not_unbound {z : Strand} (hb : ∃ k < 4, (Tbl.get {} z.binds k : Binding).active = true) :
    ((List.range 4).all fun n => !(Tbl.get {} z.binds n : Binding).active) = false := by
  obtain ⟨k, hk, ha⟩ := hb
  rw [List.all_eq_false]
  exact ⟨k, List.mem_range.mpr hk, by rw [ha]; exact nofun⟩

/-- WTAG with an active binding, and no unprepared one that fires, issues and comes to what `wtagHold` says. -/
theorem exec_wtag (m : s.mayIssue r (.wtag h d tmo) h none = true)
    (hb : ∃ k < 4, (Tbl.get {} (s.strand (strandOf r)).binds k : Binding).active = true)
    (hu : s.wtagUnprepared r = false) :
    exec (.wtag h d tmo) s = (s.issued r h none).holdIn
      (s.heldOf (.seq r) (.wtag h d tmo) 0 0 (wtagDeadline (s.tsc r.die) tmo)) (.arrival (wtagDeadline (s.tsc r.die) tmo))
      (wtagHold d) := by
  have hc := cur_of_mayIssue m
  show execWtag h d tmo s = _
  simp only [execWtag, hc]
  rw [issue_eq m (by nofun) (by simp only [not_unbound hb, Bool.false_eq_true, if_false]) rfl rfl
    (by simp only [hu, Bool.false_eq_true, if_false]) rfl, heldCmd_issued hc]

/-- A strand without an active binding traps. -/
theorem wtag_traps_unbound : TrapsOnSeq (.wtag h d tmo) h none .tagUnbound fun s r =>
    ∀ k < 4, (Tbl.get {} (s.strand (strandOf r)).binds k : Binding).active = false := by
  intro s r m hr hb
  have hall : ((List.range 4).all fun n => !(Tbl.get {} (s.strand (strandOf r)).binds n : Binding).active) = true := by
    rw [List.all_eq_true]
    intro k hk
    rw [hb k (List.mem_range.mp hk)]
    rfl
  show execWtag h d tmo s = _
  simp only [execWtag, cur_of_mayIssue m]
  exact issue_trap_early m hr (by simp only [hall, if_true]) (.inl nofun)

/-- A record whose binding is not prepared traps precisely. -/
theorem wtag_traps_unprepared (m : s.mayIssue r (.wtag h d tmo) h none = true) (hr : s.roomInFlight r = true)
    (hb : ∃ k < 4, (Tbl.get {} (s.strand (strandOf r)).binds k : Binding).active = true)
    (hu : s.wtagUnprepared r = true) :
    exec (.wtag h d tmo) s = .next (s.raise r .branchUnprepared .i (s.seq r).pc 0 0) := by
  show execWtag h d tmo s = _
  simp only [execWtag, cur_of_mayIssue m]
  exact issue_trap_late m hr (by simp only [not_unbound hb, Bool.false_eq_true, if_false]) rfl rfl
    (by simp only [hu, if_true])

/-! ### What it comes to -/

section holds
variable {c : Cmd} (hc : s.cur = .seq r)
include hc

/-- The first record is delivered: the arrival registers, the status word, the branch. -/
theorem wtagHold_takes (hp : s.pendingArrivals (strandOf r) = x :: rest)
    (hx : s.bindingOf (strandOf r) x.tag = some n) (hb : ((s.seq r).getB (BitVec.ofNat 2 n)).prep = true) :
    wtagHold d s c = .ends ((((s.modStrand (strandOf r) fun t => { t with
        arrTag := x.tag, arrRot := x.rot, arrTsc := x.tsc, arrOvf := false, arrivals := rest }).modSeq r fun q =>
          { q with pc := ((s.seq r).getB (BitVec.ofNat 2 n)).target }).putOn r d
        ((zext32 x.tag <<< 32) |||
          BitVec.ofNat 64 (n * 16 + (if (s.strand (strandOf r)).arrOvf then 4 else 0) + s.arrivalStatus x)) c.no).pushPost r
        (hdrOf c.ins).pq c.addr) := by
  have hu : s.wtagUnprepared r = false := by rw [wtagUnprepared_of_match hp hx, hb]; rfl
  simp only [wtagHold, hc, hp, hx, hu, Bool.false_eq_true, if_false, Option.getD_some, State.wtagTake,
    modStrand_modStrand, List.drop_one, List.tail_cons]
  rw [endHold_seq (r := r) (by exact hc)]
  simp only [strand_modStrand, if_true, arrivalStatus_congr (State.modStrand_chain s _ _)]
  rfl

/-- Without a record WTAG waits, where it has a deadline to come or none. -/
theorem wtagHold_stays (hp : s.pendingArrivals (strandOf r) = [])
    (hw : (c.head.any fun x => decide (x ≤ s.tsc r.die)) = false) :
    wtagHold d s c = .stays (s.modStrand (strandOf r) fun t => { t with arrivals := [] }) := by
  simp only [wtagHold, hc, hp, hw, Bool.false_eq_true, if_false]

/-- At its deadline it ends with NONE. -/
theorem wtagHold_none (hp : s.pendingArrivals (strandOf r) = [])
    (hw : (c.head.any fun x => decide (x ≤ s.tsc r.die)) = true) :
    wtagHold d s c = .ends (((s.modStrand (strandOf r) fun t => { t with arrivals := [] }).putOn r d 3 c.no).pushPost r
      (hdrOf c.ins).pq c.addr) := by
  simp only [wtagHold, hc, hp, hw, if_true]
  rw [endHold_seq (r := r) (by exact hc)]

end holds

/-- A deadline that has not come as WTAG issues. -/
theorem wtagDeadline_later (now : Nat) (hx : 0 < tmo.toNat) :
    ((wtagDeadline now tmo).any fun x => decide (x ≤ now)) = false := by
  unfold wtagDeadline
  split
  · rfl
  · simp only [Option.any_some, decide_eq_false_iff_not]
    omega

theorem wtagDeadline_now (now : Nat) : ((wtagDeadline now 0).any fun x => decide (x ≤ now)) = true := by
  simp [wtagDeadline]

end arrivals

/-- Settles O15: WTAG delivers the first record with a binding, waits, ends with NONE, or traps. -/
theorem arrivalResults : Obligations.ArrivalResults := by
  intro h d tmo pre bound
  refine ⟨fun x rest n => ⟨?takes, ?unprepared⟩, ?waits, ?none, wtag_traps_unbound⟩
  case takes =>
    rintro s r m ⟨⟨hb, hpre⟩, ha, hx, hprep⟩
    have hc := cur_of_mayIssue m
    have hp := pendingArrivals_of_match ha hpre hx
    have hu : s.wtagUnprepared r = false := by rw [wtagUnprepared_of_match hp hx, hprep]; rfl
    rw [exec_wtag m hb hu]
    refine (holdIn_ends (wtagHold_takes (cur_issued hc) ((pendingArrivals_issued none).trans hp)
      ((bindingOf_issued none x.tag).trans hx) ((congrArg BReg.prep (getB_issued _)).trans hprep))).trans ?_
    simp only [getB_issued, arrOvf_issued, arrivalStatus_congr issued_chain]
    rw [finishAt_of_seq (r := r) (by exact cur_issued hc)]
    rfl
  case unprepared =>
    rintro s r m hr ⟨⟨hb, hpre⟩, ha, hx, hprep⟩
    refine wtag_traps_unprepared m hr hb ?_
    rw [wtagUnprepared_of_match (pendingArrivals_of_match ha hpre hx) hx, hprep]
    rfl
  case waits =>
    rintro s r m ⟨⟨hb, hpre⟩, ha, htmo⟩
    have hc := cur_of_mayIssue m
    have hp := pendingArrivals_of_none ha hpre
    rw [exec_wtag m hb (wtagUnprepared_of_none hp)]
    refine (holdIn_stays (wtagHold_stays (cur_issued hc) ((pendingArrivals_issued none).trans hp) ?_)).trans ?_
    · rw [tsc_issued]
      exact wtagDeadline_later _ htmo
    · rw [modMe_of_seq (r := r) (by exact cur_issued hc)]
      rfl
  case none =>
    rintro s r m ⟨⟨hb, hpre⟩, ha⟩
    have hc := cur_of_mayIssue m
    have hp := pendingArrivals_of_none ha hpre
    rw [exec_wtag m hb (wtagUnprepared_of_none hp)]
    refine (holdIn_ends (wtagHold_none (cur_issued hc) ((pendingArrivals_issued none).trans hp) ?_)).trans ?_
    · rw [tsc_issued]
      exact wtagDeadline_now _
    · rw [finishAt_of_seq (r := r) (by exact cur_issued hc)]
      rfl

end Sys2Proof.Machine
end

section
/-! PROOFS. LAND as it issues (O21; R92). -/

namespace Sys2Proof.Machine

/-- How LAND issues on a sequencer: its checks, and the record that it queues with its target rotation. -/
theorem exec_land {h : Hdr} {f : Fmt} {d a b : Reg} {mac : BitVec 6} {slot cnt : BitVec 3} {l : LandCmd} {s : State}
    {r : SeqRef} (hl : landOf (.land h f d a b mac slot cnt) = some l) (hc : s.cur = .seq r) :
    exec (.land h f d a b mac slot cnt) s = s.issue (.land h f d a b mac slot cnt) h
      { permit := some .mem, early := fun _ => l.early
        late := fun t => t.landLate (strandOf r) l (low32 (s.X a)) (t.X b).toNat } fun t =>
      .next (({ t with nextCmd := t.nextCmd + 1 } : State).modSeq r fun q => { q with landQ := q.landQ ++
        [{ ins := .land h f d a b mac slot cnt, seqNo := t.nextCmd, addr := t.issuePc h, xd := 0, xa := s.X a,
           xb := s.X b, target := s.landTarget r.die (low32 (s.X a)), head := some (s.tsc r.die), no := t.me.no }] }) := by
  show execLand h f d a b mac slot cnt s = _
  simp only [execLand, hc, hl]

/-- Settles O21: a LAND that its checks let through is queued with its target rotation; another traps. -/
theorem landIssues : Obligations.LandIssues := by
  intro h f d a b mac slot cnt l hl
  refine ⟨?issues, fun c he s r m hr _ => ?early, fun he c s r m hr hlate => ?late⟩
  case issues =>
    rintro s r m ⟨he, hlate⟩
    have hc := cur_of_mayIssue m
    rw [exec_land hl hc, issue_eq m (by nofun) he rfl rfl hlate rfl]
    simp only [issuePc_issued hc, no_issued hc, issued_nextCmd]
  case early =>
    rw [exec_land hl (cur_of_mayIssue m)]
    exact issue_trap_early m hr he (.inr rfl)
  case late =>
    rw [exec_land hl (cur_of_mayIssue m)]
    exact issue_trap_late m hr he rfl rfl hlate

end Sys2Proof.Machine
end

section
/-! PROOFS. What a hub's instructions do (O39; R93, R331, R341 to R346): the executing agent stays the hub, and the state in
which a hub's instruction has issued differs in the hub's registers alone. -/

namespace Sys2Proof.Machine

/-! ### The executing agent stays -/

theorem foldl_cur {α : Type} {f : State → α → State} (hf : ∀ s a, (f s a).cur = s.cur) (l : List α) (s : State) :
    (l.foldl f s).cur = s.cur := by
  induction l generalizing s with
  | nil => rfl
  | cons a l ih => exact (ih (f s a)).trans (hf s a)

section agent
variable (s : State)

theorem State.ite_cur (c : Prop) [Decidable c] (s t : State) :
    (if c then s else t).cur = if c then s.cur else t.cur := apply_ite State.cur c s t

@[simp] theorem State.post_cur (die : Nat) (e : EvRec) : (s.post die e).cur = s.cur := by
  unfold State.post
  extract_lets
  split <;> rfl

@[simp] theorem State.softMiss_cur (die : Nat) (ctx : BitVec 4) (c : Cause) (x : Word) :
    (s.softMiss die ctx c x).cur = s.cur := by
  unfold State.softMiss State.missRecord State.posRecord
  (repeat' split) <;> simp

@[simp] theorem State.postLate_cur (st : StrandRef) (i : StopInfo) : (s.postLate st i).cur = s.cur := by
  unfold State.postLate
  split <;> simp

@[simp] theorem State.raise_cur (r : SeqRef) (c : Cause) (pt : Point) (tepc : BitVec 48) (pix : Nat) (x : Word) :
    (s.raise r c pt tepc pix x).cur = s.cur := by
  unfold State.raise
  extract_lets st i stopFor
  (repeat' split) <;> simp [stopFor]

@[simp] theorem State.pushPost?_cur (r : SeqRef) (q : Option (BitVec 3)) (a : BitVec 48) (pix : Nat) :
    (s.pushPost? r q a pix).1.cur = s.cur := by
  unfold State.pushPost?
  split
  · next u e =>
    unfold State.pushTok at e
    (repeat' split at e) <;> cases e <;> rfl
  · exact State.raise_cur ..

@[simp] theorem State.completeTup_cur (r : SeqRef) (o : TupOut) (w : BitVec 64) (out : List Byte) :
    (s.completeTup r o w out).cur = s.cur := by
  unfold State.completeTup
  simp [State.ite_cur]

@[simp] theorem State.sendTuple_cur (r : SeqRef) (o : TupOut) (g : Target) (b : List Byte) :
    (s.sendTuple r o g b).cur = s.cur := by
  unfold State.sendTuple
  cases g <;> rfl

@[simp] theorem State.resendTup_cur (r : SeqRef) (o : TupOut) : (s.resendTup r o).cur = s.cur := by
  unfold State.resendTup
  extract_lets st dep bytes k o' s1
  have h1 : s1.cur = s.cur := rfl
  split <;> simp [h1]

@[simp] theorem State.resendAll_cur (r : SeqRef) : (s.resendAll r).cur = s.cur := by
  unfold State.resendAll
  exact foldl_cur (fun a c => by simp) _ s

@[simp] theorem State.captureTids_cur (r : SeqRef) (fresh : List Nat) : (s.captureTids r fresh).cur = s.cur := rfl

@[simp] theorem State.loadTrap_cur (die : Nat) : (s.loadTrap die).cur = s.cur := by
  unfold State.loadTrap
  extract_lets
  (repeat' split) <;> rfl

@[simp] theorem State.hubRelease_cur (die : Nat) : (s.hubRelease die).cur = s.cur := State.loadTrap_cur ..

theorem State.resume_cur {s t : State} {st : StrandRef} {z : Strand} {bs : List Byte} {fresh : List Nat}
    (e : s.resume st z bs = some (t, fresh)) : t.cur = s.cur := by
  unfold State.resume at e
  simp only at e
  split at e
  · exact nomatch e
  · cases e
    exact foldl_cur (fun _ _ => by rfl) _ _

@[simp] theorem State.writeSlab_cur (die pa : Nat) (bs : List Byte) : (s.writeSlab die pa bs).cur = s.cur := by
  unfold State.writeSlab
  extract_lets
  split <;> rfl

@[simp] theorem State.dropTraps_cur (t : Team) : (s.dropTraps t).cur = s.cur := by
  unfold State.dropTraps
  extract_lets s1
  split
  · exact State.hubRelease_cur ..
  · rfl

@[simp] theorem State.freeTeam_cur (k : Nat) (t : Team) : (s.freeTeam k t).cur = s.cur := by
  unfold State.freeTeam
  refine foldl_cur (fun a st => ?_) t.strands s
  exact foldl_cur (fun _ _ => by rfl) allCls a

@[simp] theorem State.placeAt_cur (id : BitVec 32) (l : Launch) (index die cl : Nat) (p : Spot) :
    (s.placeAt id l index die cl p).cur = s.cur := by
  unfold State.placeAt
  exact foldl_cur (fun a ⟨slot, i⟩ => foldl_cur (fun _ _ => by rfl) _ _) _ _

theorem State.restoreTeam_cur {s t : State} {xa : Nat} {loc v : Word} (e : s.restoreTeam xa loc = some (t, v)) :
    t.cur = s.cur := by
  unfold State.restoreTeam at e
  simp only at e
  split at e
  · exact nomatch e
  · split at e
    · exact nomatch e
    · split at e
      · exact nomatch e
      · split at e
        · exact nomatch e
        · cases e
          refine (foldl_cur (fun _ _ => by rfl) _ _).trans ?_
          exact State.placeAt_cur ..

end agent

/-! ### Issuing on a hub -/

section hub
variable {s : State} {die : Nat} {h : Hdr} {d a b : Reg}

/-- What issuing on a hub writes: the hub's own registers. -/
theorem advance_of_hub (hc : s.cur = .hub die) : ∃ q, s.advance h = { s with seqs := q } := by
  unfold State.advance
  extract_lets s1
  split
  · next r e => exact nomatch hc.symm.trans e
  · exact ⟨_, rfl⟩

theorem cur_advance (hc : s.cur = .hub die) : (s.advance h).cur = .hub die := (advance_cur h).trans hc

/-! ### ERET (R342) -/

theorem eret_of_none (hs : s.hubStrand die = none) : s.eret die = (s, 2) := by
  simp only [State.eret, hs]

theorem eret_of_running {st : StrandRef} (hs : s.hubStrand die = some st) (hr : ∀ i, (s.strand st).stop ≠ .stopped i) :
    s.eret die = (s, 2) := by
  simp only [State.eret, hs]

theorem eret_of_invalid {st : StrandRef} {i : StopInfo} (hs : s.hubStrand die = some st)
    (hi : (s.strand st).stop = .stopped i) (hr : s.resume st (s.strand st) (s.frameBytes st) = none) :
    s.eret die = (s.postOf die st .replayInvalid, 1) := by
  simp only [State.eret, hs, hi, hr]

theorem eret_of_resume {st : StrandRef} {i : StopInfo} {w : State} {fresh : List Nat} (hs : s.hubStrand die = some st)
    (hi : (s.strand st).stop = .stopped i) (hr : s.resume st (s.strand st) (s.frameBytes st) = some (w, fresh)) :
    s.eret die = ((allCls.foldl (fun a c => (a.captureTids (seqOf st c) fresh).resendAll (seqOf st c)) w).hubRelease
      die, 0) := by
  simp only [State.eret, hs, hi, hr]

/-- ERET answers what its work does, from the state in which it has issued. -/
theorem exec_eret (m : s.hubMay die (.eret h d) h = true) {u : State} {v : Word} (e : (s.advance h).eret die = (u, v))
    (hu : u.cur = .hub die) : exec (.eret h d) s = .next (u.modSeqAt (hubKey die) fun q => q.setX d v) := by
  show execEret h d s = _
  simp only [execEret, cur_of_hubMay m]
  rw [issue_hub_eq m rfl]
  simp only [e, modMe_of_hub hu]

/-! ### RPLY (R343) -/

theorem rply_of_valid {st : StrandRef} {c : Cls} {fs : List Flight} (hs : s.hubStrand die = some st)
    (hf : parseFlights (s.readMem (s.frameArea st + 1024 + 1024 * c.code) 1024) 0
      ((s.besides (s.strand st).wid (s.strand st).launchId).flightsOf c) = fs.map some) :
    s.rply die c = fs.foldl (fun a f => a.rplyLand (seqOf st c) (s.frameArea st) f)
      (s.writeMem (s.frameArea st + 1024 + 1024 * c.code + 11) [0]) := by
  have hall : (fs.map some).any (·.isNone) = false := by simp
  have hid : (fs.map some).filterMap id = fs := by simp
  simp only [State.rply, hs, hf, hall, hid, Bool.false_eq_true, if_false]

/-- The class of a field of two bits. -/
theorem clsOf_field {v : Word} {c : Cls} (e : v.toNat % 4 = c.code) : Cls.ofCode (field v 0 2) = c := by
  have hf : field v 0 2 = c.code := by simpa [field] using e
  rw [hf]
  cases c <;> rfl

theorem exec_rply {c : Cls} (m : s.hubMay die (.rply h a) h = true) (hc : (s.X a).toNat % 4 = c.code) :
    exec (.rply h a) s = .next ((s.advance h).rply die c) := by
  show execRply h a s = _
  simp only [execRply, cur_of_hubMay m, clsOf_field hc]
  rw [issue_hub_eq m rfl]

/-! ### CTXS and CTXL (R345, R346) -/

theorem saveTeam_refused {rel : Bool} {xa xb : Word} (hr : s.stoppedTeam die = none ∨ xa.toNat % 64 ≠ 0
    ∨ 131072 < field xb 0 17 + field xb 32 18) : s.saveTeam die rel xa xb = (s, 0x8000000000000000) := by
  unfold State.saveTeam
  extract_lets acc0 accn
  cases ht : s.stoppedTeam die with
  | none => rfl
  | some p => exact if_pos (hr.resolve_left (by rw [ht]; exact nofun))

theorem saveTeam_saves {rel : Bool} {xa xb : Word} {k : Nat} {t : Team} (ht : s.stoppedTeam die = some (k, t))
    (ha : xa.toNat % 64 = 0) (hn : field xb 0 17 + field xb 32 18 ≤ 131072)
    (hfit : xa.toNat + 256 + (s.teamImage t (field xb 0 17) (field xb 32 18)).length ≤ slabSize)
    {body : List Byte} (hb : body = s.teamImage t (field xb 0 17) (field xb 32 18)) {v : State}
    (hv : v = s.writeSlab die xa.toNat (imageHeader t (((s.launch? t.launch).map (·.hdr)).getD []) (field xb 0 17)
      (field xb 32 18) (256 + body.length) ++ body)) :
    s.saveTeam die rel xa xb =
      (if rel then (v.dropTraps t).freeTeam k t else v, BitVec.ofNat 64 (256 + body.length)) := by
  subst hb hv
  unfold State.saveTeam
  extract_lets acc0 accn
  rw [ht]
  refine (if_neg ?_).trans (if_neg ?_)
  · rintro (h1 | h1)
    · exact h1 ha
    · exact absurd hn (Nat.not_le.mpr h1)
  · rw [← Nat.add_assoc]
    exact Nat.not_lt.mpr hfit

theorem exec_ctxs {rel : Bool} (m : s.hubMay die (.ctxs h rel d a b) h = true) {u : State} {v : Word}
    (e : (s.advance h).saveTeam die rel (s.X a) (s.X b) = (u, v)) (hu : u.cur = .hub die) :
    exec (.ctxs h rel d a b) s = .next (u.modSeqAt (hubKey die) fun q => q.setX d v) := by
  show execCtxs h rel d a b s = _
  simp only [execCtxs, cur_of_hubMay m]
  rw [issue_hub_eq m rfl]
  simp only [e, modMe_of_hub hu]

/-- The image of a team lies at a multiple of 64. -/
theorem restoreTeam_misaligned {xa : Nat} {loc : Word} (ha : xa % 64 ≠ 0) : s.restoreTeam xa loc = none := by
  have hi : s.imageLaunch xa = none := if_pos (.inl ha)
  simp only [State.restoreTeam, hi]

theorem exec_ctxl (m : s.hubMay die (.ctxl h d a b) h = true) {u : State} {v : Word}
    (e : (s.advance h).restoreTeam (s.X a).toNat (s.X b) = some (u, v)) :
    exec (.ctxl h d a b) s = .next (u.modSeqAt (hubKey die) fun q => q.setX d v) := by
  have hu : u.cur = .hub die := (State.restoreTeam_cur e).trans (cur_advance (cur_of_hubMay m))
  show execCtxl h d a b s = _
  simp only [execCtxl, cur_of_hubMay m]
  rw [issue_hub_eq m rfl]
  simp only [e, modMe_of_hub hu]

theorem exec_ctxl_refused (m : s.hubMay die (.ctxl h d a b) h = true)
    (e : (s.advance h).restoreTeam (s.X a).toNat (s.X b) = none) :
    exec (.ctxl h d a b) s = .next (((({ s.advance h with free := (s.advance h).free + 1 } : State).post die
      { cause := .ctxRestore, detail := Config.freeValue (s.advance h).free }).modSeqAt (hubKey die) fun q =>
        q.setX d 0x8000000000000000)) := by
  have hc := cur_advance (h := h) (cur_of_hubMay m)
  show execCtxl h d a b s = _
  simp only [execCtxl, cur_of_hubMay m]
  rw [issue_hub_eq m rfl]
  simp only [e, notLoaded]
  rw [modMe_of_hub (d := die) (by exact (State.post_cur ..).trans hc)]
  rfl

/-! ### IDLE (R341) -/

theorem waiting_eq (b : Hub) {w : Nat} (hw : w = (if b.held ≠ none ∨ b.trapQ ≠ [] then 0 else if b.mail = true then 1 else 2))
    (he : w = 2 → b.event = true) : b.waiting = some w := by
  have hb : (b.held.isSome || !b.trapQ.isEmpty) = true ↔ b.held ≠ none ∨ b.trapQ ≠ [] := by
    simp [Option.isSome_iff_ne_none]
  unfold Hub.waiting
  by_cases h0 : b.held ≠ none ∨ b.trapQ ≠ []
  · rw [if_pos h0] at hw
    rw [if_pos (hb.mpr h0), hw]
  · rw [if_neg h0] at hw
    rw [if_neg fun e => h0 (hb.mp e)]
    by_cases h1 : b.mail = true
    · rw [if_pos h1] at hw ⊢
      rw [hw]
    · rw [if_neg h1] at hw ⊢
      rw [if_pos (he hw), hw]

theorem waiting_none {b : Hub} (h1 : b.held = none) (h2 : b.trapQ = []) (h3 : b.mail = false) (h4 : b.event = false) :
    b.waiting = none := by
  simp [Hub.waiting, h1, h2, h3, h4]

theorem exec_idle (m : s.hubMay die (.idle h d) h = true) :
    exec (.idle h d) s = (s.advance h).holdIn (s.heldOf (.hub die) (.idle h d) 0 0 none) .idle idleHold := by
  have hc := cur_of_hubMay m
  have hp : (s.advance h).me.pc - BitVec.ofNat 48 (sizeOf h) = s.me.pc := by
    rw [me_advance_pc]
    simp
  have hn : (s.advance h).me.no = s.me.no + 1 := by
    obtain ⟨q, e⟩ := advance_of_hub (h := h) hc
    simp [State.advance, State.me, hc]
  have hk : (s.advance h).heldCmd (.idle h d) h 0 0 = s.heldOf (.hub die) (.idle h d) 0 0 none := by
    rw [State.heldCmd, hp, hn, State.me, hc]
    rfl
  show execIdle h d s = _
  simp only [execIdle, hc]
  rw [issue_hub_eq m rfl, hk]

theorem idleHold_waits {c : Cmd} (hc : s.cur = .hub die) (hi : c.ins = .idle h d) (hw : (s.die die).hub.waiting = none) :
    idleHold s c = .stays s := by
  simp only [idleHold, hc, hi, hw]

theorem idleHold_ends {c : Cmd} {w : Nat} (hc : s.cur = .hub die) (hi : c.ins = .idle h d)
    (hw : (s.die die).hub.waiting = some w) :
    idleHold s c = .ends ((s.modHub die fun b =>
      { b with mail := b.mail && w != 1, event := b.event && w != 2 }).modSeqAt (hubKey die) fun q =>
        q.setX d (BitVec.ofNat 64 w)) := by
  simp only [idleHold, hc, hi, hw]
  rw [modMe_of_hub (d := die) (by exact hc)]

end hub

/-- Settles O39: each instruction of a hub does its work from the state in which it has issued. -/
theorem hubResults : Obligations.HubResults := by
  intro h d a b
  refine ⟨?eretNone, fun st i => ⟨?eretInvalid, fun w fresh => ?eretResumes⟩, fun st c fs => ?rply, fun rel => ?ctxsRefused,
    fun rel k t => ?ctxs, ?ctxlRefused, fun w v => ?ctxl, fun w => ?idle, ?idleHolds,
    fun reinj audit size => ⟨?fwd, ?fwdNowhere⟩⟩
  case eretNone =>
    intro s die m hok
    obtain ⟨q, e⟩ := advance_of_hub (h := h) (cur_of_hubMay m)
    have hcur := cur_advance (h := h) (cur_of_hubMay m)
    rcases hok with hn | ⟨st, hs, hr⟩
    · exact exec_eret m (eret_of_none (by rw [e]; exact hn)) hcur
    · exact exec_eret m (eret_of_running (st := st) (by rw [e]; exact hs) (by rw [e]; exact hr)) hcur
  case eretInvalid =>
    rintro s die m ⟨hs, hi, hr⟩
    obtain ⟨q, e⟩ := advance_of_hub (h := h) (cur_of_hubMay m)
    have hcur := cur_advance (h := h) (cur_of_hubMay m)
    rw [e] at hr
    rw [exec_eret m (eret_of_invalid (st := st) (i := i) (by rw [e]; exact hs) (by rw [e]; exact hi) (by rw [e]; exact hr))
      (by rw [State.postOf, State.post_cur, hcur]), e]
    rfl
  case eretResumes =>
    rintro s die m ⟨hs, hi, hr⟩
    obtain ⟨q, e⟩ := advance_of_hub (h := h) (cur_of_hubMay m)
    have hcur := cur_advance (h := h) (cur_of_hubMay m)
    refine exec_eret m (eret_of_resume (st := st) (i := i) (by rw [e]; exact hs) (by rw [e]; exact hi) ?_) ?_
    · rw [e] at hr ⊢
      exact hr
    · rw [State.hubRelease_cur, foldl_cur fun a c => by simp, State.resume_cur hr, hcur]
  case rply =>
    rintro s die m ⟨hs, hc, hf⟩
    obtain ⟨q, e⟩ := advance_of_hub (h := h) (cur_of_hubMay m)
    rw [exec_rply m hc, rply_of_valid (st := st) (fs := fs) (by rw [e]; exact hs) (by rw [e]; exact hf), e]
    rfl
  case ctxsRefused =>
    intro s die m hok
    obtain ⟨q, e⟩ := advance_of_hub (h := h) (cur_of_hubMay m)
    exact exec_ctxs m (saveTeam_refused (by rw [e]; exact hok)) (cur_advance (cur_of_hubMay m))
  case ctxs =>
    rintro s die m ⟨ht, ha, hn, hfit⟩
    obtain ⟨q, e⟩ := advance_of_hub (h := h) (cur_of_hubMay m)
    refine (exec_ctxs m (saveTeam_saves (by rw [e]; exact ht) ha hn (by rw [e]; exact hfit) rfl rfl) ?_).trans ?_
    · rw [State.ite_cur, State.freeTeam_cur, State.dropTraps_cur, State.writeSlab_cur, ite_self]
      exact cur_advance (cur_of_hubMay m)
    · rw [e]
      rfl
  case ctxlRefused =>
    intro s die m hok
    obtain ⟨q, e⟩ := advance_of_hub (h := h) (cur_of_hubMay m)
    rw [exec_ctxl_refused m (restoreTeam_misaligned hok), e]
  case ctxl =>
    intro s die m hok
    exact exec_ctxl m hok
  case idle =>
    rintro s die m ⟨hw, he⟩
    obtain ⟨q, e⟩ := advance_of_hub (h := h) (cur_of_hubMay m)
    rw [exec_idle m]
    exact holdIn_ends (idleHold_ends (cur_advance (cur_of_hubMay m)) rfl (by rw [e]; exact waiting_eq _ hw he))
  case idleHolds =>
    rintro s die m ⟨h1, h2, h3, h4⟩
    obtain ⟨q, e⟩ := advance_of_hub (h := h) (cur_of_hubMay m)
    have hcur := cur_advance (h := h) (cur_of_hubMay m)
    rw [exec_idle m, holdIn_stays (idleHold_waits hcur rfl (by rw [e]; exact waiting_none h1 h2 h3 h4)), modMe_of_hub hcur]
    rfl
  case fwd =>
    rintro s die m ⟨ha, hn⟩
    show execFwd h reinj audit d a b size s = _
    simp only [execFwd, cur_of_hubMay m]
    rw [issue_hub_eq m rfl, if_neg]
    · rfl
    · rintro (h1 | h1)
      · exact h1 ha
      · exact absurd hn (Nat.not_le.mpr h1)
  case fwdNowhere =>
    intro s die m hok
    obtain ⟨q, e⟩ := advance_of_hub (h := h) (cur_of_hubMay m)
    show execFwd h reinj audit d a b size s = _
    simp only [execFwd, cur_of_hubMay m]
    rw [issue_hub_eq m rfl, if_pos (by exact hok)]
    simp only [State.openValue]
    rw [modMe_of_hub (d := die) (by exact cur_advance (cur_of_hubMay m)), e]

end Sys2Proof.Machine
end

section
/-! PROOFS. Events of the chain (O42; R74, R76, R78, R79, R81, R83, R92, R373). -/

namespace Sys2Proof.Machine

/-! ### SEGHDR (R74, R76, R81) -/

/-- A header that the checks of R74 let through, given the cadence entry of its tag. -/
def headerFits (die : Nat) (hd : SegHdr) (e : Cadence) : Bool :=
  hd.rsvZero && hd.die.toNat == die && decide (1 ≤ hd.size.toNat) && decide (hd.size.toNat ≤ 64)
    && hd.flags &&& 0xFC == 0 && e.size == hd.size

theorem headerFits_iff {hd : SegHdr} {die : Nat} {e : Cadence} : headerFits die hd e = true ↔
    hd.rsvZero = true ∧ hd.die.toNat = die ∧ 1 ≤ hd.size.toNat ∧ hd.size.toNat ≤ 64 ∧ hd.flags &&& 0xFC = 0
      ∧ e.size = hd.size := by
  simp only [headerFits, Bool.and_eq_true, beq_iff_eq, decide_eq_true_eq, and_assoc]

/-- A stripe announced behind those that have been. -/
def State.announce (s : State) (die : Nat) (x : Incoming) : State :=
  s.modDie die fun d => { d with incoming := d.incoming ++ [x] }

/-- Whether a rotation of a tag is the last that has arrived on a die. -/
def State.hasCome (s : State) (die : Nat) (hd : SegHdr) : Bool :=
  (Tbl.get? (s.die die).lastArr hd.tag.toNat).any fun a => a.1 == hd.rot

section header
variable {s : State} {die : Nat} {hd : SegHdr} {e : Cadence}

theorem dropStale_of_none (hi : (s.die die).incoming = []) : s.dropStale die hd = s := by
  simp only [State.dropStale, hi]

/-- With nothing announced, the stripe of a header that fits is announced, or discarded where it has come before; that of one
that does not fit is discarded, and its tag LOST. -/
theorem exec_seghdr (hi : (s.die die).incoming = []) (he : s.cadence? hd.tag = some e) :
    exec (.seghdr die hd) s = .next
      (if headerFits die hd e then
        if s.hasCome die hd then s.announce die { hdr := hd, drop := true, reg := false }
        else
          let s1 := if e.hdrRot != some hd.rot then s.firstHeader die e hd.rot else s
          s1.announce die { hdr := hd, slot := s1.chain.slotOf hd.tag hd.rot,
                            reg := if e.hdrRot != some hd.rot then e.nreg != 0 else e.hdrReg }
      else (((s.modCadence hd.tag fun e => { e with lost := true, hdrRot := some hd.rot }).noteDie die hd.tag hd.rot).post
        die { cause := .segmentAuth, detail := zext32 hd.tag }).announce die { hdr := hd, drop := true, reg := false }) := by
  show execSeghdr die hd s = _
  have hfits : (hd.rsvZero && hd.die.toNat == die && decide (1 ≤ hd.size.toNat) && decide (hd.size.toNat ≤ 64)
      && hd.flags &&& 0xFC == 0 && e.size == hd.size) = headerFits die hd e := rfl
  simp only [execSeghdr, dropStale_of_none hi, he, hi, List.head?_nil, Option.any_none, Option.any_some,
    Bool.false_eq_true, and_false, if_false, hfits, State.hasCome]
  by_cases hf : headerFits die hd e = true
  · by_cases ha : ((Tbl.get? (s.die die).lastArr hd.tag.toNat).any fun a => a.1 == hd.rot) = true
    · simp only [hf, ha, and_self, if_true]
      rfl
    · simp only [hf, ha, and_false, if_true, if_false, Bool.false_eq_true]
      rfl
  · simp only [hf, false_and, if_false, Bool.false_eq_true]
    rfl

theorem exec_seghdr_unknown (hi : (s.die die).incoming = []) (he : s.cadence? hd.tag = none) :
    exec (.seghdr die hd) s = .next ((s.post die { cause := .segmentAuth, detail := zext32 hd.tag }).announce die
      { hdr := hd, drop := true, reg := false }) := by
  show execSeghdr die hd s = _
  simp only [execSeghdr, dropStale_of_none hi, he]
  rfl

/-- With nothing announced before, the stripe is the only one. -/
theorem announce_first {x : Incoming} (hi : (s.die die).incoming = []) :
    s.announce die x = s.modDie die fun d => { d with incoming := [x] } := by
  simp only [State.announce, State.modDie, hi, List.nil_append]


/-- A record posted changes the hub and the event queue of its die. -/
theorem post_die (s : State) (d : Nat) (r : EvRec) (k : Nat) :
    ∃ b q, (s.post d r).die k = { s.die k with hub := b, events := q } := by
  have hset {w : Die} (hw : ∃ b q, w = { s.die d with hub := b, events := q }) :
      ∃ b q, (s.setDie d w).die k = { s.die k with hub := b, events := q } := by
    rw [die_setDie]
    split
    · next e => exact e ▸ hw
    · exact ⟨_, _, rfl⟩
  unfold State.post
  extract_lets v q n bs hub s'
  split
  · exact hset ⟨_, _, rfl⟩
  · exact hset ⟨_, _, rfl⟩

@[simp] theorem post_incoming (d : Nat) (r : EvRec) (k : Nat) :
    ((s.post d r).die k).incoming = (s.die k).incoming := by
  obtain ⟨b, q, e⟩ := post_die s d r k
  rw [e]

/-- The chain changed leaves the dies. -/
@[simp] theorem die_modChain (f : Chain → Chain) (d : Nat) : (s.modChain f).die d = s.die d := rfl

@[simp] theorem die_modCadence (tag : BitVec 32) (f : Cadence → Cadence) (d : Nat) :
    (s.modCadence tag f).die d = s.die d := rfl

/-- A change of a cadence entry leaves the freewheel slots. -/
@[simp] theorem slotOf_modCadence (t : BitVec 32) (f : Cadence → Cadence) (tag rot : BitVec 32) :
    (s.modCadence t f).chain.slotOf tag rot = s.chain.slotOf tag rot := rfl

@[simp] theorem freeSlot_modCadence (t : BitVec 32) (f : Cadence → Cadence) :
    (s.modCadence t f).chain.freeSlot = s.chain.freeSlot := rfl

/-! The first header of a rotation on the package, and its freewheel slot. -/

theorem firstHeader_unregistered {rot : BitVec 32} (h0 : e.nreg = 0) : s.firstHeader die e rot = s.modCadence e.tag fun e =>
    { e with missed := false, lost := false, reinj := false, hdrRot := some rot, hdrReg := e.nreg != 0 } := if_pos h0

theorem firstHeader_slot {rot : BitVec 32} {n : Nat} (h0 : e.nreg ≠ 0) (hn : s.chain.freeSlot = some n) :
    s.firstHeader die e rot = (s.modCadence e.tag fun e =>
      { e with missed := false, lost := false, reinj := false, hdrRot := some rot, hdrReg := e.nreg != 0 }).modChain
        fun c => { c with slots := Tbl.set none c.slots n (some ⟨e.tag, rot, false, [], []⟩) } := by
  simp only [State.firstHeader, if_neg h0, freeSlot_modCadence, hn]

theorem firstHeader_missed {rot : BitVec 32} (h0 : e.nreg ≠ 0) (hn : s.chain.freeSlot = none) :
    s.firstHeader die e rot = ((s.modCadence e.tag fun e =>
      { e with missed := false, lost := false, reinj := false, hdrRot := some rot, hdrReg := e.nreg != 0 }).modCadence e.tag
        fun e => { e with missed := true, missRot := rot }).post die (eventOf .segmentMissed 1) := by
  simp only [State.firstHeader, if_neg h0, freeSlot_modCadence, hn]
  rfl

/-- The first header of a rotation, for a stripe that has not come before. -/
theorem exec_seghdr_first (hi : (s.die die).incoming = []) (he : s.cadence? hd.tag = some e)
    (hf : headerFits die hd e = true) (ha : ∀ a, Tbl.get? (s.die die).lastArr hd.tag.toNat = some a → a.1 ≠ hd.rot)
    (hr : e.hdrRot ≠ some hd.rot) {w : State} (hw : s.firstHeader die e hd.rot = w)
    (hwi : (w.die die).incoming = []) :
    exec (.seghdr die hd) s = .next (w.modDie die fun d =>
      { d with incoming := [{ hdr := hd, slot := w.chain.slotOf hd.tag hd.rot, reg := e.nreg != 0 }] }) := by
  have hcome : s.hasCome die hd = false := by
    unfold State.hasCome
    cases hl : Tbl.get? (s.die die).lastArr hd.tag.toNat with
    | none => rfl
    | some a => simpa using ha a hl
  have hne : (e.hdrRot != some hd.rot) = true := bne_iff_ne.mpr hr
  rw [exec_seghdr hi he, if_pos hf, hcome, hne]
  simp only [Bool.false_eq_true, if_false, if_true, hw, announce_first hwi]

theorem exec_seghdr_again (hi : (s.die die).incoming = []) (he : s.cadence? hd.tag = some e)
    (hf : headerFits die hd e = true) {a : BitVec 32 × Nat} (ha : Tbl.get? (s.die die).lastArr hd.tag.toNat = some a)
    (hr : a.1 = hd.rot) :
    exec (.seghdr die hd) s = .next (s.modDie die fun d =>
      { d with incoming := [{ hdr := hd, drop := true, reg := false }] }) := by
  have hcome : s.hasCome die hd = true := by simp [State.hasCome, ha, hr]
  rw [exec_seghdr hi he, if_pos hf, if_pos hcome, announce_first hi]

/-- A header that does not fit makes its tag LOST. -/
theorem exec_seghdr_unfit (hi : (s.die die).incoming = []) (he : s.cadence? hd.tag = some e)
    (hf : headerFits die hd e = false) (hn : s.chain.slotOf hd.tag hd.rot = none) :
    exec (.seghdr die hd) s = .next ((((s.modCadence hd.tag fun e => { e with lost := true, hdrRot := some hd.rot }).post die
      { cause := .segmentAuth, detail := zext32 hd.tag }).modDie die fun d =>
        { d with incoming := [{ hdr := hd, drop := true, reg := false }] })) := by
  have hnote (t : State) (ht : t.chain.slotOf hd.tag hd.rot = none) : t.noteDie die hd.tag hd.rot = t := by
    simp only [State.noteDie, ht]
  rw [exec_seghdr hi he, if_neg (by simp [hf]), hnote _ (by exact hn), announce_first (by simpa using hi)]

end header

/-! ### Sending and dwell (R78, R83) -/

section sending
variable {s : State} {die : Nat}

/-- A stripe whose first flit, departure time and credit are there begins. -/
theorem exec_stripeSendStart {mid : Nat} {f : Frame} {e : Cadence} (hm : s.chain.successor = some mid)
    (hc : 0 < (s.die die).credits) (hj : (s.die die).fwd = [])
    (hf : f = Tbl.get {} (s.die die).frames (s.die die).nextSend) (hg : 0 < f.got) (hn : f.sending = false)
    (he : s.cadence? f.tag = some e) (ht : s.departs e f.rot.toNat ≤ s.tsc die) :
    exec (.stripeSendStart die) s = .next
      ((((s.send (.seghdr mid ⟨BitVec.ofNat 8 die, BitVec.ofNat 8 f.size, f.flags, f.tag,
          if s.chain.isOrigin then f.rot + 1 else f.rot, BitVec.ofNat 64 (s.tsc die), true⟩)).modFrame die
        (s.die die).nextSend fun g => { g with sending := true }).modDie die fun d =>
          { d with credits := d.credits - 1 }).pushStripe die) := by
  subst hf
  have h1 : ¬ ((s.die die).credits = 0 ∨ (Tbl.get ({} : Frame) (s.die die).frames (s.die die).nextSend).sending = true
      ∧ (Tbl.get ({} : Frame) (s.die die).frames (s.die die).nextSend).lastSeq.isNone = true) := by
    rw [hn]
    rintro (h0 | ⟨h0, _⟩)
    · omega
    · exact nomatch h0
  have h2 : ¬ ((Tbl.get ({} : Frame) (s.die die).frames (s.die die).nextSend).got = 0
      ∨ (Tbl.get ({} : Frame) (s.die die).frames (s.die die).nextSend).sending = true
      ∨ (!decide (s.departs e (Tbl.get ({} : Frame) (s.die die).frames (s.die die).nextSend).rot.toNat
        ≤ (s.die die).tsc)) = true) := by
    rw [hn, decide_eq_true (show _ ≤ (s.die die).tsc from ht)]
    rintro (h0 | h0 | h0)
    · omega
    · exact nomatch h0
    · exact nomatch h0
  show execStripeSendStart die s = _
  simp only [execStripeSendStart, hm, hj, List.find?_nil, he, Option.all_some, if_neg h1, if_neg h2]
  rfl

/-- A dwell limit that has come expires, with a miss where no landing has begun. -/
theorem exec_dwellExpire {n : Nat} {k : FSlot} {e : Cadence} {a : BitVec 32 × Nat} (hk : s.chain.fslot n = some k)
    (hx : die ∉ k.expired) (he : s.cadence? k.tag = some e)
    (ha : Tbl.get? (s.die die).lastArr k.tag.toNat = some a) (hr : a.1 = k.rot)
    (ht : a.2 + e.dwell.toNat ≤ s.tsc die) :
    exec (.dwellExpire die n) s = .next ((if k.started
      then s.modFSlot n fun k => { k with expired := die :: k.expired }
      else (s.modFSlot n fun k => { k with expired := die :: k.expired }).modCadence k.tag fun e =>
        { e with missed := true, missRot := k.rot }).release die) := by
  have hgo : ¬ ((k.expired.contains die || !(Option.any (fun a => decide (a.2 + e.dwell.toNat ≤ s.tsc die))
      (Option.filter (fun a => a.1 == k.rot) (some a)))) = true) := by
    simp [hx, hr, ht, Option.filter]
  show execDwellExpire die n s = _
  simp only [execDwellExpire, hk, ha, he, Option.map_some, Option.getD_some, if_neg hgo]

/-! ### Stand-ins of a LOST tag (R373) -/

/-- A die's part of LOST_STANDIN: the record of the rotation that it expects now, if the tag has not had it (R373). -/
def State.standInOn (s : State) (tag : BitVec 32) (e : Cadence) (d : Nat) : State :=
  match s.expectedNow e (s.tsc d) (s.die d).span with
  | none => s
  | some (n, at_) =>
    if ((s.die d).lastOf tag).any fun x => x.1 == BitVec.ofNat 32 n then s
    else (s.modDie d fun v => { v with standIn := Tbl.put v.standIn tag.toNat (BitVec.ofNat 32 n, at_) }).deliver d
      ⟨tag, BitVec.ofNat 32 n, BitVec.ofNat 64 at_, true⟩

theorem exec_lostStandin {tag : BitVec 32} {e : Cadence} (he : s.cadence? tag = some e) (hl : e.lost = true) :
    exec (.lostStandin tag) s = .next ((List.range 8).foldl (fun a d => a.standInOn tag e d) s) := by
  show execLostStandin tag s = _
  simp only [execLostStandin, he, hl, Bool.not_true, Bool.false_eq_true, if_false]
  rfl

theorem standInOn_none {tag : BitVec 32} {e : Cadence} {d : Nat}
    (h : s.expectedNow e (s.tsc d) (s.die d).span = none) : s.standInOn tag e d = s := by
  simp only [State.standInOn, h]

theorem standInOn_first {tag : BitVec 32} {e : Cadence} {d n at_ : Nat}
    (h : s.expectedNow e (s.tsc d) (s.die d).span = some (n, at_)) (ho : (s.die d).lastOf tag = none) :
    s.standInOn tag e d =
      (s.modDie d fun v => { v with standIn := Tbl.put v.standIn tag.toNat (BitVec.ofNat 32 n, at_) }).deliver d
        ⟨tag, BitVec.ofNat 32 n, BitVec.ofNat 64 at_, true⟩ := by
  simp only [State.standInOn, h, ho, Option.any_none, Bool.false_eq_true, if_false]

/-- Rounds of a loop that change nothing. -/
theorem foldl_stays {α : Type} {f : State → α → State} {l : List α} (h : ∀ a ∈ l, f s a = s) : l.foldl f s = s := by
  induction l with
  | nil => rfl
  | cons a l ih =>
    obtain ⟨ha, hl⟩ := List.forall_mem_cons.mp h
    rw [List.foldl_cons, ha, ih hl]

/-- Where no die expects a rotation now, nothing is queued. -/
theorem exec_lostStandin_none {tag : BitVec 32} {e : Cadence} (he : s.cadence? tag = some e) (hl : e.lost = true)
    (hn : ∀ d < 8, s.expectedNow e (s.tsc d) (s.die d).span = none) : exec (.lostStandin tag) s = .next s := by
  rw [exec_lostStandin he hl, foldl_stays fun d hd => standInOn_none (hn d (List.mem_range.mp hd))]

/-- Which rotation is expected now depends on the cadence table alone. -/
theorem expectedNow_congr {t : State} (hc : t.chain = s.chain) (e : Cadence) (now span : Nat) :
    t.expectedNow e now span = s.expectedNow e now span := by
  unfold State.expectedNow State.expected
  rw [hc]

/-- Where die 0 alone expects a rotation now, and no rotation of the tag has come, it alone queues a record. -/
theorem exec_lostStandin_one {tag : BitVec 32} {e : Cadence} {n at_ : Nat} (he : s.cadence? tag = some e)
    (hl : e.lost = true) (h0 : s.expectedNow e (s.tsc 0) (s.die 0).span = some (n, at_))
    (hn : ∀ d < 8, d ≠ 0 → s.expectedNow e (s.tsc d) (s.die d).span = none) (ho : (s.die 0).lastOf tag = none) :
    exec (.lostStandin tag) s = .next
      ((s.modDie 0 fun v => { v with standIn := Tbl.put v.standIn tag.toNat (BitVec.ofNat 32 n, at_) }).deliver 0
        ⟨tag, BitVec.ofNat 32 n, BitVec.ofNat 64 at_, true⟩) := by
  have h8 : List.range 8 = 0 :: (List.range 7).map (· + 1) := rfl
  rw [exec_lostStandin he hl, h8, List.foldl_cons, standInOn_first h0 ho]
  refine congrArg Host.Outcome.next (foldl_stays fun d hd => standInOn_none ?_)
  obtain ⟨k, hk, rfl⟩ := List.mem_map.mp hd
  have hk8 : k + 1 < 8 := by have := List.mem_range.mp hk; omega
  have hdie (f : Die → Die) (a : Arrival) : ((s.modDie 0 f).deliver 0 a).die (k + 1) = s.die (k + 1) :=
    (die_modDie s 0 (k + 1) f).trans (if_neg (by omega))
  refine (expectedNow_congr (s := s) (by rfl) e _ _).trans ?_
  rw [State.tsc, hdie]
  exact hn (k + 1) hk8 (by omega)

/-- Every count passed within the last `span` gets its rotation, as long as it is less than 2^63 counts behind the first. -/
theorem expectedNow_eq (e : Cadence) {n j span : Nat} (hj : j < s.chain.trot) (hlt : n * s.chain.trot + j < 2 ^ 63) :
    s.expectedNow e (s.expected e 0 + n * s.chain.trot + j) span =
      if j < span then some (n, s.expected e 0 + n * s.chain.trot) else none := by
  have hE : s.expected e 0 < 2 ^ 64 := Nat.mod_lt _ (by decide)
  have hpast : (s.expected e 0 + n * s.chain.trot + j + 2 ^ 64 - s.expected e 0) % 2 ^ 64 = n * s.chain.trot + j := by
    generalize s.expected e 0 = E at hE
    generalize n * s.chain.trot = N at hlt
    omega
  have hpos : 0 < s.chain.trot := by omega
  have hmod : (n * s.chain.trot + j) % s.chain.trot = j := by
    rw [Nat.add_comm, Nat.add_mul_mod_self_right, Nat.mod_eq_of_lt hj]
  have hdiv : (n * s.chain.trot + j) / s.chain.trot = n := by
    rw [Nat.add_comm, Nat.add_mul_div_right _ _ hpos, Nat.div_eq_of_lt hj, Nat.zero_add]
  simp only [State.expectedNow, hpast, hmod, hdiv, Nat.add_sub_cancel]
  by_cases hs : j < span
  · rw [if_pos hs, if_neg]
    omega
  · rw [if_neg hs, if_pos]
    omega

end sending

/-! ### LAND_TILE (R92) -/

section landing
variable {s : State} {r : SeqRef} {c : Cmd} {l : LandCmd} {rot : BitVec 32}

/-- The one landing of a sequencer whose strand runs is served. -/
theorem exec_landTile (hr : (s.strand (strandOf r)).stop = .running) (hq : (s.seq r).landQ = [c])
    (hl : landOf c.ins = some l) : exec (.landTile (.seq r)) s = .next (s.landServe r c l) := by
  have hruns : s.runs r = true := by simp [State.runs, hr]
  have hfind : [c].find? (fun k => k.seqNo == c.seqNo) = some c := by simp
  show execLandTile (.seq r) s = _
  simp only [execLandTile, hq, List.foldl_cons, List.foldl_nil, hfind, hl, hruns, if_true]

/-- One that has begun goes on tile by tile. -/
theorem landServe_begun (hb : c.begun = true) (ht : c.target = some rot) :
    s.landServe r c l = s.landTile r { c with head := some (s.tsc r.die) } l rot := by
  simp only [State.landServe, ht, Option.orElse_some, hb, if_true]

/-- One of a LOST tag ends with status 2. -/
theorem landServe_lost (hb : c.begun = false) (ht : c.target = some rot)
    (hs : s.rotState r.die (low32 c.xa) rot = .lost) :
    s.landServe r c l = s.landEnd r { c with head := some (s.tsc r.die) } l 2 := by
  simp only [State.landServe, ht, Option.orElse_some, hb, Bool.false_eq_true, if_false, hs]

theorem landEnd_lost : s.landEnd r c l 2 = (s.modSeq r fun q =>
    { q with landQ := q.landQ.filter fun k => k.seqNo != c.seqNo }.putX l.d 2 c.no s.cycles).pushPost r (hdrOf c.ins).pq
      c.addr c.pix := by
  unfold State.landEnd
  simp only [if_true]
  refine if_neg ?_
  simp

end landing

/-- Settles O42: each event of the chain has its rule. -/
theorem chainEvents : Obligations.ChainEvents := by
  intro s die
  refine ⟨fun n => rfl, fun hd hi => ⟨?fits, ?unfit, ?unknown, ?again⟩, fun mid f e => exec_stripeSendStart,
    fun n k e a => exec_dwellExpire, fun tag e => exec_lostStandin_none, fun tag e n at_ => exec_lostStandin_one,
    fun e n j span => expectedNow_eq e, ?begun, ?lost⟩
  case fits =>
    rintro e he hz hdie h1 h64 hfl hsz ha hr u rfl
    have hf := headerFits_iff.mpr ⟨hz, hdie, h1, h64, hfl, hsz⟩
    refine ⟨fun h0 => ?_, fun n w h0 hn hw => ?_, fun w h0 hn hw => ?_⟩
    · rw [exec_seghdr_first hi he hf ha hr (firstHeader_unregistered h0) (by simpa using hi), bne_eq_false_iff_eq.mpr h0]
    · rw [exec_seghdr_first hi he hf ha hr ((firstHeader_slot h0 hn).trans hw.symm) (by rw [hw]; simpa using hi),
        bne_iff_ne.mpr h0]
    · rw [exec_seghdr_first hi he hf ha hr ((firstHeader_missed h0 hn).trans hw.symm) (by rw [hw]; simpa using hi),
        bne_iff_ne.mpr h0]
  case unfit =>
    intro e he hbad hn
    refine exec_seghdr_unfit hi he (Bool.eq_false_iff.mpr fun hf => ?_) hn
    obtain ⟨hz, hdie, h1, h64, hfl, hsz⟩ := headerFits_iff.mp hf
    rcases hbad with h | h | h | h | h | h
    · exact nomatch hz.symm.trans h
    · exact h hdie
    · omega
    · omega
    · exact h hfl
    · exact h hsz
  case unknown =>
    intro he
    rw [exec_seghdr_unknown hi he, announce_first (by simpa using hi)]
  case again =>
    intro e a he hz hdie h1 h64 hfl hsz ha hr
    exact exec_seghdr_again hi he (headerFits_iff.mpr ⟨hz, hdie, h1, h64, hfl, hsz⟩) ha hr
  case begun =>
    intro r c l rot hr hq hl hb ht
    rw [exec_landTile hr hq hl, landServe_begun hb ht]
  case lost =>
    rintro r c f h d a b mac slot cnt rot hr hq hi hb ht hs
    rw [exec_landTile hr hq (by rw [hi]; rfl), landServe_lost hb ht hs, landEnd_lost, hi]
    rfl

end Sys2Proof.Machine
end

section
/-! PROOFS. Membership of the domain and its time (O46; R93 to R97, R270). -/

namespace Sys2Proof.Machine

section membership
variable {s : State} {mid window : Nat} {p q : Proposal}

/-! ### What keeps the chain -/

@[simp] theorem State.post_chain (die : Nat) (r : EvRec) : (s.post die r).chain = s.chain := by
  unfold State.post
  extract_lets
  split <;> rfl

/-- A loop whose rounds keep the chain keeps it. -/
theorem foldl_chain {α : Type} {f : State → α → State} (hf : ∀ s a, (f s a).chain = s.chain) (l : List α) (s : State) :
    (l.foldl f s).chain = s.chain := by
  induction l generalizing s with
  | nil => rfl
  | cons a l ih => exact (ih (f s a)).trans (hf s a)

@[simp] theorem State.failJobs_chain (die : Nat) : (s.failJobs die).chain = s.chain := by
  unfold State.failJobs
  extract_lets jobs
  exact foldl_chain (f := fun a j => a.modSeqAt (hubKey die) fun q => q.setX j.d 1) (fun _ _ => rfl) jobs s

/-! ### Proposals (R95, R96) -/

theorem exec_propose_accepted (h : ∀ q ∈ s.chain.member.own.toList ++ s.chain.member.held, q = p ∨ p.window < q.window)
    (hp : p ∉ s.chain.member.held) : exec (.propose p) s = .next ((s.modChain fun c =>
      { c with member := { c.member with held := c.member.held ++ [p] } }).send (.accept p.mid p.window)) := by
  have hany : ((s.chain.member.own.toList ++ s.chain.member.held).any fun q =>
      q != p && decide (q.window ≤ p.window)) = false := by
    rw [List.any_eq_false]
    intro q hq
    rcases h q hq with rfl | hlt
    · simp
    · simp [Nat.not_le.mpr hlt]
  have hc : s.chain.member.held.contains p = false := by simpa using hp
  show execPropose p s = _
  simp only [execPropose, hany, State.modMember, State.modChain, hc, Bool.false_eq_true, if_false]

theorem exec_propose_rejected (hq : q ∈ s.chain.member.own.toList ++ s.chain.member.held) (hne : q ≠ p)
    (hw : q.window ≤ p.window) : exec (.propose p) s = .next (s.send (.reject p.mid p.window)) := by
  have hany : ((s.chain.member.own.toList ++ s.chain.member.held).any fun q =>
      q != p && decide (q.window ≤ p.window)) = true :=
    List.any_eq_true.mpr ⟨q, hq, by simp [hne, hw]⟩
  show execPropose p s = _
  simp only [execPropose, hany, if_true]

/-- The own proposal stays while a live member has not accepted it. -/
theorem tryCommit_waits {m : Nat} (hm : m ∈ s.chain.live) (hn : m ∉ s.chain.member.accepts) : s.tryCommit = s := by
  unfold State.tryCommit
  split
  · rfl
  · refine if_neg fun h => hn ?_
    simpa using List.all_eq_true.mp h m hm

theorem tryCommit_commits (ho : s.chain.member.own = some p) (h : ∀ m ∈ s.chain.live, m ∈ s.chain.member.accepts) :
    s.tryCommit = (s.modMember fun m => { m with own := none, accepts := [], committed := m.committed ++ [p] }).send
      (.commit p.window) := by
  have hall : s.chain.live.all (s.chain.member.accepts.contains ·) = true := by simpa using h
  simp only [State.tryCommit, ho, hall, if_true]

/-- An ACCEPT of the own proposal, and of no other, counts. -/
theorem exec_accept_own (ho : s.chain.member.own = some p) (hw : p.window = window)
    (ha : mid ∉ s.chain.member.accepts) : exec (.accept mid window) s = .next (s.modChain fun c =>
      { c with member := { c.member with accepts := mid :: c.member.accepts } }).tryCommit := by
  have hc : s.chain.member.accepts.contains mid = false := by simpa using ha
  show execAccept mid window s = _
  simp only [execAccept, ho, hw, Option.any_some, beq_self_eq_true, if_true, State.modMember, State.modChain, hc,
    Bool.false_eq_true, if_false]

theorem exec_accept_last (ho : s.chain.member.own = some p) (hw : p.window = window)
    (ha : mid ∉ s.chain.member.accepts) (hl : ∀ m ∈ s.chain.live, m = mid ∨ m ∈ s.chain.member.accepts) :
    exec (.accept mid window) s = .next ((s.modChain fun c => { c with member := { c.member with
      own := none, accepts := [], committed := c.member.committed ++ [p] } }).send (.commit window)) := by
  rw [exec_accept_own ho hw ha, tryCommit_commits (p := p) (by exact ho) (by exact fun m hm => List.mem_cons.mpr (hl m hm)), hw]
  rfl

theorem exec_accept_early {m : Nat} (ho : s.chain.member.own = some p) (hw : p.window = window)
    (ha : mid ∉ s.chain.member.accepts) (hm : m ∈ s.chain.live) (hne : m ≠ mid) (hn : m ∉ s.chain.member.accepts) :
    exec (.accept mid window) s = .next (s.modChain fun c =>
      { c with member := { c.member with accepts := mid :: c.member.accepts } }) := by
  rw [exec_accept_own ho hw ha, tryCommit_waits (m := m) (by exact hm) (by exact List.not_mem_cons_of_ne_of_not_mem hne hn)]

theorem exec_accept_other (ho : s.chain.member.own = some p) (hw : p.window ≠ window) :
    exec (.accept mid window) s = .next s := by
  show execAccept mid window s = _
  simp only [execAccept, ho, Option.any_some, beq_eq_false_iff_ne.mpr hw, Bool.false_eq_true, if_false]

theorem exec_reject_own (ho : s.chain.member.own = some p) (hw : p.window = window) : exec (.reject mid window) s =
    .next (s.modChain fun c => { c with member := { c.member with own := none, accepts := [] } }).proposeAgain := by
  show execReject mid window s = _
  simp only [execReject, ho, hw, Option.any_some, beq_self_eq_true, if_true, State.modMember]

theorem exec_reject_other (ho : s.chain.member.own = some p) (hw : p.window ≠ window) :
    exec (.reject mid window) s = .next s := by
  show execReject mid window s = _
  simp only [execReject, ho, Option.any_some, beq_eq_false_iff_ne.mpr hw, Bool.false_eq_true, if_false]

theorem exec_commit_held (hh : s.chain.member.held = [p]) (hm : p.mid = mid) (hw : p.window = window) :
    exec (.commit mid window) s = .next (s.modChain fun c => { c with member := { c.member with
      held := []
      committed := if windowOf (s.tsc 0) + 1 < window then c.member.committed ++ [p] else c.member.committed } }) := by
  have hf : s.chain.member.held.find? (fun p => p.mid == mid && p.window == window) = some p := by
    simp [hh, hm, hw]
  have hn : s.chain.member.held.filter (· != p) = [] := by simp [hh]
  show execCommit mid window s = _
  simp only [execCommit, hf, State.modMember, State.modChain, hn]
  rfl

theorem exec_commit_none (hh : s.chain.member.held = []) : exec (.commit mid window) s = .next s := by
  show execCommit mid window s = _
  simp only [execCommit, hh, List.find?_nil]

theorem propose_nothing (w : Nat) : s.propose w [] = s := rfl

/-- A proposal goes out, and waits while there is another live member. -/
theorem propose_sends {w : Nat} {es : List (Nat × BitVec 32)} (he : es ≠ []) (hl : s.chain.live ≠ []) :
    s.propose w es = (s.modChain fun c =>
      { c with member := { c.member with own := some ⟨c.self, w, es⟩, accepts := [] } }).send
        (.propose ⟨s.chain.self, w, es⟩) := by
  obtain ⟨m, hm⟩ := List.exists_mem_of_ne_nil _ hl
  have hne : es.isEmpty = false := by simpa using he
  simp only [State.propose, hne, Bool.false_eq_true, if_false]
  exact tryCommit_waits (m := m) hm List.not_mem_nil

/-! ### The death of a member (R93, R97) -/

theorem exec_memberLost (hs : s.chain.successor = some mid) (hd : mid ∉ s.chain.member.dead) {u : State}
    (hu : u = (List.range 8).foldl (fun a d => a.failJobs d) ((s.modChain fun c =>
      { c with member := { c.member with dead := mid :: c.member.dead } }).post 0 (eventOf .memberLost mid))) :
    exec (.memberLost mid) s =
      .next (if s.chain.member.own.isSome then u else u.propose (windowOf (u.tsc 0) + 2) u.chain.repairs) := by
  have hif : ¬ (s.chain.successor ≠ some mid ∨ s.chain.member.dead.contains mid = true) := by simp [hs, hd]
  have hown : u.chain.member.own = s.chain.member.own := by
    rw [hu, foldl_chain fun _ _ => State.failJobs_chain _, State.post_chain]
    rfl
  show execMemberLost mid s = _
  unfold execMemberLost
  rw [if_neg hif, ← hown]
  extract_lets s1 s2
  have h2 : s2 = u := hu.symm
  rw [h2]
  rfl

theorem exec_memberLost_other (h : s.chain.successor ≠ some mid ∨ mid ∈ s.chain.member.dead) :
    exec (.memberLost mid) s = .next s :=
  if_pos (h.imp_right fun hd => List.contains_iff_mem.mpr hd)

/-- The one stripe that FWD has queued ends with status 1. -/
theorem failJobs_one {die : Nat} {j : FwdJob} (hf : (s.die die).fwd = [j]) (ho : j.own = false) :
    s.failJobs die = (s.modSeqAt (hubKey die) fun q => q.setX j.d 1).modDie die fun d =>
      { d with fwd := d.fwd.filter (·.own) } := by
  simp [State.failJobs, hf, ho]

theorem failJobs_ends {die : Nat} {j : FwdJob} (hf : (s.die die).fwd = [j]) (ho : j.own = false) :
    ((s.failJobs die).die die).fwd = [] ∧ (j.d ≠ 0 → ((s.failJobs die).seqAt (hubKey die)).getX j.d = 1) := by
  have hdie (f : Seq → Seq) : (s.modSeqAt (hubKey die) f).die die = s.die die := rfl
  rw [failJobs_one hf ho]
  constructor
  · simp [hdie, hf, ho]
  · intro hd
    rw [seqAt_modDie, seqAt_modSeqAt, if_pos rfl, getX_setX, if_neg hd, if_pos rfl]

/-- With nothing committed, the repairs bypass the entries of the dead members as they stand. -/
theorem mem_repairs (hc : s.chain.member.committed = []) {i : Nat} {e : BitVec 32} : (i, e) ∈ s.chain.repairs ↔
    i < 32 ∧ derV (s.chain.entry i) = true ∧ derSkip (s.chain.entry i) = false
      ∧ derMid (s.chain.entry i) ∈ s.chain.member.dead ∧ e = s.chain.entry i ||| 0x400 := by
  have hp : s.chain.planned = s.chain := by simp [Chain.planned, hc]
  simp only [Chain.repairs, hp, List.mem_filterMap, List.mem_range, Option.ite_none_right_eq_some, Option.some.injEq,
    Prod.mk.injEq, Bool.and_eq_true, Bool.not_eq_true', List.contains_iff_mem]
  constructor
  · rintro ⟨k, hk, ⟨⟨hv, hs⟩, hd⟩, rfl, rfl⟩
    exact ⟨hk, hv, hs, hd, rfl⟩
  · rintro ⟨hk, hv, hs, hd, rfl⟩
    exact ⟨i, hk, ⟨⟨hv, hs⟩, hd⟩, rfl, rfl⟩

/-! ### Changes (R95) -/

/-- A new cadence table leaves the neighbours. -/
@[simp] theorem newTable_successor : s.newTable.chain.successor = s.chain.successor := rfl
@[simp] theorem newTable_predecessor : s.newTable.chain.predecessor = s.chain.predecessor := rfl

/-- A change of one entry that bypasses nobody, and leaves the neighbours, is the entry and the new cadence table. -/
theorem applyChange_entry {i : Nat} {e : BitVec 32} {u : State} (he : p.entries = [(i, e)])
    (hk : derSkip e = false ∨ derSkip (s.chain.entry i) = true)
    (hu : u = (s.modChain fun c => { c with derail := Tbl.set 0 c.derail i (e &&& 0x1FFF) }))
    (hs : u.chain.successor = s.chain.successor) (hp : u.chain.predecessor = s.chain.predecessor) :
    s.applyChange p = u.newTable := by
  have hlost : (p.entries.filter fun (i, e) => derV e && derSkip e && !derSkip (s.chain.entry i)) = [] := by
    rw [he, List.filter_eq_nil_iff]
    rintro x hx
    rw [List.mem_singleton.mp hx]
    rcases hk with h | h <;> simp [h]
  have hw : (s.modChain fun c => c.withEntries p) = u := by
    rw [hu]
    simp only [Chain.withEntries, he, List.foldl_cons, List.foldl_nil]
  unfold State.applyChange
  simp only [hlost, List.map_nil, List.foldl_nil, hw, newTable_successor, newTable_predecessor, hs, hp]
  rcases s.chain.successor with _ | a <;> rcases s.chain.predecessor with _ | b <;> simp

/-! ### Time (R270) -/

theorem exec_drsp (x : BitVec 64) : ∃ t k, exec (.drsp mid x) s = .next t ∧ k ≤ 12
    ∧ (∀ p ∈ t.dies, ∃ d, (p.1, d) ∈ s.dies ∧ p.2 = { d with tsc := d.tsc + k }) ∧ t.mem = s.mem := by
  refine ⟨_, min (Config.steer s.free) 12, rfl, Nat.min_le_right _ _, fun p hp => ?_, rfl⟩
  obtain ⟨⟨n, d⟩, hd, rfl⟩ := List.mem_map.mp hp
  exact ⟨d, hd, rfl⟩

/-! ### The start of a window (R95, R250, R252) -/

/-- Where no cluster of the machine has drooped for more than 256 cycles, only the counts of a die begin again. -/
theorem clusterWindow_calm (h : ∀ p ∈ s.clusters, p.2.droopLost ≤ 256) (die : Nat) : s.clusterWindow die =
    { s with clusters := s.clusters.map fun p =>
        (p.1, if p.1 / 64 = die then { p.2 with wcnt := 0, fidRecords := 0, droopLost := 0 } else p.2) } := by
  have hn : (s.clusters.filter fun p => p.1 / 64 == die && decide (256 < p.2.droopLost)) = [] := by
    rw [List.filter_eq_nil_iff]
    intro p hp
    simp [Nat.not_lt.mpr (h p hp)]
  simp only [State.clusterWindow, hn, List.foldl_nil]

theorem reloadTables_sound (h : s.tablesSound = true) : s.reloadTables = s := if_pos h

/-- A member that is not the origin, with nothing committed or proposed and nobody dead, judges the time alone. -/
theorem chiefWindow_idle (hm : s.chain.member = {}) (ho : s.chain.isOrigin = false) : s.chiefWindow =
    if Config.syncHeld s.window then s else s.post 0 { cause := .syncLoss } := by
  unfold State.chiefWindow
  extract_lets now s1 due s2 s3
  have hchain : s1.chain = s.chain := by
    unfold s1
    split
    · rfl
    · exact State.post_chain ..
  have hm1 : s1.chain.member = {} := hchain ▸ hm
  have hdue : due = [] := by simp [due, hm1]
  have hmod (f : Membership → Membership) (hf : f {} = {}) : s1.modMember f = s1 := by
    simp only [State.modMember, State.modChain, hm1, hf]
    rw [← hm1]
  have h2 : s2 = s1 := by
    unfold s2
    rw [hdue, List.foldl_nil]
    exact hmod _ rfl
  have hlate : s1.dropLate now = s1 := by
    unfold State.dropLate
    simp only [hm1, List.filter_nil, Option.toList_none, List.length_nil, Nat.add_zero, List.range_zero, List.foldl_nil,
      Option.any_none, Bool.false_eq_true, if_false]
    exact hmod _ rfl
  have ho1 : s1.chain.isOrigin = false := hchain ▸ ho
  have h3 : s3 = s1 := by
    unfold s3
    rw [h2, hlate]
    simp only [State.reinject, ho1, Bool.not_false, if_true]
  have hrep : s1.chain.repairs = [] := by simp [Chain.repairs, Chain.planned, hm1]
  rw [h3, hrep, propose_nothing, ite_self]
  simp only [State.sendSync, ho1, Bool.not_false, if_true]
  rfl

theorem exec_windowBoundary_none (ht : s.tablesSound = true) (hn : ∀ d < 8, (s.die d).crossed 4096 = false) :
    exec .windowBoundary s = .next s := by
  have hf : ((List.range 8).filter fun d => (s.die d).crossed 4096) = [] := by
    rw [List.filter_eq_nil_iff]
    intro d hd
    simp [hn d (List.mem_range.mp hd)]
  show execWindowBoundary s = _
  simp only [execWindowBoundary, reloadTables_sound ht, hf, hn 0 (by decide), List.foldl_nil, Bool.false_eq_true, if_false]

/-- The one die that has come to a new window. -/
theorem filter_range_single {f : Nat → Bool} {n k : Nat} (hk : k < n) (hf : f k = true)
    (hn : ∀ d < n, d ≠ k → f d = false) : (List.range n).filter f = [k] := by
  have he : (List.range n).filter f = (List.range n).filter (· == k) := by
    refine List.filter_congr fun d hd => ?_
    by_cases h : d = k
    · simp [h, hf]
    · simp [h, hn d (List.mem_range.mp hd) h]
  rw [he, List.filter_beq, List.count_eq_one_of_mem List.nodup_range (List.mem_range.mpr hk)]
  rfl

theorem exec_windowBoundary_one (ht : s.tablesSound = true) {k : Nat}
    (hk : k < 8) (hx : (s.die k).crossed 4096 = true) (hn : ∀ d < 8, d ≠ k → (s.die d).crossed 4096 = false) :
    exec .windowBoundary s = .next (if k = 0 then (s.clusterWindow k).chiefWindow else s.clusterWindow k) := by
  have hf := filter_range_single (f := fun d => (s.die d).crossed 4096) hk hx hn
  have h0 : (s.die 0).crossed 4096 = decide (k = 0) := by
    by_cases h : k = 0
    · simp [← h, hx]
    · simp [h, hn 0 (by decide) (Ne.symm h)]
  show execWindowBoundary s = _
  simp only [execWindowBoundary, reloadTables_sound ht, hf, h0, List.foldl_cons, List.foldl_nil, decide_eq_true_eq]

end membership

/-- Settles O46: what each flit of the protocol makes of the proposals, the loss of the successor, and a window that begins. -/
theorem membershipEvents : Obligations.MembershipEvents := by
  unfold Obligations.MembershipEvents
  intro s mid window
  refine ⟨?accepted, ?rejected, ?accept, ?acceptOther, ?reject, ?rejectOther, ?commit, ?commitNone, ?lost, ?lostOther,
    ?jobs, ?propose, ?proposeNothing, ?repairs, ?change, ?sync, ?follow, ?dreq, ?drsp, ?boundary⟩
  case accepted => exact fun p => exec_propose_accepted
  case rejected => exact fun p q => exec_propose_rejected
  case accept =>
    intro p ho hw ha
    exact ⟨exec_accept_last ho hw ha, fun m => exec_accept_early ho hw ha⟩
  case acceptOther => exact fun p => exec_accept_other
  case reject =>
    rintro p ho hw u rfl
    exact exec_reject_own ho hw
  case rejectOther => exact fun p => exec_reject_other
  case commit => exact fun p => exec_commit_held
  case commitNone => exact exec_commit_none
  case lost =>
    intro hs hd u hu
    rw [exec_memberLost hs hd hu]
    constructor
    · intro ho
      simp [ho]
    · intro p ho
      simp [ho]
  case lostOther => exact exec_memberLost_other
  case jobs => exact fun die j => failJobs_ends
  case propose => exact fun w es => propose_sends
  case proposeNothing => exact propose_nothing
  case repairs => exact fun i e hc => mem_repairs hc
  case change => exact fun p i e u => applyChange_entry
  case sync => exact fun x => rfl
  case follow => exact fun x => rfl
  case dreq => exact fun x => rfl
  case drsp => exact exec_drsp
  case boundary =>
    intro ht hc
    refine ⟨exec_windowBoundary_none ht, ?_⟩
    rintro k u hk hx hn rfl
    rw [exec_windowBoundary_one ht hk hx hn, clusterWindow_calm hc]
    constructor
    · intro h0
      rw [if_neg h0]
    · intro h0 hm ho
      rw [if_pos h0]
      exact congrArg Host.Outcome.next (chiefWindow_idle hm ho)

end Sys2Proof.Machine
end

section
/-! PROOFS. Cold reset and register writes (O48; R94, R261, R262, R327, R352 to R354, R357, R358). -/

namespace Sys2Proof.Machine

/-! ### The lane plan of a boot (R262) -/

/-- What the table of a function on the first numbers says. -/
theorem Tbl.get_map_range {α : Type} (d : α) (g : Nat → α) {n k : Nat} (h : k < n) :
    Tbl.get d ((List.range n).map fun i => (i, g i)) k = g k := by
  have go : ∀ l : List Nat, k ∈ l → Tbl.get d (l.map fun i => (i, g i)) k = g k := by
    intro l hl
    induction l with
    | nil => exact absurd hl List.not_mem_nil
    | cons a l ih =>
      by_cases ha : a = k
      · rw [← ha]
        exact if_pos rfl
      · exact (if_neg ha).trans (ih ((List.mem_cons.mp hl).resolve_left (Ne.symm ha)))
  exact go _ (List.mem_range.mpr h)

section reset
variable {s : State}

/-- Dies changed one after another, each once. -/
theorem die_foldl_modDie (F : Nat → Die → Die) {l : List Nat} (hl : l.Nodup) (k : Nat) :
    (l.foldl (fun a d => a.modDie d (F d)) s).die k = if k ∈ l then F k (s.die k) else s.die k := by
  induction l generalizing s with
  | nil => rfl
  | cons n l ih =>
    obtain ⟨hn, hl⟩ := List.nodup_cons.mp hl
    rw [List.foldl_cons, ih hl, die_modDie]
    by_cases hk : k = n
    · subst hk
      simp [hn]
    · simp [hk, Ne.symm hk]

/-- A loop over dies changes nothing but dies. -/
theorem foldl_modDie_frame (F : Nat → Die → Die) (l : List Nat) (s : State) :
    l.foldl (fun a d => a.modDie d (F d)) s = { s with dies := (l.foldl (fun a d => a.modDie d (F d)) s).dies } := by
  induction l generalizing s with
  | nil => rfl
  | cons d l ih => exact ih (s.modDie d (F d))

/-- The default plan of a lane, where the chain lanes take a channel. -/
def plannedLane (chain : BitVec 5) (d n : Nat) : Lane :=
  { use := (defaultLane d n).1
    ch := if (defaultLane d n).1 = 1 then chain else BitVec.ofNat 5 (defaultLane d n).2 }

/-- The lanes of a die at the default plan. -/
def planLanes (chain : BitVec 5) (d : Nat) (v : Die) : Die :=
  { v with lanes := (List.range 256).map fun n => (n, plannedLane chain d n) }

theorem setLanePlan_eq : s.setLanePlan = (List.range 8).foldl (fun a d => a.modDie d (planLanes s.chain.succChannel d)) s :=
  rfl

theorem setLanePlan_frame : s.setLanePlan = { s with dies := s.setLanePlan.dies } := foldl_modDie_frame _ _ _

theorem setLanePlan_die {d : Nat} (hd : d < 8) : s.setLanePlan.die d = planLanes s.chain.succChannel d (s.die d) := by
  rw [setLanePlan_eq, die_foldl_modDie _ List.nodup_range, if_pos (List.mem_range.mpr hd)]

theorem setLanePlan_lane {d n : Nat} (hd : d < 8) (hn : n < 256) :
    s.setLanePlan.lane d n = plannedLane s.chain.succChannel d n := by
  rw [State.lane, setLanePlan_die hd]
  exact Tbl.get_map_range _ _ hn

/-- With no successor, the chain lanes are on channel 0. -/
theorem plannedLane_unaimed {d n ch : Nat} (hc : ch = 4 * d + (n / 8 - 28)) : plannedLane 0 d n =
    if n / 8 < 28 then { use := 1 } else if ch = 0 then {}
    else { use := if n % 8 = 0 then 2 else 3, ch := BitVec.ofNat 5 ch } := by
  simp only [plannedLane, defaultLane, ← hc]
  by_cases hn : n / 8 < 28
  · simp [hn]
  · by_cases h0 : ch = 0
    · simp [hn, h0]
    · by_cases hm : n % 8 = 0 <;> simp [hn, h0, hm]

/-- An empty derailleur table names no successor. -/
theorem succChannel_empty {c : Chain} (hd : c.derail = []) : c.succChannel = 0 := by
  have he (i : Nat) : c.entry i = 0 := by simp [Chain.entry, hd, Tbl.get]
  have ho : c.own = none := by simp [Chain.own, he, derV]
  simp [Chain.succChannel, Chain.successor, ho]

/-! ### Boot (R262, R358) -/

theorem boot_good (h : Config.firmwareGood s.mailbox.boots = true) :
    s.boot = (s.modMail fun m => { m with boot := .running, boots := m.boots + 1
                                          meas := (List.range 4).map fun n =>
                                            (n, extendMeas (zeros 64) (Config.stageDigest n)) }).setLanePlan :=
  if_pos h

theorem boot_bad (h : Config.firmwareGood s.mailbox.boots = false) :
    s.boot = s.modMail fun m => { m with boot := .failed, boots := m.boots + 1, authPending := true
                                         meas := [(0, extendMeas (zeros 64) (Config.stageDigest 0))] } :=
  if_neg (by simp [h])

/-- A boot changes the mailbox and dies alone. -/
theorem boot_frame : ∃ ds m, s.boot = { s with dies := ds, mailbox := m }
    ∧ m.request = s.mailbox.request ∧ m.response = s.mailbox.response ∧ m.doorbell = s.mailbox.doorbell
    ∧ m.keys = s.mailbox.keys ∧ m.models = s.mailbox.models ∧ m.boots = s.mailbox.boots + 1 := by
  by_cases h : Config.firmwareGood s.mailbox.boots = true
  · rw [boot_good h, setLanePlan_frame]
    exact ⟨_, _, rfl, rfl, rfl, rfl, rfl, rfl, rfl⟩
  · rw [boot_bad (Bool.eq_false_iff.mpr h)]
    exact ⟨_, _, rfl, rfl, rfl, rfl, rfl, rfl, rfl⟩

theorem boot_good_mailbox (h : Config.firmwareGood s.mailbox.boots = true) : s.boot.mailbox =
    { s.mailbox with boot := .running, boots := s.mailbox.boots + 1
                     meas := (List.range 4).map fun n => (n, extendMeas (zeros 64) (Config.stageDigest n)) } := by
  rw [boot_good h, setLanePlan_frame]
  rfl

/-! ### Cold reset -/

/-- A boot that fails leaves every die at its reset value, and the first stage alone measured. -/
theorem coldReset_failed (h : Config.firmwareGood s.mailbox.boots = false) : s.afterReset.boot.dies = []
    ∧ s.afterReset.boot.mailbox.boot = .failed ∧ s.afterReset.boot.mailbox.authPending = true
    ∧ s.afterReset.boot.mailbox.meas = [(0, extendMeas (zeros 64) (Config.stageDigest 0))] := by
  rw [boot_bad (s := s.afterReset) h]
  exact ⟨rfl, rfl, rfl, rfl⟩

theorem coldReset_measures (h : Config.firmwareGood s.mailbox.boots = true) : ∀ n < 4,
    Tbl.get [] s.afterReset.boot.mailbox.meas n = extendMeas (zeros 64) (Config.stageDigest n) := by
  rw [boot_good_mailbox (s := s.afterReset) h]
  exact fun n => Tbl.get_map_range _ _

theorem coldReset_die (h : Config.firmwareGood s.mailbox.boots = true) {d : Nat} (hd : d < 8) :
    { s.afterReset.boot.die d with lanes := [] } = ({} : Die) := by
  rw [boot_good (s := s.afterReset) h, setLanePlan_die hd]
  rfl

/-- No successor is known right after a reset. -/
theorem coldReset_lane (h : Config.firmwareGood s.mailbox.boots = true) {d n ch : Nat} (hd : d < 8) (hn : n < 256)
    (hc : ch = 4 * d + (n / 8 - 28)) : s.afterReset.boot.lane d n = if n / 8 < 28 then { use := 1 } else if ch = 0 then {}
      else { use := if n % 8 = 0 then 2 else 3, ch := BitVec.ofNat 5 ch } := by
  have hch : s.afterReset.chain.succChannel = 0 := succChannel_empty rfl
  rw [boot_good (s := s.afterReset) h, setLanePlan_lane hd hn, ← plannedLane_unaimed hc, ← hch]
  rfl

end reset

/-! ### Register writes (R94, R261, R327, R352) -/

section writes
variable {s : State} {v : BitVec 64}

theorem exec_writeDerail {i : Nat} (hi : i < 32) (hs : s.chain.successor = (s.modChain fun c => { c with
      derail := Tbl.set 0 c.derail i (low32 v &&& 0x1FFF#32)
      badDerail := c.badDerail.filter (· != i) }).chain.successor) :
    exec (.registerWrite (.derailleur i) v) s = .next (s.modChain fun c =>
      { c with derail := Tbl.set 0 c.derail i (low32 v &&& 0x1FFF#32), badDerail := c.badDerail.filter (· != i) }) := by
  refine congrArg Host.Outcome.next ((if_pos hi).trans ?_)
  exact if_pos hs.symm

/-- Two changes of a lane that agree on it as it stands. -/
theorem modLane_congr {die n : Nat} {f g : Lane → Lane} (h : f (s.lane die n) = g (s.lane die n)) :
    s.modLane die n f = s.modLane die n g := by
  show s.setDie die { s.die die with lanes := Tbl.put (s.die die).lanes n (f (s.lane die n)) } = _
  rw [h]
  rfl

section lane
variable {die lane : Nat} {use : BitVec 2} {ch : BitVec 5}

theorem exec_writeLane (hl : lane < 256) (hu : use = v.extractLsb' 14 2) (hc : ch = v.extractLsb' 9 5) :
    exec (.registerWrite (.lanePlan die lane) v) s = .next (s.writeLane die lane use ch) := by
  rw [hu, hc]
  exact congrArg Host.Outcome.next (if_pos hl)

/-- A lane aimed at another channel is tuned to it, and its flits go over other lanes. -/
theorem writeLane_retunes (hc : ch ≠ (s.lane die lane).ch) : s.writeLane die lane use ch =
    ((s.modLane die lane fun l =>
      { l with use := use, ch := ch, ret := false, retune := true, tuned := s.tsc die + 1200 }).moveAll die lane
        (s.lane die lane)).rejoin die lane := by
  simp only [State.writeLane, hc.symm, and_false, if_false]
  congr 2
  exact modLane_congr (by simp [hc.symm])

/-- The channel stays: nothing is tuned. -/
theorem modLane_sameChannel (hc : ch = (s.lane die lane).ch) :
    (s.modLane die lane fun l =>
      { l with use := use, ch := ch, ret := false, retune := l.retune || l.ch != ch,
               tuned := if l.ch = ch then l.tuned else s.tsc die + 1200 }) =
      s.modLane die lane fun l => { l with use := use, ch := ch, ret := false } :=
  modLane_congr (by simp [hc])

theorem writeLane_same (hc : ch = (s.lane die lane).ch) (hu : use = (s.lane die lane).use) :
    s.writeLane die lane use ch =
      (s.modLane die lane fun l => { l with use := use, ch := ch, ret := false }).rejoin die lane := by
  rw [State.writeLane, modLane_sameChannel hc]
  exact congrArg (State.rejoin · die lane) (if_pos ⟨hu.symm, hc.symm⟩)

theorem writeLane_otherUse (hc : ch = (s.lane die lane).ch) (hu : use ≠ (s.lane die lane).use) :
    s.writeLane die lane use ch =
      ((s.modLane die lane fun l => { l with use := use, ch := ch, ret := false }).moveAll die lane
        (s.lane die lane)).rejoin die lane := by
  rw [State.writeLane, modLane_sameChannel hc]
  exact congrArg (State.rejoin · die lane) (if_neg fun h => hu h.1.symm)

end lane

/-! The event-queue registers (R357), and FIRMWARE_AUTH of an earlier boot (R358). -/

theorem postAuth_nothing (h : s.mailbox.authPending = false) : s.postAuth = s := by
  simp [State.postAuth, h]

theorem postAuth_posts (h : s.mailbox.authPending = true) (hb : s.mailbox.boot = .running)
    (hq : 4 ≤ (s.die 0).events.size.toNat) : s.postAuth =
      (s.modMail fun m => { m with authPending := false }).post 0 { cause := .firmwareAuth } := by
  simp [State.postAuth, h, hb, hq]

/-- SIZE as the low byte of what is written says it. -/
theorem toNat_size (v : BitVec 64) : (v.setWidth 8).toNat = field v 0 8 := by
  simp [field, BitVec.toNat_setWidth]

theorem exec_writeSize_auth (h : s.mailbox.authPending = true) (hb : s.mailbox.boot = .running)
    (hl : 4 ≤ field v 0 8) (hu : field v 0 8 ≤ 20) :
    exec (.registerWrite (.eventQueue 0 8) v) s = .next (((s.modDie 0 fun d =>
      { d with events := { d.events with size := v.setWidth 8 } }).modMail fun m => { m with authPending := false }).post 0
        { cause := .firmwareAuth }) := by
  have hsize : (s.modDie 0 fun d =>
      { d with events := if 4 ≤ field v 0 8 ∧ field v 0 8 ≤ 20 then { d.events with size := v.setWidth 8 } else d.events }) =
      s.modDie 0 fun d => { d with events := { d.events with size := v.setWidth 8 } } := by
    simp only [hl, hu, and_self, if_true]
  refine congrArg Host.Outcome.next ((congrArg State.postAuth hsize).trans (postAuth_posts ?_ ?_ ?_))
  · exact h
  · exact hb
  · rw [die_modDie, if_pos rfl]
    exact (toNat_size v).symm ▸ hl

/-! BAR0 (R353, R354). -/

theorem writeBar0_ignored {off : Nat} (h : off < 64 ∨ s.mailbox.boot ≠ .running) : s.writeBar0 off v = s := by
  rcases h with h | h
  · have h1 : ¬ (0x1000 ≤ off ∧ off < 0x2000) := by omega
    have h2 : off ≠ 0x4000 := by omega
    have h3 : ¬ (0x5000 ≤ off ∧ off < 0x5200) := by omega
    simp only [State.writeBar0, h1, h2, h3, if_false, ite_self]
  · exact if_pos h

theorem bar0_unbooted (h : s.mailbox.boot ≠ .running) : s.bar0 0x4000 = 0x3000000 := by
  simp [State.bar0, h]

theorem writeBar0_request {off : Nat} (hb : s.mailbox.boot = .running) (hl : 0x1000 ≤ off) (hu : off + 8 ≤ 0x2000) :
    s.writeBar0 off v = s.modMail fun m =>
      { m with request := Tbl.writeRun 0 m.request (off - 0x1000) (bytes64 v) } := by
  have hin : 0x1000 ≤ off ∧ off < 0x2000 := by omega
  have htake : (bytes64 v).take (0x2000 - off) = bytes64 v :=
    List.take_of_length_le (show 8 ≤ 0x2000 - off by omega)
  simp only [State.writeBar0, hb, ne_eq, not_true_eq_false, if_false, hin, and_self, if_true, htake]

theorem writeBar0_doorbell (hb : s.mailbox.boot = .running) : s.writeBar0 0x4000 v = s.ring v := by
  simp [State.writeBar0, hb]

theorem ring_starts {cmd : Nat} {u : State} (hd : s.mailbox.doorbell.getLsbD 16 = false) (hc : cmd = field v 0 8)
    (h0 : cmd ≠ 0) (hu : u = (s.modMail fun m =>
      { m with doorbell := (m.doorbell &&& 0xFFFFFFFFFF000000#64) ||| BitVec.ofNat 64 (2 ^ 16 + cmd), stopped := 0 })) :
    s.ring v = (u.modDie 0 fun d => { d with hub := { d.hub with mail := true } }).soon [u.mailEvent cmd] := by
  subst hc hu
  have hbusy : s.mailBusy = false := hd
  exact if_neg (by simp [h0, hbusy])

theorem ring_ignored (h : s.mailbox.doorbell.getLsbD 16 = true ∨ field v 0 8 = 0) : s.ring v = s :=
  if_pos h.symm

/-! Registers of hubs and clusters (R327, R352). -/

/-- The numbers of a hub's own registers. -/
def hubCsrs : List (BitVec 12) := [0x010, 0x018, 0x019, 0x01A, 0x040]

theorem writeDevCsr_hub {num : BitVec 12} (h : num ∈ hubCsrs) (die cl : Nat) :
    s.writeDevCsr die cl num v = s.hubWrite die num.toNat v :=
  if_pos (by simpa [hubCsrs] using h)

theorem writeDevCsr_cluster {num : BitVec 12} {cl : Nat} (h : num ∉ hubCsrs) (hc : cl ≤ 53) (die : Nat) :
    s.writeDevCsr die cl num v = s.writeClusterCsr die cl num.toNat v :=
  (if_neg (by simpa [hubCsrs] using h)).trans (if_pos hc)

end writes

/-- Settles O48: the cold reset, then the writes of each kind of register. -/
theorem resetEvents : Obligations.ResetEvents := by
  unfold Obligations.ResetEvents
  refine ⟨fun s => ?reset, fun s v =>
    ⟨?derail, ?lanes, ?events, ?auth, ?readOnly, ?status, ?request, ?doorbell, ?busy, ?hub, ?cluster⟩⟩
  case reset =>
    refine ⟨s.afterReset.boot, rfl, ?_⟩
    obtain ⟨ds, m, e, hreq, hresp, hbell, hkeys, hmodels, hboots⟩ := boot_frame (s := s.afterReset)
    exact ⟨congrArg State.seqs e, congrArg State.strands e, congrArg State.clusters e, congrArg State.islands e,
      congrArg State.mem e, congrArg State.sched e, congrArg State.ctxs e, congrArg State.agenda e, congrArg State.bad e,
      congrArg State.weak e, congrArg State.refused e, congrArg State.lateReads e, congrArg State.beside e,
      congrArg State.nextReq e, congrArg State.nextCmd e, congrArg State.cycles e, (congrArg State.inputs e).trans rfl,
      (congrArg State.outbox e).trans rfl, congrArg State.chain e, (congrArg (·.mailbox.request) e).trans hreq,
      (congrArg (·.mailbox.response) e).trans hresp, (congrArg (·.mailbox.doorbell) e).trans hbell,
      (congrArg (·.mailbox.keys) e).trans hkeys, (congrArg (·.mailbox.models) e).trans hmodels,
      (congrArg (·.mailbox.boots) e).trans hboots, coldReset_failed, fun h =>
        ⟨congrArg Mailbox.boot (boot_good_mailbox (s := s.afterReset) h),
          (congrArg Mailbox.authPending (boot_good_mailbox (s := s.afterReset) h)).trans rfl, coldReset_measures h, fun d hd =>
            ⟨coldReset_die h hd, fun n hn ch hc => coldReset_lane h hd hn hc⟩⟩⟩
  case derail => exact fun i => exec_writeDerail
  case lanes =>
    intro die lane use ch hl hu hc
    rw [exec_writeLane hl hu hc]
    exact ⟨fun h => congrArg Host.Outcome.next (writeLane_retunes h),
      fun h hu => congrArg Host.Outcome.next (writeLane_same h hu),
      fun h hu => congrArg Host.Outcome.next (writeLane_otherUse h hu)⟩
  case events =>
    intro ha die
    have hw (off : Nat) : exec (.registerWrite (.eventQueue die off) v) s = .next (s.writeEventQ die off v) := rfl
    simp only [hw, State.writeEventQ]
    refine ⟨?_, ?_, ?_, fun off ho => ?_⟩
    · rw [postAuth_nothing (by exact ha)]
    · rw [postAuth_nothing (by exact ha)]
    · rw [postAuth_nothing (by exact ha)]
    · rw [postAuth_nothing (by exact ha)]
      rcases List.mem_pair.mp ho with rfl | rfl <;> rfl
  case auth => exact exec_writeSize_auth
  case readOnly => exact fun off h => congrArg Host.Outcome.next (writeBar0_ignored h)
  case status => exact bar0_unbooted
  case request => exact fun off hb hl hu => congrArg Host.Outcome.next (writeBar0_request hb hl hu)
  case doorbell =>
    intro cmd hb hd hc h0 u hu
    exact congrArg Host.Outcome.next ((writeBar0_doorbell hb).trans (ring_starts hd hc h0 hu))
  case busy =>
    intro hb h
    exact congrArg Host.Outcome.next ((writeBar0_doorbell hb).trans (ring_ignored h))
  case hub =>
    intro die cl
    exact ⟨congrArg Host.Outcome.next (writeDevCsr_hub (by decide) die cl),
      congrArg Host.Outcome.next (writeDevCsr_hub (by decide) die cl)⟩
  case cluster =>
    intro die cl hc
    refine ⟨congrArg Host.Outcome.next (writeDevCsr_cluster (by decide) hc die), fun n hn => ?_⟩
    have hno : BitVec.ofNat 12 n ∉ hubCsrs := by revert n; decide
    refine congrArg Host.Outcome.next ((writeDevCsr_cluster hno hc die).trans ?_)
    simp only [List.mem_cons, List.not_mem_nil, or_false] at hn
    rcases hn with rfl | rfl | rfl | rfl <;> rfl

end Sys2Proof.Machine
end

section
/-! PROOFS. PHASE and FENCE.E (O13; R115, R171, R196, R197). -/

namespace Sys2Proof.Machine

section order
variable {s : State} {r : SeqRef} {d : Nat} {h : Hdr} {k : Option Permit} {c : Cmd}

/-! ### The state in which an instruction has issued -/

/-- What issuing writes of the executing sequencer: its place in the program, its wait, and what WQ's pop has taken. -/
theorem seq_issued (hc : s.cur = .seq r) (h : Hdr) (k : Option Permit) :
    ∃ pc g sw o p a n, (s.issued r h k).seq r = { s.seq r with
      pc := pc, gap := g, sw := sw, wait := none, held := none, popped := o, pre := p, acq := a, no := n } := by
  have hpop : ∃ o p a, (s.popWq r h).seq r = { s.seq r with popped := o, pre := p, acq := a } := by
    unfold State.popWq
    split
    · rw [seq_modSeq_self, State.popQ, seq_modSeq_self]
      exact ⟨_, _, _, rfl⟩
    · exact ⟨_, _, _, rfl⟩
  have hpermit (t : State) : (t.takePermit r k).cur = t.cur ∧ (t.takePermit r k).seq r = t.seq r := by
    cases k <;> exact ⟨rfl, rfl⟩
  have hadv (t : State) (ht : t.cur = .seq r) : ∃ pc g sw n, (t.advance h).seq r = { t.seq r with
      pc := pc, gap := g, sw := sw, wait := none, held := none, popped := none, no := n } := by
    simp only [State.advance, ht, modMe_of_seq ht]
    exact ⟨_, _, _, _, (seqAt_modStrand ..).trans (seq_modSeq_self ..)⟩
  obtain ⟨o, p, a, epop⟩ := hpop
  obtain ⟨hcur, hseq⟩ := hpermit (s.popWq r h)
  obtain ⟨pc, g, sw, n, eadv⟩ := hadv ((s.popWq r h).takePermit r k) (hcur.trans ((popWq_cur s r h).trans hc))
  rw [issued_eq, eadv, hseq, epop]
  exact ⟨pc, g, sw, none, p, a, n, rfl⟩

theorem tsc_advance (hc : s.cur = .hub d) (e : Nat) : (s.advance h).tsc e = s.tsc e := by
  obtain ⟨q, hq⟩ := advance_of_hub (h := h) hc
  rw [hq]
  rfl

/-- What is kept of an instruction that has issued and holds its hub. -/
theorem heldCmd_advance (hc : s.cur = .hub d) (i : Instr) (xa xb : Word) (w : Option Nat) :
    (s.advance h).heldCmd i h xa xb w = s.heldOf (.hub d) i xa xb w := by
  have hpc : (s.advance h).me.pc - BitVec.ofNat 48 (sizeOf h) = s.me.pc := by rw [me_advance_pc, BitVec.add_sub_cancel]
  have hno : (s.advance h).me.no = s.me.no + 1 := by simp [State.advance, State.me, hc]
  rw [State.heldCmd, hpc, hno, State.me, hc]
  rfl

/-! ### Acquiring and ending, of a sequencer or a hub (R51, R171) -/

theorem acquire_of_seq (hc : s.cur = .seq r) : s.acquire = s.acquires r := by
  rw [State.acquire, modMe_of_seq hc, hc]
  rfl

theorem acquire_of_hub (hc : s.cur = .hub d) :
    s.acquire = s.modSeqAt (hubKey d) fun q => { q with acq := s.tsc d } := by
  rw [State.acquire, modMe_of_hub hc, hc]
  rfl

/-- A hub has no queue to push a token to. -/
theorem finishAt_of_hub (hc : s.cur = .hub d) (a : BitVec 48) : s.finishAt h a = s := by
  simp only [State.finishAt, hc]

/-! ### PHASE (R115, R196) -/

/-- A boundary of scope `sc` at time `now`: an acquire where it is narrower than a die, else noted for the line cache. -/
def Seq.marks (sc : Scope) (now : Nat) (q : Seq) : Seq :=
  if sc = .strand ∨ sc = .cluster then { q with acq := now } else { q with phase := now }

@[simp] theorem marks_pc (sc : Scope) (now : Nat) (q : Seq) : (q.marks sc now).pc = q.pc := by
  unfold Seq.marks
  split <;> rfl

theorem exec_phase (h : Hdr) (sc : Scope) (s : State) :
    exec (.phase h sc) s = s.issue (.phase h sc) h {} fun t =>
      .next ((t.modMe (Seq.marks sc (t.tsc (agentDie t.cur)))).finish h) := by
  cases sc <;> rfl

theorem phase_doesOnSeq (h : Hdr) (sc : Scope) :
    DoesOnSeq (.phase h sc) h none (fun _ _ => True) fun s r u => u.modSeq r (Seq.marks sc (s.tsc r.die)) := by
  intro s r m _
  have hc := cur_of_mayIssue m
  rw [exec_phase, issue_eq (p := {}) m nofun rfl rfl rfl rfl rfl, modMe_of_seq (cur_issued hc), cur_issued hc, tsc_issued]
  refine congrArg Host.Outcome.next (finish_issued (k := none) hc (cur_issued hc) ?_)
  rw [seq_modSeq_self, marks_pc]

theorem phase_doesOnHub (h : Hdr) (sc : Scope) :
    DoesOnHub (.phase h sc) h (fun _ _ => True) fun s d u => u.modSeqAt (hubKey d) (Seq.marks sc (s.tsc d)) := by
  intro s d m _
  have hc := cur_of_hubMay m
  have ha := cur_advance (h := h) hc
  rw [exec_phase, issue_hub_eq m rfl, modMe_of_hub ha, ha, tsc_advance hc]
  exact congrArg Host.Outcome.next (finishAt_of_hub (by exact ha) _)

/-! ### FENCE.E (R197) -/

/-- A sequencer has nothing under way when no LDS and no command of it is. -/
theorem engaged_issued_iff (hc : s.cur = .seq r) :
    (s.issued r h k).engaged = false ↔ (s.seq r).lds = [] ∧ (s.seq r).cmds = [] := by
  obtain ⟨pc, g, sw, o, p, a, n, e⟩ := seq_issued hc h k
  have hlds : ((s.issued r h k).seq r).lds = (s.seq r).lds := by rw [e]
  have hcmds : ((s.issued r h k).seq r).cmds = (s.seq r).cmds := by rw [e]; rfl
  simp [State.engaged, hc, me_of_seq (cur_issued hc), hlds, hcmds]

/-- A hub has nothing under way when no stripe of it is. -/
theorem engaged_advance_iff (hc : s.cur = .hub d) : (s.advance h).engaged = false ↔ (s.die d).fwd = [] := by
  have hdie : (s.advance h).die d = s.die d := by
    obtain ⟨q, e⟩ := advance_of_hub (h := h) hc
    rw [e]
    rfl
  simp [State.engaged, hc, hdie]

theorem fenceHold_ends (he : s.engaged = false) :
    fenceHold s c = .ends (s.acquire.finishAt (hdrOf c.ins) c.addr) := by
  simp [fenceHold, he]

theorem fenceHold_stays (he : s.engaged ≠ false) : fenceHold s c = .stays s := by
  simp [fenceHold, he]

/-- FENCE.E of a sequencer issues and comes to what `fenceHold` says. -/
theorem exec_fenceE_seq (m : s.mayIssue r (.fenceE h) h none = true) :
    exec (.fenceE h) s =
      (s.issued r h none).holdIn (s.heldOf (.seq r) (.fenceE h) 0 0 none) .fence fenceHold := by
  show execFenceE h s = _
  rw [execFenceE, issue_eq (p := {}) m nofun rfl rfl rfl rfl rfl, heldCmd_issued (cur_of_mayIssue m)]

theorem exec_fenceE_hub (m : s.hubMay d (.fenceE h) h = true) :
    exec (.fenceE h) s = (s.advance h).holdIn (s.heldOf (.hub d) (.fenceE h) 0 0 none) .fence fenceHold := by
  show execFenceE h s = _
  rw [execFenceE, issue_hub_eq m rfl, heldCmd_advance (cur_of_hubMay m)]

end order

/-- Settles O13: PHASE notes its boundary at once, FENCE.E ends or holds its agent by what is under way. -/
theorem orderResults : Obligations.OrderResults := by
  intro h
  refine ⟨fun sc => ⟨phase_doesOnSeq h sc, phase_doesOnHub h sc⟩, ?ends, ?endsHub, ?holds, ?holdsHub⟩
  case ends =>
    intro s r m hidle
    have hc := cur_of_mayIssue m
    have hi := cur_issued (h := h) (k := none) hc
    rw [exec_fenceE_seq m, holdIn_ends (fenceHold_ends ((engaged_issued_iff hc).mpr hidle)), acquire_of_seq hi,
      State.acquires, tsc_issued]
    rfl
  case endsHub =>
    intro s d m hidle
    have hc := cur_of_hubMay m
    have ha := cur_advance (h := h) hc
    rw [exec_fenceE_hub m, holdIn_ends (fenceHold_ends ((engaged_advance_iff hc).mpr hidle)), acquire_of_hub ha,
      tsc_advance hc, finishAt_of_hub (by exact ha)]
  case holds =>
    intro s r m hbusy
    have hc := cur_of_mayIssue m
    rw [exec_fenceE_seq m, holdIn_stays (fenceHold_stays (mt (engaged_issued_iff hc).mp hbusy)),
      modMe_of_seq (cur_issued hc)]
    rfl
  case holdsHub =>
    intro s d m hbusy
    have hc := cur_of_hubMay m
    rw [exec_fenceE_hub m, holdIn_stays (fenceHold_stays (mt (engaged_advance_iff hc).mp hbusy)),
      modMe_of_hub (cur_advance hc)]
    rfl

end Sys2Proof.Machine
end

section
/-! PROOFS. LDS (O16; R103, R119). -/

namespace Sys2Proof.Machine

/-! ### The value that a load delivers (R27, R119, R187) -/

theorem bytesNat_lt (bs : List Byte) : bytesNat bs < 2 ^ (8 * bs.length) := by
  induction bs with
  | nil => exact Nat.one_pos
  | cons b bs ih =>
    have hb : b.toNat < 256 := b.isLt
    have hpow : 2 ^ (8 * (b :: bs).length) = 256 * 2 ^ (8 * bs.length) := by
      rw [List.length_cons, Nat.mul_add_one, Nat.pow_add, Nat.mul_comm]
    rw [hpow, bytesNat]
    omega

/-- A number of `w` bits is negative from half of their range on. -/
theorem intDecode_of_lt {w v : Nat} (hw : 0 < w) (hv : v < 2 ^ w) :
    intDecode w v = if 2 ^ (w - 1) ≤ v then (v : Int) - 2 ^ w else v := by
  obtain ⟨w, rfl⟩ := Nat.exists_eq_add_of_lt hw
  have hbit : v.testBit w = decide (2 ^ w ≤ v) := by
    by_cases hle : 2 ^ w ≤ v
    · rw [decide_eq_true hle]
      exact Nat.testBit_of_two_pow_le_and_two_pow_add_one_gt hle (by simpa using hv)
    · rw [decide_eq_false hle]
      exact Nat.testBit_lt_two_pow (Nat.lt_of_not_le hle)
  simp only [intDecode, Nat.mod_eq_of_lt hv]
  simp [hbit]

/-- An LDS delivers its bytes extended with zeros or with their sign. -/
theorem ldsValue_eq_extended {q : LdsReq} {bs : List Byte} (hn : 1 ≤ q.size) (hl : bs.length = q.size) :
    ldsValue q bs = extended q.size q.sg (leNat bs) := by
  have hlt : leNat bs < 2 ^ (8 * q.size) := hl ▸ bytesNat_lt bs
  have hdec := intDecode_of_lt (by omega) hlt
  cases hs : q.sg with
  | false => simp [ldsValue, extended, hs]
  | true =>
    simp only [ldsValue, extended, hs, hdec, if_true, Bool.true_and, decide_eq_true_eq]
    split
    · rfl
    · exact BitVec.ofInt_natCast ..

section lds
variable {s t : State} {r : SeqRef} {q : LdsReq} {rest : List LdsReq} {h : Hdr} {sz : BitVec 2} {sg : Bool} {d a : Reg}
  {off : LdsOff} {pa n : Nat} {c : Cause}

/-! ### Reading words without an error (R103) -/

theorem readMem_eq_slabBytes (s : State) (pa n : Nat) : s.readMem pa n = s.slabBytes pa n := Tbl.readRun_eq ..

theorem badAt_eq_none (hb : ∀ w ∈ s.bad, ¬ (w < pa + n ∧ pa < w + 8)) : s.badAt pa n = none :=
  List.find?_eq_none.mpr fun w hw => by simpa using hb w hw

/-- Where no weak word lies in a run, a read of the run corrects nothing. -/
theorem corrected_of_clear (hw : ∀ w ∈ s.weak, ¬ (w < pa + n ∧ pa < w + 8)) : s.corrected pa n = s := by
  have hnil : (s.weak.filter fun w => decide (w < pa + n) && decide (pa < w + 8)) = [] :=
    List.filter_eq_nil_iff.mpr fun w hm => by simpa using hw w hm
  rw [State.corrected, hnil]
  rfl

/-- A die reads its own slab past its cache (R114). -/
theorem readSlab_own {die : Nat} (hd : pa / 0x80000000 = die) (since : Nat) :
    s.readSlab die since pa n = (s, s.slabBytes pa n) := by
  rw [State.readSlab, if_pos (.inl hd), readMem_eq_slabBytes]

theorem pushPost_of_pushTok {post : Option (BitVec 3)} {addr : BitVec 48}
    (e : s.pushTok (strandOf r) post = some t) : s.pushPost r post addr = t := by
  simp only [State.pushPost, State.pushPost?, e]

/-! ### Completing -/

/-- An LDS that completes leaves those behind it in flight. -/
theorem modSeq_drop_lds (hl : (s.seq r).lds = q :: rest) :
    (s.modSeq r fun z => { z with lds := z.lds.drop 1 }) = s.modSeq r fun z => { z with lds := rest } := by
  have hs : (s.seqAt (seqKey r)).lds = q :: rest := hl
  simp only [State.modSeq, State.modSeqAt, hs, List.drop_one, List.tail_cons]

theorem exec_ldsComplete (hl : (s.seq r).lds = q :: rest) :
    exec (.ldsComplete (.seq r)) s = .next (s.ldsFinish r q) := by
  show execLdsComplete (.seq r) s = _
  simp only [execLdsComplete, hl]

/-- A word in an uncorrectable error stops the strand, and nothing is delivered. -/
theorem ldsFinish_bad (hl : (s.seq r).lds = q :: rest) {w : Nat} (hb : s.badAt q.pa q.size = some w) :
    s.ldsFinish r q =
      (s.modSeq r fun z => { z with lds := rest }).raise r .sramUncorr .a 0 0 (BitVec.ofNat 64 w) := by
  simp only [State.ldsFinish, hb, modSeq_drop_lds hl]

/-- Sound words of the own die are delivered, and the token is pushed. -/
theorem ldsFinish_sound (hl : (s.seq r).lds = q :: rest) (hd : q.pa / 0x80000000 = r.die) (hn : 1 ≤ q.size)
    (hw : ∀ w ∈ s.bad ++ s.weak, ¬ (w < q.pa + q.size ∧ q.pa < w + 8))
    (ht : ((s.modSeq r fun z => { z with lds := rest }).putOn r q.d
      (extended q.size q.sg (leNat (s.slabBytes q.pa q.size))) q.no).pushTok (strandOf r) q.post = some t) :
    s.ldsFinish r q = t := by
  obtain ⟨hbad, hweak⟩ := List.forall_mem_append.mp hw
  have hlen : (s.slabBytes q.pa q.size).length = q.size := by rw [State.slabBytes, List.length_map, List.length_range]
  simp only [State.ldsFinish, badAt_eq_none hbad, modSeq_drop_lds hl]
  rw [corrected_of_clear (by exact hweak), readSlab_own hd]
  refine pushPost_of_pushTok (Eq.trans ?_ ht)
  rw [← ldsValue_eq_extended hn hlen]
  rfl

/-! ### Issuing -/

/-- An LDS whose address translates, with room in flight, issues. -/
theorem lds_issues : IssuesOnSeq (.lds h sz sg d a off) h (some .mem)
    (fun s r => s.translate (strandOf r) (s.X a + LdsOff.value off) (2 ^ sz.toNat) .read = .ok pa
      ∧ (s.seq r).lds.length < 16)
    (fun s r u => u.modSeq r fun q => { q with
      lds := q.lds ++ [⟨(s.seq r).pc, d, (s.X a + LdsOff.value off).setWidth 48, pa, 2 ^ sz.toNat, sg, h.pq,
        (s.seq r).no + 1⟩] }) := by
  rintro s r m ⟨hok, hroom⟩
  have hc := cur_of_mayIssue m
  show execLds h sz sg d a off s = _
  simp only [execLds, hc, hok]
  rw [issue_eq m (by nofun) rfl rfl (if_pos hroom) rfl rfl, issuePc_issued hc, no_issued hc]

/-- With 16 in flight it waits. -/
theorem lds_waits : WaitsOnSeq (.lds h sz sg d a off) h (some .mem) .room fun s r =>
    s.translate (strandOf r) (s.X a + LdsOff.value off) (2 ^ sz.toNat) .read = .ok pa ∧ 16 ≤ (s.seq r).lds.length := by
  rintro s r m ⟨hok, hfull⟩
  show execLds h sz sg d a off s = _
  simp only [execLds, cur_of_mayIssue m, hok]
  exact issue_wait m nofun rfl rfl (if_neg (Nat.not_lt.mpr hfull))

/-- The cause of a translation that fails is raised, here for causes other than a miss, whose detail names the page. -/
theorem lds_traps (hx : c ≠ .xlateMiss) : TrapsOnSeq (.lds h sz sg d a off) h (some .mem) c fun s r =>
    s.translate (strandOf r) (s.X a + LdsOff.value off) (2 ^ sz.toNat) .read = .error c := by
  intro s r m hr herr
  show execLds h sz sg d a off s = _
  simp only [execLds, cur_of_mayIssue m, herr]
  exact issue_trap_early m hr rfl (.inl hx)

end lds

/-- Settles O16: LDS issues, waits or traps on its address; the oldest completes with its bytes or stops its strand. -/
theorem ldsResults : Obligations.LdsResults := by
  refine ⟨fun h sz sg d a off pa => ⟨lds_issues, lds_waits, fun c => lds_traps⟩, fun s r q rest hl => ⟨?sound, ?bad⟩⟩
  case sound =>
    rintro t hd ⟨hn, -⟩ hw ht
    rw [exec_ldsComplete hl, ldsFinish_sound hl hd hn hw ht]
  case bad =>
    intro w hb
    rw [exec_ldsComplete hl, ldsFinish_bad hl hb]

end Sys2Proof.Machine
end

section
/-! PROOFS. What a home slice does with the request at its head (O18; R120, R124 to R130, R140). -/

namespace Sys2Proof.Machine

/-! ### A home slice (R124 to R130) -/

section slice
variable {s : State} {die sl : Nat} {f g : Slice → Slice}

@[simp] theorem slice_modSlice : (s.modSlice die sl f).slice die sl = f (s.slice die sl) := by
  simp [State.modSlice, State.slice]

@[simp] theorem tsc_modSlice (d : Nat) : (s.modSlice die sl f).tsc d = s.tsc d := by
  simp only [State.tsc, State.modSlice, die_modDie]
  split
  · next e => rw [e]
  · rfl

/-- What a change of a slice makes of the slice as it stands is all that counts. -/
theorem modSlice_congr (h : f (s.slice die sl) = g (s.slice die sl)) : s.modSlice die sl f = s.modSlice die sl g := by
  have e : f (Tbl.get {} (s.die die).slices sl) = g (Tbl.get {} (s.die die).slices sl) := h
  simp only [State.modSlice, State.modDie, e]

end slice

/-! ### Status words (R138) -/

theorem tupStatus_of_seq (n : BitVec 32) : tupStatus n 0 false 0 = BitVec.ofNat 64 (n.toNat * 2 ^ 32) := by
  simp [tupStatus]

theorem tupStatus_of_taken (n : BitVec 32) : tupStatus n 0 true 0 = BitVec.ofNat 64 (n.toNat * 2 ^ 32 + 8) := by
  simp [tupStatus]

theorem length_natBytes (n v : Nat) : (natBytes n v).length = n := by
  induction n generalizing v with
  | zero => rfl
  | succ n ih => rw [natBytes, List.length_cons, ih]

/-- The stamp is the first 16 of the output bytes (R125, R138). -/
theorem take_stampBytes (tsc : Nat) (n : BitVec 32) (sl die : Nat) (bs : List Byte) :
    (stampBytes tsc n sl die ++ bs).take 16 = stampBytes tsc n sl die :=
  List.take_left' (by simp [stampBytes, bytes32, zeros, length_natBytes])

/-! ### The request at the head of a slice (R120, R124, R127) -/

/-- Whether a parked request waits for the tuple that a deposit brings (R129). -/
def TupReq.awaits (p q : TupReq) : Bool := p.base == q.base && p.ctx == q.ctx && tupleMatches q.block p.block

theorem awaits_eq_false {p q : TupReq} (h : ¬ (p.base = q.base ∧ p.ctx = q.ctx ∧ tupleMatches q.block p.block = true)) :
    p.awaits q = false := by
  rw [← Bool.not_eq_true]
  simpa [TupReq.awaits, and_assoc] using h

/-- Each service performs requests of its own kinds. -/
theorem exec_service {die sl : Nat} {q : TupReq} {i : Instr}
    (hi : i ∈ [Instr.tupleTakeService die sl, .tupleDepositService die sl, .tupleCancelService die sl])
    (h0 : i = .tupleDepositService die sl ↔ q.kind = 0) (h3 : i = .tupleCancelService die sl ↔ q.kind = 3) :
    ∃ kinds, kinds.contains q.kind.toNat = true ∧ ∀ s, exec i s = .next (s.serve die sl kinds) := by
  simp only [List.mem_cons, List.not_mem_nil, or_false] at hi
  obtain rfl | rfl | rfl := hi
  case inl =>
    have n0 : q.kind ≠ 0 := fun e => nomatch h0.mpr e
    have n3 : q.kind ≠ 3 := fun e => nomatch h3.mpr e
    refine ⟨[1, 2], ?_, fun _ => rfl⟩
    revert n0 n3
    generalize q.kind = k
    decide +revert
  case inr.inl => exact ⟨[0], by rw [h0.mp rfl]; decide, fun _ => rfl⟩
  case inr.inr => exact ⟨[3], by rw [h3.mp rfl]; decide, fun _ => rfl⟩

section service
variable {s u : State} {die sl rid d : Nat} {q p : TupReq} {rest : List TupReq} {g : Region} {kinds : List Nat} {t : Stored}

section head
variable (hq : (s.slice die sl).queue = q :: rest) (hu : (s.modSlice die sl fun x => { x with queue := rest }) = u)
include hq hu

/-- A request whose region has gone is cancelled. -/
theorem serve_gone (hk : kinds.contains q.kind.toNat = true) (hr : u.regionOf die q = none) (h3 : q.kind ≠ 3) :
    s.serve die sl kinds = u.answer q.who q.req (.done 3 []) := by
  simp only [State.serve, hq, hk, hu, hr, if_neg h3, Bool.not_true, Bool.false_eq_true, if_false]
  rfl

/-- One whose region has another home goes on there. -/
theorem serve_moved (hk : kinds.contains q.kind.toNat = true) (hr : u.regionOf die q = some (d, rid, g))
    (hne : d ≠ die ∨ homeSlice q.cls rid ≠ sl) :
    s.serve die sl kinds = u.reach d rid { q with came := s.tsc d } := by
  have ht : u.tsc d = s.tsc d := hu ▸ tsc_modSlice d
  simp only [State.serve, hq, hk, hu, hr, if_pos hne, ht, Bool.not_true, Bool.false_eq_true, if_false]

/-- A cancellation is performed where its region has gone too. -/
theorem exec_tupleCancelService (h3 : q.kind = 3) (hr : u.regionOf die q = none
    ∨ (u.regionOf die q = some (die, rid, g) ∧ homeSlice q.cls rid = sl)) :
    exec (.tupleCancelService die sl) s = .next (u.serveCancel die sl q) := by
  have hk : [3].contains q.kind.toNat = true := by rw [h3]; rfl
  show execTupleCancelService die sl s = _
  obtain hr | ⟨hr, rfl⟩ := hr
  · simp only [execTupleCancelService, State.serve, hq, hk, hu, hr, if_pos h3, Bool.not_true, Bool.false_eq_true, if_false]
  · simp only [execTupleCancelService, State.serve, hq, hk, hu, hr, if_pos h3, Bool.not_true, Bool.false_eq_true,
      if_false, ne_eq, not_true_eq_false, or_self]

theorem exec_tupleDepositService (h0 : q.kind = 0) (hr : u.regionOf die q = some (die, rid, g))
    (hs : homeSlice q.cls rid = sl) :
    exec (.tupleDepositService die sl) s = .next (u.serveDeposit die sl rid g q) := by
  have h3 : q.kind ≠ 3 := h0 ▸ by decide
  have hk : [0].contains q.kind.toNat = true := by rw [h0]; rfl
  show execTupleDepositService die sl s = _
  simp only [execTupleDepositService, State.serve, hq, hk, hu, hr, hs, if_pos h0, if_neg h3, Bool.not_true,
    Bool.false_eq_true, if_false, ne_eq, not_true_eq_false, or_self]

/-- With no damaged tuple in the slice nothing is purged. -/
theorem exec_tupleTakeService (h12 : q.kind = 1 ∨ q.kind = 2) (hb : (s.slice die sl).badTuples = [])
    (hr : u.regionOf die q = some (die, rid, g)) (hs : homeSlice q.cls rid = sl) :
    exec (.tupleTakeService die sl) s = .next (u.serveTake die sl rid q) := by
  obtain ⟨h0, h3, hk⟩ : q.kind ≠ 0 ∧ q.kind ≠ 3 ∧ [1, 2].contains q.kind.toNat = true := by
    rcases h12 with e | e <;> rw [e] <;> decide
  have hbad : (u.slice die sl).badTuples = [] := by rw [← hu, slice_modSlice, hb]
  have hp : u.purge die sl rid = u := by simp [State.purge, hbad]
  show execTupleTakeService die sl s = _
  simp only [execTupleTakeService, State.serve, hq, hk, hu, hr, hs, hp, if_neg h0, if_neg h3, Bool.not_true,
    Bool.false_eq_true, if_false, ne_eq, not_true_eq_false, or_self]

end head

/-! ### TCPY and TTAK performed (R128) -/

/-- The oldest match is answered; TTAK takes it out of the slice. -/
theorem serveTake_match (ho : (s.slice die sl).oldest rid q.block = some t) :
    s.serveTake die sl rid q = ((if q.kind = 2 then
      (s.modSlice die sl fun x => { x with stored := x.stored.filter fun u => u != t }).addCount die rid (· - 1)
      else s).answer q.who q.req (.done (BitVec.ofNat 64 (t.seq.toNat * 2 ^ 32))
        (stampBytes t.tsc.toNat t.seq sl die ++ t.tuple))) := by
  simp only [State.serveTake, ho, tupStatus_of_seq]

theorem serveTake_none (ho : (s.slice die sl).oldest rid q.block = none) (ht : q.timeout = 0) :
    s.serveTake die sl rid q = s.answer q.who q.req (.done 1 []) := by
  simp only [State.serveTake, ho, if_pos ht]
  rfl

theorem serveTake_parks (ho : (s.slice die sl).oldest rid q.block = none) (ht : q.timeout ≠ 0)
    (hl : (s.slice die sl).parked.length < 256) :
    s.serveTake die sl rid q = (s.modSlice die sl fun x => { x with parked := x.parked ++
      [{ q with deadline := if q.timeout = 0xFFFF then none else some (s.tsc die + 64 * q.timeout.toNat) }] }).answer
        q.who q.req .parked := by
  simp only [State.serveTake, ho, if_neg ht, ge_iff_le, if_neg (Nat.not_le.mpr hl)]
  rfl

/-! ### TDEP performed (R129) -/

/-- A tuple that no parked request waits for is stored in a region that is not full. -/
theorem serveDeposit_stores (hn : ∀ p ∈ (s.slice die sl).parked, p.awaits q = false) (hc : g.count < g.cap.toNat) :
    s.serveDeposit die sl rid g q = (((s.modSlice die sl fun x => { x with
        seq := x.seq + 1, stored := x.stored ++ [⟨rid, BitVec.ofNat 64 (s.tsc die), x.seq, q.block, sl⟩] }).addCount
        die rid (· + 1)).answer q.who q.req (.done (BitVec.ofNat 64 ((s.slice die sl).seq.toNat * 2 ^ 32))
          (stampBytes (s.tsc die) (s.slice die sl).seq sl die))) := by
  have hcopies : ((s.slice die sl).parked.filter fun p => p.kind == 1 && p.awaits q) = [] :=
    List.filter_eq_nil_iff.mpr fun p hp => by simp [hn p hp]
  have htake : ((s.slice die sl).parked.find? fun p => p.kind == 2 && p.awaits q) = none :=
    List.find?_eq_none.mpr fun p hp => by simp [hn p hp]
  have hkeep : ((s.slice die sl).parked.filter fun p => !(p.kind == 1 && p.awaits q || none == some p))
      = (s.slice die sl).parked :=
    List.filter_eq_self.mpr fun p hp => by simp [hn p hp]
  have hroom : (g.count == g.cap.toNat) = false := beq_false_of_ne (Nat.ne_of_lt hc)
  simp only [TupReq.awaits] at hcopies htake hkeep
  simp only [State.serveDeposit, hcopies, htake, hroom, Option.isNone_none, Option.isSome_none, Bool.and_false,
    Bool.false_eq_true, if_false, Option.toList_none, List.foldl_nil, List.length_nil, tupStatus_of_seq, take_stampBytes]
  exact congrArg (fun v : State => (v.addCount die rid (· + 1)).answer q.who q.req _) (modSlice_congr (by rw [hkeep]))

/-- The oldest parked TTAK that waits for the tuple takes it; it is not stored. -/
theorem serveDeposit_serves
    (ht : ((s.slice die sl).parked.find? fun p => p.kind == 2 && p.awaits q) = some p)
    (hn : ∀ y ∈ (s.slice die sl).parked, y.kind = 1 → y.awaits q = false) :
    s.serveDeposit die sl rid g q = (((s.modSlice die sl fun x => { x with
        seq := x.seq + 1, parked := x.parked.filter fun y => y != p }).answer p.who p.req
          (.done (BitVec.ofNat 64 ((s.slice die sl).seq.toNat * 2 ^ 32 + 8))
            (stampBytes (s.tsc die) (s.slice die sl).seq sl die ++ q.block))).answer q.who q.req
          (.done (BitVec.ofNat 64 ((s.slice die sl).seq.toNat * 2 ^ 32 + 8))
            (stampBytes (s.tsc die) (s.slice die sl).seq sl die))) := by
  have hcopy : ∀ y ∈ (s.slice die sl).parked, (y.kind == 1 && y.awaits q) = false := fun y hy => by
    by_cases h1 : y.kind = 1
    · rw [hn y hy h1, Bool.and_false]
    · rw [beq_false_of_ne h1, Bool.false_and]
  have hcopies : ((s.slice die sl).parked.filter fun y => y.kind == 1 && y.awaits q) = [] :=
    List.filter_eq_nil_iff.mpr fun y hy => ne_true_of_eq_false (hcopy y hy)
  have hgone : ((s.slice die sl).parked.filter fun y => !(y.kind == 1 && y.awaits q || some p == some y))
      = (s.slice die sl).parked.filter fun y => y != p :=
    List.filter_congr fun y hy => by
      rw [hcopy y hy, Bool.false_or]
      simp [bne, eq_comm]
  simp only [TupReq.awaits] at ht hcopies hgone
  simp only [State.serveDeposit, hcopies, ht, Option.isNone_some, Option.isSome_some, Bool.false_and, Bool.false_eq_true,
    if_false, if_true, Option.toList_some, List.foldl_nil, List.foldl_cons, List.length_nil, tupStatus_of_taken,
    take_stampBytes]
  exact congrArg (fun v : State => (v.answer p.who p.req _).answer q.who q.req _) (modSlice_congr (by rw [hgone]))

end service

/-- Settles O18: by the place of the region, then by the kind of the request and what stands in the slice. -/
theorem tupleService : Obligations.TupleService := by
  intro s die sl q rest rid g
  refine ⟨fun hq hb => ⟨?gone, ?moved, fun hr hs => ⟨?matched, ?none, ?parks, ?stores, ?serves⟩, ?cancel⟩, ?expire⟩
  case gone =>
    intro hr h3 i hi h0
    have hne : i ≠ .tupleCancelService die sl := by
      rintro rfl
      simp at hi
    obtain ⟨kinds, hk, he⟩ := exec_service (List.mem_append_left [_] hi) h0 (iff_of_false hne h3)
    rw [he, serve_gone hq rfl hk hr h3]
  case moved =>
    intro d hr hne i hi h0 h3
    obtain ⟨kinds, hk, he⟩ := exec_service hi h0 h3
    rw [he, serve_moved hq rfl hk hr hne]
  case matched =>
    intro t h12 ho
    rw [exec_tupleTakeService hq rfl h12 hb hr hs, serveTake_match (by rw [slice_modSlice]; exact ho)]
  case none =>
    intro h12 ho ht
    rw [exec_tupleTakeService hq rfl h12 hb hr hs, serveTake_none (by rw [slice_modSlice]; exact ho) ht]
  case parks =>
    intro h12 ho ht hl
    rw [exec_tupleTakeService hq rfl h12 hb hr hs, serveTake_parks (by rw [slice_modSlice]; exact ho) ht
      (by rw [slice_modSlice]; exact hl), tsc_modSlice]
  case stores =>
    intro h0 hn hc
    rw [exec_tupleDepositService hq rfl h0 hr hs,
      serveDeposit_stores (by rw [slice_modSlice]; exact fun p hp => awaits_eq_false (hn p hp)) hc, tsc_modSlice, slice_modSlice]
  case serves =>
    intro p h0 ht hn
    rw [exec_tupleDepositService hq rfl h0 hr hs, serveDeposit_serves (by rw [slice_modSlice]; exact ht)
      (by rw [slice_modSlice]; exact fun y hy h1 => awaits_eq_false (hn y hy h1)), tsc_modSlice, slice_modSlice]
  case cancel =>
    intro h3 hr
    rw [exec_tupleCancelService hq rfl h3 hr]
    simp only [State.serveCancel, slice_modSlice]
    rfl
  case expire => rfl

end Sys2Proof.Machine
end

section
/-! PROOFS. Completion, loss and resending of tuple requests (O19; R133, R135, R136). -/

namespace Sys2Proof.Machine

section completion
variable {s t : State} {req : Nat} {r : SeqRef} {o : TupOut} {tm : Team} {st : BitVec 64} {out : List Byte}

/-- The request found has the number sought. -/
theorem req_of_findTup (hf : s.findTup req = some (r, o)) : o.req = req := by
  obtain ⟨⟨k, q⟩, -, hq⟩ := List.exists_of_findSome?_eq_some hf
  obtain ⟨o', ho, ⟨⟩⟩ := Option.map_eq_some_iff.mp hq
  exact eq_of_beq (List.find?_some (p := fun t : TupOut => t.req == req) ho)

theorem pushPost?_of_pushTok {post : Option (BitVec 3)} {addr : BitVec 48} {pix : Nat}
    (e : s.pushTok (strandOf r) post = some t) : s.pushPost? r post addr pix = (t, true) := by
  simp only [State.pushPost?, e]

/-- The state in which a request has completed but for its token: its block written where it is DONE, with the tuple where one
was asked for, X[D] written, the request gone (R133, R138, R139). -/
def State.tupWritten (s : State) (r : SeqRef) (o : TupOut) (base : Nat) (st : BitVec 64) (out : List Byte)
    (take cancel : Bool) : State :=
  (if st.toNat % 8 ≠ 0 ∨ cancel = true then s
    else s.modCluster r.die r.cl fun c =>
      let k := c.putSpad (base + 80) (out.take 16)
      if take = true then k.putSpad (base + 128) ((out.drop 16).take 64) else k).modSeq r fun z =>
    ({ z with tup := z.tup.filter fun t => t.req != o.req }).putX ((o.ins.toRaw.map Raw.d).getD 0) st o.no s.cycles

/-- Where the token of a completion finds room, REMOTE_TIMEOUT is raised for an unmasked UNREACH alone (R133, R135). -/
theorem completeTup_of_pushTok {take cancel : Bool} (hk : (o.ins matches .tcpy .. | .ttak ..) = take)
    (hc : (o.ins matches .tcnl ..) = cancel) (htm : s.team? (strandOf r) = some tm)
    (ht : (s.tupWritten r o (tm.spadBase + (o.captB.toNat - windowBase)) st out take cancel).pushTok (strandOf r)
      (hdrOf o.ins).pq = some t) :
    s.completeTup r o st out =
      if st.toNat % 8 = 4 ∧ cancel = false ∧ t.masked (strandOf r) .remoteTimeout = false then
        t.raise r .remoteTimeout .d o.addr 0 0
      else t := by
  unfold State.completeTup
  extract_lets h d take' cancel' base s1 s2 unreach
  have hbase : base = tm.spadBase + (o.captB.toNat - windowBase) := by simp only [base, htm]; rfl
  have hs2 : s2 = s.tupWritten r o base st out take cancel := by
    subst hk hc
    simp only [s2, s1, State.tupWritten, bne_iff_ne, Bool.or_eq_true]
    rfl
  have hp : s2.pushPost? r h.pq o.addr 0 = (t, true) := pushPost?_of_pushTok (by rw [hs2, hbase]; exact ht)
  have hcancel : cancel' = cancel := hc
  rw [hp]
  exact if_congr (by simp [unreach, hcancel, and_assoc]) rfl rfl

theorem exec_tupleComplete (hf : s.findTup req = some (r, o)) (hd : o.done = some (st, out)) :
    exec (.tupleComplete req) s = .next (s.completeTup r o st out) := by
  show execTupleComplete req s = _
  simp only [execTupleComplete, hf, hd]

/-- A request to another member that hears nothing for two windows is answered with UNREACH, TCNL with no count (R135, R140). -/
theorem exec_tupleRemoteTimeout {mid : Nat} (hf : s.findTup req = some (r, o)) (hm : o.remote = some mid)
    (hd : o.done = none) (hh : o.heard = false) (hs : o.stopping = false) (ht : o.since + 8192 ≤ s.tsc r.die) :
    exec (.tupleRemoteTimeout req) s = .next
      (s.answerTup r req (.done (if (o.ins matches .tcnl ..) = true then 0 else 4) [])) := by
  have hdue : o.overdue (s.tsc r.die) = true := by simp [TupOut.overdue, hm, hd, hh, ht]
  show execTupleRemoteTimeout req s = _
  simp only [execTupleRemoteTimeout, hf, hdue, if_true, State.tupLost, hs, hh, Bool.false_eq_true, if_false,
    req_of_findTup hf]
  rfl

theorem exec_tupleResend {d : Nat} (hf : s.findTup req = some (r, o)) (hr : o.resendAt = some d) (hd : o.done = none)
    (ht : d ≤ s.tsc r.die) : exec (.tupleResend req) s = .next (s.resendTup r o) := by
  have hdue : (o.done.isNone && o.resendAt.any fun t => decide (t ≤ s.tsc r.die)) = true := by simp [hr, hd, ht]
  show execTupleResend req s = _
  simp only [execTupleResend, hf, hdue, if_true]

end completion

/-- Settles O19: a request that is found completes, is lost or is sent again. -/
theorem tupleCompletions : Obligations.TupleCompletions := by
  intro s req r o hf
  refine ⟨?done, fun mid hm hd hh hs ht => exec_tupleRemoteTimeout hf hm hd hh hs ht,
    fun d hr hd ht => exec_tupleResend hf hr hd ht⟩
  case done =>
    intro st out t tm hd htm ht
    rw [exec_tupleComplete hf hd]
    exact congrArg _ (completeTup_of_pushTok rfl rfl htm ht)

end Sys2Proof.Machine
end

section
/-! PROOFS. Tuple requests of a sequencer (O17; R110, R126, R133, R139, R140). -/

namespace Sys2Proof.Machine

section requests
variable {s : State} {r : SeqRef} {i : Instr} {h : Hdr} {k : AccKind} {n o rid die : Nat} {a b d : Reg} {tg : Target}
  {bs : List Byte}

/-! ### What issuing leaves -/

@[simp] theorem issued_nextReq {p : Option Permit} : (s.issued r h p).nextReq = s.nextReq := by
  obtain ⟨q, z, c, e⟩ := issued_only s r h p
  rw [e]

@[simp] theorem ctxOf_issued {p : Option Permit} (st : StrandRef) : (s.issued r h p).ctxOf st = s.ctxOf st := by
  obtain ⟨q, f, l, e⟩ := strand_issued s r h p st
  rw [State.ctxOf, State.team?, e, issued_sched]
  rfl

/-! ### TDEP, TCPY and TTAK (R126, R139) -/

/-- Whether the block of a request may be used: a tuple for a deposit, else a pattern (R122, R123). -/
def blockOk (k : AccKind) (bs : List Byte) : Bool := if k = .deposit then tupleOk bs else patternOk bs

/-- Bytes of the block that a request reads (R126, R139). -/
def blockLen (k : AccKind) : Nat := if k = .deposit then 64 else 72

section block
variable (ht : s.handle (strandOf r) (s.X a) k = .ok tg) (hb : s.tupleBlock (strandOf r) (s.X b) n = .ok o)
include ht hb

/-- A ninth request waits for room (R133). -/
theorem tuple_waits (m : s.mayIssue r i h (some .mem) = true) (hn : 8 ≤ (s.seq r).tupCount) :
    s.tuple i h k n a b = .next (s.waits r i .room) := by
  simp only [State.tuple, cur_of_mayIssue m, ht, hb]
  exact issue_wait m nofun rfl rfl (if_neg (Nat.not_lt.mpr hn))

/-- A block that is not well formed traps (R122, R123, R126). -/
theorem tuple_traps (m : s.mayIssue r i h (some .mem) = true) (hf : s.roomInFlight r = true) (hn : (s.seq r).tupCount < 8)
    (hok : blockOk k ((s.cluster r.die r.cl).spadBytes o (blockLen k)) = false) :
    s.tuple i h k n a b = .next (s.raise r .tuplePattern .i (s.seq r).pc 0 0) := by
  simp only [State.tuple, cur_of_mayIssue m, ht, hb, Tbl.readRun_eq]
  exact issue_trap_late m hf rfl rfl (if_pos hn) (if_neg (ne_true_of_eq_false hok))

/-- A request is sent, and holds its sequencer with WQ unpopped (R126, R133). -/
theorem tuple_sends (m : s.mayIssue r i h (some .mem) = true) (hn : (s.seq r).tupCount < 8)
    (hs : bs = (s.cluster r.die r.cl).spadBytes o (blockLen k)) (hok : blockOk k bs = true) :
    s.tuple i h k n a b = .next
      (({ (s.modCluster r.die r.cl fun c => c.takePermit .mem) with nextReq := s.nextReq + 1 }.waits r i .held).sendTuple r
        { req := s.nextReq, ins := i, addr := (s.seq r).pc, cls := BitVec.ofNat 16 (nat bs 0 2), captA := s.X a,
          captB := s.X b, accepted := false, no := (s.seq r).no + 1 } tg bs) := by
  subst hs
  simp only [State.tuple, cur_of_mayIssue m, ht, hb, Tbl.readRun_eq]
  rw [issue_defer m (by nofun) rfl rfl (if_pos hn) (if_pos hok) rfl]
  rfl

end block
/-! ### TCNL (R140) -/

/-- TCNL is sent to the home slice of its class as it issues, and holds its sequencer. -/
theorem tcnl_issues : IssuesOnSeq (.tcnl h d a b) h (some .mem)
    (fun s r => s.handle (strandOf r) (s.X a) .cancel = .ok (.home die rid) ∧ field (s.X b) 0 16 ≠ 0
      ∧ field (s.X b) 32 32 = 0)
    (fun s r u => ((({ u with nextReq := s.nextReq + 1 } : State).waits r (.tcnl h d a b) .held).modSeq r fun q => { q with
        tup := q.tup ++ [{ req := s.nextReq, ins := .tcnl h d a b, addr := (s.seq r).pc, cls := (s.X b).setWidth 16,
                           captA := s.X a, captB := s.X b, accepted := false, no := (s.seq r).no + 1 }] }).reach die rid
      ⟨3, false, (s.X b).setWidth 16, 0, (s.X b).extractLsb' 16 16, (s.X a).setWidth 48, s.ctxOf (strandOf r), .seq r,
        s.nextReq, [], s.tsc die, none⟩) := by
  rintro s r m ⟨ht, hcls, hz⟩
  have hc := cur_of_mayIssue m
  have hbad : (field (s.X b) 0 16 == 0 || field (s.X b) 32 32 != 0) = false := by simp [hcls, hz]
  have hno := no_issued hc h (some .mem)
  rw [me_of_seq (cur_issued hc)] at hno
  have hctx := ctxOf_issued (s := s) (r := r) (h := h) (p := some .mem) (strandOf r)
  have htsc := tsc_issued (s := s) (r := r) (h := h) (k := some .mem) die
  show execTcnl h d a b s = _
  simp only [execTcnl, hc, ht, hbad]
  rw [issue_eq m (by nofun) rfl rfl rfl rfl rfl, issuePc_issued hc, hno, issued_nextReq, ← hctx, ← htsc]
  rfl

end requests

/-- Settles O17: each request is sent, waits or traps as its shared operation does. -/
theorem tupleRequests : Obligations.TupleRequests := by
  refine ⟨?sends, ?holds, fun h d a b die rid => tcnl_issues⟩
  case sends =>
    intro h nb d a b tmo label x hx s r o bs out m hb hs hn hok hout
    simp only [List.mem_cons, List.not_mem_nil, or_false] at hx
    subst hout
    rcases hx with rfl | rfl | rfl <;>
      exact ⟨fun die rid ht => (tuple_sends ht hb m hn hs hok).trans rfl,
        fun mid ht => (tuple_sends ht hb m hn hs hok).trans rfl⟩
  case holds =>
    intro h nb d a b tmo label x hx tg o
    simp only [List.mem_cons, List.not_mem_nil, or_false] at hx
    rcases hx with rfl | rfl | rfl <;>
      exact ⟨fun s r m ⟨ht, hb, hn⟩ => tuple_waits ht hb m hn,
        fun s r m hf ⟨ht, hb, hn, hok⟩ => tuple_traps ht hb m hf hn hok⟩

end Sys2Proof.Machine
end

section
/-! PROOFS. Events of remote units at their home and at their sender, and tuple requests of other members (O45; R121, R135, R271,
R274, R283, R284, R287, R288, R291). -/

namespace Sys2Proof.Machine

section home
variable {s : State} {mid die req unit : Nat} {w : WrUnit} {rd : RdUnit} {rh : RedHdr} {ca : CntAdd} {bs : List Byte}
  {runs : List (Nat × Nat)} {st : BitVec 64} {rr : RangeRef} {m : RMem} {n : Nat}

/-! ### Bytes that are awaited (R271) -/

@[simp] theorem link_modLink (p : Machine.Path) (mid : Nat) (f : Link → Link) :
    (s.modLink p mid f).link p mid = f (s.link p mid) := by
  simp [State.modLink, State.link]

/-- A header whose bytes have not all come is kept. -/
theorem exec_wrhdr_waits (he : (s.link (.data die) mid).expect = [])
    (hl : (s.link (.data die) mid).inbox.length < (w.len + 511) / 512 * 512) :
    exec (.wrhdr mid die w) s =
      .next (s.modLink (.data die) mid fun l => { l with expect := l.expect ++ [.write die w] }) := by
  show execWrhdr mid die w s = _
  simp only [execWrhdr, State.awaitBytes, State.consumeAll, link_modLink, he, List.nil_append, State.consume, flitBytes,
    if_pos hl]

/-! ### Refusing (R271, R284) -/

theorem refused_contains_eq_false (h : (mid, req) ∉ s.refused) : s.refused.contains (mid, req) = false := by
  simpa using h

theorem refuse_of_mem (h : (mid, req) ∈ s.refused) : s.refuse mid req = s := by simp [State.refuse, h]

theorem refuse_of_notMem (h : (mid, req) ∉ s.refused) :
    s.refuse mid req = { s with refused := (mid, req) :: s.refused } := by simp [State.refuse, h]

theorem lateStatus_of_none (h : s.farContrib mid req = none) : s.lateStatus mid req unit = statusWord 1 unit 0 := by
  simp only [State.lateStatus, h]

theorem lateStatus_of_some (h : s.farContrib mid req = some rr) : s.lateStatus mid req unit =
    if (s.range rr).expired then statusWord 3 0 (s.range rr).missing.toNat else statusWord 1 unit 0 := by
  simp only [State.lateStatus, h]

theorem refuseUnit_of_none (h : s.farContrib mid req = none) :
    s.refuseUnit mid req unit st = (s.refuse mid req).send (.wrnack mid req unit st) := by
  have h' : ((s.refuse mid req).send (.wrnack mid req unit st)).farContrib mid req = none := h
  simp only [State.refuseUnit, h']

/-- A contribution that is refused leaves its range, or ends behind the unit that it has begun. -/
theorem refuseUnit_of_some (h : s.farContrib mid req = some rr) : s.refuseUnit mid req unit st =
    (((s.refuse mid req).send (.wrnack mid req unit st)).refuseRed rr mid req).settleRange rr := by
  have h' : ((s.refuse mid req).send (.wrnack mid req unit st)).farContrib mid req = some rr := h
  simp only [State.refuseUnit, h']

/-! ### Units of a write (R271, R287) -/

/-- A unit of a write into the slab, in time, is written and acknowledged. -/
theorem performUnit_writes (hr : (mid, w.req) ∉ s.refused) (hw : windowOf (s.tsc die) < w.window + 2) (hred : w.red = none)
    (hacc : w.acc = false) (hlast : w.last = false)
    (hruns : s.slabRuns die w.ctx (field w.dst 0 48) bs.length .remote = .ok runs) :
    s.performUnit die mid w bs = ((runs.foldl (fun (a : State × List Byte) p =>
      (a.1.writeSlab die p.1 (a.2.take p.2), a.2.drop p.2)) (s, bs)).1.send (.wrack mid w.req w.unit)) := by
  have hgo : ¬ (s.refused.contains (mid, w.req) = true ∨ w.window + 2 ≤ windowOf (s.tsc die)) := by
    simp [hr, hw]
  simp only [State.performUnit, if_neg hgo, hred, Option.isSome_none, State.writeUnit, hacc, hruns, hlast,
    Bool.false_eq_true, if_false]

/-- A unit that comes late, or behind one that has been refused, is refused. -/
theorem performUnit_late (hl : (mid, w.req) ∈ s.refused ∨ w.window + 2 ≤ windowOf (s.tsc die)) :
    s.performUnit die mid w bs = s.refuseUnit mid w.req w.unit (s.lateStatus mid w.req w.unit) := by
  have hgo : s.refused.contains (mid, w.req) = true ∨ w.window + 2 ≤ windowOf (s.tsc die) := by simpa using hl
  simp only [State.performUnit, if_pos hgo]

/-- Where one element alone of a list gives a value, the first value of the list is that. -/
theorem findSome?_of_only {α β : Type} {f : α → Option β} {l : List α} {a : α} {b : β} (ha : a ∈ l) (hb : f a = some b)
    (ho : ∀ x ∈ l, x ≠ a → f x = none) : l.findSome? f = some b := by
  cases hl : l.findSome? f with
  | none => exact absurd (List.findSome?_eq_none_iff.mp hl a ha) (by simp [hb])
  | some b' =>
    obtain ⟨x, hx, hfx⟩ := List.exists_of_findSome?_eq_some hl
    have hxa : x = a := by
      by_contra hne
      simp [ho x hx hne] at hfx
    rw [← hfx, hxa, hb]

/-- A unit whose bytes have not come when window N + 2 begins is refused. -/
theorem exec_remoteUnitDeadline {rest : List Expect} (hm : mid < 32)
    (he : (s.link (.data die) mid).expect = .write die w :: rest)
    (ho : ∀ m < 32, m ≠ mid → (s.link (.data die) m).expect = []) (hr : (mid, w.req) ∉ s.refused)
    (hw : w.window + 2 ≤ windowOf (s.tsc die)) :
    exec (.remoteUnitDeadline die w.req) s =
      .next (s.refuseUnit mid w.req w.unit (s.lateStatus mid w.req w.unit)) := by
  show execRemoteUnitDeadline die w.req s = _
  unfold execRemoteUnitDeadline
  extract_lets late
  have hlate : late mid (.write die w) = true := by simp [late, hr, hw]
  rw [findSome?_of_only (a := mid) (b := (mid, .write die w)) (List.mem_range.mpr hm) (by simp [he, hlate])
    fun m hm hne => by simp [ho m (List.mem_range.mp hm) hne]]

/-! ### Units of a read (R287, R288) -/

/-- A unit of a read, in time and of sound words, is acknowledged and returned. -/
theorem exec_rdreq_reads (hw : windowOf (s.tsc die) < rd.window + 2) (hr : (mid, rd.req) ∉ s.refused)
    (hruns : s.slabRuns die rd.ctx rd.va.toNat rd.len .read = .ok runs) (hb : s.bad = []) (hk : s.weak = []) :
    exec (.rdreq mid die rd) s = .next ((s.send (.wrack mid rd.req rd.unit)).sendBytes (.data die) mid
      (windowOf (s.tsc die)) (runs.flatMap fun p => s.readMem p.1 p.2)) := by
  have hgo : ¬ (rd.window + 2 ≤ windowOf (s.tsc die) ∨ s.refused.contains (mid, rd.req) = true) := by
    simp [hr, hw]
  have hsound : (runs.findSome? fun p => s.badAt p.1 p.2) = none :=
    List.findSome?_eq_none_iff.mpr fun p _ => badAt_eq_none (by simp [hb])
  have hclean (p : Nat × Nat) : s.corrected p.1 p.2 = s := corrected_of_clear (by simp [hk])
  have hall : runs.foldl (fun a p => a.corrected p.1 p.2) s = s := by
    clear hruns hsound
    induction runs with
    | nil => rfl
    | cons p runs ih => rw [List.foldl_cons, hclean, ih]
  show execRdreq mid die rd s = _
  simp only [execRdreq, if_neg hgo, hruns, hsound, hall]

theorem exec_rdreq_late (hl : rd.window + 2 ≤ windowOf (s.tsc die) ∨ (mid, rd.req) ∈ s.refused) :
    exec (.rdreq mid die rd) s = .next (s.refuseUnit mid rd.req rd.unit (statusWord 1 rd.unit 0)) := by
  have hgo : rd.window + 2 ≤ windowOf (s.tsc die) ∨ s.refused.contains (mid, rd.req) = true := by simpa using hl
  show execRdreq mid die rd s = _
  simp only [execRdreq, if_pos hgo]

/-! ### Contributions (R163, R282 to R284) -/

section contribution
variable (hf : s.farContrib mid rh.req = none) (hr : (mid, rh.req) ∉ s.refused)
  (ht : s.redTarget die rh.ctx rh.dst rh.acc = .ok (m, n))
include hf hr ht

theorem exec_redhdr_noRange (hn : s.findRange m n rh.count.toNat = none) :
    exec (.redhdr mid die rh) s = .next (({ s with refused := (mid, rh.req) :: s.refused } : State).send
      (.wrnack mid rh.req 0 5)) := by
  show execRedhdr mid die rh s = _
  simp only [execRedhdr, hf, refused_contains_eq_false hr, ht, hn, refuse_of_notMem hr, Bool.false_eq_true, if_false]
  rfl

section range
variable (hn : s.findRange m n rh.count.toNat = some rr)
include hn

/-- The contribution claims a slot of its requester. -/
theorem exec_redhdr_joins (htmd : (s.range rr).tmd = false) (ha : (s.range rr).admits rh.requester = true)
    (hk : (s.range rr).contribs = []) : exec (.redhdr mid die rh) s =
      .next ((s.joinRange rr ⟨.member mid rh.req, rh.requester, rh.count.toNat, none, false, false⟩).grant rr) := by
  show execRedhdr mid die rh s = _
  simp only [execRedhdr, hf, refused_contains_eq_false hr, ht, hn, htmd, ha, hk, List.find?_nil, Bool.not_true,
    Bool.false_eq_true, if_false]

theorem exec_redhdr_timedOut (htmd : (s.range rr).tmd = true) :
    exec (.redhdr mid die rh) s = .next (({ s with refused := (mid, rh.req) :: s.refused } : State).send
      (.wrnack mid rh.req 0 (statusWord 3 0 (s.range rr).miss.toNat))) := by
  show execRedhdr mid die rh s = _
  simp only [execRedhdr, hf, refused_contains_eq_false hr, ht, hn, htmd, refuse_of_notMem hr,
    Bool.false_eq_true, if_false, if_true]

theorem exec_redhdr_notAdmitted (htmd : (s.range rr).tmd = false) (ha : (s.range rr).admits rh.requester = false) :
    exec (.redhdr mid die rh) s = .next (({ s with refused := (mid, rh.req) :: s.refused } : State).send
      (.wrnack mid rh.req 0 5)) := by
  show execRedhdr mid die rh s = _
  simp only [execRedhdr, hf, refused_contains_eq_false hr, ht, hn, htmd, ha, refuse_of_notMem hr,
    Bool.not_false, Bool.false_eq_true, if_false, if_true]
  rfl

end range
end contribution

/-! ### Counters (R274, R291) -/

theorem putCounter_eq_modCounter (f : Counter → Counter) : s.putCounter die n f = s.modCounter die n f := rfl

/-- What a change of a counter makes of the counter as it stands is all that counts. -/
theorem modCounter_congr {f g : Counter → Counter} (e : f (s.counter die n) = g (s.counter die n)) :
    s.modCounter die n f = s.modCounter die n g := by
  have e' : f (Tbl.get {} (s.die die).counters n) = g (Tbl.get {} (s.die die).counters n) := e
  simp only [State.modCounter, State.modDie, e']

theorem counterAdd_adds {v : BitVec 32} (h : (s.counter die n).value.toNat + v.toNat < 2 ^ 32) :
    s.counterAdd die n v.toNat = s.putCounter die n fun c => { c with value := c.value + v } := by
  rw [State.counterAdd, if_pos h, putCounter_eq_modCounter]
  refine modCounter_congr ?_
  simp only [BitVec.ofNat_add, BitVec.ofNat_toNat, BitVec.setWidth_eq]

/-- At its top the counter is clamped, and the overflow posted. -/
theorem counterAdd_clamps {v : BitVec 32} (h : 2 ^ 32 ≤ (s.counter die n).value.toNat + v.toNat) :
    s.counterAdd die n v.toNat = (s.putCounter die n fun c => { c with value := 0xFFFFFFFF, ovf := true }).post die
      (eventOf .counterOverflow n) := by
  rw [State.counterAdd, if_neg (Nat.not_lt.mpr h)]
  rfl

/-- In time, an increment is performed where no context is asked for or the counter has the one asked for. -/
theorem exec_cntadd (hw : windowOf (s.tsc die) < ca.window + 2)
    (hc : ca.req = 0 ∨ (s.counter (field ca.handle 40 3) (field ca.handle 0 8)).ctx = some ca.ctx) :
    exec (.cntadd mid die ca) s = .next ((s.counterAdd (field ca.handle 40 3) (field ca.handle 0 8)
      ca.addend.toNat).send (.wrack mid ca.req 0)) := by
  have hgo : ¬ (ca.window + 2 ≤ windowOf (s.tsc die)
      ∨ ca.req ≠ 0 ∧ (s.counter (field ca.handle 40 3) (field ca.handle 0 8)).ctx ≠ some ca.ctx) := by
    rintro (hl | ⟨h0, hn⟩)
    · omega
    · exact hc.elim h0 hn
  exact if_neg hgo

theorem exec_cntadd_refused (h : ca.window + 2 ≤ windowOf (s.tsc die)
      ∨ (ca.req ≠ 0 ∧ (s.counter (field ca.handle 40 3) (field ca.handle 0 8)).ctx ≠ some ca.ctx)) :
    exec (.cntadd mid die ca) s = .next (s.send (.wrnack mid ca.req 0 1)) := if_pos h

end home

/-! ### At the sender (R271, R283, R288) -/

section sender
variable {s : State} {r : SeqRef} {c : Cmd} {k : RemCmd} {req unit win : Nat} {rest : List Nat} {w : BitVec 64}

theorem statusWord_two_mod (unit : Nat) : (statusWord 2 unit 0).toNat % 8 = 2 := by
  simp only [statusWord, BitVec.toNat_ofNat]
  omega

theorem takeLate_of_nil (hl : s.lateReads = []) : s.takeLate req unit = none := by simp [State.takeLate, hl]

section write
variable (hc : s.findColl req = some (r, c)) (hk : remOf c = some k) (hw : k.read = false)
include hk hw

/-- A write leaves no reads behind. -/
theorem leaveReads_of_write : s.leaveReads r c = s := by
  simp only [State.leaveReads, hk, hw, Bool.false_eq_true, if_false]

theorem collFail_nack (h1 : w.toNat % 8 = 1) : s.collFail r c w =
    if s.masked (strandOf r) .remoteNack = true then s.collEnd r c w
    else (s.modColl r c.seqNo fun c => { c with sent := [], remote := .idle, req := 0 }).raise r .remoteNack .u c.addr c.pix
      0 := by
  simp only [State.collFail, leaveReads_of_write hk hw, h1]

theorem collFail_unreached (h2 : w.toNat % 8 = 2) : s.collFail r c w =
    if s.masked (strandOf r) .remoteTimeout = true then s.collEnd r c w
    else (s.modColl r c.seqNo fun c => { c with sent := [] }).raise r .remoteTimeout .u c.addr c.pix 0 := by
  simp only [State.collFail, leaveReads_of_write hk hw, h2, id]

include hc

/-- The next unit of a command is committed as it is acknowledged. -/
theorem exec_wrack_next (hl : s.lateReads = []) (hs : c.sent ≠ []) :
    exec (.wrack req c.pix) s = .next (s.commitUnit r c k) := by
  have hin : ¬ (c.pix < c.pix ∨ c.pix + c.sent.length ≤ c.pix) := by
    have := List.length_pos_of_ne_nil hs
    omega
  show execWrack req c.pix s = _
  simp only [execWrack, takeLate_of_nil hl, hc, hk, hw, if_neg hin, Bool.false_eq_true, if_false, if_true]

/-- The acknowledgement of another unit changes nothing. -/
theorem exec_wrack_other (hl : s.lateReads = []) (hu : unit ≠ c.pix) : exec (.wrack req unit) s = .next s := by
  show execWrack req unit s = _
  simp only [execWrack, takeLate_of_nil hl, hc, hk, hw, if_neg hu, Bool.false_eq_true, if_false, ite_self]

theorem exec_wrnack (hl : s.lateReads = []) : exec (.wrnack req unit w) s = .next (s.collFail r c w) := by
  show execWrnack req unit w s = _
  simp only [execWrnack, takeLate_of_nil hl, hc, hk, hw, Option.any_some, Bool.false_eq_true, if_false]

omit hk hw in
/-- A command whose first unit was sent four windows ago fails as unreached. -/
theorem exec_remoteUnitUnreached (hs : c.sent = win :: rest) (ht : win + 4 ≤ windowOf (s.tsc r.die)) :
    exec (.remoteUnitUnreached req) s = .next (s.collFail r c (statusWord 2 c.pix 0)) := by
  have hold : c.old (windowOf (s.tsc r.die)) = true := by simp [Cmd.old, hs, ht]
  show execRemoteUnitUnreached req s = _
  simp only [execRemoteUnitUnreached, hc, hold, if_true, State.unitLost]

end write

/-- A command that has asked for its slot goes on as it is granted. -/
theorem exec_redgo (hc : s.findColl req = some (r, c)) (ha : c.remote = .askedGo)
    (hs : (s.strand (strandOf r)).stop = .running) :
    exec (.redgo req) s = .next ((s.modColl r c.seqNo fun c => { c with remote := .granted }).pumpCmd r
      { c with remote := .granted }) := by
  have hrun : (s.modColl r c.seqNo fun c => { c with remote := .granted }).runs r = true := beq_iff_eq.mpr hs
  show execRedgo req s = _
  simp only [execRedgo, hc, if_pos ha, hrun, if_true]

end sender

/-! ### Tuple requests of other members (R121, R135; log entry 87) -/

section tuples
variable {s : State} {mid pa rid : Nat} {rq : TspReq} {g : Region} {c : Cause}

/-- A page that die 0 knows needs no firmware. -/
theorem known_die_zero (hk : (tmLookup (s.die 0).goodTm rq.ctx (rq.base.toNat / 0x200000)).isSome = true) :
    ((List.range 8).find? fun d => (tmLookup (s.die d).goodTm rq.ctx (rq.base.toNat / 0x200000)).isSome) = some 0 := by
  rw [List.range_succ_eq_map]
  exact List.find?_cons_of_pos (p := fun d => (tmLookup (s.die d).goodTm rq.ctx (rq.base.toNat / 0x200000)).isSome) hk

variable (hk : (tmLookup (s.die 0).goodTm rq.ctx (rq.base.toNat / 0x200000)).isSome = true)
include hk

theorem exec_tspreq_reaches (hp : (s.page 0 rq.ctx rq.base.toNat).bind (checkPlace (tupleKind rq.kind)) = .ok pa)
    (hr : (s.die (pa / 0x80000000)).region? rq.base.toNat rq.ctx = some (rid, g)) :
    exec (.tspreq mid rq) s = .next (s.reach (pa / 0x80000000) rid ⟨rq.kind, rq.nb, rq.cls, rq.timeout, rq.label, rq.base,
      rq.ctx, .member mid rq.requester, rq.req.toNat, rq.block, s.tsc 0, none⟩) := by
  show execTspreq mid rq s = _
  simp only [execTspreq, known_die_zero hk, Option.getD_some, hk, if_true, hp, hr]

theorem exec_tspreq_noRegion (hp : (s.page 0 rq.ctx rq.base.toNat).bind (checkPlace (tupleKind rq.kind)) = .ok pa)
    (hr : (s.die (pa / 0x80000000)).region? rq.base.toNat rq.ctx = none) :
    exec (.tspreq mid rq) s = .next (s.send (.tsprsp mid ⟨false, false, rq.req, 16, []⟩)) := by
  show execTspreq mid rq s = _
  simp only [execTspreq, known_die_zero hk, Option.getD_some, hk, if_true, hp, hr, State.answer, refusalWord,
    BitVec.ofNat_toNat, BitVec.setWidth_eq]

/-- A translation that fails, here for causes other than a miss, is refused with the word of its cause. -/
theorem exec_tspreq_fails (hp : (s.page 0 rq.ctx rq.base.toNat).bind (checkPlace (tupleKind rq.kind)) = .error c)
    (hm : c ≠ .xlateMiss) :
    exec (.tspreq mid rq) s = .next (s.send (.tsprsp mid ⟨false, false, rq.req, refusalWord c, []⟩)) := by
  show execTspreq mid rq s = _
  simp only [execTspreq, known_die_zero hk, Option.getD_some, hk, if_true, hp, if_neg hm, State.answer,
    BitVec.ofNat_toNat, BitVec.setWidth_eq]

omit hk in
theorem exec_tsprsp {rs : TspRsp} {r : SeqRef} {o : TupOut} (hf : s.findTup rs.req.toNat = some (r, o))
    (hm : o.remote = some mid) : exec (.tsprsp mid rs) s = .next (s.answerTup r o.req (tspAnswer o.ins rs)) := by
  show execTsprsp mid rs s = _
  simp only [execTsprsp, hf, if_pos hm]

end tuples

/-- Settles O45: each event by what it finds at the home, then at the sender. -/
theorem remoteEvents : Obligations.RemoteEvents := by
  intro s mid die
  refine ⟨?header, ?written, ?late, ?deadline, ?read, ?readBehind, ?readLate, ?contribution, ?added, ?notAdded, ?acked,
    ?nacked, ?unreached, ?granted, ?tuple, ?tupleAnswer⟩
  case header => exact fun w he hl => exec_wrhdr_waits he hl
  case written => exact fun w runs bs hr hw hred hacc hlast hruns => performUnit_writes hr hw hred hacc hlast hruns
  case late =>
    intro w bs hl
    rw [performUnit_late hl]
    refine ⟨fun hf hr => ?_, fun rr hf hr u hu => ?_⟩
    · rw [refuseUnit_of_none hf, lateStatus_of_none hf, refuse_of_mem hr]
    · rw [refuseUnit_of_some hf, lateStatus_of_some hf, refuse_of_notMem hr, hu]
  case deadline =>
    intro w rest hm he ho hr hw hf
    rw [exec_remoteUnitDeadline hm he ho hr hw, refuseUnit_of_none hf, lateStatus_of_none hf, refuse_of_notMem hr]
  case read => exact fun rd runs hw hr hruns hb hk => exec_rdreq_reads hw hr hruns hb hk
  case readBehind =>
    intro rd hr hf
    rw [exec_rdreq_late (.inr hr), refuseUnit_of_none hf, refuse_of_mem hr]
  case readLate =>
    intro rd hr hw hf
    rw [exec_rdreq_late (.inl hw), refuseUnit_of_none hf, refuse_of_notMem hr]
  case contribution =>
    intro rh hf hr
    refine ⟨fun m w rr ht hn => ⟨fun htmd ha hk => ?_, fun htmd => ?_, fun htmd ha => ?_⟩, fun m w ht hn => ?_⟩
    · exact exec_redhdr_joins hf hr ht hn htmd ha hk
    · exact exec_redhdr_timedOut hf hr ht hn htmd
    · exact exec_redhdr_notAdmitted hf hr ht hn htmd ha
    · exact exec_redhdr_noRange hf hr ht hn
  case added =>
    rintro ca d n hw rfl rfl hc
    rw [exec_cntadd hw hc]
    exact ⟨fun h => by rw [counterAdd_adds h], fun h => by rw [counterAdd_clamps h]⟩
  case notAdded => exact fun ca h => exec_cntadd_refused h
  case acked =>
    intro r c k req unit hl hc hk hw hs
    refine ⟨?_, exec_wrack_other hc hk hw hl⟩
    rintro rfl
    exact exec_wrack_next hc hk hw hl hs
  case nacked =>
    intro r c k req unit st hl hc hk hw h1
    rw [exec_wrnack hc hk hw hl, collFail_nack hk hw h1]
    exact ⟨fun hm => by rw [if_pos hm], fun hm => by rw [if_neg (ne_true_of_eq_false hm)]⟩
  case unreached =>
    intro r c k req win rest hc hk hw hs ht
    rw [exec_remoteUnitUnreached hc hs ht, collFail_unreached hk hw (statusWord_two_mod c.pix)]
    exact ⟨fun hm => by rw [if_pos hm], fun hm => by rw [if_neg (ne_true_of_eq_false hm)]⟩
  case granted => exact fun r c req hc ha hs => exec_redgo hc ha hs
  case tuple =>
    intro rq hk
    refine ⟨fun pa rid g hp hr => exec_tspreq_reaches hk hp hr, fun pa hp hr => exec_tspreq_noRegion hk hp hr,
      fun c w hcw hp => ?_⟩
    simp only [List.mem_cons, List.not_mem_nil, or_false, Prod.mk.injEq] at hcw
    rcases hcw with ⟨rfl, rfl⟩ | ⟨rfl, rfl⟩
    · exact exec_tspreq_fails hk hp nofun
    · exact exec_tspreq_fails hk hp nofun
  case tupleAnswer => exact fun rs r o hf hm => exec_tsprsp hf hm

end Sys2Proof.Machine
end

section
/-! PROOFS. Copy instructions as they issue (O20; R149, R151, R153, R157, R166): one rule for every instruction that queues by
`copyCmd`, then the checks of each. -/

namespace Sys2Proof.Machine

section queueing
variable {s : State} {r : SeqRef} {h : Hdr} {k : Option Permit}

/-! ### The state in which a command is queued -/

@[simp] theorem lfsr_issued (die cl : Nat) : ((s.issued r h k).cluster die cl).lfsr = (s.cluster die cl).lfsr := by
  obtain ⟨-, -, -, -, -, -, -, -, -, hlfsr⟩ := (issued_within (s := s) (r := r) (h := h) (k := k)).engines rfl die cl
  exact hlfsr

@[simp] theorem fid_issued (st : StrandRef) : ((s.issued r h k).strand st).fid = (s.strand st).fid := by
  obtain ⟨q, f, l, e⟩ := strand_issued s r h k st
  rw [e]

/-- Reserving LFSR words writes clusters alone (R35). -/
theorem reserved_only (s : State) (r : SeqRef) (n : Nat) : ∃ c, s.reserved r n = { s with clusters := c } := by
  unfold State.reserved
  split
  · exact ⟨_, rfl⟩
  · exact ⟨_, rfl⟩

theorem reserve_eq_reserved (s : State) (r : SeqRef) (n : Nat) : (if n = 0 then (s, 0) else s.reserve r n)
    = (s.reserved r n, if n = 0 then 0 else (s.cluster r.die r.cl).lfsr) := by
  by_cases hn : n = 0
  · simp only [State.reserved, hn, ↓reduceIte]
  · simp only [State.reserved, State.reserve, State.modCluster, hn, ↓reduceIte]

/-- The command of an instruction that has issued carries its place in the program, its FID and what it has acquired. -/
theorem enqueue_issued (hc : s.cur = .seq r) (e : Engine) (i : Instr) (n : Nat) (xd xa xb : Word)
    (tids : List (BitVec 512)) (x : BitVec 32) :
    ((s.issued r h k).reserved r n).enqueue r e i h xd xa xb tids x = ((s.issued r h k).reserved r n).queued r e
      { ins := i, seqNo := s.nextCmd, addr := (s.seq r).pc, xd := xd, xa := xa, xb := xb, tids := tids, lfsr := x,
        fid := (s.strand (strandOf r)).fid, since := ((s.issued r h k).seq r).fresh, no := (s.seq r).no + 1 } := by
  have hno := no_issued hc h k
  rw [me_of_seq (cur_issued hc)] at hno
  have hpc := issuePc_issued hc h k
  have hfid := fid_issued (s := s) (r := r) (h := h) (k := k) (strandOf r)
  have hnext := issued_nextCmd (s := s) (r := r) (h := h) (k := k)
  obtain ⟨c, e'⟩ := reserved_only (s.issued r h k) r n
  rw [e', ← hno, ← hpc, ← hfid, ← hnext]
  rfl

end queueing

/-! ### Instructions that queue by `copyCmd` -/

section copyCmd
variable {h : Hdr} {i : Instr} {d a b : Reg} {tids : List (BitVec 512)} {n : Nat} {ok : State → SeqRef → Prop}

/-- Where its checks name no cause, a copy instruction queues (R141). -/
theorem queuesOnSeq_of_copyCmd
    (e : ∀ s r, s.cur = .seq r → ok s r → exec i s = s.copyCmd i h d a b none none n tids) :
    QueuesOnSeq i h (some .mem) .copy 16 ok (regs3 d a b) tids n := by
  intro s r m hroom hok
  have hc := cur_of_mayIssue m
  have hr : State.engineRoom r .copy 16 s = none := if_pos hroom
  rw [e s r hc hok, State.copyCmd, hc]
  refine (issue_eq m (by nofun) rfl rfl hr rfl rfl).trans ?_
  simp only [reserve_eq_reserved, enqueue_issued hc, lfsr_issued]
  rfl

/-- Where its checks on registers name a cause, it traps. -/
theorem trapsOnSeq_of_copyCmd {c : Cause} (e : ∀ s r, s.cur = .seq r → ok s r →
    exec i s = s.copyCmd i h d a b (some c) none n tids) : TrapsOnSeq i h (some .mem) c ok := by
  intro s r m hf hok
  have hc := cur_of_mayIssue m
  rw [e s r hc hok, State.copyCmd, hc]
  exact issue_trap_early m hf rfl (.inr rfl)

end copyCmd

/-! ### The checks of each instruction -/

/-- R146: two runs of `n` bytes meet where each begins before the other ends. -/
theorem spansMeet_runSpan (x y : Word) (n : Nat) : spansMeet (runSpan x n) (runSpan y n)
    = decide (n ≠ 0 ∧ x.toNat < y.toNat + n ∧ y.toNat < x.toNat + n) := by
  by_cases hn : n = 0
  · simp [runSpan, spansMeet, hn]
  · simp only [runSpan, spansMeet, hn, ↓reduceIte, ne_eq, not_false_eq_true, true_and, Bool.decide_and]
    congr 1 <;> simp only [decide_eq_decide] <;> omega

section instructions
variable {s : State} {r : SeqRef} {h : Hdr} {d a b : Reg} {tn tm : BitVec 8} {x y : BitVec 512} {ts : List (BitVec 512)}

theorem exec_cpy : exec (.cpy h d a b) s = s.copyCmd (.cpy h d a b) h d a b
    (if field (s.X b) 0 32 ≠ 0 ∧ (s.X d).toNat < (s.X a).toNat + field (s.X b) 0 32
        ∧ (s.X a).toNat < (s.X d).toNat + field (s.X b) 0 32 then some .regionOverlap else none) none 0 [] := by
  show execCpy h d a b s = _
  simp only [execCpy, spansMeet_runSpan, decide_eq_true_eq]

theorem exec_cpyt (hc : s.cur = .seq r) (ht : s.boxTids r tn tm = .ok ts) : exec (.cpyt h tn tm d a b) s
    = s.copyCmd (.cpyt h tn tm d a b) h d a b none (cpytCheck (boxOf ts (s.X d) (s.X a) (s.X b))) 0 ts := by
  show execCpyt h tn tm d a b s = _
  simp only [execCpyt, hc, ht]

/-- GATH and SCAT, with both TIDs valid. -/
theorem rowsCmd_eq {i : Instr} {gath pos : Bool} (hc : s.cur = .seq r) (hx : s.useTid r tn.toNat = .ok x)
    (hy : s.useTid r tm.toNat = .ok y) : s.rowsCmd i h gath pos tn tm d a b
    = s.copyCmd i h d a b (s.rowEarly r pos (s.X a) (field (s.X b) 0 32))
        (rowLate (rowOf gath pos [x, y]) (s.X d) (s.X a) (field (s.X b) 0 32)) 0 [x, y] := by
  simp only [State.rowsCmd, hc, hx, hy]

theorem exec_cpyx {sr sat pos app tr : Bool} {rm : RMode} (hc : s.cur = .seq r) (ht : s.boxTids r tn tm = .ok ts) :
    exec (.cpyx h sr sat rm pos app tr tn tm d a b) s
    = s.copyCmd (.cpyx h sr sat rm pos app tr tn tm d a b) h d a b
        (if (pos && posStray (s.X b)) = true then some .addrRange else none)
        (xCheck (xOf sr sat rm pos app tr ts (s.X d) (s.X a) (s.X b)) (s.X b))
        (if sr = true then (boxOf ts (s.X d) (s.X a) (s.X b)).e.foldl (· * ·) 1 else 0) ts := by
  show execCpyx h sr sat rm pos app tr tn tm d a b s = _
  simp only [execCpyx, hc, ht]
  rfl

/-- CPYR with a format that it adds in, and aligned operands. -/
theorem exec_cpyr {acc : Bool} {rm : RMode} {f : Fmt} (hf : f = .fp32 ∨ f = .bf16) (ha : (s.X a).toNat % f.size = 0)
    (hd : acc = false → (s.X d).toNat % 4 = 0) : exec (.cpyr h acc rm f d a b) s
    = s.copyCmd (.cpyr h acc rm f d a b) h d a b none none 0 [] := by
  have hform : ¬ (f ≠ .fp32 ∧ f ≠ .bf16) := fun hn => hf.elim hn.1 hn.2
  have halign : ¬ ((s.X a).toNat % f.size ≠ 0 ∨ ((!acc) = true ∧ (s.X d).toNat % 4 ≠ 0)) := by
    rintro (hn | ⟨hacc, hn⟩)
    · exact hn ha
    · exact hn (hd ((Bool.not_eq_true' acc).mp hacc))
  show execCpyr h acc rm f d a b s = _
  simp only [execCpyr, if_neg hform]
  rw [if_neg halign]

end instructions

/-- Settles O20: each instruction queues by `copyCmd`, with the checks and the TIDs of its own. -/
theorem copyQueueResults : Obligations.CopyQueueResults := by
  intro h d a b tn tm x y ts
  refine ⟨?cpy, ?overlap, ?cpyt, fun pos => ⟨?gath, ?scat⟩, fun sr sat rm pos app tr n => ?cpyx,
    fun acc rm f hf => ?cpyr⟩
  case cpy =>
    refine queuesOnSeq_of_copyCmd fun s r _ hok => ?_
    rw [exec_cpy, if_neg]
    rintro ⟨hn, h1, h2⟩
    omega
  case overlap => exact trapsOnSeq_of_copyCmd fun s r _ hok => by rw [exec_cpy, if_pos hok]
  case cpyt =>
    refine queuesOnSeq_of_copyCmd ?_
    rintro s r hc ⟨ht, hcheck⟩
    rw [exec_cpyt hc ht, hcheck]
  case gath =>
    refine queuesOnSeq_of_copyCmd ?_
    rintro s r hc ⟨hearly, hx, hy, hlate⟩
    refine (rowsCmd_eq hc hx hy).trans ?_
    rw [hearly, hlate]
  case scat =>
    refine queuesOnSeq_of_copyCmd ?_
    rintro s r hc ⟨hearly, hx, hy, hlate⟩
    refine (rowsCmd_eq hc hx hy).trans ?_
    rw [hearly, hlate]
  case cpyx =>
    refine queuesOnSeq_of_copyCmd ?_
    rintro s r hc ⟨hstray, ht, hcheck, rfl⟩
    rw [exec_cpyx hc ht, hcheck, if_neg (ne_true_of_eq_false hstray)]
  case cpyr =>
    refine queuesOnSeq_of_copyCmd ?_
    rintro s r _ ⟨ha, hd⟩
    exact exec_cpyr hf ha hd

end Sys2Proof.Machine
end

section
/-! PROOFS. The unit events of the engines (O22; R141 to R143, R199, R202, R225, R293): what `doUnit` does with the head of a
queue, then which units each event performs. -/

namespace Sys2Proof.Machine

/-- Behind an action that succeeds, the next one runs from what it has left. -/
theorem run_bind_ok {α β : Type} {m : EM α} {f : α → EM β} {g g' : Eng} {a : α} (h : m.run g = .ok (a, g')) :
    (m >>= f).run g = (f a).run g' := by
  rw [StateT.run_bind, h]
  rfl

section units
variable {s : State} {r : SeqRef} {e : Engine} {c c' : Cmd} {rest : List Cmd} {units step : Cmd → Nat} {body : EM Bool}

/-! ### One unit, and a run of units -/

/-- R142, R143: a command without units left completes; else the next unit of the head is performed. -/
theorem doUnit_eq (hs : (s.strand (strandOf r)).stop = .running) (hq : (s.seq r).queue e = c :: rest) :
    s.doUnit r e units step body = if units c ≤ c.pix then s.completeCmd r e c
      else s.unitDone r e c units (step c) (body.run ⟨s, r, c⟩) := by
  have hruns : s.runs r = true := by rw [State.runs, hs]; rfl
  simp only [State.doUnit, hq, hruns, Bool.not_true, Bool.false_eq_true, ↓reduceIte]
  split
  · rfl
  · rcases body.run ⟨s, r, c⟩ with ⟨cause, detail⟩ | ⟨beyond, g⟩
    · rfl
    · simp only [State.unitDone]
      generalize g.s.setHead r e { g.c with pix := c.pix + step c } = u
      cases beyond <;> cases u.masked (strandOf r) .scaleOverflow <;> simp

/-- A run of one unit. -/
theorem doUnits_one : s.doUnits r e units step body 1 1 = s.doUnit r e units step body := by
  have hmod (c c' : Cmd) : ¬ (c.seqNo = c'.seqNo ∧ c.pix < c'.pix ∧ c'.pix % 1 ≠ 0) := by omega
  simp only [State.doUnits, hmod, ↓reduceIte]
  split <;> rfl

/-- R293: behind a unit of a run that is not its last the next one follows at the same moment. -/
theorem doUnits_continues {per n : Nat} (hq : (s.seq r).queue e = c :: rest)
    (hq' : (((s.doUnit r e units step body).seq r).queue e).head? = some c') (hno : c'.seqNo = c.seqNo)
    (hpix : c.pix < c'.pix) (hper : c'.pix % per ≠ 0) : s.doUnits r e units step body per (n + 1)
    = (s.doUnit r e units step body).doUnits r e units step body per n := by
  obtain ⟨rest', hq'⟩ := List.head?_eq_some_iff.mp hq'
  simp only [State.doUnits, hq, hq']
  exact if_pos ⟨hno.symm, hpix, hper⟩

/-! ### The events -/

/-- R293: a copy unit is performed with the units of its run. -/
theorem exec_copyUnit (hq : (s.seq r).copyQ = c :: rest) (hc : (c.ins matches .cpyr ..) = false) :
    exec (.copyUnit (.seq r)) s
    = .next (s.doUnits r .copy copyUnits copyStep (copyBody c.ins) (copyRun c) (copyRun c)) := by
  show execCopyUnit (.seq r) s = _
  simp only [execCopyUnit, hq]
  exact congrArg Host.Outcome.next (if_neg (ne_true_of_eq_false hc))

theorem exec_copyUnit_one (hs : (s.strand (strandOf r)).stop = .running) (hq : (s.seq r).copyQ = c :: rest)
    (hc : (c.ins matches .cpyr ..) = false) (hrun : copyRun c = 1) : exec (.copyUnit (.seq r)) s
    = .next (if copyUnits c ≤ c.pix then s.completeCmd r .copy c
      else s.unitDone r .copy c copyUnits (copyStep c) ((copyBody c.ins).run ⟨s, r, c⟩)) := by
  rw [exec_copyUnit hq hc, hrun, doUnits_one, doUnit_eq (e := .copy) hs hq]

theorem exec_vectorUnit {v : VCmd} (hs : (s.strand (strandOf r)).stop = .running)
    (hq : (s.seq r).queue .vector = c :: rest) (hv : c.vec = some v) : exec (.vectorUnit (.seq r)) s
    = .next (if (c.vec.map VCmd.units).getD 0 ≤ c.pix then s.completeCmd r .vector c
      else s.unitDone r .vector c (fun k => (k.vec.map VCmd.units).getD 0) 1 ((vecUnit v).run ⟨s, r, c⟩)) := by
  refine (congrArg Host.Outcome.next (doUnit_eq hs hq)).trans ?_
  rw [run_bind_ok (a := ⟨s, r, c⟩) rfl]
  simp only [hv]

theorem matHead_of_queue (hq : (s.seq r).queue .matrix = c :: rest) : s.matHead r = some c := by
  have hq' : (s.seq r).matQ = c :: rest := hq
  rw [State.matHead, hq']
  rfl

theorem exec_aclrUnit (hs : (s.strand (strandOf r)).stop = .running) (hq : (s.seq r).queue .matrix = c :: rest)
    (hc : (c.ins matches .aclr ..) = true) : exec (.aclrUnit (.seq r)) s
    = .next (if (aclrCount c + 255) / 256 ≤ c.pix then s.completeCmd r .matrix c
      else s.unitDone r .matrix c (fun k => (aclrCount k + 255) / 256) 1 (aclrUnit.run ⟨s, r, c⟩)) := by
  show execAclrUnit (.seq r) s = _
  simp only [execAclrUnit, matHead_of_queue hq]
  refine (congrArg Host.Outcome.next (if_pos hc)).trans ?_
  rw [doUnit_eq hs hq]

/-- A drain whose units do not share MX groups performs one. -/
theorem exec_drainUnit {h : Hdr} {sr sat clr tr : Bool} {rm : RMode} {tn : BitVec 8} {d a b : Reg} {lda : BitVec 17}
    {dr : Drain} (hs : (s.strand (strandOf r)).stop = .running) (hq : (s.seq r).queue .matrix = c :: rest)
    (hi : c.ins = .adrn h sr sat rm clr tr tn d a b lda) (hd : drainOf (c.tids.getD 0 0) c.xd c.xa c.xb tr lda = dr)
    (hg : dr.t.fmt.isMx = false ∨ dr.rows = 1) : exec (.drainUnit (.seq r)) s
    = .next (if dr.units ≤ c.pix then s.completeCmd r .matrix c
      else s.unitDone r .matrix c (fun _ => dr.units) 1 ((drainUnit dr sr sat rm clr tn.toNat).run ⟨s, r, c⟩)) := by
  have hgroup : (dr.t.fmt.isMx && dr.rows != 1) = false := by
    rcases hg with hg | hg <;> simp [hg]
  show execDrainUnit (.seq r) s = _
  simp only [execDrainUnit, matHead_of_queue hq, hi, hd, hgroup, Bool.false_eq_true, ↓reduceIte]
  rw [doUnit_eq hs hq]

/-- An attention command is one unit. -/
theorem exec_attentionPerform (hs : (s.strand (strandOf r)).stop = .running)
    (hq : (s.seq r).queue .matrix = c :: rest)
    (hb : (∃ h tq d a, c.ins = .atq h tq d a ∧ body = atqUnit) ∨ (∃ h tk tv a b, c.ins = .ats h tk tv a b ∧ body = atsUnit)
      ∨ ∃ h u a b, c.ins = .atf h u a b ∧ body = atfUnit u) : exec (.attentionPerform (.seq r)) s
    = .next (if 1 ≤ c.pix then s.completeCmd r .matrix c
      else s.unitDone r .matrix c (fun _ => 1) 1 (body.run ⟨s, r, c⟩)) := by
  rw [← doUnit_eq (units := fun _ => 1) (step := fun _ => 1) hs hq]
  show execAttentionPerform (.seq r) s = _
  simp only [execAttentionPerform, matHead_of_queue hq]
  rcases hb with ⟨h, tq, d, a, hi, rfl⟩ | ⟨h, tk, tv, a, b, hi, rfl⟩ | ⟨h, u, a, b, hi, rfl⟩ <;> rw [hi]

end units

/-- Settles O22: a run of units goes on as R293 says; every other event performs one unit of the head of its queue. -/
theorem unitResults : Obligations.UnitResults := by
  intro s r c rest hs
  refine ⟨?run, ?unit⟩
  case run =>
    rintro n c' t hq hc hrun rfl hhead hno hpix hper
    rw [← doUnit_eq (e := .copy) (units := copyUnits) (step := copyStep) hs hq] at hhead ⊢
    rw [exec_copyUnit hq hc, hrun, doUnits_continues (e := .copy) hq hhead hno hpix hper]
  case unit =>
    rintro i e units step body hcase hq
    rcases hcase with ⟨rfl, rfl, rfl, rfl, rfl, hc, hrun⟩ | ⟨v, rfl, rfl, rfl, rfl, hv, rfl⟩
      | ⟨rfl, rfl, hc, rfl, rfl, rfl⟩
      | ⟨h, sr, sat, rm, clr, tr, tn, d, a, b, lda, rfl, rfl, hi, rfl, rfl, rfl, hg⟩
      | ⟨h, tq, d, a, rfl, rfl, hi, rfl, rfl, rfl⟩ | ⟨h, tk, tv, a, b, rfl, rfl, hi, rfl, rfl, rfl⟩
      | ⟨h, u, a, b, rfl, rfl, hi, rfl, rfl, rfl⟩
    · exact exec_copyUnit_one hs hq hc hrun
    · exact exec_vectorUnit hs hq hv
    · exact exec_aclrUnit hs hq hc
    · exact exec_drainUnit hs hq hi rfl hg
    · exact exec_attentionPerform hs hq (.inl ⟨h, tq, d, a, hi, rfl⟩)
    · exact exec_attentionPerform hs hq (.inr (.inl ⟨h, tk, tv, a, b, hi, rfl⟩))
    · exact exec_attentionPerform hs hq (.inr (.inr ⟨h, u, a, b, hi, rfl⟩))

end Sys2Proof.Machine
end

section
/-! PROOFS. What a unit of CPY and a unit of ACLR write (O23; R105, R145, R150, R234). -/

namespace Sys2Proof.Machine

/-! ### Runs of the scratchpad (R105, R145, R315) -/

@[simp] theorem Cluster.length_spadBytes (c : Cluster) (o n : Nat) : (c.spadBytes o n).length = n := by
  rw [Cluster.spadBytes, List.length_map, List.length_range]

section window
variable {g : Eng} {t : Team} {va o n : Nat}

/-- An access within the local window touches no page. -/
theorem splitV_window (hlo : windowBase ≤ va) (hhi : va < 2 ^ 48) (hn : 0 < n) :
    splitV (va : Nat) n = pure ([], some (va, n)) := by
  have hm : min n (windowBase - va) = 0 := by omega
  have hok : (decide (0 ≤ (va : Int)) && decide (va < 2 ^ 48)) = true := by simpa using hhi
  simp only [splitV, Int.toNat_natCast, hok, check, ↓reduceIte, hm, pieces, hn, Nat.add_zero, Nat.sub_zero, pure_bind]

/-- R315: the team's scratchpad extent stands at the beginning of the window. -/
theorem windowPlace_spad (hspb : t.spb ≤ 0x200000) (ho : o < t.spb) :
    windowPlace t o = some (.spad (t.spadBase + o)) := by
  have hlt : o < 0x200000 := ho.trans_le hspb
  rw [windowPlace, if_pos hlt, if_pos ho]

variable (ht : g.s.team? (strandOf g.r) = some t) (hspb : t.spb ≤ 0x200000) (hva : va = windowBase + o) (hn : 0 < n)
  (ho : o + n ≤ t.spb)

include hva in
theorem offset_eq : va - windowBase = o := by rw [hva, Nat.add_sub_cancel_left]

include ht hspb hva hn ho

/-- R145: a run within its team's scratchpad extent lies as far behind the place of the extent. -/
theorem spadRange_run : (spadRange va n).run g = .ok (t.spadBase + o, g) := by
  have hteam : getTeam.run g = .ok (some t, g) := congrArg (fun x => Except.ok (x, g)) ht
  rw [spadRange, run_bind_ok hteam, offset_eq hva]
  simp only [windowPlace_spad hspb (show o < t.spb by omega), check, ho, decide_true, ↓reduceIte, pure_bind]
  rfl

omit ht in
theorem splitV_spad : (splitV (va : Nat) n).run g = .ok (([], some (va, n)), g) := by
  have hhi : va < 2 ^ 48 := by
    rw [hva, windowBase]
    omega
  rw [splitV_window (by omega) hhi hn]
  rfl

theorem readV_spad (hw : wordHit (g.s.cluster g.r.die g.r.cl).badSpad (t.spadBase + o) n = none) :
    (readV (va : Nat) n).run g = .ok ((g.s.cluster g.r.die g.r.cl).spadBytes (t.spadBase + o) n, g) := by
  have hcheck : (spadCheck (t.spadBase + o) n).run g = .ok ((), g) := by
    refine (run_bind_ok (a := g) rfl).trans ?_
    rw [hw]
    rfl
  rw [readV, if_neg hn.ne']
  refine (run_bind_ok (splitV_spad hspb hva hn ho)).trans ?_
  refine (run_bind_ok (a := []) rfl).trans ?_
  refine (run_bind_ok (spadRange_run ht hspb hva hn ho)).trans ?_
  refine (run_bind_ok (a := g.s.cluster g.r.die g.r.cl) rfl).trans ?_
  refine (run_bind_ok hcheck).trans ?_
  rw [Tbl.readRun_eq]
  rfl

theorem writeV_spad {bs : List Byte} (hlen : bs.length = n) : (writeV (va : Nat) bs).run g
    = .ok ((), { g with s := g.s.modCluster g.r.die g.r.cl fun c => c.putSpad (t.spadBase + o) bs }) := by
  have hne : ¬ bs.isEmpty = true := by
    rw [List.isEmpty_iff_length_eq_zero]
    omega
  have hsplit := splitV_spad (g := g) hspb hva hn ho
  rw [← hlen] at hsplit
  rw [writeV, if_neg hne]
  refine (run_bind_ok hsplit).trans ?_
  refine (run_bind_ok (a := ⟨⟩) rfl).trans ?_
  rw [hlen]
  refine (run_bind_ok (spadRange_run ht hspb hva hn ho)).trans ?_
  rw [← hlen, Nat.sub_self, List.drop_zero]
  rfl

end window

/-! ### A unit of CPY -/

section cpy
variable {s : State} {r : SeqRef} {c : Cmd} {t : Team} {x y n : Nat}

/-- R150: unit `pix` of CPY copies the bytes from 256 · `pix` on, 256 of them at most. -/
theorem cpyUnit_run (ht : s.team? (strandOf r) = some t) (hspb : t.spb ≤ 0x200000) (hcount : n = cpyCount c)
    (hpix : 256 * c.pix < n) (hxa : c.xa.toNat = windowBase + x) (hxd : c.xd.toNat = windowBase + y)
    (hx : x + n ≤ t.spb) (hy : y + n ≤ t.spb)
    (hw : wordHit (s.cluster r.die r.cl).badSpad (t.spadBase + (x + 256 * c.pix)) (min 256 (n - 256 * c.pix)) = none) :
    cpyUnit.run ⟨s, r, c⟩ = .ok (false, ⟨s.modCluster r.die r.cl fun k => k.putSpad (t.spadBase + (y + 256 * c.pix))
      (k.spadBytes (t.spadBase + (x + 256 * c.pix)) (min 256 (n - 256 * c.pix))), r, c⟩) := by
  subst hcount
  have hread := readV_spad (g := ⟨s, r, c⟩) (va := c.xa.toNat + 256 * c.pix) (o := x + 256 * c.pix)
    (n := min 256 (cpyCount c - 256 * c.pix)) ht hspb (by omega) (by omega) (by omega) hw
  have hwrite := writeV_spad (g := ⟨s, r, c⟩) (va := c.xd.toNat + 256 * c.pix) (o := y + 256 * c.pix)
    (n := min 256 (cpyCount c - 256 * c.pix)) ht hspb (by omega) (by omega) (by omega)
    ((s.cluster r.die r.cl).length_spadBytes (t.spadBase + (x + 256 * c.pix)) _)
  have hget : (get : EM Eng).run ⟨s, r, c⟩ = .ok (⟨s, r, c⟩, ⟨s, r, c⟩) := rfl
  rw [cpyUnit, run_bind_ok hget]
  dsimp only
  rw [run_bind_ok hread, run_bind_ok hwrite]
  rfl

/-- The unit performed, and behind the last one the command complete (R142). -/
theorem exec_copyUnit_cpy {rest : List Cmd} {h : Hdr} {d a b : Reg} (hs : (s.strand (strandOf r)).stop = .running)
    (hq : (s.seq r).copyQ = c :: rest) (hi : c.ins = .cpy h d a b) (hpix : 256 * c.pix < cpyCount c) {u : State}
    (hu : cpyUnit.run ⟨s, r, c⟩ = .ok (false, ⟨u, r, c⟩)) : exec (.copyUnit (.seq r)) s
    = .next (if cpyCount c ≤ 256 * (c.pix + 1)
        then (u.setHead r .copy { c with pix := c.pix + 1 }).completeCmd r .copy { c with pix := c.pix + 1 }
        else u.setHead r .copy { c with pix := c.pix + 1 }) := by
  have hunits (k : Cmd) (hk : k.ins = .cpy h d a b) : copyUnits k = (cpyCount k + 255) / 256 := by rw [copyUnits, hk]
  have hstep : copyStep c = 1 := by rw [copyStep, hi]
  have hbody : copyBody c.ins = cpyUnit := by rw [hi]; rfl
  have hlast : (cpyCount c + 255) / 256 ≤ c.pix + 1 ↔ cpyCount c ≤ 256 * (c.pix + 1) := by omega
  rw [exec_copyUnit_one hs hq (by rw [hi]) (by rw [copyRun, hi]), hunits c hi, if_neg (by omega), hbody, hu, hstep]
  simp only [State.unitDone, Bool.false_eq_true, false_and, ↓reduceIte]
  rw [hunits { c with pix := c.pix + 1 } hi]
  exact congrArg Host.Outcome.next (if_congr hlast rfl rfl)

end cpy

/-! ### A unit of ACLR -/

/-- Words cleared one by one: each reads as +0.0 and is not poisoned, the others are as they were (R234). -/
theorem word_foldl_accPut (cl : Cluster) (lo n w : Nat) :
    (((List.range n).foldl (fun k j => k.accPut (lo + j) 0) cl).accWord w,
      ((List.range n).foldl (fun k j => k.accPut (lo + j) 0) cl).isPoisoned w)
    = if lo ≤ w ∧ w < lo + n then (0, false) else (cl.accWord w, cl.isPoisoned w) := by
  induction n with
  | zero => rw [if_neg (by omega)]; rfl
  | succ n ih =>
    rw [List.range_succ, List.foldl_append]
    simp only [List.foldl_cons, List.foldl_nil, Cluster.accPut, Cluster.accWord, Cluster.isPoisoned, Tbl.get_set] at ih ⊢
    by_cases hw : lo + n = w
    · simp only [hw, ↓reduceIte]
      rw [if_pos (by omega)]
    · simp only [hw, ↓reduceIte, ih]
      exact if_congr (by omega) rfl rfl

section unitFrame
variable {w : Writes} {s t : State} {r : SeqRef} {e : Engine} {c : Cmd}

theorem Within.setHead (h : Within w s t) : Within w s (t.setHead r e c) := h.setQueue

theorem Within.completeCmd (h : Within w s t) : Within w s (t.completeCmd r e c) := h.setQueue.pushPost

end unitFrame

/-- R142: one unit of ACLR is performed from the words left, and nothing else of memory changes. -/
theorem exec_aclrUnit_words {s : State} {r : SeqRef} {c : Cmd} {rest : List Cmd} {h : Hdr} {a b : Reg}
    (hs : (s.strand (strandOf r)).stop = .running) (hq : (s.seq r).matQ = c :: rest) (hi : c.ins = .aclr h a b)
    (hpix : 256 * c.pix < aclrCount c) : ∃ t, exec (.aclrUnit (.seq r)) s = .next t
      ∧ Within {} (s.modCluster r.die r.cl fun cl => (List.range (min 256 (aclrCount c - 256 * c.pix))).foldl
        (fun x k => x.accPut (aclrFirst c + 256 * c.pix + k) 0) cl) t := by
  refine ⟨_, exec_aclrUnit hs hq (by rw [hi]), ?_⟩
  rw [if_neg (by omega)]
  show Within {} _ (State.unitDone s r .matrix c _ 1 (.ok (false, _)))
  simp only [State.unitDone, Bool.false_eq_true, false_and, ↓reduceIte]
  exact .ite (Within.refl {} _).setHead.completeCmd (Within.refl {} _).setHead

/-- Settles O23: the bytes of a unit of CPY, then the words of a unit of ACLR. -/
theorem unitBytes : Obligations.UnitBytes := by
  refine ⟨?cpy, ?aclr⟩
  case cpy =>
    rintro s r c rest h d a b t x y n hs hq hi ht hspb rfl hpix hxa hxd hx hy hw
    exact exec_copyUnit_cpy hs hq hi hpix (cpyUnit_run ht hspb rfl hpix hxa hxd hx hy hw)
  case aclr =>
    rintro s r c rest h a b lo n hs hq hi rfl rfl hpix
    obtain ⟨t, ht, hwithin⟩ := exec_aclrUnit_words hs hq hi hpix
    refine ⟨t, ht, fun p => congrArg (Tbl.get memDefault · p) hwithin.mem, fun w => ?_⟩
    obtain ⟨-, hacc, hpoison, -⟩ := hwithin.engines rfl r.die r.cl
    rw [cluster_modCluster, if_pos rfl] at hacc hpoison
    rw [Cluster.accWord, Cluster.isPoisoned, hacc, hpoison]
    refine (word_foldl_accPut _ _ _ w).trans (if_congr ?_ rfl rfl)
    simp only [aclrFirst, aclrCount]
    omega

end Sys2Proof.Machine
end

section
/-! PROOFS. Events of reduction ranges (O43; R164, R166, R282, R284). -/

namespace Sys2Proof.Machine

section ranges
variable {s : State} {rr : RangeRef}

/-! ### A range of the state -/

/-- A range reads as it was changed. -/
@[simp] theorem range_modRange (s : State) (rr : RangeRef) (f : Range → Range) :
    (s.modRange rr f).range rr = f (s.range rr) := by
  cases rr <;> simp [State.range, State.ranges, State.modRange, rangeMem, rangeNo]

/-- What a change of a range makes of the range as it stands is all that counts. -/
theorem modRange_congr {f g : Range → Range} (h : f (s.range rr) = g (s.range rr)) : s.modRange rr f = s.modRange rr g := by
  cases rr with
  | acc d c n =>
    have h' : f (Tbl.get {} (s.cluster d c).ranges n) = g (Tbl.get {} (s.cluster d c).ranges n) := h
    simp only [State.modRange, State.modCluster, h']
  | stg d n =>
    have h' : f (Tbl.get {} (s.die d).ranges n) = g (Tbl.get {} (s.die d).ranges n) := h
    simp only [State.modRange, State.modDie, h']

/-! ### A round whose timer runs out (R284) -/

/-- A round that has expired and in which nothing is being performed ends. -/
theorem settleRange_ends (hx : (s.range rr).expired = true) (ht : (s.range rr).tmd = false)
    (hk : ∀ k ∈ (s.range rr).contribs, k.begun = false ∧ k.go = false) : s.settleRange rr
    = (s.range rr).contribs.foldl (fun a k => a.cut (s.range rr).missing k)
        ((s.modRange rr fun g => { g with tmd := true, miss := g.missing, contribs := [], started := none }).bumpRange rr) := by
  have hidle : ((s.range rr).contribs.any fun k => k.begun || k.go) = false := by
    rw [List.any_eq_false]
    intro k hm
    obtain ⟨hb, hg⟩ := hk k hm
    simp [hb, hg]
  rw [State.settleRange, if_neg (by simp [hx, ht, hidle])]
  exact congrArg (fun u : State => (s.range rr).contribs.foldl _ (u.bumpRange rr)) (modRange_congr rfl)

theorem exec_roundTimeout {t0 : Nat} (hv : (s.range rr).v = true) (htmo : (s.range rr).tmo ≠ 0)
    (htmd : (s.range rr).tmd = false) (h0 : (s.range rr).started = some t0)
    (hdue : t0 + 4096 * (s.range rr).tmo.toNat ≤ s.tsc (rangeMem rr).die) : exec (.roundTimeout rr) s
    = .next ((s.modRange rr fun g => { g with expired := true }).settleRange rr) := by
  show execRoundTimeout rr s = _
  rw [execRoundTimeout, if_pos]
  rw [hv, bne_iff_ne.mpr htmo, htmd, h0]
  simp [hdue]

/-! ### A unit of a contribution (R164, R166) -/

/-- A unit whose turn it is adds its values; behind the last one the slot is filled. -/
theorem contribute_adds {r : SeqRef} {c : Cmd} {k : Contrib} {n per w : Nat} {add : BitVec 32 → ExtNum → BitVec 32}
    {vs : List ExtNum} (htmd : (s.range rr).tmd = false)
    (hin : (s.range rr).contribs.any (fun k => k.who == .seq r c.seqNo) = true)
    (hk : s.contrib? rr (.seq r c.seqNo) = some k) (hready : (s.range rr).ready k = true) (hpix : c.pix * per < n)
    (hsoft : s.softWords (rangeMem rr) (w + c.pix * per) (min per (n - c.pix * per)) = none) :
    (s.contribute r .copy c rr w n per add (pure vs)).1
    = (let c' := { c with pix := c.pix + 1, claim := k.claim }
       let u := ((s.addWords (rangeMem rr) (w + c.pix * per) vs add).modSeq r fun q =>
         q.setQueue .copy ((q.queue .copy).map fun y => if y.seqNo = c.seqNo then c' else y)).modContrib rr
           (.seq r c.seqNo) fun k => { k with begun := true }
       if n ≤ (c.pix + 1) * per then u.fillSlot rr (.seq r c.seqNo) else u) := by
  have hn : ¬ n ≤ c.pix * per := by omega
  simp only [State.contribute, hin, htmd, hk, hready, hsoft, hn, ↓reduceIte, Option.isNone_some, Option.isSome_some,
    Bool.false_and, Bool.false_eq_true, Bool.not_true]
  show Prod.fst (if n ≤ (c.pix + 1) * per then _ else _) = _
  split <;> rfl

/-- R166: the head of a copy queue, a CPYR, is served, where no remote command waits behind it. -/
theorem exec_cpyrAdd {r : SeqRef} {c : Cmd} {rest : List Cmd} {h : Hdr} {acc : Bool} {rm : RMode} {f : Fmt}
    {d a b : Reg} (hs : (s.strand (strandOf r)).stop = .running) (hq : (s.seq r).copyQ = c :: rest)
    (hi : c.ins = .cpyr h acc rm f d a b) (hcoll : ((s.cpyrServe r c acc rm f).seq r).collQ = []) :
    exec (.cpyrAdd (.seq r)) s = .next (s.cpyrServe r c acc rm f) := by
  have hruns : s.runs r = true := by rw [State.runs, hs]; rfl
  show execCpyrAdd (.seq r) s = _
  simp only [execCpyrAdd, hq, hi, hruns, ↓reduceIte, hcoll, List.find?_nil]

end ranges

/-! ### Words added one by one -/

section words
variable {add : BitVec 32 → ExtNum → BitVec 32} {w j : Nat}

/-- The words from `w` on with values added. -/
def addRun (add : BitVec 32 → ExtNum → BitVec 32) (w : Nat) (t : Tbl (BitVec 32)) (vs : List ExtNum) : Tbl (BitVec 32) :=
  vs.zipIdx.foldl (fun t (v, j) => Tbl.set 0 t (w + j) (add (Tbl.get 0 t (w + j)) v)) t

theorem addWords_stg (s : State) (die : Nat) (vs : List ExtNum) :
    ((s.addWords (.stg die) w vs add).die die).stg = addRun add w (s.die die).stg vs := by
  simp [State.addWords, addRun]

theorem addRun_append (t : Tbl (BitVec 32)) (vs : List ExtNum) (v : ExtNum) : addRun add w t (vs ++ [v])
    = Tbl.set 0 (addRun add w t vs) (w + vs.length) (add (Tbl.get 0 (addRun add w t vs) (w + vs.length)) v) := by
  simp [addRun, List.zipIdx_append]

theorem get_addRun_outside {t : Tbl (BitVec 32)} {vs : List ExtNum} (h : j < w ∨ w + vs.length ≤ j) :
    Tbl.get 0 (addRun add w t vs) j = Tbl.get 0 t j := by
  induction vs using List.reverseRecOn with
  | nil => rfl
  | append_singleton vs v ih =>
    rw [List.length_append, List.length_singleton] at h
    rw [addRun_append, Tbl.get_set, if_neg (by omega), ih (by omega)]

theorem get_addRun_inside {t : Tbl (BitVec 32)} {vs : List ExtNum} {v : ExtNum} (h : vs[j]? = some v) :
    Tbl.get 0 (addRun add w t vs) (w + j) = add (Tbl.get 0 t (w + j)) v := by
  induction vs using List.reverseRecOn with
  | nil => exact nomatch h
  | append_singleton vs u ih =>
    rw [addRun_append, Tbl.get_set]
    by_cases hj : vs.length = j
    · subst hj
      rw [List.getElem?_concat_length] at h
      cases h
      rw [if_pos rfl, get_addRun_outside (.inr le_rfl)]
    · have hlt : j < vs.length := by
        obtain ⟨hlt, -⟩ := List.getElem?_eq_some_iff.mp h
        rw [List.length_append, List.length_singleton] at hlt
        omega
      rw [List.getElem?_append_left hlt] at h
      rw [if_neg (by omega), ih h]

end words

/-- R164: a slot's turn has come when every slot below it is filled. -/
theorem Range.turnOf_iff (g : Range) (n : Nat) : g.turnOf n = true ↔ ∀ j < n, g.filled.getLsbD j = true := by
  rw [Range.turnOf, beq_iff_eq]
  constructor
  · intro h j hj
    have hbit := congrArg (Nat.testBit · j) h
    rw [BitVec.getLsbD]
    simpa [Nat.testBit_mod_two_pow, Nat.testBit_two_pow_sub_one, hj] using hbit
  · intro h
    refine Nat.eq_of_testBit_eq fun j => ?_
    rw [Nat.testBit_mod_two_pow, Nat.testBit_two_pow_sub_one]
    by_cases hj : j < n
    · have hbit : g.filled.toNat.testBit j = true := h j hj
      simp [hj, hbit]
    · simp [hj]

/-- Settles O43: the end of a round, the units of contributions, and the turn of a slot. -/
theorem rangeEvents : Obligations.RangeEvents := by
  refine ⟨?timeout, ?serve, ?unit, ?added, ?others, fun rm a v => ⟨rfl, rfl⟩, ?turn⟩
  case timeout =>
    intro s rr t0 hv htmo htmd h0 hdue hk
    refine ⟨_, _, exec_roundTimeout hv htmo htmd h0 hdue, (settleRange_ends ?expired ?running ?idle).trans ?cut, rfl⟩
    all_goals rw [range_modRange]
    case running => exact htmd
    case idle => exact hk
    case cut => rfl
  case serve => exact fun s r c rest h acc rm f d a b hs hq hi hcoll => exec_cpyrAdd hs hq hi hcoll
  case unit =>
    exact fun s r c rr k n per w add vs htmd hin hk hready hpix hsoft =>
      contribute_adds htmd hin hk hready hpix hsoft
  case added =>
    intro s die w j vs v add hv
    rw [addWords_stg, get_addRun_inside hv]
  case others =>
    intro s die w j vs add hj
    rw [addWords_stg, get_addRun_outside hj]
  case turn =>
    intro g k n x hclaim htmd hexpired
    rw [← g.turnOf_iff n]
    simp [Range.ready, hclaim, htmd, hexpired]

end Sys2Proof.Machine
end

section
/-! PROOFS. Element results of the vector unit (O25; R27, R208, R209, R211): integers by their residue and by their clamped
value, floating elements by the order of their values. -/

namespace Sys2Proof.Machine

section integers
variable {f : Fmt} {rm : RMode} {sat : Bool} {n m a b : Nat} {z : Int}

/-! ### Numbers as fields of an element (R27, R208) -/

/-- Of an exact result that does not saturate the field keeps the residue. -/
theorem vInt_wraps (h : z ≡ m [ZMOD (2 ^ f.elemBits : Nat)]) : vInt f false z = ⟨m % 2 ^ f.elemBits, none⟩ := by
  have hbits : intBits f.elemBits z = m % 2 ^ f.elemBits := by
    rw [intBits, h.eq, ← Int.natCast_mod, Int.toNat_natCast]
  exact congrArg (VRes.mk · none) hbits

/-- A number from `-2 ^ n` up to `2 ^ n` is kept as it stands, a negative one as its complement. -/
theorem intBits_of_range (hlo : -(2 ^ n : Int) ≤ z) (hhi : z < 2 ^ n) :
    intBits n z = if 0 ≤ z then z.toNat else (z + 2 ^ n).toNat := by
  rw [intBits, Nat.cast_pow, Nat.cast_ofNat]
  split
  · next h => rw [Int.emod_eq_of_lt h hhi]
  · next h => rw [← Int.add_emod_right, Int.emod_eq_of_lt (by omega) (by omega)]

/-- With .sat a result above or below the signed range takes the end of it. -/
theorem vInt_clamps (hn : 0 < f.elemBits) : vInt f true z = ⟨if 2 ^ (f.elemBits - 1) ≤ z then 2 ^ (f.elemBits - 1) - 1
    else if z < -2 ^ (f.elemBits - 1) then 2 ^ (f.elemBits - 1)
    else if 0 ≤ z then z.toNat else (z + 2 ^ f.elemBits).toNat, none⟩ := by
  obtain ⟨w, hw⟩ := Nat.exists_eq_add_of_lt hn
  rw [Nat.zero_add] at hw
  have hcast : (2 : Int) ^ w = (2 ^ w : Nat) := (Nat.cast_pow 2 w).symm
  have hpow : (2 : Int) ^ (w + 1) = 2 * (2 ^ w : Nat) := by rw [← hcast, pow_succ']
  have hpos : 0 < 2 ^ w := Nat.two_pow_pos w
  have hbits {z : Int} := intBits_of_range (n := w + 1) (z := z)
  simp only [vInt, intClamp, hw, Nat.add_sub_cancel, if_true, hcast, hpow] at hbits ⊢
  generalize 2 ^ w = p at *
  congr 1
  by_cases hlo : z < -p
  · rw [if_pos hlo, hbits (by omega) (by omega), if_neg (by omega), if_neg (by omega), if_pos hlo]
    omega
  · by_cases hhi : p ≤ z
    · rw [if_neg hlo, if_pos (by omega), hbits (by omega) (by omega), if_pos (by omega), if_pos hhi]
      omega
    · rw [if_neg hlo, if_neg (by omega), hbits (by omega) (by omega), if_neg hhi, if_neg hlo]

section element
variable (hn : 0 < f.elemBits) (ha : a < 2 ^ f.elemBits)
include hn ha

theorem vIntOf_of_lt : vIntOf f a = if a < 2 ^ (f.elemBits - 1) then (a : Int) else a - 2 ^ f.elemBits := by
  rw [vIntOf, intDecode_of_lt hn ha]
  simp only [← Nat.not_lt, ite_not]

/-- The number that an element stands for has the residue of its encoding. -/
theorem vIntOf_modEq : vIntOf f a ≡ a [ZMOD (2 ^ f.elemBits : Nat)] := by
  rw [vIntOf_of_lt hn ha]
  split
  · rfl
  · simp [Int.ModEq]

end element

/-! ### The minors of VBIN and VUN on integers (R209, R211) -/

section minors
variable (hf : f.isInt = true)
include hf

theorem eval_add_int : VBin.eval .add f rm sat a b = vInt f sat (vIntOf f a + vIntOf f b) := if_pos hf

theorem eval_sub_int : VBin.eval .sub f rm sat a b = vInt f sat (vIntOf f a - vIntOf f b) := if_pos hf

theorem eval_mul_int : VBin.eval .mul f rm sat a b = vInt f sat (vIntOf f a * vIntOf f b) := if_pos hf

theorem vSign_int {neg : Bool} :
    vSign f sat neg a = vInt f sat (if neg then -vIntOf f a else (vIntOf f a).natAbs) := if_pos hf

end minors

section shifts
variable (hn : 0 < f.elemBits) (ha : a < 2 ^ f.elemBits)
include hn ha

theorem eval_shl : VBin.eval .shl f rm sat a b = ⟨a * 2 ^ (b % f.elemBits) % 2 ^ f.elemBits, none⟩ := by
  refine vInt_wraps ?_
  push_cast
  exact (vIntOf_modEq hn ha).mul_right _

/-- A shift to the right brings in the sign. -/
theorem eval_shr : VBin.eval .shr f rm sat a b = ⟨if a < 2 ^ (f.elemBits - 1) then a / 2 ^ (b % f.elemBits)
    else 2 ^ f.elemBits - 2 ^ (f.elemBits - b % f.elemBits) + a / 2 ^ (b % f.elemBits), none⟩ := by
  have hk : b % f.elemBits < f.elemBits := Nat.mod_lt _ hn
  show vInt f false (vIntOf f a / 2 ^ (b % f.elemBits)) = _
  generalize b % f.elemBits = k at *
  rw [vIntOf_of_lt hn ha]
  have hsplit : 2 ^ f.elemBits = 2 ^ (f.elemBits - k) * 2 ^ k := by rw [← Nat.pow_add, Nat.sub_add_cancel hk.le]
  have hpos : 0 < 2 ^ k := Nat.two_pow_pos k
  have hq : a / 2 ^ k < 2 ^ (f.elemBits - k) := Nat.div_lt_of_lt_mul (by rwa [Nat.mul_comm, ← hsplit])
  have hle : 2 ^ (f.elemBits - k) ≤ 2 ^ f.elemBits := Nat.pow_le_pow_right (by decide) (Nat.sub_le ..)
  split
  · rw [vInt_wraps (m := a / 2 ^ k) (by push_cast; rfl), Nat.mod_eq_of_lt (hq.trans_le hle)]
  · rw [vInt_wraps (m := 2 ^ f.elemBits - 2 ^ (f.elemBits - k) + a / 2 ^ k), Nat.mod_eq_of_lt (by omega)]
    have hz : ((a : Int) - 2 ^ f.elemBits) / 2 ^ k = a / 2 ^ k - 2 ^ (f.elemBits - k) := by
      have hs : (2 : Int) ^ f.elemBits = 2 ^ (f.elemBits - k) * 2 ^ k := mod_cast hsplit
      rw [hs, Int.sub_mul_ediv_right _ _ (by positivity)]
    rw [hz]
    push_cast [Nat.cast_sub hle]
    refine (Int.modEq_iff_dvd).mpr ⟨1, ?_⟩
    ring

/-- R211: of the least number the absolute value does not fit. -/
theorem vSign_least (hf : f.isInt = true) (hl : a = 2 ^ (f.elemBits - 1)) :
    vSign f true false a = ⟨2 ^ (f.elemBits - 1) - 1, none⟩ ∧ vSign f false false a = ⟨a, none⟩ := by
  have hv : vIntOf f a = -2 ^ (f.elemBits - 1) := by
    have hpow : (2 : Int) ^ f.elemBits = 2 * 2 ^ (f.elemBits - 1) := by rw [← pow_succ', Nat.sub_add_cancel hn]
    rw [vIntOf_of_lt hn ha, if_neg (Nat.not_lt.mpr hl.ge), hl, hpow, Nat.cast_pow, Nat.cast_ofNat]
    ring
  have habs : ((vIntOf f a).natAbs : Int) = 2 ^ (f.elemBits - 1) := by
    rw [hv, Int.natAbs_neg, Int.natAbs_pow]
    rfl
  rw [vSign_int hf, vSign_int hf, if_neg Bool.false_ne_true, habs]
  refine ⟨(vInt_clamps hn).trans (congrArg (VRes.mk · none) (if_pos le_rfl)), ?_⟩
  rw [vInt_wraps (m := a) (by rw [hl]; push_cast; rfl), Nat.mod_eq_of_lt ha]

end shifts

end integers

/-! ### Floating elements (R24, R28, R209, R211) -/

theorem Q.lt_asymm {p q : Q} (h : p.lt q = true) : q.lt p = false := by
  have h' : p.num * q.den < q.num * p.den := of_decide_eq_true h
  exact decide_eq_false (Nat.not_lt.mpr h'.le)

/-- No two values are each less than the other. -/
theorem ExtNum.lt_asymm {x y : ExtNum} (h : x.lt y = true) : y.lt x = false := by
  cases x with
  | nan => exact absurd h nofun
  | inf s => cases y <;> simp_all [ExtNum.lt]
  | mix => cases y <;> simp_all [ExtNum.lt]
  | fin s p =>
    cases y with
    | nan => exact absurd h nofun
    | inf t => simp_all [ExtNum.lt]
    | mix => simp_all [ExtNum.lt]
    | fin t q =>
      cases s <;> cases t
      · exact Q.lt_asymm h
      · exact absurd h nofun
      · rfl
      · exact Q.lt_asymm h

section floating
variable {f : Fmt} {rm : RMode} {sat neg : Bool} {a b : Nat}

theorem vPick_of_nan {greater : Bool} (h : (f.decode a).isNaN = true ∨ (f.decode b).isNaN = true) :
    vPick f greater a b = ⟨f.nanBits, none⟩ := by
  simp only [vPick]
  rw [if_pos (by simpa using h)]

theorem vPick_of_lt {greater : Bool} (ha : (f.decode a).isNaN = false) (hb : (f.decode b).isNaN = false)
    (h : (f.decode a).lt (f.decode b) = true) : vPick f greater a b = ⟨if greater then b else a, none⟩ := by
  cases greater <;> simp [vPick, ha, hb, h]

theorem vSign_of_nan (hf : f.isInt = false) (h : (f.decode a).isNaN = true) : vSign f sat neg a = ⟨f.nanBits, none⟩ := by
  simp [vSign, hf, h]

/-- Of a number the sign bit is cleared or inverted. -/
theorem vSign_of_number (hf : f.isInt = false) (h : (f.decode a).isNaN = false) : vSign f sat neg a
    = ⟨if neg then a ^^^ 2 ^ (f.elemBits - 1) else a % 2 ^ (f.elemBits - 1), none⟩ := by
  simp [vSign, hf, h]

end floating

/-- Settles O25: integers by residue and by clamped value, floating elements by the order of their values. -/
theorem vectorValues : Obligations.VectorValues := by
  refine ⟨?integers, ?floating⟩
  case integers =>
    intro f n rm a b hfn ha hb
    obtain ⟨hf, rfl, hn⟩ : f.isInt = true ∧ n = f.elemBits ∧ 0 < f.elemBits := by
      rcases hfn with ⟨rfl, rfl⟩ | ⟨rfl, rfl⟩ <;> exact ⟨rfl, rfl, by decide⟩
    have hra := vIntOf_modEq hn ha
    have hrb := vIntOf_modEq hn hb
    refine ⟨?add, ?sub, ?mul, eval_shl hn ha, fun _ => ⟨rfl, rfl, rfl⟩, ?clamped, fun _ => eval_shr hn ha,
      vSign_least hn ha hf⟩
    case add =>
      rw [eval_add_int hf, vInt_wraps]
      push_cast
      exact hra.add hrb
    case sub =>
      rw [eval_sub_int hf, vInt_wraps]
      have hle : b ≤ a + 2 ^ f.elemBits := hb.le.trans (Nat.le_add_left ..)
      rw [Nat.cast_sub hle, Nat.cast_add]
      exact (hra.trans Int.add_modEq_right.symm).sub hrb
    case mul =>
      rw [eval_mul_int hf, vInt_wraps]
      push_cast
      exact hra.mul hrb
    case clamped =>
      intro sg clamp hsg hclamp
      have hclamps (z : Int) : vInt f true z = ⟨clamp z, none⟩ := by rw [vInt_clamps hn, hclamp]
      rw [eval_add_int hf, eval_sub_int hf, eval_mul_int hf, hsg a, hsg b, ← vIntOf_of_lt hn ha, ← vIntOf_of_lt hn hb]
      exact ⟨hclamps _, hclamps _, hclamps _⟩
  case floating =>
    intro f rm sat a b hform
    have hf : f.isInt = false := by
      rcases hform with rfl | rfl | rfl | rfl | rfl <;> rfl
    exact ⟨fun h => ⟨vPick_of_nan h, vPick_of_nan h⟩,
      fun ha hb h => ⟨vPick_of_lt ha hb h, ExtNum.lt_asymm h, vPick_of_lt ha hb h⟩,
      fun h => ⟨vSign_of_nan hf h, vSign_of_nan hf h⟩, fun h => ⟨vSign_of_number hf h, vSign_of_number hf h⟩⟩

end Sys2Proof.Machine
end

section
/-! PROOFS. Vector instructions as they issue (O24; R64, R199, R203 to R205, R211): one rule for every instruction that queues
by `vecCmd`, and that each of the family does. -/

namespace Sys2Proof.Machine

/-- R211: VCVT.sr alone reserves LFSR words. -/
theorem vecWords_eq_zero {i : Instr} (hi : ∀ h f g rm sat d a l, i ≠ .vcvt h f g rm sat true d a l) : vecWords i = 0 := by
  unfold vecWords
  split
  · next sr _ _ _ =>
    cases sr with
    | false => rfl
    | true => exact (hi _ _ _ _ _ _ _ _ rfl).elim
  · rfl

section vecCmd
variable {h : Hdr} {i : Instr} {d a b : Reg} {n : Nat}

/-- A vector instruction queues its command where the checks of R205 name no cause. -/
theorem queuesOnSeq_of_vecCmd (e : ∀ s, exec i s = s.vecCmd i h d a b) (v : VCmd) (hn : n = vecWords i) :
    QueuesOnSeq i h (some (if v.sfu then .sfu else .vec)) .vector 8
      (fun s r => vecOf i (s.X d) (s.X a) (s.X b) 0 = some v ∧ v.early (s.team? (strandOf r)) = none
        ∧ v.late s r = none) (regs3 d a b) [] n := by
  subst hn
  rintro s r m hroom ⟨hv, hearly, hlate⟩
  have hc := cur_of_mayIssue m
  have hr : State.engineRoom r .vector 8 s = none := if_pos hroom
  simp only [e, State.vecCmd, hc, hv]
  refine (issue_eq m (by nofun) hearly rfl hr hlate rfl).trans ?_
  simp only [reserve_eq_reserved, enqueue_issued hc, lfsr_issued]
  rfl

/-- It traps where those on words and registers name one. -/
theorem trapsOnSeq_of_vecCmd (e : ∀ s, exec i s = s.vecCmd i h d a b) (v : VCmd) (c : Cause) :
    TrapsOnSeq i h (some (if v.sfu then .sfu else .vec)) c fun s r =>
      vecOf i (s.X d) (s.X a) (s.X b) 0 = some v ∧ v.early (s.team? (strandOf r)) = some c := by
  rintro s r m hf ⟨hv, hearly⟩
  simp only [e, State.vecCmd, cur_of_mayIssue m, hv]
  exact issue_trap_early m hf hearly (.inr rfl)

end vecCmd

section family
variable {h : Hdr} {f g : Fmt} {rm : RMode} {sat sr : Bool} {moff : BitVec 15} {tid : BitVec 8} {d a b : Reg}
  {v : VecLit} {u : VecLit2} {w : VecLitA} {y : VecLitD}

/-- Every instruction of the family queues by `vecCmd`, with its own registers. -/
theorem exec_vectorInstr : ∀ x ∈ vectorInstrs h f g rm sat sr moff tid d a b v u w y, ∀ s,
    exec x.1 s = s.vecCmd x.1 h x.2.1 x.2.2.1 x.2.2.2 := by
  simp only [vectorInstrs, List.forall_mem_cons]
  and_intros
  on_goal -1 => exact List.forall_mem_nil _
  all_goals exact fun _ => rfl

/-- Every one issues a command, whatever its registers hold. -/
theorem vecOf_vectorInstr : ∀ x ∈ vectorInstrs h f g rm sat sr moff tid d a b v u w y, ∀ xd xa xb l,
    (vecOf x.1 xd xa xb l).isSome = true := by
  simp only [vectorInstrs, List.forall_mem_cons]
  and_intros
  on_goal -1 => exact List.forall_mem_nil _
  all_goals exact fun _ _ _ _ => rfl

end family

/-- Settles O24: every instruction of the family queues or traps by `vecCmd`; VCVT.sr alone reserves words. -/
theorem vectorQueueResults : Obligations.VectorQueueResults := by
  rintro h f g rm sat sr moff tid d a b v u w y x hx _ rfl
  have e := exec_vectorInstr x hx
  refine ⟨fun k => queuesOnSeq_of_vecCmd e k ?words, fun s => vecOf_vectorInstr x hx _ _ _ _,
    fun k c => trapsOnSeq_of_vecCmd e k c⟩
  split
  · next hi =>
    rw [hi]
    rfl
  · next hi => exact (vecWords_eq_zero hi).symm

end Sys2Proof.Machine
end

section
/-! PROOFS. The reduction slot (O26; R204, R205, R219 to R221): one rule for the three forms of VRED, and the moves of a
latch. -/

namespace Sys2Proof.Machine

/-- Issuing takes of a cluster a permit alone. -/
theorem cluster_issued (s : State) (r : SeqRef) (h : Hdr) (k : Option Permit) (die cl : Nat) :
    ∃ p, (s.issued r h k).cluster die cl = { s.cluster die cl with permits := p } := by
  have hpop : (s.popWq r h).cluster die cl = s.cluster die cl := by
    unfold State.popWq
    split <;> rfl
  have hadv (t : State) : (t.advance h).cluster die cl = t.cluster die cl := by
    unfold State.advance
    extract_lets t1
    split <;> rfl
  rw [issued_eq, hadv]
  cases k with
  | none => exact ⟨_, hpop⟩
  | some k =>
    rw [State.takePermit, cluster_modCluster]
    split
    · next e =>
      have e' : (s.popWq r h).cluster r.die r.cl = s.cluster die cl :=
        (congrArg (Tbl.get ({} : Cluster) (s.popWq r h).clusters) e).trans hpop
      rw [e']
      exact ⟨_, rfl⟩
    · exact ⟨_, hpop⟩

theorem team_issued (s : State) (r : SeqRef) (h : Hdr) (k : Option Permit) (st : StrandRef) :
    (s.issued r h k).team? st = s.team? st := by
  obtain ⟨q, f, l, e⟩ := strand_issued s r h k st
  rw [State.team?, e, issued_sched]
  rfl

/-! ### VRED (R220) -/

section vred
variable {h : Hdr} {i : Instr} {f : Fmt} {z : BitVec 2} {a : Reg} {v : VecLitA} {op : LandOp}
  {form : List ExtNum → BitVec 32}

/-- The operand of a VRED. -/
def State.redRegion (s : State) (f : Fmt) (a : Reg) (v : VecLitA) : Rgn := ⟨s.X a, v.sa.toNat, f.size⟩

/-- The values that it combines. -/
def State.redValues (s : State) (r : SeqRef) (f : Fmt) (a : Reg) (v : VecLitA) : List ExtNum :=
  ((s.redRegion f a v).read (s.team? (strandOf r)) (s.cluster r.die r.cl) (List.range v.count.toNat)).map f.decode

/-- Its checks pass, and no element is damaged. -/
def State.redSound (s : State) (r : SeqRef) (f : Fmt) (a : Reg) (v : VecLitA) : Bool :=
  decide (v.count ≠ 0) && !f.blocked
    && (regionCause (s.team? (strandOf r)) [⟨s.redRegion f a v, v.count.toNat, false⟩]).isNone
    && (List.range v.count.toNat).all fun n => (wordHit (s.cluster r.die r.cl).badSpad
      ((s.redRegion f a v).spad (s.team? (strandOf r)) + (s.redRegion f a v).off n) f.size).isNone

theorem landsOnSeq_of_vred (e : ∀ s, exec i s = s.vred i h f z a v op form) :
    LandsOnSeq i h (some .vec) (.z z) (8 + (v.count.toNat + lanesOf f - 1) / lanesOf f)
      (fun s r => s.redSound r f a v) (fun s r => zext32 (form (s.redValues r f a v))) op := by
  intro s r m hr hok
  have hc := cur_of_mayIssue m
  simp only [State.redSound, Bool.and_eq_true, decide_eq_true_eq, Bool.not_eq_true', Option.isNone_iff_eq_none,
    List.all_eq_true] at hok
  obtain ⟨⟨⟨hcount, hform⟩, hregion⟩, hwords⟩ := hok
  have hn : v.count.toNat ≠ 0 := fun hz => hcount (BitVec.eq_of_toNat_eq hz)
  refine ⟨zext32 (form (s.redValues r f a v)), 0, 0, ?_⟩
  simp only [e, State.vred, hc, vOk, hform, Bool.not_false, Bool.not_true, Bool.false_eq_true, if_false, if_neg hn]
  rw [issue_eq m (fun _ => hr) hregion rfl rfl rfl rfl]
  obtain ⟨p, hp⟩ := cluster_issued s r h (some .vec) r.die r.cl
  simp only [team_issued, hp]
  have hfind := List.findSome?_eq_none_iff.mpr hwords
  simp only [State.redRegion] at hfind
  rw [hfind]
  exact launchOp_seq hc ..

theorem doesOnSeq_of_vred (e : ∀ s, exec i s = s.vred i h f z a v op form) :
    DoesOnSeq i h (some .vec) (fun _ _ => v.count = 0 ∧ f.blocked = false) fun _ _ u => u := by
  rintro s r m ⟨hcount, hform⟩
  have hc := cur_of_mayIssue m
  have hn : v.count.toNat = 0 := congrArg BitVec.toNat hcount
  simp only [e, State.vred, hc, hn, vOk, hform, ↓reduceIte]
  rw [issue_eq m (by nofun) rfl rfl rfl rfl rfl]
  exact congrArg Host.Outcome.next (finish_issued (k := some .vec) hc (cur_issued hc) rfl)

/-- A blocked format traps, of an empty operand as well (R201, R204). -/
theorem trapsOnSeq_of_vred (e : ∀ s, exec i s = s.vred i h f z a v op form) :
    TrapsOnSeq i h (some .vec) .formatIllegal fun _ _ => f.blocked = true := by
  intro s r m hr hform
  simp only [e, State.vred, cur_of_mayIssue m]
  exact issue_trap_early m hr (if_pos (by simp [vOk, hform])) (.inr rfl)

end vred

/-! ### ZGET, ZSET and ZCLR (R221) -/

/-- The latch of a sequencer is its cluster's. -/
theorem latch_of_seq {s : State} {r : SeqRef} (hc : s.cur = .seq r) (z : BitVec 2) :
    s.latch z = Tbl.get 0 (s.cluster r.die r.cl).z z.toNat := by
  rw [State.latch, hc]

/-- Settles O26: the three forms of VRED by their one rule, then the moves of a latch. -/
theorem latchResults : Obligations.LatchResults := by
  intro h f rm z d a v
  refine ⟨?vred, ?zget, ?zset, ?zclr⟩
  case vred =>
    have hvred {i : Instr} {op : LandOp} {form : List ExtNum → BitVec 32}
        (e : ∀ s, exec i s = s.vred i h f z a v op form) :=
      And.intro (landsOnSeq_of_vred e) (And.intro (doesOnSeq_of_vred e) (trapsOnSeq_of_vred e))
    simp only [List.forall_mem_cons]
    exact ⟨hvred fun _ => rfl, hvred fun _ => rfl, hvred fun _ => rfl, List.forall_mem_nil _⟩
  case zget =>
    intro s r m hr hok
    simp only [← latch_of_seq (cur_of_mayIssue m)]
    exact (lands_of (fun s => zext32 (s.latch z)) 0 0 fun _ => rfl).1 s r m hr hok
  case zset => exact (lands_of (fun s => s.X a) 0 0 fun _ => rfl).1
  case zclr => exact (lands_of 0 0 0 fun _ => rfl).1

end Sys2Proof.Machine
end

section
/-! PROOFS. Atomics (O29; R103, R171, R243, R244): what an AAT comes to as it issues, then what it does when it is performed. -/

namespace Sys2Proof.Machine

/-! ### Issue -/

/-- The place of an atomic's word, as it is kept while the atomic holds its sequencer. -/
def AccRef.place : AccRef → Nat
  | .acc w => w
  | .stg die w => die * 2 ^ 32 + w

section issue
variable {s : State} {r : SeqRef} {h : Hdr} {i : Instr} {k : Atomic} {a b : Reg}

/-- An atomic whose word its address names holds its sequencer. -/
theorem atomicCmd_holds (m : s.mayIssue r i h none = true) (hk : atomicOf i = some k) {ref : AccRef}
    (hat : s.atomicAt r k (s.X a) = .ok ref) : s.atomicCmd i h a b = .next ((s.issued r h none).heldBy (.seq r) .held
      (s.heldOf (.seq r) i (BitVec.ofNat 64 ref.place) (s.X b) none)) := by
  have hc := cur_of_mayIssue m
  simp only [State.atomicCmd, hc, hk, hat]
  refine (issue_eq m (by nofun) rfl rfl rfl rfl rfl).trans ?_
  rw [heldCmd_issued hc, modMe_of_seq (cur_issued hc)]
  cases ref <;> rfl

/-- One whose address raises a cause traps. -/
theorem atomicCmd_traps (m : s.mayIssue r i h none = true) (hroom : s.roomInFlight r = true) (hk : atomicOf i = some k)
    {c : Cause} (hat : s.atomicAt r k (s.X a) = .error c) (hc : c ≠ .xlateMiss) :
    s.atomicCmd i h a b = .next (s.raise r c .i (s.seq r).pc 0 0) := by
  simp only [State.atomicCmd, cur_of_mayIssue m, hk, hat]
  exact issue_trap_early m hroom rfl (.inl hc)

/-- R243: an accumulator has 131,072 words. -/
theorem atomicAt_beyond {xa : Word} (hstg : k.stg = false) (hxa : 131072 ≤ xa.toNat) :
    s.atomicAt r k xa = .error .addrRange := by
  rw [State.atomicAt, if_neg (ne_true_of_eq_false hstg)]
  exact if_pos hxa

section family
variable {stg : Bool} {rm : RMode} {d : Reg}

/-- Every atomic issues by `atomicCmd`. -/
theorem exec_atomicInstr : ∀ i ∈ [Instr.aadd h stg a b, .aaddf h stg rm a b, .awr h stg a b, .aaddx h stg d a b,
    .aaddfx h stg rm d a b, .awrx h stg d a b], ∀ s, exec i s = s.atomicCmd i h a b := by
  simp only [List.forall_mem_cons]
  and_intros
  on_goal -1 => exact List.forall_mem_nil _
  all_goals exact fun _ => rfl

/-- Its STG bit says where its word is. -/
theorem stg_atomicInstr : ∀ i ∈ [Instr.aadd h stg a b, .aaddf h stg rm a b, .awr h stg a b, .aaddx h stg d a b,
    .aaddfx h stg rm d a b, .awrx h stg d a b], (atomicOf i).map Atomic.stg = some stg := by
  simp only [List.forall_mem_cons]
  and_intros
  on_goal -1 => exact List.forall_mem_nil _
  all_goals rfl

end family

end issue

/-! ### The atomic performed -/

/-- Word `n` from the place of an atomic on. -/
def State.atomicWord (s : State) (r : SeqRef) (k : Atomic) (pos n : Nat) : BitVec 32 :=
  if k.stg then Tbl.get 0 (s.die (pos / 2 ^ 32)).stg (pos % 2 ^ 32 + n) else (s.cluster r.die r.cl).accWord (pos + n)

theorem atomicWord_pair (s : State) (r : SeqRef) (k : Atomic) (pos : Nat) :
    (s.atomicWord r k pos 0, s.atomicWord r k pos 1) =
      if k.stg then (Tbl.get 0 (s.die (pos / 2 ^ 32)).stg (pos % 2 ^ 32), Tbl.get 0 (s.die (pos / 2 ^ 32)).stg (pos % 2 ^ 32 + 1))
      else ((s.cluster r.die r.cl).accWord pos, (s.cluster r.die r.cl).accWord (pos + 1)) := by
  unfold State.atomicWord
  split <;> rfl

theorem asSeq_congr {s : State} {r : SeqRef} {f g : State → State} (hfg : ∀ t, t.cur = .seq r → f t = g t) :
    s.asSeq r f = s.asSeq r g := by
  rw [State.asSeq, State.asSeq, hfg _ rfl]

section performed
variable {s : State} {r : SeqRef} {c : Cmd} {k : Atomic} {lo hi : BitVec 32}

/-- The words that replace the old ones. -/
theorem Atomic.eval_fst (k : Atomic) (lo hi : BitVec 32) (xb : Word) : (k.eval lo hi xb).1 =
    if k.pair then [(hi ++ lo + xb).setWidth 32, (hi ++ lo + xb).extractLsb' 32 32]
    else if k.put then [low32 xb] else [accAdd lo (fpOf xb) k.rm] := by
  unfold Atomic.eval
  split
  · rfl
  · split <;> rfl

/-- The value of the X form. -/
theorem Atomic.eval_snd (k : Atomic) (lo hi : BitVec 32) (xb : Word) :
    (k.eval lo hi xb).2 = if k.pair then hi ++ lo else zext32 lo := by
  unfold Atomic.eval
  split <;> rfl

variable (hheld : (s.seq r).held = some c) (hk : atomicOf c.ins = some k)
include hheld hk

/-- R243: an X form that meets a poisoned word is taken back and traps at its instruction. -/
theorem exec_aatPerformed_poisoned (hret : k.ret = true) (hstg : k.stg = false)
    (hp : (s.cluster r.die r.cl).anyPoison c.xa.toNat (if k.pair then 2 else 1) = true) :
    exec (.aatPerformed (.seq r)) s = .next ((s.recall r c).raise r .accPoison .i c.addr 0 0) := by
  show execAatPerformed (.seq r) s = _
  simp only [execAatPerformed, hheld, hk, hret, hstg, hp, Bool.not_false, Bool.and_self, ↓reduceIte]

/-- R243, R244: any other writes its words and ends. -/
theorem exec_aatPerformed_sound (hlo : s.atomicWord r k c.xa.toNat 0 = lo) (hhi : s.atomicWord r k c.xa.toNat 1 = hi)
    (hp : k.ret = true → k.stg = false →
      (s.cluster r.die r.cl).anyPoison c.xa.toNat (if k.pair then 2 else 1) = false)
    (hsoft : s.atomicSoft r k c.xa.toNat = none) : exec (.aatPerformed (.seq r)) s = .next
      (((s.putWords r k c.xa.toNat (k.eval lo hi c.xb).1).modSeq r fun q => { q with wait := none, held := none }).asSeq r
        fun t => (if k.ret then (if (hdrOf c.ins).pq = none then t.acquires r else t).putOn r k.d (k.eval lo hi c.xb).2 c.no
          else t).pushPost r (hdrOf c.ins).pq c.addr) := by
  have hpoison : ¬ (k.ret && !k.stg && (s.cluster r.die r.cl).anyPoison c.xa.toNat (if k.pair then 2 else 1)) = true := by
    simpa only [Bool.and_eq_true, Bool.not_eq_true', not_and, Bool.not_eq_true, and_imp] using hp
  rw [State.atomicWord] at hlo hhi
  show execAatPerformed (.seq r) s = _
  simp only [execAatPerformed, hheld, hk, hlo, hhi, hpoison, hsoft, Bool.false_eq_true, ↓reduceIte]
  refine congrArg Host.Outcome.next (asSeq_congr fun t ht => ?_)
  split
  · by_cases hpq : (hdrOf c.ins).pq = none
    · simp only [hpq, Option.isNone_none, ↓reduceIte, acquire_of_seq ht]
      rw [endHold_seq (r := r) (by exact ht), hpq]
    · simp only [hpq, Option.isNone_iff_eq_none, ↓reduceIte]
      exact endHold_seq ht _ _
  · exact finishAt_of_seq ht _

end performed

/-- Settles O29: an AAT issues by `atomicCmd`; performed, it traps at a poisoned word or writes its words and ends. -/
theorem atomicResults : Obligations.AtomicResults := by
  refine ⟨?issue, ?performed⟩
  case issue =>
    intro h stg rm d a b k p i hi hk
    have hexec := exec_atomicInstr i hi
    have hstg : k.stg = stg := Option.some.inj ((congrArg (Option.map Atomic.stg) hk).symm.trans (stg_atomicInstr i hi))
    refine ⟨fun s r m hat => ?_, fun s r m hroom hbeyond => ?_, fun c hc s r m hroom hat => ?_⟩
    · rw [hexec]
      rcases hat with hat | ⟨die, w, hat, rfl⟩
      · exact atomicCmd_holds m hk hat
      · exact atomicCmd_holds m hk hat
    · rw [hexec]
      exact atomicCmd_traps m hroom hk (atomicAt_beyond (hstg.trans hbeyond.1) hbeyond.2) nofun
    · rw [hexec]
      exact atomicCmd_traps m hroom hk hat hc
  case performed =>
    rintro s r c k lo hi ws hheld hk hw
    obtain ⟨rfl, rfl⟩ := Prod.mk.inj (hw.trans (atomicWord_pair ..).symm)
    refine ⟨exec_aatPerformed_poisoned hheld hk, ?_⟩
    rintro hp hsoft rfl
    rw [← Atomic.eval_fst, ← Atomic.eval_snd]
    exact exec_aatPerformed_sound hheld hk rfl rfl hp hsoft

end Sys2Proof.Machine
end

section
/-! PROOFS. Matrix and attention instructions as they issue (O27; R227, R229, R234 to R236, R238 to R241): one rule for what a
matrix queue takes, one for MMA with MMAK and one for the attention pipe, then each instruction. -/

namespace Sys2Proof.Machine

/-! ### What a matrix queue takes -/

section queueing
variable {s : State} {r : SeqRef} {h : Hdr} {i : Instr} {p : Plan} {act : State → Res} {xd xa xb : Word}
  {tids : List (BitVec 512)} {n : Nat}

/-- An instruction whose checks pass and whose effect is to queue a command, with its LFSR words, has queued it (R35, R225). -/
theorem issue_queues (m : s.mayIssue r i h p.permit = true) (hroom : ((s.seq r).queue .matrix).length < 8)
    (hr : p.room = State.engineRoom r .matrix 8) (he : p.early s = none) (hl : p.late s = none) (hf : p.fixed = false)
    (ht : p.tokens = none) (hd : p.defer = false) (hact : act (s.issued r h p.permit)
      = .next (((s.issued r h p.permit).reserved r n).enqueue r .matrix i h xd xa xb tids
          (if n = 0 then 0 else (s.cluster r.die r.cl).lfsr))) :
    s.issue i h p act = .next (((s.issued r h p.permit).reserved r n).queued r .matrix
      { ins := i, seqNo := s.nextCmd, addr := (s.seq r).pc, xd := xd, xa := xa, xb := xb, tids := tids,
        lfsr := if n = 0 then 0 else (s.cluster r.die r.cl).lfsr, fid := (s.strand (strandOf r)).fid,
        since := ((s.issued r h p.permit).seq r).fresh, no := (s.seq r).no + 1 }) := by
  have hwait : p.room s = none := by
    rw [hr]
    exact if_pos hroom
  rw [issue_eq m (fun hx => absurd hx (ne_true_of_eq_false hf)) he ht hwait hl hd, hact,
    enqueue_issued (cur_of_mayIssue m)]

end queueing

/-! ### MMA and MMAK (R227, R229) -/

section mm
variable {h : Hdr} {i : Instr} {mm : MmCmd} {tA tB : BitVec 8} {d a b : Reg} {ts : List (BitVec 512)}

/-- The checks on registers and memory that a command passes with the entries `ts`; one of no rows is not checked (R229). -/
def State.mmPasses (s : State) (r : SeqRef) (mm : MmCmd) (tA tB : BitVec 8) (tag : BitVec 32) (xa xb : Word)
    (ts : List (BitVec 512)) : Prop :=
  (mmRows xb = 0 ∧ ts = [])
    ∨ (mmRows xb ≠ 0 ∧ mm.mac0 + mm.kt * mm.nt ≤ 64 ∧ s.mmCheck r mm tA tB tag xa xb = .ok ts)

/-- R227: the header by which a command issues, for an MMAK does not pop its WQ then. -/
def MmCmd.issueHdr (mm : MmCmd) (h : Hdr) : Hdr := if mm.keyed then { h with wq := none } else h

theorem queuesOnSeq_of_mmCmd (e : ∀ s, exec i s = s.mmCmd i h mm tA tB d a b) :
    QueuesOnSeq i (mm.issueHdr h) (some .mat) .matrix 8
      (fun s r => (mm.keyed = true → h.wq.all (fun q => s.isConsumer r q) = true)
        ∧ s.mmPasses r mm tA tB (low32 (s.X d)) (s.X a) (s.X b) ts) (regs3 d a b) ts 0 := by
  rintro s r m hroom ⟨hbound, hpass⟩
  have hwq : (mm.keyed && h.wq.any fun q => !s.isConsumer r q) = false := by
    cases hkey : mm.keyed with
    | false => rfl
    | true =>
      have hall := hbound hkey
      cases hq : h.wq with
      | none => rfl
      | some q => simpa [hq] using hall
  have hmacs : (!(mmRows (s.X b) == 0) && decide (64 < mm.mac0 + mm.kt * mm.nt)) = false := by
    rcases hpass with ⟨hrows, -⟩ | ⟨-, hmac, -⟩
    · simp [hrows]
    · simp [Nat.not_lt.mpr hmac]
  have htids : (if mmRows (s.X b) == 0 then .ok [] else s.mmCheck r mm tA tB (low32 (s.X d)) (s.X a) (s.X b))
      = (.ok ts : Except Cause _) := by
    rcases hpass with ⟨hrows, rfl⟩ | ⟨hrows, -, hcheck⟩
    · exact if_pos (beq_iff_eq.mpr hrows)
    · exact (if_neg fun hz => hrows (beq_iff_eq.mp hz)).trans hcheck
  have hpc (t : State) : t.issuePc h = t.issuePc (mm.issueHdr h) := by
    unfold MmCmd.issueHdr
    split <;> rfl
  simp only [e, State.mmCmd, cur_of_mayIssue m, hwq, hmacs, htids, State.enqueue, hpc]
  exact issue_queues (n := 0) m hroom rfl rfl rfl rfl rfl rfl rfl

/-- R229: a command that reaches beyond the 64 tile arrays. -/
theorem trapsOnSeq_of_mmCmd (e : ∀ s, exec i s = s.mmCmd i h mm tA tB d a b) :
    TrapsOnSeq i (mm.issueHdr h) (some .mat) .operandReserved
      fun s _ => mmRows (s.X b) ≠ 0 ∧ 64 < mm.mac0 + mm.kt * mm.nt := by
  rintro s r m hroom ⟨hrows, hmac⟩
  have hmacs : (!(mmRows (s.X b) == 0) && decide (64 < mm.mac0 + mm.kt * mm.nt)) = true := by
    simp [hrows, hmac]
  simp only [e, State.mmCmd, cur_of_mayIssue m, hmacs, Bool.or_true, ↓reduceIte]
  exact issue_trap_early m hroom rfl (.inl nofun)

end mm

/-! ### ACLR and ADRN (R234 to R236) -/

section drain
variable {h : Hdr} {d a b : Reg}

theorem aclr_queuesOnSeq : QueuesOnSeq (.aclr h a b) h none .matrix 8
    (fun s _ => field (s.X a) 0 17 + field (s.X b) 0 18 ≤ 131072) (fun s => (0, s.X a, s.X b)) [] 0 := by
  intro s r m hroom hfit
  have hbeyond : decide (accWords < field (s.X a) 0 17 + field (s.X b) 0 18) = false :=
    decide_eq_false (Nat.not_lt.mpr hfit)
  show execAclr h a b s = _
  simp only [execAclr, cur_of_mayIssue m, hbeyond]
  exact issue_queues (n := 0) m hroom rfl rfl rfl rfl rfl rfl rfl

theorem aclr_trapsOnSeq : TrapsOnSeq (.aclr h a b) h none .addrRange
    fun s _ => 131072 < field (s.X a) 0 17 + field (s.X b) 0 18 := by
  intro s r m hroom hbeyond
  show execAclr h a b s = _
  simp only [execAclr, cur_of_mayIssue m]
  exact issue_trap_early m hroom (if_pos (decide_eq_true hbeyond)) (.inl nofun)

/-- A drain that rounds stochastically reserves a word for each element. -/
theorem adrn_queuesOnSeq {sr sat clr tr : Bool} {rm : RMode} {tn : BitVec 8} {lda : BitVec 17} {e : BitVec 512} {n : Nat} :
    QueuesOnSeq (.adrn h sr sat rm clr tr tn d a b lda) h none .matrix 8
      (fun s r => s.useTid r tn.toNat = .ok e
        ∧ (drainOf e (s.X d) (s.X a) (s.X b) tr lda).check (s.team? (strandOf r)) = none
        ∧ n = (if sr then field (s.X b) 0 16 * field (s.X b) 16 16 else 0)) (regs3 d a b) [e] n := by
  rintro s r m hroom ⟨htid, hcheck, rfl⟩
  show execAdrn h sr sat rm clr tr tn d a b lda s = _
  simp only [execAdrn, cur_of_mayIssue m, htid, reserve_eq_reserved]
  refine issue_queues m hroom rfl rfl hcheck rfl rfl rfl ?_
  rw [lfsr_issued]
  rfl

end drain

/-! ### The attention pipe (R238 to R241) -/

section attention
variable {h : Hdr} {i : Instr} {d a b : Reg} {ts : List (BitVec 512)} {early : State → Option Cause}
  {tids : State → SeqRef → Except Cause (List (BitVec 512))}

theorem queuesOnSeq_of_atnCmd (e : ∀ s, exec i s = s.atnCmd i h d a b (early s) (tids s)) :
    QueuesOnSeq i h (some .mat) .matrix 8 (fun s r => early s = none ∧ tids s r = .ok ts) (regs3 d a b) ts 0 := by
  rintro s r m hroom ⟨hearly, htids⟩
  simp only [e, State.atnCmd, cur_of_mayIssue m, htids]
  exact issue_queues (n := 0) m hroom rfl hearly rfl rfl rfl rfl rfl

end attention

/-- Settles O27: MMA and MMAK by their one rule, ACLR and ADRN by their own, the three of the attention pipe by theirs. -/
theorem matrixQueueResults : Obligations.MatrixQueueResults := by
  intro h a b d tA tB ts lst zr rm ml off m e
  refine ⟨?mma, ?mmak, aclr_queuesOnSeq, aclr_trapsOnSeq, fun _ _ _ _ _ _ _ => adrn_queuesOnSeq, ?atq, ?ats, fun u => ?atf⟩
  case mma =>
    intro hm
    have hexec (s : State) : exec (.mma h lst zr rm tA tB a b ml) s = s.mmCmd (.mma h lst zr rm tA tB a b ml) h m tA tB 0 a b := by
      show execMma h lst zr rm tA tB a b ml s = _
      rw [execMma, hm]
      rfl
    obtain rfl := Option.some.inj hm
    exact ⟨fun s r hi hroom hpass => queuesOnSeq_of_mmCmd hexec s r hi hroom ⟨nofun, hpass⟩, trapsOnSeq_of_mmCmd hexec⟩
  case mmak =>
    intro hm
    have hexec (s : State) : exec (.mmak h lst zr rm tA tB d a b ml off) s
        = s.mmCmd (.mmak h lst zr rm tA tB d a b ml off) h m tA tB d a b := by
      show execMmak h lst zr rm tA tB d a b ml off s = _
      rw [execMmak, hm]
      rfl
    obtain rfl := Option.some.inj hm
    exact fun s r hi hroom hok => queuesOnSeq_of_mmCmd hexec s r hi hroom ⟨fun _ => hok.1, hok.2⟩
  case atq => exact fun s r hi hroom hok => queuesOnSeq_of_atnCmd (fun _ => rfl) s r hi hroom ⟨rfl, hok⟩
  case ats => exact fun s r hi hroom hok => queuesOnSeq_of_atnCmd (fun _ => rfl) s r hi hroom ⟨rfl, hok⟩
  case atf =>
    rintro s r hi hroom ⟨ho, hm⟩
    refine queuesOnSeq_of_atnCmd (fun _ => rfl) s r hi hroom ⟨if_neg ?_, rfl⟩
    simp [atfO, ho, hm]

end Sys2Proof.Machine
end

section
/-! PROOFS. Events of the matrix engine (O28; R222, R223, R225, R230 to R232, R249, R250, R253): the units of MMA and MMAK by the
branches of MMA_UNIT, then the start of an MMAK and the end of a rail switch. -/

namespace Sys2Proof.Machine

/-! ### The head of a matrix queue -/

section head
variable {s : State} {r : SeqRef} {c : Cmd} {rest : List Cmd} {m : MmCmd}

theorem mmHead_of_queue (hq : (s.seq r).matQ = c :: rest) (hm : mmOf c.ins = some m) : s.mmHead r = some (c, m) := by
  simp only [State.mmHead, hq, hm, Option.map_some]

theorem runs_of_running (hs : (s.strand (strandOf r)).stop = .running) : s.runs r = true := by
  rw [State.runs, hs]
  rfl

theorem matQ_setHead (s : State) (r : SeqRef) (k : Cmd) :
    ((s.setHead r .matrix k).seq r).matQ = k :: (s.seq r).matQ.drop 1 := by
  rw [State.setHead, seq_modSeq_self]
  rfl

theorem mmHead_setHead (s : State) (r : SeqRef) (k : Cmd) :
    (s.setHead r .matrix k).mmHead r = (mmOf k.ins).map fun n => (k, n) := by
  rw [State.mmHead, matQ_setHead]

/-- A trap of a unit makes its strand begin to stop (R326). -/
theorem runs_unitTrap (hs : (s.strand (strandOf r)).stop = .running) (k : Cause) (w : Word) :
    (s.unitTrap r c k w).runs r = false := by
  have hraise (pt : Point) (a : BitVec 48) (x : Nat) : (s.raise r k pt a x w).runs r = false := by
    simp only [State.raise, hs, State.runs, strand_modStrand, ↓reduceIte]
    rfl
  unfold State.unitTrap
  split <;> exact hraise ..

end head

/-! ### What a unit waits for -/

section ready
variable {c : Cmd} {m : MmCmd} {cl : Cluster}

/-- R223: whether a resumed command finds other tiles in its slots than it had read. -/
theorem tilesGone_iff : c.tilesGone m cl = true ↔ c.recheck = true ∧ c.tiles ≠ [] ∧ c.tiles ≠ tileKeys m cl := by
  simp only [Cmd.tilesGone, Bool.and_eq_true, Bool.not_eq_true', List.isEmpty_eq_false_iff, bne_iff_ne, and_assoc]

/-- R223: the tiles that a command's first reading of its slots records. -/
theorem noteTiles_eq : c.noteTiles m cl = if c.tiles = [] ∧ (m.keys.all fun k => (cl.tile k).v) = true then
    { c with tiles := tileKeys m cl } else c := by
  simp only [Cmd.noteTiles, Bool.and_eq_true, List.isEmpty_iff]

@[simp] theorem noteTiles_pix (c : Cmd) (m : MmCmd) (cl : Cluster) : (c.noteTiles m cl).pix = c.pix := by
  unfold Cmd.noteTiles
  split <;> rfl

@[simp] theorem noteTiles_seqNo (c : Cmd) (m : MmCmd) (cl : Cluster) : (c.noteTiles m cl).seqNo = c.seqNo := by
  unfold Cmd.noteTiles
  split <;> rfl

/-- A command has a unit left that waits for nothing but its rails: its tiles are those that it has read, and an MMAK has begun and
its tiles have landed (R223, R232). -/
def Cmd.mmReady (c : Cmd) (m : MmCmd) (cl : Cluster) : Prop :=
  c.pix < mmRows c.xb ∧ c.tilesGone m cl = false ∧ (m.keyed = true → c.begun = true) ∧ c.awaitsTiles m cl = false

theorem awaitsTiles_eq_false : c.awaitsTiles m cl = false ↔
    (m.keyed = true → m.landed cl (low32 c.xd) (c.target.getD 0) = true) := by
  simp only [Cmd.awaitsTiles, Bool.and_eq_false_imp, Bool.not_eq_false']

theorem notBegun_eq_false : (m.keyed && !c.begun) = false ↔ (m.keyed = true → c.begun = true) := by
  simp only [Bool.and_eq_false_imp, Bool.not_eq_false']

/-- R253: whether the engine waits for the unit of another slot, for which it has moved its rails. -/
def State.railsTaken (s : State) (r : SeqRef) : Bool :=
  (s.cluster r.die r.cl).railFor.any fun w => w.1 != r.slot && s.railUnit ⟨r.die, r.cl, w.1, .C⟩

theorem railsTaken_iff {s : State} {r : SeqRef} : s.railsTaken r = true ↔ ∃ w, (s.cluster r.die r.cl).railFor = some w
    ∧ w.1 ≠ r.slot ∧ s.railUnit ⟨r.die, r.cl, w.1, .C⟩ = true := by
  simp only [State.railsTaken, Option.any_eq_true, Bool.and_eq_true, bne_iff_ne]

end ready

/-! ### MMA_UNIT by its branches -/

/-- A command completes behind its last row, an MMAK with its status. -/
def State.mmDone (s : State) (r : SeqRef) (m : MmCmd) (c : Cmd) : State :=
  if m.keyed then s.mmakEnd r c m 0 none else s.completeCmd r .matrix c

/-- Behind a unit of `c` the command completes, if it still stands at the head, its team runs and no row is left. -/
def State.mmAfter (s : State) (r : SeqRef) (m : MmCmd) (c : Cmd) : Res :=
  match s.mmHead r with
  | some (k, _) => if s.runs r && k.seqNo == c.seqNo && decide (mmRows c.xb ≤ k.pix) then .next (s.mmDone r m k) else .next s
  | none => .next s

/-- The state in which a unit of `c` is performed at FID `f`: its tiles are noted, the rails are its own. -/
def State.mmRailed (s : State) (r : SeqRef) (m : MmCmd) (c : Cmd) (f : BitVec 2) : State :=
  (s.setHead r .matrix (c.noteTiles m (s.cluster r.die r.cl))).modCluster r.die r.cl
    fun k => { k with lastFid := f, railFor := none }

section mmaUnit
variable {s : State} {r : SeqRef} {c : Cmd} {rest : List Cmd} {m : MmCmd}
variable (hs : (s.strand (strandOf r)).stop = .running) (hq : (s.seq r).matQ = c :: rest) (hm : mmOf c.ins = some m)
include hs hq hm

/-- A command without rows left completes. -/
theorem exec_mmaUnit_done (hpix : mmRows c.xb ≤ c.pix) : exec (.mmaUnit (.seq r)) s = .next (s.mmDone r m c) := by
  show execMmaUnit (.seq r) s = _
  simp only [execMmaUnit, mmHead_of_queue hq hm, runs_of_running hs, hpix, Bool.not_true, Bool.false_eq_true, ↓reduceIte]
  rfl

/-- R223: one whose tiles have gone traps. -/
theorem exec_mmaUnit_gone (hpix : c.pix < mmRows c.xb) (hbegun : m.keyed = true → c.begun = true)
    (hgone : c.tilesGone m (s.cluster r.die r.cl) = true) :
    exec (.mmaUnit (.seq r)) s = .next (s.unitTrap r c .landSlot 0) := by
  show execMmaUnit (.seq r) s = _
  simp only [execMmaUnit, mmHead_of_queue hq hm, runs_of_running hs, Nat.not_le.mpr hpix, notBegun_eq_false.mpr hbegun, hgone,
    Bool.not_true, Bool.false_eq_true, ↓reduceIte]

/-- R232: an MMAK whose tiles have not landed traps where no slot holds them any more. -/
theorem exec_mmaUnit_unlanded (hpix : c.pix < mmRows c.xb) (hbegun : m.keyed = true → c.begun = true)
    (hgone : c.tilesGone m (s.cluster r.die r.cl) = false) (hawaits : c.awaitsTiles m (s.cluster r.die r.cl) = true)
    (hslot : s.chain.slotOf (low32 c.xd) (c.target.getD 0) = none) :
    exec (.mmaUnit (.seq r)) s = .next (s.unitTrap r c .landSlot 0) := by
  show execMmaUnit (.seq r) s = _
  simp only [execMmaUnit, mmHead_of_queue hq hm, runs_of_running hs, Nat.not_le.mpr hpix, notBegun_eq_false.mpr hbegun, hgone,
    hawaits, hslot, Option.isSome_none, Bool.not_true, Bool.false_eq_true, ↓reduceIte]

/-- R225, R249, R253: a unit that waits for nothing but its rails waits for them, moves them, or is performed on them. -/
theorem exec_mmaUnit_ready {f : BitVec 2} (hf : f = if (s.cluster r.die r.cl).raised then 0 else c.fid)
    (hready : c.mmReady m (s.cluster r.die r.cl)) : exec (.mmaUnit (.seq r)) s =
    if (s.cluster r.die r.cl).switching ≠ 0 ∨ s.railsTaken r = true then .next s
    else if (s.cluster r.die r.cl).lastFid ≠ f ∧ (s.cluster r.die r.cl).railFor ≠ some (r.slot, f) then
      .next (s.modCluster r.die r.cl fun k => { k with switching := 13, railFor := some (r.slot, f) })
    else ((s.mmRailed r m c f).doUnit r .matrix (fun _ => mmRows c.xb + 1) (fun _ => 1)
      (mmUnit m f.toNat (s.island (islandOf r.die r.cl)).parked)).mmAfter r m c := by
  subst hf
  obtain ⟨hpix, hgone, hbegun, hawaits⟩ := hready
  show execMmaUnit (.seq r) s = _
  simp only [execMmaUnit, mmHead_of_queue hq hm, runs_of_running hs, Nat.not_le.mpr hpix, notBegun_eq_false.mpr hbegun, hgone,
    hawaits, Bool.not_true, Bool.false_eq_true, ↓reduceIte]
  refine if_congr ?_ rfl (if_congr Iff.rfl rfl rfl)
  rw [Bool.or_eq_true, bne_iff_ne]
  rfl

end mmaUnit

/-! ### A unit performed (R143, R230) -/

/-- Behind a unit that has trapped nothing follows. -/
theorem mmAfter_of_stopped {s : State} {r : SeqRef} (hs : s.runs r = false) (m : MmCmd) (c : Cmd) :
    s.mmAfter r m c = .next s := by
  unfold State.mmAfter
  simp only [hs, Bool.false_and, Bool.false_eq_true, ↓reduceIte]
  split <;> rfl

/-- Behind a unit that is not the last the command stays. -/
theorem mmAfter_of_more (s : State) (r : SeqRef) (m : MmCmd) {c k : Cmd} (hpix : k.pix < mmRows c.xb) :
    (s.setHead r .matrix k).mmAfter r m c = .next (s.setHead r .matrix k) := by
  unfold State.mmAfter
  rw [mmHead_setHead]
  cases mmOf k.ins with
  | none => rfl
  | some n => simp only [Option.map_some, Nat.not_le.mpr hpix, decide_false, Bool.and_false, Bool.false_eq_true, ↓reduceIte]

/-- Behind its last unit it completes. -/
theorem mmAfter_of_last {s : State} {r : SeqRef} {m : MmCmd} {c k : Cmd} (hpix : mmRows c.xb ≤ k.pix)
    (hs : (s.setHead r .matrix k).runs r = true) (hno : k.seqNo = c.seqNo) (hk : (mmOf k.ins).isSome = true) :
    (s.setHead r .matrix k).mmAfter r m c = .next ((s.setHead r .matrix k).mmDone r m k) := by
  obtain ⟨n, hn⟩ := Option.isSome_iff_exists.mp hk
  unfold State.mmAfter
  rw [mmHead_setHead, hn]
  simp only [Option.map_some, hs, hno, hpix, beq_self_eq_true, decide_true, Bool.and_self, ↓reduceIte]

section performed
variable {s : State} {r : SeqRef} {c : Cmd} {rest : List Cmd} {m : MmCmd} {f : BitVec 2} {body : EM Bool}

theorem queue_mmRailed (hq : (s.seq r).matQ = c :: rest) :
    ((s.mmRailed r m c f).seq r).queue .matrix = c.noteTiles m (s.cluster r.die r.cl) :: rest := by
  refine (matQ_setHead s r _).trans ?_
  rw [hq]
  rfl

/-- The body of the unit runs in the state in which the rails are its command's. -/
theorem doUnit_mmRailed (hs : (s.strand (strandOf r)).stop = .running) (hq : (s.seq r).matQ = c :: rest)
    (hpix : c.pix < mmRows c.xb) :
    (s.mmRailed r m c f).doUnit r .matrix (fun _ => mmRows c.xb + 1) (fun _ => 1) body
    = (s.mmRailed r m c f).unitDone r .matrix (c.noteTiles m (s.cluster r.die r.cl)) (fun _ => mmRows c.xb + 1) 1
      (body.run ⟨s.mmRailed r m c f, r, c.noteTiles m (s.cluster r.die r.cl)⟩) := by
  rw [doUnit_eq (e := .matrix) (by exact hs) (queue_mmRailed hq), noteTiles_pix, if_neg (by omega)]

/-- A unit that traps leaves its trap alone. -/
theorem mmAfter_doUnit_error (hs : (s.strand (strandOf r)).stop = .running) (hq : (s.seq r).matQ = c :: rest)
    (hpix : c.pix < mmRows c.xb) {cause : Cause} {detail : Word}
    (hbody : body.run ⟨s.mmRailed r m c f, r, c.noteTiles m (s.cluster r.die r.cl)⟩ = .error (cause, detail)) :
    ((s.mmRailed r m c f).doUnit r .matrix (fun _ => mmRows c.xb + 1) (fun _ => 1) body).mmAfter r m c
    = .next ((s.mmRailed r m c f).unitTrap r (c.noteTiles m (s.cluster r.die r.cl)) cause detail) := by
  rw [doUnit_mmRailed hs hq hpix, hbody]
  exact mmAfter_of_stopped (runs_unitTrap (by exact hs) ..) m c

/-- One that does not is committed: one row more of its command is done. -/
theorem doUnit_mmRailed_ok (hs : (s.strand (strandOf r)).stop = .running) (hq : (s.seq r).matQ = c :: rest)
    (hpix : c.pix < mmRows c.xb) {g : Eng}
    (hbody : body.run ⟨s.mmRailed r m c f, r, c.noteTiles m (s.cluster r.die r.cl)⟩ = .ok (false, g)) :
    (s.mmRailed r m c f).doUnit r .matrix (fun _ => mmRows c.xb + 1) (fun _ => 1) body
    = g.s.setHead r .matrix { g.c with pix := c.pix + 1 } := by
  rw [doUnit_mmRailed hs hq hpix, hbody]
  simp only [State.unitDone, Bool.false_eq_true, false_and, ↓reduceIte, noteTiles_pix]
  exact if_neg (by omega)

end performed

/-! ### The start of an MMAK (R232) -/

section start
variable {s : State} {r : SeqRef} {c : Cmd} {rest : List Cmd} {m : MmCmd}
variable (hs : (s.strand (strandOf r)).stop = .running) (hq : (s.seq r).matQ = c :: rest) (hm : mmOf c.ins = some m)
  (hkey : m.keyed = true) (hbegun : c.begun = false)
include hs hq hm hkey hbegun

/-- At the head of its queue an MMAK takes the rotation that has arrived last, or the next one if its start time has passed then. -/
theorem exec_mmakTargetChoice (htarget : c.target = none) (hrows : mmRows c.xb ≠ 0) {a : BitVec 32 × Nat}
    (hlast : (s.die r.die).lastOf (low32 c.xd) = some a) (hsince : s.residentSince (strandOf r) ≤ a.2) :
    exec (.mmakTargetChoice (.seq r)) s = .next (s.setHead r .matrix { c with
      head := some (c.head.getD (s.tsc r.die))
      target := some (if c.head.isSome ∨ s.tsc r.die ≤ a.2 + 16 * m.off then a.1 else a.1 + 1) }) := by
  have hrows' : (mmRows c.xb == 0) = false := beq_eq_false_iff_ne.mpr hrows
  have hfilter : (some a).filter (fun a => decide (s.residentSince (strandOf r) ≤ a.2)) = some a :=
    Option.filter_eq_some_iff.mpr ⟨rfl, decide_eq_true hsince⟩
  show execMmakTargetChoice (.seq r) s = _
  simp only [execMmakTargetChoice, mmHead_of_queue hq hm, runs_of_running hs, hkey, hbegun, htarget, hrows', hlast, hfilter,
    Bool.not_true, Bool.or_self, Option.isSome_none, Bool.false_eq_true, ↓reduceIte, Option.map_some]
  cases c.head <;> simp

variable {rot : BitVec 32} (htarget : c.target = some rot)
include htarget

/-- R74, R83: a rotation that is LOST or MISSED. -/
theorem exec_mmakStartTime_lost (hrot : s.rotState r.die (low32 c.xd) rot = .lost) :
    exec (.mmakStartTime (.seq r)) s = .next (s.mmakEnd r c m 2 none) := by
  show execMmakStartTime (.seq r) s = _
  simp only [execMmakStartTime, mmHead_of_queue hq hm, runs_of_running hs, hkey, hbegun, htarget, hrot, Bool.not_true,
    Bool.or_self, Bool.false_eq_true, ↓reduceIte]

theorem exec_mmakStartTime_missed (hrot : s.rotState r.die (low32 c.xd) rot = .missed) :
    exec (.mmakStartTime (.seq r)) s = .next (s.mmakEnd r c m 1 (some .segmentMissed)) := by
  show execMmakStartTime (.seq r) s = _
  simp only [execMmakStartTime, mmHead_of_queue hq hm, runs_of_running hs, hkey, hbegun, htarget, hrot, Bool.not_true,
    Bool.or_self, Bool.false_eq_true, ↓reduceIte]

/-- At its start time an MMAK begins, by its WQ if it has one. -/
theorem exec_mmakStartTime_here {arr : Nat} (hrot : s.rotState r.die (low32 c.xd) rot = .here arr)
    (harr : (s.die r.die).arrivedAt (low32 c.xd) rot = some arr) (htime : arr + 16 * m.off ≤ s.tsc r.die) :
    exec (.mmakStartTime (.seq r)) s = .next (match (hdrOf c.ins).wq with
      | some q => if (s.strand (strandOf r)).free q = 0 then s.mmakEnd r c m 3 (some .scheduleMiss)
        else (s.popQ r q 1).setHead r .matrix { c with begun := true }
      | none => s.setHead r .matrix { c with begun := true }) := by
  have htime' : ¬ s.tsc r.die < arr + 16 * m.off := Nat.not_lt.mpr htime
  show execMmakStartTime (.seq r) s = _
  simp only [execMmakStartTime, mmHead_of_queue hq hm, runs_of_running hs, hkey, hbegun, htarget, hrot, harr, htime',
    Option.getD_some, Bool.not_true, Bool.or_self, Bool.false_eq_true, ↓reduceIte]
  cases (hdrOf c.ins).wq with
  | none => rfl
  | some q => exact (apply_ite Host.Outcome.next ..).symm

end start

/-! ### The rails (R253) -/

theorem exec_fidRailSwitchDone {s : State} {die cl : Nat} (h : (s.cluster die cl).switching = 1) :
    exec (.fidRailSwitchDone die cl) s = .next (s.modCluster die cl fun k => { k with switching := 0 }) := by
  show execFidRailSwitchDone die cl s = _
  simp only [execFidRailSwitchDone, State.modCluster, h, le_refl, ↓reduceIte]

/-- Settles O28: MMA_UNIT by its branches, the start of an MMAK by its own, the end of a rail switch. -/
theorem matrixEvents : Obligations.MatrixEvents := by
  rintro s r c _ rest m f _ hs hq hm hf rfl rfl
  rw [← noteTiles_eq]
  extract_lets done gone landed other ready
  have hother : s.railsTaken r = true ↔ other := railsTaken_iff
  have hgone : c.tilesGone m (s.cluster r.die r.cl) = true ↔ gone := tilesGone_iff
  have hready (h : ready) : c.mmReady m (s.cluster r.die r.cl) := by
    obtain ⟨hpix, hstay, hkey⟩ := h
    exact ⟨hpix, eq_false_of_ne_true (mt hgone.mp hstay), fun h => (hkey h).1, awaitsTiles_eq_false.mpr fun h => (hkey h).2⟩
  refine ⟨exec_mmaUnit_done hs hq hm, fun hpix hbegun h => exec_mmaUnit_gone hs hq hm hpix hbegun (hgone.mpr h), ?unlanded,
    ?waits, ?moves, ?performs, fun hkey hbegun htarget hrows a => exec_mmakTargetChoice hs hq hm hkey hbegun htarget hrows,
    ?start, fun die cl => exec_fidRailSwitchDone⟩
  case unlanded =>
    intro hpix hstay hkey hbegun hland
    refine exec_mmaUnit_unlanded hs hq hm hpix (fun _ => hbegun) (eq_false_of_ne_true (mt hgone.mp hstay)) ?_
    exact eq_true_of_ne_false fun h => hland (awaitsTiles_eq_false.mp h hkey)
  case waits =>
    intro h hwait
    rw [exec_mmaUnit_ready hs hq hm hf (hready h), if_pos (hwait.imp_right hother.mpr)]
  case moves =>
    intro h hswitch hfree hfid hrail
    rw [exec_mmaUnit_ready hs hq hm hf (hready h), if_neg (by simp [hswitch, hother, hfree])]
    exact if_pos ⟨hfid, hrail⟩
  case performs =>
    intro h hswitch hfree hrail
    have hpix := h.1
    have hexec := exec_mmaUnit_ready hs hq hm hf (hready h)
    rw [if_neg (by simp [hswitch, hother, hfree]), if_neg (by exact fun hn => hrail.elim hn.1 hn.2)] at hexec
    refine ⟨fun cause detail hbody => hexec.trans (mmAfter_doUnit_error hs hq hpix hbody), ?_⟩
    rintro g _ hbody rfl
    rw [doUnit_mmRailed_ok hs hq hpix hbody] at hexec
    exact ⟨fun hmore => hexec.trans (mmAfter_of_more _ _ _ hmore),
      fun hlast hruns hno hmm => hexec.trans (mmAfter_of_last hlast.ge hruns hno hmm)⟩
  case start =>
    intro hkey hbegun rot htarget
    refine ⟨exec_mmakStartTime_lost hs hq hm hkey hbegun htarget, exec_mmakStartTime_missed hs hq hm hkey hbegun htarget, ?_⟩
    intro arr hrot harr htime
    have hexec := exec_mmakStartTime_here hs hq hm hkey hbegun htarget hrot harr htime
    refine ⟨fun hwq => ?_, fun q hwq => ⟨fun hfree => ?_, fun hfree => ?_⟩⟩
    · rw [hexec, hwq]
    · rw [hexec, hwq]
      exact congrArg Host.Outcome.next (if_neg hfree.ne')
    · rw [hexec, hwq]
      exact congrArg Host.Outcome.next (if_pos hfree)

end Sys2Proof.Machine
end

section
/-! PROOFS. SETFID, FCRD and FCCLR (O30; R257 to R259): the MMAs of a sequencer under way, which issuing leaves as they are, say
whether FCRD and FCCLR end at once or hold their sequencer. -/

namespace Sys2Proof.Machine

/-- The value that an FCRD reads (R259): FIDERR, FIDCHK, or the counter of the window with the raised bit above it. -/
def Cluster.fidCounter (k : Cluster) (which : BitVec 2) : Word :=
  if which = 0 then zext32 k.fidErr
  else if which = 1 then k.fidChk.setWidth 64
  else BitVec.ofNat 64 ((if k.raised then 65536 else 0) + k.wcnt.toNat)

section fidelity
variable {s : State} {r : SeqRef} {h : Hdr} {k : Option Permit} {c : Cmd} {d : Reg} {which : BitVec 2} {i : Instr}
  {hold : State → Cmd → Hold}

theorem setfid_landsOnSeq (h : Hdr) (f : BitVec 2) :
    LandsOnSeq (.setfid h f) h none .fid 1 (fun _ _ => true) fun _ _ => f.setWidth 64 := by
  intro s r m hr _
  refine ⟨f.setWidth 64, 0, 0, ?_⟩
  show execSetfid h f s = _
  rw [execSetfid, issue_eq (p := { fixed := true }) m (fun _ => hr) rfl rfl rfl rfl rfl]
  exact launchOp_seq (cur_of_mayIssue m) ..

/-! ### MMAs under way (R259) -/

theorem matrixBusy_iff : s.matrixBusy r = true ↔ ∃ c ∈ (s.seq r).matQ, (mmOf c.ins).isSome = true :=
  List.any_eq_true

theorem matrixBusy_eq_false_iff : s.matrixBusy r = false ↔ ∀ c ∈ (s.seq r).matQ, mmOf c.ins = none := by
  simp only [State.matrixBusy, List.any_eq_false, Option.not_isSome_iff_eq_none]

theorem matrixBusy_issued (hc : s.cur = .seq r) (h : Hdr) (k : Option Permit) :
    (s.issued r h k).matrixBusy r = s.matrixBusy r := by
  obtain ⟨pc, g, sw, o, p, a, n, e⟩ := seq_issued hc h k
  rw [State.matrixBusy, e]
  rfl

/-! ### What FCRD and FCCLR come to (R259) -/

section holds
variable (hc : s.cur = .seq r)
include hc

theorem fcrdHold_ends (hb : s.matrixBusy r = false) : fcrdHold which d s c =
    .ends ((s.putOn r d ((s.cluster r.die r.cl).fidCounter which) c.no).pushPost r (hdrOf c.ins).pq c.addr) := by
  simp only [fcrdHold, hc, hb, Bool.false_eq_true, if_false, endHold_seq hc]
  fin_cases which <;> rfl

theorem fcrdHold_stays (hb : s.matrixBusy r = true) : fcrdHold which d s c = .stays s := by
  simp only [fcrdHold, hc, hb, if_true]

theorem fcclrHold_ends (hi : c.ins = .fcclr h d) (hb : s.matrixBusy r = false) : fcclrHold d s c =
    .ends (((s.modCluster r.die r.cl fun k => { k with fidErr := 0, fidChk := 0 }).putOn r d
      (zext32 (s.cluster r.die r.cl).fidErr) c.no).pushPost r h.pq c.addr) := by
  have hstep : s.holdStep c = fcclrHold d s c := by simp only [State.holdStep, hi]
  exact hstep.symm.trans (holdStep_fcclr hc hi (matrixBusy_eq_false_iff.mp hb))

theorem fcclrHold_stays (hb : s.matrixBusy r = true) : fcclrHold d s c = .stays s := by
  simp only [fcclrHold, hc, hb, if_true]

end holds

/-! ### Issuing -/

theorem exec_fcrd (m : s.mayIssue r (.fcrd h d which) h none = true) : exec (.fcrd h d which) s =
    (s.issued r h none).holdIn (s.heldOf (.seq r) (.fcrd h d which) 0 0 none) .matrix (fcrdHold which d) := by
  show execFcrd h d which s = _
  rw [execFcrd, issue_eq (p := {}) m nofun rfl rfl rfl rfl rfl, heldCmd_issued (cur_of_mayIssue m)]

theorem exec_fcclr (m : s.mayIssue r (.fcclr h d) h none = true) : exec (.fcclr h d) s =
    (s.issued r h none).holdIn (s.heldOf (.seq r) (.fcclr h d) 0 0 none) .matrix (fcclrHold d) := by
  show execFcclr h d s = _
  rw [execFcclr, issue_eq (p := {}) m nofun rfl rfl rfl rfl rfl, heldCmd_issued (cur_of_mayIssue m)]

theorem fcrd_doesOnSeq (h : Hdr) (d : Reg) (which : BitVec 2) :
    DoesOnSeq (.fcrd h d which) h none (fun s r => ∀ c ∈ (s.seq r).matQ, mmOf c.ins = none)
      fun s r u => u.putOn r d ((s.cluster r.die r.cl).fidCounter which) ((s.seq r).no + 1) := by
  intro s r m hidle
  have hc := cur_of_mayIssue m
  have hi := cur_issued (h := h) (k := none) hc
  have hb := (matrixBusy_issued hc h none).trans (matrixBusy_eq_false_iff.mpr hidle)
  obtain ⟨p, hp⟩ := cluster_issued s r h none r.die r.cl
  rw [exec_fcrd m, holdIn_ends (fcrdHold_ends hi hb), hp, finishAt_of_seq (r := r) (by exact hi)]
  rfl

theorem fcclr_doesOnSeq (h : Hdr) (d : Reg) :
    DoesOnSeq (.fcclr h d) h none (fun s r => ∀ c ∈ (s.seq r).matQ, mmOf c.ins = none) fun s r u =>
      (u.modCluster r.die r.cl fun c => { c with fidErr := 0, fidChk := 0 }).putOn r d
        (zext32 (s.cluster r.die r.cl).fidErr) ((s.seq r).no + 1) := by
  intro s r m hidle
  have hc := cur_of_mayIssue m
  have hi := cur_issued (h := h) (k := none) hc
  have hb := (matrixBusy_issued hc h none).trans (matrixBusy_eq_false_iff.mpr hidle)
  obtain ⟨p, hp⟩ := cluster_issued s r h none r.die r.cl
  rw [exec_fcclr m]
  refine (holdIn_ends (fcclrHold_ends hi rfl hb)).trans ?_
  rw [hp, finishAt_of_seq (r := r) (by exact hi)]
  rfl

/-- An instruction that waits for MMAs holds its sequencer while one is under way. -/
theorem holdsOnSeq_matrix
    (hexec : ∀ {s r}, s.mayIssue r i h none = true →
      exec i s = (s.issued r h none).holdIn (s.heldOf (.seq r) i 0 0 none) .matrix hold)
    (hstays : ∀ {s r c}, s.cur = .seq r → s.matrixBusy r = true → hold s c = .stays s) :
    HoldsOnSeq i h none (fun _ _ => .matrix) (fun _ _ => (0, 0, none))
      fun s r => ∃ c ∈ (s.seq r).matQ, (mmOf c.ins).isSome = true := by
  intro s r m hbusy
  have hc := cur_of_mayIssue m
  have hi := cur_issued (h := h) (k := none) hc
  rw [hexec m, holdIn_stays (hstays hi ((matrixBusy_issued hc h none).trans (matrixBusy_iff.mpr hbusy))), modMe_of_seq hi]
  rfl

end fidelity

/-- Settles O30: SETFID lands; FCRD and FCCLR end at once or hold their sequencer by the MMAs under way. -/
theorem fidelityResults : Obligations.FidelityResults := by
  intro h f which d
  refine ⟨setfid_landsOnSeq h f, fcrd_doesOnSeq h d which, fcclr_doesOnSeq h d, ?_⟩
  simp only [List.forall_mem_cons]
  exact ⟨holdsOnSeq_matrix exec_fcrd fcrdHold_stays, holdsOnSeq_matrix exec_fcclr fcclrHold_stays, List.forall_mem_nil _⟩

end Sys2Proof.Machine
end

section
/-! PROOFS. RWR, RRD and RWRR as they issue (O31; R272, R287, R288): one rule for every instruction that queues by `remoteCmd`,
then what the checks of each come to. -/

namespace Sys2Proof.Machine

section remote
variable {h : Hdr} {i : Instr} {d a b : Reg} {ok : State → SeqRef → Prop}

/-- The operands of a remote command, before it has a place among the commands. -/
def State.remoteOf (s : State) (i : Instr) (d a b : Reg) : Cmd :=
  { ins := i, seqNo := 0, addr := 0, xd := s.X d, xa := s.X a, xb := s.X b }

/-- What the checks of a remote command on words and registers name (R272, R287, R288). -/
def State.remoteCause (s : State) (r : SeqRef) (k : RemCmd) (xa xb : Word) : Option Cause :=
  if k.red = true ∧ k.fmt ≠ .fp32 ∧ k.fmt ≠ .bf16 then some .formatIllegal
  else if !s.ptrOk xa k.acc || (!k.red && !ptrRmt xa) then some .addrRange
  else (spadSpan (s.team? (strandOf r)) (runSpan xb k.bytes)).orElse fun _ =>
    if k.red && (xb.toNat % k.esz != 0 || (!k.acc && xa.toNat % 4 != 0)) then some .align else none

theorem remoteCmd_eq {s : State} {r : SeqRef} {k : RemCmd} (hc : s.cur = .seq r) (hk : remOf (s.remoteOf i d a b) = some k) :
    s.remoteCmd i h d a b = s.issue i h
      { permit := some .mem, early := fun _ => s.remoteCause r k (s.X a) (s.X b), room := State.engineRoom r .coll 16 }
      fun t => .next (t.enqueue r .coll i h (s.X d) (s.X a) (s.X b)) := by
  have hk' : remOf { ins := i, seqNo := 0, addr := 0, xd := s.X d, xa := s.X a, xb := s.X b } = some k := hk
  simp only [State.remoteCmd, hc, hk']
  rfl

/-- Where its checks name no cause, a remote command queues. -/
theorem queuesOnSeq_of_remoteCmd (e : ∀ s, exec i s = s.remoteCmd i h d a b)
    (hok : ∀ s r, ok s r → ∃ k, remOf (s.remoteOf i d a b) = some k ∧ s.remoteCause r k (s.X a) (s.X b) = none) :
    QueuesOnSeq i h (some .mem) .coll 16 ok (regs3 d a b) [] 0 := by
  intro s r m hroom hs
  have hc := cur_of_mayIssue m
  obtain ⟨k, hk, hnone⟩ := hok s r hs
  have hr : State.engineRoom r .coll 16 s = none := if_pos hroom
  rw [e, remoteCmd_eq hc hk]
  refine (issue_eq m (by nofun) hnone rfl hr rfl rfl).trans ?_
  exact congrArg Host.Outcome.next (enqueue_issued (k := some .mem) hc .coll i 0 (s.X d) (s.X a) (s.X b) [] 0)

/-- Where they name one, it traps. -/
theorem trapsOnSeq_of_remoteCmd {c : Cause} (e : ∀ s, exec i s = s.remoteCmd i h d a b)
    (hok : ∀ s r, ok s r → ∃ k, remOf (s.remoteOf i d a b) = some k ∧ s.remoteCause r k (s.X a) (s.X b) = some c) :
    TrapsOnSeq i h (some .mem) c ok := by
  intro s r m hf hs
  obtain ⟨k, hk, hsome⟩ := hok s r hs
  rw [e, remoteCmd_eq (cur_of_mayIssue m) hk]
  exact issue_trap_early m hf hsome (.inr rfl)

/-! ### What the checks come to -/

variable {s : State} {r : SeqRef} {xa xb : Word} {n : Nat}

/-- R272: a pointer with its reserved bits zero names this package, or a member that is known. -/
theorem ptrOk_iff {acc : Bool} : s.ptrOk xa acc = true ↔ field xa 53 10 = 0
    ∧ (acc = true → field xa 43 5 = 0 ∧ field xa 38 2 = 0 ∧ field xa 17 15 = 0)
    ∧ ((xa.getLsbD 63 = true ∧ s.chain.knows (field xa 48 5) = true) ∨ (xa.getLsbD 63 = false ∧ field xa 48 5 = 0)) := by
  unfold State.ptrOk ptrRmt ptrMid
  cases xa.getLsbD 63 <;> cases acc <;> simp [and_assoc]

/-- A write or a read of `n` bytes. -/
def byteCmd (n : Nat) (read : Bool) : RemCmd := ⟨n, 1, .i8, read, false, false, .rne⟩

theorem remoteCause_bytes_none {read : Bool} (hrmt : xa.getLsbD 63 = true) (hknown : s.chain.knows (field xa 48 5) = true)
    (hzero : field xa 53 10 = 0) (hspan : spadSpan (s.team? (strandOf r)) (runSpan xb n) = none) :
    s.remoteCause r (byteCmd n read) xa xb = none := by
  have hptr : s.ptrOk xa false = true := ptrOk_iff.mpr ⟨hzero, nofun, .inl ⟨hrmt, hknown⟩⟩
  have hr : ptrRmt xa = true := hrmt
  simp [State.remoteCause, byteCmd, hptr, hr, hspan]

theorem remoteCause_bytes_some {read : Bool} (hbad : field xa 53 10 ≠ 0 ∨ xa.getLsbD 63 = false
    ∨ s.chain.knows (field xa 48 5) = false) : s.remoteCause r (byteCmd n read) xa xb = some .addrRange := by
  have hfar : (!s.ptrOk xa false || !ptrRmt xa) = true := by
    by_cases hptr : s.ptrOk xa false = true
    · obtain ⟨hzero, -, hmid⟩ := ptrOk_iff.mp hptr
      have hhere : ptrRmt xa = false := by
        show xa.getLsbD 63 = false
        rcases hbad with hbad | hbad | hbad
        · exact absurd hzero hbad
        · exact hbad
        · exact (hmid.resolve_left fun hk => by simp [hbad] at hk).1
      simp [hhere]
    · simp [Bool.eq_false_iff.mpr hptr]
  simp only [State.remoteCause, byteCmd, Bool.false_eq_true, false_and, if_false, Bool.not_false, Bool.true_and, hfar, if_true]

theorem bytes_queuesOnSeq {read : Bool} (e : ∀ s, exec i s = s.remoteCmd i h d a b)
    (hk : ∀ s : State, remOf (s.remoteOf i d a b) = some (byteCmd (field (s.X d) 0 32) read)) :
    QueuesOnSeq i h (some .mem) .coll 16
      (fun s r => ((s.X a).getLsbD 63 = true ∧ s.chain.knows (field (s.X a) 48 5) = true) ∧ field (s.X a) 53 10 = 0
        ∧ spadSpan (s.team? (strandOf r)) (runSpan (s.X b) (field (s.X d) 0 32)) = none) (regs3 d a b) [] 0 :=
  queuesOnSeq_of_remoteCmd e fun s _ ⟨⟨hrmt, hknown⟩, hzero, hspan⟩ =>
    ⟨_, hk s, remoteCause_bytes_none hrmt hknown hzero hspan⟩

theorem bytes_trapsOnSeq {read : Bool} (e : ∀ s, exec i s = s.remoteCmd i h d a b)
    (hk : ∀ s : State, remOf (s.remoteOf i d a b) = some (byteCmd (field (s.X d) 0 32) read)) :
    TrapsOnSeq i h (some .mem) .addrRange fun s _ => field (s.X a) 53 10 ≠ 0 ∨ (s.X a).getLsbD 63 = false
      ∨ s.chain.knows (field (s.X a) 48 5) = false :=
  trapsOnSeq_of_remoteCmd e fun s _ hbad => ⟨_, hk s, remoteCause_bytes_some hbad⟩

/-- A contribution of `n` elements. -/
def redCmd (n : Nat) (f : Fmt) (acc : Bool) (rm : RMode) : RemCmd := ⟨n * f.size, f.size, f, false, true, acc, rm⟩

theorem remoteCause_red_none {f : Fmt} {acc : Bool} {rm : RMode} (hf : f = .fp32 ∨ f = .bf16) (hptr : s.ptrOk xa acc = true)
    (hspan : spadSpan (s.team? (strandOf r)) (runSpan xb (n * f.size)) = none) (hb : xb.toNat % f.size = 0)
    (ha : acc = false → xa.toNat % 4 = 0) : s.remoteCause r (redCmd n f acc rm) xa xb = none := by
  have hform : ¬ (True ∧ f ≠ .fp32 ∧ f ≠ .bf16) := fun hn => hf.elim hn.2.1 hn.2.2
  have halign : (xb.toNat % f.size != 0 || (!acc && xa.toNat % 4 != 0)) = false := by
    cases acc with
    | true => simp [hb]
    | false => simp [hb, ha rfl]
  simp only [State.remoteCause, redCmd, if_neg hform, hptr, hspan, halign]
  rfl

theorem remoteCause_red_some {f : Fmt} {acc : Bool} {rm : RMode} (h32 : f ≠ .fp32) (h16 : f ≠ .bf16) :
    s.remoteCause r (redCmd n f acc rm) xa xb = some .formatIllegal :=
  if_pos ⟨rfl, h32, h16⟩

end remote

/-- Settles O31: RWR and RRD by the checks of a run of bytes, RWRR by those of a contribution. -/
theorem remoteQueueResults : Obligations.RemoteQueueResults := by
  intro h d a b
  refine ⟨?bytes, fun acc rm f => ⟨fun hf => ?queues, fun h32 h16 => ?format⟩⟩
  case bytes =>
    simp only [List.forall_mem_cons]
    exact ⟨⟨bytes_queuesOnSeq (read := false) (fun _ => rfl) fun _ => rfl, bytes_trapsOnSeq (read := false) (fun _ => rfl) fun _ => rfl⟩,
      ⟨bytes_queuesOnSeq (read := true) (fun _ => rfl) fun _ => rfl, bytes_trapsOnSeq (read := true) (fun _ => rfl) fun _ => rfl⟩,
      List.forall_mem_nil _⟩
  case queues =>
    refine queuesOnSeq_of_remoteCmd (fun _ => rfl) fun s r ⟨hmid, hzero, hacc, hspan, hb, ha⟩ => ⟨_, rfl, ?_⟩
    exact remoteCause_red_none hf (ptrOk_iff.mpr ⟨hzero, hacc, hmid⟩) hspan hb ha
  case format =>
    exact trapsOnSeq_of_remoteCmd (fun _ => rfl) fun s r _ => ⟨_, rfl, remoteCause_red_some h32 h16⟩

end Sys2Proof.Machine
end

section
/-! PROOFS. Counter instructions (O32; R272 to R276, R286, R291): what the checks of a handle come to, then each instruction from
the state in which it has issued. -/

namespace Sys2Proof.Machine

section counters
variable {s : State} {r : SeqRef} {h : Hdr} {d a b : Reg} {tmo : BitVec 16} {die n : Nat} {v : Word} {here : Bool} {c : Cause}

/-! ### Handles (R275, R291) -/

theorem handleOk_iff : s.handleOk v = true ↔ field v 53 9 = 0 ∧ field v 43 5 = 0 ∧ field v 8 32 = 0
    ∧ ((v.getLsbD 63 = true ∧ s.chain.knows (field v 48 5) = true) ∨ (v.getLsbD 63 = false ∧ field v 48 5 = 0)) := by
  unfold State.handleOk Handle.of
  cases v.getLsbD 63 <;> simp [and_assoc]

/-- A handle that is not valid, or whose fields are not as R275 asks. -/
theorem handleCause_malformed (hv : v.getLsbD 62 = false ∨ s.handleOk v = false) :
    s.handleCause r v here = some .addrRange := by
  refine if_pos ?_
  show (!v.getLsbD 62 || !s.handleOk v) = true
  rcases hv with hv | hv
  · rw [hv]
    rfl
  · rw [hv, Bool.not_false, Bool.or_true]

/-- CARM, CRD and CWAIT ask for a counter of their own die, named by this package. -/
theorem handleCause_elsewhere (hv : v.getLsbD 63 = true ∨ field v 40 3 ≠ r.die) :
    s.handleCause r v true = some .addrRange := by
  have hfar : (true && ((Handle.of v).rmt || (Handle.of v).die != r.die)) = true := by
    rw [Bool.true_and, Bool.or_eq_true, bne_iff_ne]
    exact hv
  unfold State.handleCause
  simp only [hfar, if_true, ite_self]

/-- A handle of this package names a counter that is near. -/
theorem near_of_namesCounter (hn : s.namesCounter v die n) : (!(Handle.of v).rmt || (Handle.of v).mid == s.chain.self) = true := by
  obtain ⟨-, -, -, -, -, -, hmid⟩ := hn
  rw [Bool.or_eq_true, Bool.not_eq_true', beq_iff_eq]
  exact hmid.imp And.left fun hm => hm.2.1

/-- A handle of another member names one that is not. -/
theorem far_of_farName {m : Nat} (hf : s.farName v m) : (!(Handle.of v).rmt || (Handle.of v).mid == s.chain.self) = false := by
  obtain ⟨h63, hmid, -, hne⟩ := hf
  rw [Bool.or_eq_false_iff, Bool.not_eq_false', beq_eq_false_iff_ne]
  exact ⟨h63, fun e => hne (hmid.symm.trans e)⟩

theorem counter_of_namesCounter (hn : s.namesCounter v die n) : (Handle.of v).die = die ∧ (Handle.of v).num = n := by
  obtain ⟨-, -, -, -, hdie, hnum, -⟩ := hn
  exact ⟨hdie, hnum⟩

/-- A handle of this package raises nothing but the context of its counter (R274). -/
theorem handleCause_named (hn : s.namesCounter v die n) (hh : here = true → v.getLsbD 63 = false ∧ die = r.die) :
    s.handleCause r v here
      = if (s.counter die n).ctx = some (s.ctxOf (strandOf r)) then none else some Cause.xlatePerm := by
  obtain ⟨hdie, hnum⟩ := counter_of_namesCounter hn
  have hnear := near_of_namesCounter hn
  obtain ⟨hv, h53, h43, h8, -, -, hmid⟩ := hn
  have hok : s.handleOk v = true := handleOk_iff.mpr ⟨h53, h43, h8, hmid.symm.imp
    (fun hm => ⟨hm.1, by rw [hm.2.1]; exact hm.2.2⟩) id⟩
  have hvalid : (Handle.of v).v = true := hv
  have hhere : (here && ((Handle.of v).rmt || die != r.die)) = false := by
    cases here with
    | false => rfl
    | true =>
      obtain ⟨h63, rfl⟩ := hh rfl
      have hrmt : (Handle.of v).rmt = false := h63
      rw [hrmt, bne_self_eq_false]
      rfl
  simp only [State.handleCause, hvalid, hok, hhere, hnear, hdie, hnum, Bool.not_true, Bool.or_self, Bool.false_eq_true, if_false,
    Bool.true_and, bne_iff_ne, ne_eq, ite_not]

theorem handleCause_own (ho : s.ownCounter r v n) : s.handleCause r v true = none := by
  obtain ⟨h63, hn, ha⟩ := ho
  exact (handleCause_named hn fun _ => ⟨h63, rfl⟩).trans (if_pos ha)

/-- A counter of another member is not here to be checked. -/
theorem handleCause_far {m : Nat} (hf : s.farName v m) (h62 : v.getLsbD 62 = true) (h53 : field v 53 9 = 0)
    (h43 : field v 43 5 = 0) (h8 : field v 8 32 = 0) : s.handleCause r v false = none := by
  have hfar := far_of_farName hf
  obtain ⟨h63, hmid, hk, -⟩ := hf
  have hok : s.handleOk v = true := handleOk_iff.mpr ⟨h53, h43, h8, .inl ⟨h63, by rw [hmid]; exact hk⟩⟩
  have hvalid : (Handle.of v).v = true := h62
  simp only [State.handleCause, hvalid, hok, hfar, Bool.not_true, Bool.or_self, Bool.false_eq_true, if_false, Bool.false_and]

/-! ### Traps -/

/-- Each instruction raises what the checks of its handle name; CADD may name a counter elsewhere. -/
theorem cadd_trapsOnSeq : TrapsOnSeq (.cadd h a b) h (some .mem) c fun s r => s.handleCause r (s.X a) false = some c := by
  intro s r m hf hbad
  show execCadd h a b s = _
  simp only [execCadd, cur_of_mayIssue m]
  split
  · exact issue_trap_early m hf hbad (.inr rfl)
  · exact issue_trap_early m hf hbad (.inr rfl)

theorem counter_trapsOnSeq : ∀ i ∈ [Instr.carm h a b, .crd h d a, .cwait h d a b tmo],
    TrapsOnSeq i h (some .mem) c fun s r => s.handleCause r (s.X a) true = some c := by
  simp only [List.forall_mem_cons]
  refine ⟨?carm, ?crd, ?cwait, List.forall_mem_nil _⟩
  case carm =>
    intro s r m hf hbad
    show execCarm h a b s = _
    simp only [execCarm, cur_of_mayIssue m]
    exact issue_trap_early m hf hbad (.inr rfl)
  case crd =>
    intro s r m hf hbad
    show execCrd h d a s = _
    simp only [execCrd, cur_of_mayIssue m]
    exact issue_trap_early m hf hbad (.inr rfl)
  case cwait =>
    intro s r m hf hbad
    show execCwait h d a b tmo s = _
    simp only [execCwait, cur_of_mayIssue m]
    exact issue_trap_early m hf hbad (.inr rfl)

/-! ### CARM, CRD, and CADD in this package (R274, R291) -/

@[simp] theorem counter_issued (k : Option Permit) (e x : Nat) : (s.issued r h k).counter e x = s.counter e x := by
  obtain ⟨q, z, c, e⟩ := issued_only s r h k
  rw [e]
  rfl

@[simp] theorem State.post_seqs (e : Nat) (x : EvRec) : (s.post e x).seqs = s.seqs := by
  unfold State.post
  extract_lets
  split <;> rfl

theorem carm_doesOnSeq : DoesOnSeq (.carm h a b) h (some .mem) (fun s r => s.ownCounter r (s.X a) n)
    (fun s r u => u.putCounter r.die n fun c => { c with value := low32 (s.X b), ovf := false }) := by
  intro s r m ho
  have hc := cur_of_mayIssue m
  obtain ⟨hdie, hnum⟩ := counter_of_namesCounter ho.2.1
  show execCarm h a b s = _
  simp only [execCarm, hc, hdie, hnum]
  refine (issue_eq m (by nofun) (handleCause_own ho) rfl rfl rfl rfl).trans (congrArg Host.Outcome.next ?_)
  exact finish_issued (k := some .mem) hc (cur_issued hc) rfl

theorem crd_doesOnSeq : DoesOnSeq (.crd h d a) h (some .mem) (fun s r => s.ownCounter r (s.X a) n)
    (fun s r u => u.putOn r d (BitVec.ofNat 64
      ((if (s.counter r.die n).ovf then 2 ^ 32 else 0) + (s.counter r.die n).value.toNat)) ((s.seq r).no + 1)) := by
  intro s r m ho
  have hc := cur_of_mayIssue m
  obtain ⟨hdie, hnum⟩ := counter_of_namesCounter ho.2.1
  show execCrd h d a s = _
  simp only [execCrd, hc, hdie, hnum]
  refine (issue_eq m (by nofun) (handleCause_own ho) rfl rfl rfl rfl).trans (congrArg Host.Outcome.next ?_)
  simp only [counter_issued, putNow_issued hc]
  exact finish_issued (k := some .mem) hc (cur_issued hc) (by simp only [State.putOn, seq_modSeq_self, putX_pc])

/-- A CADD to a counter of this package adds as it issues. -/
theorem exec_cadd_here (m : s.mayIssue r (.cadd h a b) h (some .mem) = true) (hn : s.namesCounter (s.X a) die n)
    (ha : s.assigned r die n) : exec (.cadd h a b) s
      = .next (((s.issued r h (some .mem)).counterAdd die n (low32 (s.X b)).toNat).finish h) := by
  obtain ⟨hdie, hnum⟩ := counter_of_namesCounter hn
  have hnear : (!((Handle.of (s.X a)).rmt && (Handle.of (s.X a)).mid != s.chain.self)) = true := by
    rw [Bool.not_and, bne, Bool.not_not]
    exact near_of_namesCounter hn
  show execCadd h a b s = _
  simp only [execCadd, cur_of_mayIssue m, hnear, if_true, hdie, hnum]
  exact issue_eq m (by nofun) ((handleCause_named hn (by nofun)).trans (if_pos ha)) rfl rfl rfl rfl

theorem cadd_doesOnSeq : DoesOnSeq (.cadd h a b) h (some .mem)
    (fun s r => s.namesCounter (s.X a) die n ∧ s.assigned r die n
      ∧ (s.counter die n).value.toNat + (low32 (s.X b)).toNat < 2 ^ 32)
    (fun s _ u => u.putCounter die n fun c => { c with value := c.value + low32 (s.X b) }) := by
  rintro s r m ⟨hn, ha, hsum⟩
  have hc := cur_of_mayIssue m
  rw [exec_cadd_here m hn ha, counterAdd_adds (by rwa [counter_issued])]
  exact congrArg Host.Outcome.next (finish_issued (k := some .mem) hc (cur_issued hc) rfl)

theorem cadd_clamps_doesOnSeq : DoesOnSeq (.cadd h a b) h (some .mem)
    (fun s r => s.namesCounter (s.X a) die n ∧ s.assigned r die n
      ∧ 2 ^ 32 ≤ (s.counter die n).value.toNat + (low32 (s.X b)).toNat)
    (fun _ _ u => (u.putCounter die n fun c => { c with value := 0xFFFFFFFF, ovf := true }).post die
      { cause := .counterOverflow, detail := BitVec.ofNat 64 n }) := by
  rintro s r m ⟨hn, ha, hsum⟩
  have hc := cur_of_mayIssue m
  rw [exec_cadd_here m hn ha, counterAdd_clamps (by rwa [counter_issued])]
  refine congrArg Host.Outcome.next (finish_issued (k := some .mem) hc ((State.post_cur ..).trans (cur_issued hc)) ?_)
  simp only [State.seq, State.seqAt, State.post_seqs]
  rfl

/-! ### CADD to another member (R272, R273, R291) -/

section far
variable (m : s.mayIssue r (.cadd h a b) h (some .mem) = true) (hf : s.farName (s.X a) n) (h62 : (s.X a).getLsbD 62 = true)
  (h53 : field (s.X a) 53 9 = 0) (h43 : field (s.X a) 43 5 = 0) (h8 : field (s.X a) 8 32 = 0)
include m hf h62 h53 h43 h8

/-- It stands behind the remote commands to that member. -/
theorem exec_cadd_waits (hq : ∃ c ∈ (s.seq r).collQ, s.ptrFar c.xa = true ∧ field c.xa 48 5 = n) :
    exec (.cadd h a b) s = .next (s.waits r (.cadd h a b) .room) := by
  have hk : (Handle.of (s.X a)).mid = n := hf.2.1
  have hfar : (!((Handle.of (s.X a)).rmt && (Handle.of (s.X a)).mid != s.chain.self)) = false := by
    rw [Bool.not_and, bne, Bool.not_not]
    exact far_of_farName hf
  have hbefore : ((s.seq r).collQ.any fun c => s.ptrFar c.xa && ptrMid c.xa == (Handle.of (s.X a)).mid) = true := by
    obtain ⟨c, hc, hp, hm⟩ := hq
    exact List.any_eq_true.mpr ⟨c, hc, by simp [hp, ptrMid, hm, hk]⟩
  show execCadd h a b s = _
  simp only [execCadd, cur_of_mayIssue m, hfar, Bool.false_eq_true, if_false]
  exact issue_wait m (by nofun) (handleCause_far hf h62 h53 h43 h8) rfl (if_pos hbefore)

/-- With none before it, it issues. -/
theorem exec_cadd_far (hq : ∀ c ∈ (s.seq r).collQ, ¬ (s.ptrFar c.xa = true ∧ field c.xa 48 5 = n)) :
    exec (.cadd h a b) s = if s.chain.skipped n = true then .next ((s.issued r h (some .mem)).finishAt h (s.seq r).pc)
      else .next ((({ s.issued r h (some .mem) with nextReq := s.nextReq + 1 } : State).heldBy (.seq r) .held
        { s.heldOf (.seq r) (.cadd h a b) (s.X a) (s.X b) none with
          req := s.nextReq, remote := .sent 0 (windowOf (s.tsc r.die)) }).send
        (.cntadd n ⟨s.nextReq, windowOf (s.tsc r.die), s.ctxOf (strandOf r), s.X a, low32 (s.X b)⟩)) := by
  have hc := cur_of_mayIssue m
  have hk : (Handle.of (s.X a)).mid = n := hf.2.1
  have hfar : (!((Handle.of (s.X a)).rmt && (Handle.of (s.X a)).mid != s.chain.self)) = false := by
    rw [Bool.not_and, bne, Bool.not_not]
    exact far_of_farName hf
  have hbefore : ¬ ((s.seq r).collQ.any fun c => s.ptrFar c.xa && ptrMid c.xa == (Handle.of (s.X a)).mid) = true := by
    intro hany
    obtain ⟨c, hc, hp⟩ := List.any_eq_true.mp hany
    rw [hk, Bool.and_eq_true, beq_iff_eq] at hp
    exact hq c hc hp
  show execCadd h a b s = _
  simp only [execCadd, hc, hfar, Bool.false_eq_true, if_false]
  refine (issue_eq m (by nofun) (handleCause_far hf h62 h53 h43 h8) rfl (if_neg hbefore) rfl rfl).trans ?_
  simp only [hk, issued_chain, issued_nextReq, tsc_issued, ctxOf_issued, heldCmd_issued hc]
  congr 2
  · exact finish_issued hc (cur_issued hc) rfl
  · rw [modMe_of_seq (r := r) (by exact cur_issued hc)]
    rfl

end far

/-! ### CWAIT (R286, R291) -/

/-- A CWAIT on a counter of its own issues, and comes to what its counter and its deadline say. -/
theorem exec_cwait (m : s.mayIssue r (.cwait h d a b tmo) h (some .mem) = true) (ho : s.ownCounter r (s.X a) n) :
    exec (.cwait h d a b tmo) s = (s.issued r h (some .mem)).holdIn
      (s.heldOf (.seq r) (.cwait h d a b tmo) (s.X a) (s.X b) (wtagDeadline (s.tsc r.die) tmo))
      (.counter (wtagDeadline (s.tsc r.die) tmo)) (cwaitHold d) := by
  have hc := cur_of_mayIssue m
  show execCwait h d a b tmo s = _
  simp only [execCwait, hc]
  refine (issue_eq m (by nofun) (handleCause_own ho) rfl rfl rfl rfl).trans ?_
  simp only [heldCmd_issued hc]

/-- It ends as it issues, where its threshold is there or its deadline has come. -/
theorem exec_cwait_ends {late : Nat} (m : s.mayIssue r (.cwait h d a b tmo) h (some .mem) = true)
    (ho : s.ownCounter r (s.X a) n) (hend : low32 (s.X b) ≤ (s.counter r.die n).value ∨ tmo = 0)
    (hlate : (if low32 (s.X b) ≤ (s.counter r.die n).value then 0 else 2 ^ 63) = late) :
    exec (.cwait h d a b tmo) s = .next ((((s.issued r h (some .mem)).modSeq r fun q => { q with phase := s.tsc r.die }).putOn r d
      (BitVec.ofNat 64 (late + (s.counter r.die n).value.toNat)) ((s.seq r).no + 1)).finishAt h (s.seq r).pc) := by
  have hc := cur_of_mayIssue m
  obtain ⟨hdie, hnum⟩ := counter_of_namesCounter ho.2.1
  have hctr : (s.issued r h (some .mem)).counter (field (s.X a) 40 3) (field (s.X a) 0 8) = s.counter r.die n := by
    rw [counter_issued]
    exact congrArg₂ s.counter hdie hnum
  have hdue : tmo = 0 → (wtagDeadline (s.tsc r.die) tmo).any (fun x => decide (x ≤ (s.issued r h (some .mem)).tsc r.die)) = true := by
    rintro rfl
    rw [tsc_issued]
    exact wtagDeadline_now _
  have hstep : cwaitHold d (s.issued r h (some .mem))
      (s.heldOf (.seq r) (.cwait h d a b tmo) (s.X a) (s.X b) (wtagDeadline (s.tsc r.die) tmo)) = _ :=
    holdStep_cwait (c := s.heldOf (.seq r) (.cwait h d a b tmo) (s.X a) (s.X b) (wtagDeadline (s.tsc r.die) tmo))
      (cur_issued hc) rfl (congrArg Counter.value hctr) (hend.imp id hdue) hlate
  rw [exec_cwait m ho, holdIn_ends hstep, tsc_issued, finishAt_of_seq (r := r) (by exact cur_issued hc)]
  rfl

/-- It holds its sequencer until then. -/
theorem cwait_holdsOnSeq : HoldsOnSeq (.cwait h d a b tmo) h (some .mem)
    (fun s r => .counter (wtagDeadline (s.tsc r.die) tmo)) (fun s r => (s.X a, s.X b, wtagDeadline (s.tsc r.die) tmo))
    (fun s r => s.ownCounter r (s.X a) n ∧ (s.counter r.die n).value < low32 (s.X b) ∧ tmo ≠ 0) := by
  rintro s r m ⟨ho, hlt, htmo⟩
  have hc := cur_of_mayIssue m
  obtain ⟨hdie, hnum⟩ := counter_of_namesCounter ho.2.1
  have hlater : (wtagDeadline (s.tsc r.die) tmo).any (fun x => decide (x ≤ s.tsc r.die)) = false :=
    wtagDeadline_later _ (Nat.pos_of_ne_zero fun hz => htmo (BitVec.eq_of_toNat_eq hz))
  have hstays : cwaitHold d (s.issued r h (some .mem))
      (s.heldOf (.seq r) (.cwait h d a b tmo) (s.X a) (s.X b) (wtagDeadline (s.tsc r.die) tmo)) = .stays (s.issued r h (some .mem)) := by
    simp only [cwaitHold, cur_issued hc, State.heldOf, counter_issued, hdie, hnum, tsc_issued, hlater,
      decide_eq_false (BitVec.not_le.mpr hlt), Bool.or_false, Bool.false_eq_true, if_false]
  rw [exec_cwait m ho, holdIn_stays hstays, modMe_of_seq (cur_issued hc)]
  rfl

end counters

/-- Settles O32: the handle's checks come first; then each instruction does its work from the state in which it has issued. -/
theorem counterResults : Obligations.CounterResults := by
  intro h d a b tmo die n m
  refine ⟨carm_doesOnSeq, crd_doesOnSeq, cadd_doesOnSeq, cadd_clamps_doesOnSeq, ?far, ?met, ?late, cwait_holdsOnSeq, ?malformed,
    ?elsewhere, ?perm⟩
  case far =>
    intro s r m' hf h62 h53 h43 h8
    refine ⟨exec_cadd_waits m' hf h62 h53 h43 h8, fun hq => ⟨fun hs => ?_, fun hs => ?_⟩⟩
    · exact (exec_cadd_far m' hf h62 h53 h43 h8 hq).trans (if_pos hs)
    · exact (exec_cadd_far m' hf h62 h53 h43 h8 hq).trans (if_neg (by simp [hs]))
  case met =>
    rintro s r m' ⟨ho, hle⟩
    rw [exec_cwait_ends m' ho (.inl hle) (if_pos hle), Nat.zero_add]
  case late =>
    rintro s r m' ⟨ho, hlt⟩
    exact exec_cwait_ends m' ho (.inr rfl) (if_neg (BitVec.not_le.mpr hlt))
  case malformed =>
    have hbad : ∀ (s : State) (r : SeqRef) (here : Bool), (s.X a).getLsbD 62 = false ∨ field (s.X a) 53 9 ≠ 0
        ∨ field (s.X a) 43 5 ≠ 0 ∨ field (s.X a) 8 32 ≠ 0 ∨ ((s.X a).getLsbD 63 = false ∧ field (s.X a) 48 5 ≠ 0)
        ∨ ((s.X a).getLsbD 63 = true ∧ s.chain.knows (field (s.X a) 48 5) = false) →
        s.handleCause r (s.X a) here = some .addrRange := by
      intro s r here hbad
      refine handleCause_malformed (hbad.imp id fun hbad => Bool.eq_false_iff.mpr fun hok => ?_)
      obtain ⟨h53, h43, h8, hmid⟩ := handleOk_iff.mp hok
      rcases hbad with e | e | e | ⟨h63, e⟩ | ⟨h63, e⟩
      · exact e h53
      · exact e h43
      · exact e h8
      · exact e (hmid.resolve_left fun hm => nomatch h63.symm.trans hm.1).2
      · exact nomatch e.symm.trans (hmid.resolve_right fun hm => nomatch h63.symm.trans hm.1).2
    have htraps := counter_trapsOnSeq (h := h) (d := d) (a := a) (b := b) (tmo := tmo) (c := .addrRange)
    simp only [List.forall_mem_cons] at htraps ⊢
    obtain ⟨hcarm, hcrd, hcwait, -⟩ := htraps
    exact ⟨fun s r m hf hx => hcarm s r m hf (hbad s r true hx), fun s r m hf hx => hcrd s r m hf (hbad s r true hx),
      fun s r m hf hx => cadd_trapsOnSeq s r m hf (hbad s r false hx), fun s r m hf hx => hcwait s r m hf (hbad s r true hx),
      List.forall_mem_nil _⟩
  case elsewhere =>
    intro i hi
    refine ⟨fun s r m hf hx => counter_trapsOnSeq i hi s r m hf (handleCause_elsewhere hx), ?_⟩
    rintro s r m hf ⟨h63, hn, ha⟩
    exact counter_trapsOnSeq i hi s r m hf ((handleCause_named hn fun _ => ⟨h63, rfl⟩).trans (if_neg ha))
  case perm =>
    rintro s r m hf ⟨hn, ha⟩
    exact cadd_trapsOnSeq s r m hf ((handleCause_named hn (by nofun)).trans (if_neg ha))

end Sys2Proof.Machine
end

section
/-! PROOFS. QPOST and QSLOT (O33; R289, R290): the checks of each come to nothing or to a cause; its work is done from the state in
which it has issued. -/

namespace Sys2Proof.Machine

section effects
variable {s u : State} {r : SeqRef}

/-- X[D] written by the instruction that issues, with its place in program order (R63). -/
theorem putNow_of_seq {no : Nat} (hu : u.cur = .seq r) (hno : (u.seq r).no = no) (d : Reg) (v : Word) :
    u.putNow d v = u.putOn r d v no := by
  have hf : (u.seq r).putX d v (u.seq r).no u.cycles = (u.seq r).putX d v no u.cycles := by rw [hno]
  rw [State.putNow, modMe_of_seq hu]
  exact congrArg (u.setSeqAt (seqKey r)) hf

theorem no_seq_issued (hc : s.cur = .seq r) (h : Hdr) (k : Option Permit) :
    ((s.issued r h k).seq r).no = (s.seq r).no + 1 := by
  rw [← me_of_seq (cur_issued hc), no_issued hc]

/-- Where an effect leaves the sequencer as it issued, X[D] and the token come with that instruction. -/
theorem finish_putNow_issued {h : Hdr} {k : Option Permit} (hc : s.cur = .seq r) (hu : u.cur = .seq r)
    (hq : u.seq r = (s.issued r h k).seq r) (d : Reg) (v : Word) :
    (u.putNow d v).finish h = (u.putOn r d v ((s.seq r).no + 1)).finishAt h (s.seq r).pc := by
  rw [putNow_of_seq hu ((congrArg Seq.no hq).trans (no_seq_issued hc h k))]
  refine finish_issued (k := k) hc hu ?_
  rw [State.putOn, seq_modSeq_self, putX_pc, hq]

@[simp] theorem State.modRange_seqs (rr : RangeRef) (f : Range → Range) : (s.modRange rr f).seqs = s.seqs := by
  cases rr <;> rfl

@[simp] theorem State.modRange_cur (rr : RangeRef) (f : Range → Range) : (s.modRange rr f).cur = s.cur := by
  cases rr <;> rfl

@[simp] theorem State.clearWords_seqs (m : RMem) (w n : Nat) : (s.clearWords m w n).seqs = s.seqs := by
  cases m <;> rfl

@[simp] theorem State.clearWords_cur (m : RMem) (w n : Nat) : (s.clearWords m w n).cur = s.cur := by
  cases m <;> rfl

end effects

/-! ### QPOST (R277, R289) -/

section qpost
variable {s : State} {r : SeqRef} {h : Hdr} {nb : Bool} {d a : Reg} {qp : BitVec 6} {b : List Byte}

/-- Whether the position that a QPOST would take is taken. -/
def QPair.full (q : QPair) : Bool := q.entries.any fun e => e.pos == q.posted % 64

/-- QPOST's checks of an image that it has read (R289, R291). -/
def State.qpostCause (s : State) (r : SeqRef) (nb : Bool) (q : QPair) (b : List Byte) : Option Cause :=
  (s.entryCheck r b).orElse fun _ =>
    if q.ctx ≠ some (s.ctxOf (strandOf r)) then some .xlatePerm
    else if q.full ∧ !nb then some .qpOverflow else none

/-- The entry that a QPOST posts (R277, R289). -/
def State.postedEntry (s : State) (r : SeqRef) (q : QPair) (b : List Byte) : WorkEntry :=
  { pos := q.posted % 64, image := putNat 56 4 (s.rqid r).toNat b, ctx := s.ctxOf (strandOf r) }

@[simp] theorem rqid_issued (k : Option Permit) : (s.issued r h k).rqid r = s.rqid r := by
  rw [State.rqid, State.rqid, issued_chain]

/-- A QPOST with a readable image whose checks pass. -/
theorem exec_qpost (m : s.mayIssue r (.qpost h nb d a qp) h (some .mem) = true) (hi : s.imageAt r (s.X a) 64 64 = .ok b)
    (hx : s.qpostCause r nb (s.qpair r.die qp.toNat) b = none) : exec (.qpost h nb d a qp) s =
      if (s.qpair r.die qp.toNat).full = true
      then .next (((s.issued r h (some .mem)).putOn r d 6 ((s.seq r).no + 1)).finishAt h (s.seq r).pc)
      else .next ((((s.issued r h (some .mem)).posted r.die qp.toNat (s.postedEntry r (s.qpair r.die qp.toNat) b)).putOn r d
        (BitVec.ofNat 64 ((s.qpair r.die qp.toNat).posted % 64)) ((s.seq r).no + 1)).finishAt h (s.seq r).pc) := by
  have hc := cur_of_mayIssue m
  show execQpost h nb d a qp s = _
  simp only [execQpost, hc, hi]
  refine (issue_eq m (by nofun) rfl rfl rfl hx rfl).trans ?_
  simp only [rqid_issued, ctxOf_issued]
  congr 1
  · exact congrArg Host.Outcome.next (finish_putNow_issued hc (cur_issued hc) rfl d 6)
  · exact congrArg Host.Outcome.next (finish_putNow_issued
      (u := (s.issued r h (some .mem)).posted r.die qp.toNat (s.postedEntry r (s.qpair r.die qp.toNat) b))
      (k := some .mem) hc (cur_issued hc) rfl d _)

/-- One whose checks fail. -/
theorem qpost_trapsOnSeq {c : Cause} : TrapsOnSeq (.qpost h nb d a qp) h (some .mem) c fun s r =>
    s.imageAt r (s.X a) 64 64 = .ok b ∧ s.qpostCause r nb (s.qpair r.die qp.toNat) b = some c := by
  rintro s r m hf ⟨hi, hx⟩
  show execQpost h nb d a qp s = _
  simp only [execQpost, cur_of_mayIssue m, hi]
  exact issue_trap_late m hf rfl rfl rfl hx

end qpost

/-! ### QSLOT (R290) -/

section qslot
variable {s : State} {r : SeqRef} {h : Hdr} {acc clr : Bool} {a b : Reg} {img : List Byte} {m : RMem} {n : Nat}

/-- The range that a QSLOT names, and its image: what its registers must hold. -/
def State.qslotNames (s : State) (r : SeqRef) (acc : Bool) (xa xb : Word) (img : List Byte) (m : RMem) (n : Nat) : Prop :=
  n = field xa 0 6 ∧ (acc = true → n < 16) ∧ m = (if acc then .acc r.die r.cl else .stg r.die) ∧ s.imageAt r xb 160 32 = .ok img

/-- No round stands on a range (R290). -/
def Range.rests (g : Range) : Bool := g.tmd || (g.filled == 0 && g.contribs.isEmpty)

theorem Range.rests_iff {g : Range} : g.rests = true ↔ g.tmd = true ∨ (g.filled = 0 ∧ g.contribs = []) := by
  simp [Range.rests]

/-- A QSLOT that names a range and an image is checked, then waits or issues. -/
theorem execQslot_eq (hc : s.cur = .seq r) (hn : s.qslotNames r acc (s.X a) (s.X b) img m n) :
    exec (.qslot h acc clr a b) s = s.issue (.qslot h acc clr a b) h
      { permit := some .mem, early := fun _ => none, late := fun s => s.imageCheck m n img
        room := fun s => if (s.range (m.ref n)).rests then none else some .range } fun t =>
      .next ((if clr then (t.modRange (m.ref n) fun _ => imageRange img).clearWords m (imageRange img).base.toNat
          (imageRange img).len.toNat else t.modRange (m.ref n) fun _ => imageRange img).finish h) := by
  obtain ⟨rfl, hacc, rfl, hi⟩ := hn
  have hlow : (acc && decide (15 < field (s.X a) 0 6)) = false := by
    cases acc with
    | false => rfl
    | true => exact decide_eq_false (Nat.not_lt.mpr (Nat.le_of_lt_succ (hacc rfl)))
  show execQslot h acc clr a b s = _
  simp only [execQslot, hc, hlow, hi]
  rfl

theorem qslot_doesOnSeq : DoesOnSeq (.qslot h acc clr a b) h (some .mem)
    (fun s r => s.qslotNames r acc (s.X a) (s.X b) img m n ∧ s.imageCheck m n img = none ∧ (s.range (m.ref n)).rests = true)
    (fun _ _ u => if clr
      then (u.modRange (m.ref n) fun _ => imageRange img).clearWords m (imageRange img).base.toNat (imageRange img).len.toNat
      else u.modRange (m.ref n) fun _ => imageRange img) := by
  rintro s r hm ⟨hn, hx, hr⟩
  have hc := cur_of_mayIssue hm
  rw [execQslot_eq hc hn]
  refine (issue_eq hm (by nofun) rfl rfl (if_pos hr) hx rfl).trans (congrArg Host.Outcome.next ?_)
  refine finish_issued (k := some .mem) hc ?_ ?_
  · cases clr <;> simp [hc]
  · cases clr <;> simp [State.seq, State.seqAt]

theorem qslot_trapsOnSeq {c : Cause} : TrapsOnSeq (.qslot h acc clr a b) h (some .mem) c fun s r =>
    s.qslotNames r acc (s.X a) (s.X b) img m n ∧ s.imageCheck m n img = some c ∧ (s.range (m.ref n)).rests = true := by
  rintro s r hm hf ⟨hn, hx, hr⟩
  rw [execQslot_eq (cur_of_mayIssue hm) hn]
  exact issue_trap_late hm hf rfl rfl (if_pos hr) hx

theorem qslot_waitsOnSeq : WaitsOnSeq (.qslot h acc clr a b) h (some .mem) .range fun s r =>
    s.qslotNames r acc (s.X a) (s.X b) img m n ∧ (s.range (m.ref n)).rests = false := by
  rintro s r hm ⟨hn, hr⟩
  rw [execQslot_eq (cur_of_mayIssue hm) hn]
  exact issue_wait hm (by nofun) rfl rfl (if_neg (Bool.eq_false_iff.mp hr))

/-- The sixteen ranges of an accumulator memory. -/
theorem qslot_trapsOnSeq_number : TrapsOnSeq (.qslot h acc clr a b) h (some .mem) .addrRange fun s _ =>
    acc = true ∧ 16 ≤ field (s.X a) 0 6 := by
  rintro s r hm hf ⟨rfl, hn⟩
  have hbeyond : (true && decide (15 < field (s.X a) 0 6)) = true := decide_eq_true hn
  show execQslot h true clr a b s = _
  simp only [execQslot, cur_of_mayIssue hm]
  exact issue_trap_early hm hf (if_pos hbeyond) (.inr rfl)

end qslot

/-- Settles O33: QPOST by what its checks come to, QSLOT by whether a round stands on its range. -/
theorem queuePairResults : Obligations.QueuePairResults := by
  refine ⟨fun h nb d a qp b full => ?qpost, fun h acc clr a b img m n => ?qslot⟩
  case qpost =>
    have hpasses : ∀ (s : State) (r : SeqRef), s.entryCheck r b = none →
        (s.qpair r.die qp.toNat).ctx = some (s.ctxOf (strandOf r)) → ((s.qpair r.die qp.toNat).full = true → nb = true) →
        s.qpostCause r nb (s.qpair r.die qp.toNat) b = none := by
      intro s r hx hctx hfull
      rw [State.qpostCause, hx, if_neg (not_not.mpr hctx), if_neg fun ⟨hf, hnb⟩ => by simp [hfull hf] at hnb]
      rfl
    refine ⟨fun hfull => ?_, fun hfull hnb => ?_, fun hfull hnb => ?_, ?_⟩
    · rintro s r m ⟨hi, hx, hctx, hf⟩
      have hroom : (s.qpair r.die qp.toNat).full = false := hf.symm.trans hfull
      rw [exec_qpost m hi (hpasses s r hx hctx fun ht => nomatch hroom.symm.trans ht), if_neg (Bool.eq_false_iff.mp hroom)]
      rfl
    · rintro s r m ⟨hi, hx, hctx, hf⟩
      exact (exec_qpost m hi (hpasses s r hx hctx fun _ => hnb)).trans (if_pos (hf.symm.trans hfull))
    · rintro s r m hroom ⟨hi, hx, hctx, hf⟩
      refine qpost_trapsOnSeq s r m hroom ⟨hi, ?_⟩
      rw [State.qpostCause, hx, if_neg (not_not.mpr hctx), if_pos ⟨hf.symm.trans hfull, by simp [hnb]⟩]
      rfl
    · rintro s r m hroom ⟨hi, hx, hctx⟩
      refine qpost_trapsOnSeq s r m hroom ⟨hi, ?_⟩
      rw [State.qpostCause, hx, if_pos hctx]
      rfl
  case qslot =>
    refine ⟨?_, fun c => ?_, ?_, qslot_trapsOnSeq_number⟩
    · rintro s r hm ⟨hn, hacc, hmem, hi, hx, hr⟩
      exact qslot_doesOnSeq s r hm ⟨⟨hn, hacc, hmem, hi⟩, hx, Range.rests_iff.mpr hr⟩
    · rintro s r hm hf ⟨hn, hacc, hmem, hi, hx, hr⟩
      exact qslot_trapsOnSeq s r hm hf ⟨⟨hn, hacc, hmem, hi⟩, hx, Range.rests_iff.mpr hr⟩
    · rintro s r hm ⟨hn, hacc, hmem, hi, -, htmd, hr⟩
      refine qslot_waitsOnSeq s r hm ⟨⟨hn, hacc, hmem, hi⟩, Bool.eq_false_iff.mpr fun he => ?_⟩
      obtain ht | ⟨hfill, hcon⟩ := Range.rests_iff.mp he
      · exact nomatch htmd.symm.trans ht
      · exact hr.elim (· hfill) (· hcon)

end Sys2Proof.Machine
end

section
/-! PROOFS. TLD, TLK, TINV and PMLD (O38; R344): the index or the way that each takes, then its work from the state in which its
hub has issued. -/

namespace Sys2Proof.Machine

section translation
variable {s : State} {die : Nat} {h : Hdr} {d a b : Reg}

/-- The first number below `n` that meets `p`. -/
theorem find?_range_first {p : Nat → Bool} {n k : Nat} (hk : k < n) (hp : p k = true) (hlow : ∀ j < k, p j = false) :
    (List.range n).find? p = some k := by
  rw [List.find?_range_eq_some]
  exact ⟨hp, List.mem_range.mpr hk, fun j hj => by simp [hlow j hj]⟩

theorem find?_range_none {p : Nat → Bool} {n : Nat} (hlow : ∀ j < n, p j = false) : (List.range n).find? p = none :=
  List.find?_eq_none.mpr fun j hj => by simp [hlow j (List.mem_range.mp hj)]

/-! ### TLD -/

theorem tldIndex_named {v : Die} {e : BitVec 64} {idx : Option (BitVec 12)} {n : Nat} (hi : idx.map BitVec.toNat = some n) :
    v.tldIndex e idx = some (n, false) := by
  obtain ⟨i, rfl, rfl⟩ := Option.map_eq_some_iff.mp hi
  rfl

/-- The entry that stands for a page is replaced where it is not locked. -/
theorem tldIndex_same {v : Die} {e old : BitVec 64} {n : Nat}
    (hs : v.tm.find? (fun p => p.2.getLsbD 12 && field p.2 33 31 == field e 33 31) = some (n, old)) (hl : old.getLsbD 13 = false) :
    v.tldIndex e none = some (n, false) := by
  simp only [Die.tldIndex, hs, hl, Bool.false_eq_true, if_false]

/-- Else the lowest invalid entry is taken. -/
theorem tldIndex_free {v : Die} {e : BitVec 64} {n : Nat}
    (hs : ∀ p ∈ v.tm, ¬ (p.2.getLsbD 12 = true ∧ field p.2 33 31 = field e 33 31)) (hn : n < 4096)
    (hv : (v.tmEntry n).getLsbD 12 = false) (hl : (v.tmEntry n).getLsbD 13 = false)
    (hlow : ∀ m < n, (v.tmEntry m).getLsbD 12 = true) : v.tldIndex e none = some (n, false) := by
  have hnone : v.tm.find? (fun p => p.2.getLsbD 12 && field p.2 33 31 == field e 33 31) = none :=
    List.find?_eq_none.mpr fun p hp => by
      rw [Bool.and_eq_true, beq_iff_eq]
      exact hs p hp
  have hfirst : (List.range 4096).find? (fun n => !(v.tmEntry n).getLsbD 12) = some n :=
    find?_range_first hn (by rw [hv]; rfl) fun m hm => by rw [hlow m hm]; rfl
  simp only [Die.tldIndex, hnone, hfirst, hl, Bool.false_eq_true, if_false]

theorem tld_refuses {v : BitVec 64} {idx : Option (BitVec 12)} (hv : field v 0 12 ≠ 0 ∨ 4 ≤ entryClass v) :
    s.tld die v idx = (s, notLoaded) := if_pos hv

/-- An entry loaded out of turn: the round-robin pointer stays. -/
theorem tld_loads {v : BitVec 64} {idx : Option (BitVec 12)} {n : Nat} (h0 : field v 0 12 = 0) (hcl : entryClass v < 4)
    (hi : (s.die die).tldIndex v idx = some (n, false)) : s.tld die v idx = (s.modDie die fun x => { x with
      tm := Tbl.set 0 x.tm n v, badTm := x.badTm.filter (· != n) }, BitVec.ofNat 64 n) := by
  have hv : ¬ (field v 0 12 ≠ 0 ∨ 4 ≤ entryClass v) := by
    rintro (h1 | h1)
    · exact h1 h0
    · exact absurd hcl (Nat.not_lt.mpr h1)
  simp only [State.tld, if_neg hv, hi]
  rfl

/-- TLD answers what its work on the die does, from the state in which it has issued. -/
theorem exec_tld {idx : Option (BitVec 12)} (m : s.hubMay die (.tld h d b idx) h = true) {u : State} {w : Word}
    (e : (s.advance h).tld die (s.X b) idx = (u, w)) (hu : u.cur = .hub die) :
    exec (.tld h d b idx) s = .next (u.modSeqAt (hubKey die) fun q => q.setX d w) := by
  show execTld h d b idx s = _
  simp only [execTld, cur_of_hubMay m]
  rw [issue_hub_eq m rfl]
  simp only [e, modMe_of_hub hu]

/-! ### TLK and TINV -/

theorem exec_tlk {l : Bool} (m : s.hubMay die (.tlk h a l) h = true) : exec (.tlk h a l) s = .next
    ((s.advance h).modDie die fun v => { v with
      tm := Tbl.set 0 v.tm (field (s.X a) 0 12) <|
        if l then Tbl.get 0 v.tm (field (s.X a) 0 12) ||| 0x2000#64 else Tbl.get 0 v.tm (field (s.X a) 0 12) &&& ~~~0x2000#64 }) := by
  show execTlk h a l s = _
  simp only [execTlk, cur_of_hubMay m]
  rw [issue_hub_eq m rfl]
  rfl

theorem exec_tinv {mode : BitVec 2} (m : s.hubMay die (.tinv h d a mode) h = true) : exec (.tinv h d a mode) s = .next
    (((s.advance h).modDie die fun v => { v with tm := v.tm.filter fun p => !tinvHits mode (s.X a) p }).modSeqAt (hubKey die)
      fun q => q.setX d (BitVec.ofNat 64 ((s.die die).tm.filter (tinvHits mode (s.X a))).length)) := by
  have hc := cur_of_hubMay m
  show execTinv h d a mode s = _
  simp only [execTinv, hc]
  rw [issue_hub_eq m rfl, die_advance, modMe_of_hub (d := die) (by exact cur_advance hc)]

/-- The entries that a mode of TINV names: mode 0 one index, modes 1 and 2 unlocked entries, of a context or all. -/
theorem tinvHits_eq (mode : BitVec 2) (xa : Word) (p : Nat × BitVec 64) : tinvHits mode xa p =
    (p.2.getLsbD 12 && (if mode = 0 then p.1 == field xa 0 12
      else !p.2.getLsbD 13 && (if mode = 1 then field p.2 33 4 == field xa 0 4 else decide (mode = 2)))) := by
  have hmode : mode = 0 ∨ mode = 1 ∨ mode = 2 ∨ mode = 3 := by revert mode; decide
  rcases hmode with rfl | rfl | rfl | rfl
  · rfl
  · exact Bool.and_assoc ..
  · simp [tinvHits]
  · simp [tinvHits]

/-! ### PMLD -/

/-- The key of a word of the position map stands in a way of a set. -/
def Die.pmHolds (x : Die) (v : BitVec 128) (set k : Nat) : Prop :=
  (Tbl.get 0 x.pm (set * 4 + k) : BitVec 128).getLsbD 59 = true
    ∧ (Tbl.get 0 x.pm (set * 4 + k) : BitVec 128).extractLsb' 88 40 = v.extractLsb' 88 40

theorem pmldWay_named {x : Die} {v : BitVec 128} {set w : Nat} {way : Option (BitVec 2)} (hw : way.map BitVec.toNat = some w) :
    x.pmldWay v set way = some (w, false) := by
  obtain ⟨i, rfl, rfl⟩ := Option.map_eq_some_iff.mp hw
  rfl

/-- The way that holds the key is replaced where it is not locked. -/
theorem pmldWay_same {x : Die} {v : BitVec 128} {set w : Nat} (hw : w < 4) (hk : ∀ k < 4, x.pmHolds v set k ↔ k = w)
    (hl : (Tbl.get 0 x.pm (set * 4 + w) : BitVec 128).getLsbD 58 = false) : x.pmldWay v set none = some (w, false) := by
  have hfirst : (List.range 4).find? (fun k => (Tbl.get 0 x.pm (set * 4 + k) : BitVec 128).getLsbD 59
      && (Tbl.get 0 x.pm (set * 4 + k) : BitVec 128).extractLsb' 88 40 == v.extractLsb' 88 40) = some w := by
    refine find?_range_first hw ?_ fun j hj => ?_
    · rw [Bool.and_eq_true, beq_iff_eq]
      exact (hk w hw).mpr rfl
    · rw [Bool.eq_false_iff, ne_eq, Bool.and_eq_true, beq_iff_eq]
      exact fun hh => Nat.ne_of_lt hj ((hk j (hj.trans hw)).mp hh)
  simp only [Die.pmldWay, hfirst, hl, Bool.false_eq_true, if_false]

/-- Else the lowest invalid way is taken. -/
theorem pmldWay_free {x : Die} {v : BitVec 128} {set w : Nat} (hw : w < 4)
    (hv : (Tbl.get 0 x.pm (set * 4 + w) : BitVec 128).getLsbD 59 = false)
    (hl : (Tbl.get 0 x.pm (set * 4 + w) : BitVec 128).getLsbD 58 = false)
    (hlow : ∀ k < w, (Tbl.get 0 x.pm (set * 4 + k) : BitVec 128).getLsbD 59 = true) (hk : ∀ k < 4, ¬ x.pmHolds v set k) :
    x.pmldWay v set none = some (w, false) := by
  have hnone : (List.range 4).find? (fun k => (Tbl.get 0 x.pm (set * 4 + k) : BitVec 128).getLsbD 59
      && (Tbl.get 0 x.pm (set * 4 + k) : BitVec 128).extractLsb' 88 40 == v.extractLsb' 88 40) = none := by
    refine find?_range_none fun j hj => ?_
    rw [Bool.eq_false_iff, ne_eq, Bool.and_eq_true, beq_iff_eq]
    exact hk j hj
  have hfirst : (List.range 4).find? (fun k => !(Tbl.get 0 x.pm (set * 4 + k) : BitVec 128).getLsbD 59) = some w :=
    find?_range_first hw (by rw [hv]; rfl) fun j hj => by rw [hlow j hj]; rfl
  simp only [Die.pmldWay, hnone, hfirst, hl, Bool.false_eq_true, if_false]

/-- A word loaded out of turn: the round-robin pointer of its set stays. -/
theorem pmld_loads {v : BitVec 128} {way : Option (BitVec 2)} {set w : Nat} (h0 : v.extractLsb' 0 58 = 0)
    (hset : set = posSet (v.extractLsb' 88 4).toNat (v.extractLsb' 108 20).toNat (v.extractLsb' 92 16).toNat)
    (hw : (s.die die).pmldWay v set way = some (w, false)) : s.pmld die v way = (s.modDie die fun x => { x with
      pm := Tbl.set 0 x.pm (set * 4 + w) v, badPm := x.badPm.filter (· != set * 4 + w) }, BitVec.ofNat 64 (set * 4 + w)) := by
  subst hset
  have h0' : ¬ v.extractLsb' 0 58 ≠ 0 := not_not.mpr h0
  simp only [State.pmld, if_neg h0', hw]
  rfl

theorem exec_pmld {way : Option (BitVec 2)} (m : s.hubMay die (.pmld h d a b way) h = true) {u : State} {w : Word}
    (e : (s.advance h).pmld die (s.X a ++ s.X b) way = (u, w)) (hu : u.cur = .hub die) :
    exec (.pmld h d a b way) s = .next (u.modSeqAt (hubKey die) fun q => q.setX d w) := by
  show execPmld h d a b way s = _
  simp only [execPmld, cur_of_hubMay m]
  rw [issue_hub_eq m rfl]
  simp only [e, modMe_of_hub hu]

end translation

/-- Settles O38: the index or the way is the one that the statement names, and each instruction does its work from the state in
which its hub has issued. -/
theorem translationResults : Obligations.TranslationResults := by
  intro h d a b
  refine ⟨fun idx n => ⟨?tld, ?tldRefused⟩, fun l => ?tlk, fun mode gone hgone => ?tinv, fun way set w v hv => ?pmld⟩
  case tld =>
    rintro s die m ⟨h0, hcl, hidx⟩
    have hc := cur_of_hubMay m
    have hi : (s.die die).tldIndex (s.X b) idx = some (n, false) := by
      rcases hidx with hi | ⟨rfl, old, hs, hl⟩ | ⟨rfl, hs, hn, hv, hl, hlow⟩
      · exact tldIndex_named hi
      · exact tldIndex_same hs hl
      · exact tldIndex_free hs hn hv hl hlow
    exact exec_tld m (tld_loads h0 hcl (by rw [die_advance, hi])) (cur_advance hc)
  case tldRefused =>
    rintro s die m hok
    exact exec_tld m (tld_refuses hok) (cur_advance (cur_of_hubMay m))
  case tlk =>
    rintro s die m -
    exact exec_tlk m
  case tinv =>
    rintro s die m -
    have hhits : gone s = tinvHits mode (s.X a) := by
      rw [hgone]
      exact funext fun p => (tinvHits_eq mode (s.X a) p).symm
    exact (exec_tinv m).trans (by simp only [hhits])
  case pmld =>
    rintro s die m ⟨h0, hset, hway⟩
    have hc := cur_of_hubMay m
    subst hv
    have hw : (s.die die).pmldWay (s.X a ++ s.X b) set way = some (w, false) := by
      rcases hway with hw | ⟨rfl, hw, hk, hl⟩ | ⟨rfl, hw, hv, hl, hlow, hk⟩
      · exact pmldWay_named hw
      · exact pmldWay_same hw hk hl
      · exact pmldWay_free hw hv hl hlow hk
    exact exec_pmld m (pmld_loads h0 hset (by rw [die_advance, hw])) (cur_advance hc)

end Sys2Proof.Machine
end

section
/-! PROOFS. How a strand comes to stop (O35; R326 to R328, R340): what a cause does to a running strand, then what the sequencers of
a strand that stops leave of it. -/

namespace Sys2Proof.Machine

section stop
variable {s t u : State} {r : SeqRef} {st : StrandRef} {i : StopInfo} {c : Cause}

/-! ### A cause (R326, R327) -/

theorem missRecord_of_sound {die : Nat} (h : (s.die die).badTm = []) (ctx : BitVec 4) (vpn : Nat) :
    s.missRecord die ctx vpn = s := by
  have hnone : (s.die die).softTm ctx vpn = none := by simp [Die.softTm, h]
  simp only [State.missRecord, hnone]

theorem posRecord_of_sound {die : Nat} (h : (s.die die).badPm = []) (ctx req tpg : Nat) : s.posRecord die ctx req tpg = s := by
  have hnone : (s.die die).posFind true ctx req tpg = none := by simp [Die.posFind, h]
  simp only [State.posRecord, hnone]

/-- A cause that is no miss, or a miss on a die with no damaged entry, posts no record of one (R103). -/
theorem softMiss_none {die : Nat} (h : (c ≠ .xlateMiss ∧ c ≠ .posmapMiss) ∨ ((s.die die).badTm = [] ∧ (s.die die).badPm = []))
    (ctx : BitVec 4) (w : Word) : s.softMiss die ctx c w = s := by
  cases c with
  | xlateMiss =>
    obtain ⟨htm, -⟩ := h.resolve_left fun hh => hh.1 rfl
    exact missRecord_of_sound htm _ _
  | posmapMiss =>
    obtain ⟨-, hpm⟩ := h.resolve_left fun hh => hh.2 rfl
    exact posRecord_of_sound hpm _ _ _
  | _ => rfl

/-- R326: a cause makes its running strand begin to stop. -/
theorem raise_stopsFor (hr : (s.strand (strandOf r)).stop = .running)
    (h : (c ≠ .xlateMiss ∧ c ≠ .posmapMiss) ∨ ((s.die r.die).badTm = [] ∧ (s.die r.die).badPm = [])) (pt : Point)
    (pc : BitVec 48) (pix : Nat) (w : Word) :
    s.raise r c pt pc pix w = s.stopsFor (strandOf r) ⟨c, pt, r.cls, pc, BitVec.ofNat 32 pix, w, s.tsc r.die, 0⟩ := by
  simp only [State.raise, hr]
  rw [softMiss_none (die := (strandOf r).die) h]
  rfl

/-- R340: TRAP raises its cause in the state in which it has issued. -/
theorem trap_issuesOnSeq (h : Hdr) (n : BitVec 5) (m : BitVec 16) : IssuesOnSeq (.trap h n m) h none (fun _ _ => True)
    fun s r u => u.stopsFor (strandOf r)
      ⟨.userTrap, .d, r.cls, (s.seq r).pc, 0, BitVec.ofNat 64 (m.toNat * 32 + n.toNat), s.tsc r.die, 0⟩ := by
  intro s r hm _
  have hc := cur_of_mayIssue hm
  have hrun : ((s.issued r h none).strand (strandOf r)).stop = .running := by
    obtain ⟨q, f, l, e⟩ := strand_issued s r h none (strandOf r)
    simp only [State.mayIssue, Bool.and_eq_true, decide_eq_true_eq] at hm
    obtain ⟨⟨⟨⟨⟨⟨⟨-, hrun⟩, -⟩, -⟩, -⟩, -⟩, -⟩, -⟩ := hm
    rw [e]
    exact hrun
  show execTrap h n m s = _
  rw [execTrap, issue_eq (p := {}) hm nofun rfl rfl rfl rfl rfl]
  simp only [hc]
  rw [raise_stopsFor (c := .userTrap) hrun (.inl ⟨by nofun, by nofun⟩), tsc_issued]
  rfl

/-! ### Nothing of the strand at other members (R136) -/

/-- The sequencers of a strand have no LDS and no tuple request under way. -/
def State.idleAt (s : State) (st : StrandRef) : Prop := ∀ k, (s.seq (seqOf st k)).lds = [] ∧ (s.seq (seqOf st k)).tup = []

theorem mem_allCls (k : Cls) : k ∈ allCls := by cases k <;> decide

/-- Without a tuple request there is nothing to cancel. -/
theorem askCancel_of_idle (h : s.idleAt st) : s.askCancel st = s := by
  unfold State.askCancel
  split
  · rfl
  · refine foldl_stays fun k _ => ?_
    dsimp only
    rw [(h k).2]
    rfl

theorem settleStop_asks (hs : (s.strand st).stop = .stopping i) (hu : (s.askCancel st).unsettled st = true) :
    s.settleStop st = s.askCancel st := by
  simp only [State.settleStop, hs, hu, if_true]

theorem settleStop_finishes (hs : (s.strand st).stop = .stopping i) (hu : s.unsettled st = false) (h : s.idleAt st) :
    s.settleStop st = s.finishStop st := by
  simp only [State.settleStop, hs, askCancel_of_idle h, hu, Bool.false_eq_true, if_false]

theorem exec_strandStop_of_stopping (hs : (s.strand st).stop = .stopping i) : exec (.strandStop st c) s = .next (s.settleStop st) := by
  show execStrandStop st c s = _
  simp only [execStrandStop, hs]

/-! ### What the sequencers of a strand that stops leave of it (R326) -/

/-- From `s` to `u` the sequencers of a strand come to rest: it still stops for its cause, and what waits for its hub and where its
frame goes are as they were. -/
structure Rests (st : StrandRef) (s u : State) : Prop where
  stop : (u.strand st).stop = (s.strand st).stop
  hub : ∀ d, (u.die d).hub = (s.die d).hub
  frameBase : u.frameBase = s.frameBase
  idle : ∀ j, (s.seqAt j).lds = [] ∧ (s.seqAt j).tup = [] → (u.seqAt j).lds = [] ∧ (u.seqAt j).tup = []
  wait : ∀ j, (s.seqAt j).wait = none → (u.seqAt j).wait = none

namespace Rests

theorem refl (s : State) : Rests st s s := ⟨rfl, fun _ => rfl, rfl, fun _ h => h, fun _ h => h⟩

theorem trans (h : Rests st s t) (g : Rests st t u) : Rests st s u :=
  ⟨g.stop.trans h.stop, fun d => (g.hub d).trans (h.hub d), g.frameBase.trans h.frameBase, fun j x => g.idle j (h.idle j x),
    fun j x => g.wait j (h.wait j x)⟩

/-- A sequencer written, with no LDS, request or wait that it had not. -/
theorem modSeq (r : SeqRef) {f : Seq → Seq} (hi : ∀ q, q.lds = [] ∧ q.tup = [] → (f q).lds = [] ∧ (f q).tup = [])
    (hw : ∀ q, q.wait = none → (f q).wait = none) : Rests st s (s.modSeq r f) where
  stop := rfl
  hub _ := rfl
  frameBase := rfl
  idle j h := by
    rw [seqAt_modSeq]
    split
    · next e => exact hi _ (by subst e; exact h)
    · exact h
  wait j h := by
    rw [seqAt_modSeq]
    split
    · next e => exact hw _ (by subst e; exact h)
    · exact h

theorem foldl {α : Type} {l : List α} {f : State → α → State} (hf : ∀ s, ∀ a ∈ l, Rests st s (f s a)) (s : State) :
    Rests st s (l.foldl f s) :=
  List.foldlRecOn l f (motive := Rests st s) (refl s) fun t ht a ha => ht.trans (hf t a ha)

theorem unpop (v : StrandRef) (q : Option (BitVec 3)) : Rests st s (s.unpop v q) := by
  unfold State.unpop
  split
  · split
    · refine ⟨?_, fun _ => rfl, rfl, fun _ h => h, fun _ h => h⟩
      rw [strand_modStrand]
      split
      · next e => rw [State.strand, State.strand, e]; rfl
      · rfl
    · exact refl s
  · exact refl s

theorem abandonWait (r : SeqRef) : Rests st s (s.abandonWait r) := by
  unfold State.abandonWait
  dsimp only
  split
  · split
    · exact (unpop _ _).trans (modSeq r (fun _ h => h) fun _ _ => rfl)
    · exact (unpop _ _).trans (modSeq r (fun _ h => h) fun _ _ => rfl)
  · exact (unpop _ _).trans (modSeq r (fun _ h => h) fun _ _ => rfl)

theorem releaseFar (r : SeqRef) (k : Cmd) : Rests st s (s.releaseFar r k) := by
  unfold State.releaseFar
  split
  · split
    · exact ⟨rfl, fun _ => rfl, rfl, fun _ h => h, fun _ h => h⟩
    · exact refl s
  · exact refl s

end Rests

/-- A table whose values are mapped, where the value of a key that is not in it maps to itself. -/
theorem get_mapValues {α : Type} {d : α} {f : α → α} (hd : f d = d) (l : Tbl α) (k : Nat) :
    Tbl.get d (l.map fun p => (p.1, f p.2)) k = f (Tbl.get d l k) := by
  induction l with
  | nil => exact hd.symm
  | cons p l ih =>
    obtain ⟨j, v⟩ := p
    by_cases hj : j = k
    · exact (if_pos hj).trans (congrArg f (if_pos hj).symm)
    · exact (if_neg hj).trans (ih.trans (congrArg f (if_neg hj).symm))

/-- The ranges of a die changed alone. -/
def Die.mapRanges (f : Range → Range) (v : Die) : Die := { v with ranges := v.ranges.map fun p => (p.1, f p.2) }

theorem Rests.dropClaims (r : SeqRef) (ns : List Nat) : Rests st s (s.dropClaims r ns) where
  stop := rfl
  hub d := by
    unfold State.dropClaims
    extract_lets keep fix
    exact (congrArg Die.hub (get_mapValues (d := {}) (f := Die.mapRanges fix) rfl s.dies d) :)
  frameBase := rfl
  idle _ h := h
  wait _ h := h

/-- The wait of a sequencer that stops is abandoned. -/
theorem abandonWait_wait (r : SeqRef) : ((s.abandonWait r).seq r).wait = none := by
  unfold State.abandonWait
  dsimp only
  split
  · split
    · rw [State.recall, seq_modSeq_self]
    · rw [seq_modSeq_self]
  · rw [seq_modSeq_self]

theorem ldsAll_of_none {r : SeqRef} (h : (s.seq r).lds = []) (n : Nat) : s.ldsAll r n = s := by
  cases n with
  | zero => rfl
  | succ n => simp only [State.ldsAll, h]

theorem takeDone_of_none {r : SeqRef} (h : (s.seq r).tup = []) : s.takeDone r = s := by
  rw [State.takeDone, h]
  rfl

theorem Rests.cancelAll {r : SeqRef} (h : (s.seq r).tup = []) : Rests st s (s.cancelAll r) := by
  rw [State.cancelAll, h]
  exact .modSeq r (fun _ h => ⟨h.1, rfl⟩) fun _ h => h

/-- Once its wait is abandoned, a sequencer that stops with no LDS and no request only comes to rest. -/
theorem stopSeq_of_abandoned {r : SeqRef} (h : (s.seq r).lds = [] ∧ (s.seq r).tup = []) :
    Rests st (s.abandonWait r) (s.stopSeq r) := by
  obtain ⟨hlds, htup⟩ := (Rests.abandonWait (st := st) r).idle (seqKey r) h
  unfold State.stopSeq
  extract_lets s1 s2 cs s3
  have e1 : s1 = s.abandonWait r := by
    show ((s.abandonWait r).ldsAll r 16).takeDone r = _
    rw [ldsAll_of_none hlds, takeDone_of_none htup]
  have h3 : Rests st s1 s3 :=
    (Rests.cancelAll (by rw [e1]; exact htup)).trans ((Rests.dropClaims r _).trans (.foldl (fun t k _ => .releaseFar r k) _))
  rw [← e1]
  split
  · exact h3.trans (.modSeq r (fun _ h => h) fun _ h => h)
  · exact h3

theorem Rests.stopSeq {r : SeqRef} (h : (s.seq r).lds = [] ∧ (s.seq r).tup = []) : Rests st s (s.stopSeq r) :=
  (Rests.abandonWait r).trans (stopSeq_of_abandoned h)

/-- A sequencer that stops no longer waits. -/
theorem stopSeq_wait {r : SeqRef} (h : (s.seq r).lds = [] ∧ (s.seq r).tup = []) : ((s.stopSeq r).seq r).wait = none :=
  (stopSeq_of_abandoned (st := strandOf r) h).wait (seqKey r) (abandonWait_wait r)

/-- The sequencers of a strand stopped, one after another. -/
def State.seqsStopped (s : State) (st : StrandRef) : State := allCls.foldl (fun a c => a.stopSeq (seqOf st c)) s

/-- So do several sequencers of a strand, one after another. -/
theorem stopSeqs_rest {l : List Cls} (h : s.idleAt st) : Rests st s (l.foldl (fun a c => a.stopSeq (seqOf st c)) s)
    ∧ ∀ k ∈ l, ((l.foldl (fun a c => a.stopSeq (seqOf st c)) s).seq (seqOf st k)).wait = none := by
  induction l generalizing s with
  | nil => exact ⟨.refl s, nofun⟩
  | cons k l ih =>
    have hk : Rests st s (s.stopSeq (seqOf st k)) := .stopSeq (h k)
    have hwait : ((s.stopSeq (seqOf st k)).seq (seqOf st k)).wait = none := stopSeq_wait (h k)
    have hidle : (s.stopSeq (seqOf st k)).idleAt st := fun c => hk.idle (seqKey (seqOf st c)) (h c)
    obtain ⟨hl, hws⟩ := ih hidle
    simp only [List.foldl_cons]
    refine ⟨hk.trans hl, fun c hc => ?_⟩
    rcases List.mem_cons.mp hc with rfl | hc
    · exact hl.wait (seqKey (seqOf st c)) hwait
    · exact hws c hc

/-! ### The strand stops (R326 to R328) -/

/-- The engines of a sequencer emptied, and its operations in flight written to its frame. -/
def Seq.emptied (q : Seq) : Seq :=
  { q with flights := [], cancelled := [], copyQ := [], vecQ := [], matQ := [], collQ := [], landQ := [] }

/-- What is kept of the commands of a sequencer that stops. -/
def Seq.keptCmds (q : Seq) : Seq := allEngines.foldl (fun q e => q.setQueue e ((q.queue e).map Cmd.stopped)) q

theorem keptCmds_eq (q : Seq) : q.keptCmds = { q with
    copyQ := q.copyQ.map Cmd.stopped, vecQ := q.vecQ.map Cmd.stopped, matQ := q.matQ.map Cmd.stopped
    collQ := q.collQ.map Cmd.stopped, landQ := q.landQ.map Cmd.stopped } := rfl

theorem Rests.keptCmds (r : SeqRef) : Rests st s (s.modSeq r Seq.keptCmds) :=
  .modSeq r (fun q h => by rw [keptCmds_eq]; exact h) fun q h => by rw [keptCmds_eq]; exact h

theorem Rests.emptied (r : SeqRef) : Rests st s (s.modSeq r Seq.emptied) :=
  .modSeq r (fun _ h => h) fun _ h => h

/-- Every sequencer of a strand has been emptied, one after another. -/
theorem emptied_foldl {l : List Cls} {k : Cls} (hk : k ∈ l ∨ (s.seq (seqOf st k)).flights = [] ∧ (s.seq (seqOf st k)).cmds = []) :
    ((l.foldl (fun a c => a.modSeq (seqOf st c) Seq.emptied) s).seq (seqOf st k)).flights = []
      ∧ ((l.foldl (fun a c => a.modSeq (seqOf st c) Seq.emptied) s).seq (seqOf st k)).cmds = [] := by
  induction l generalizing s with
  | nil => exact hk.resolve_left List.not_mem_nil
  | cons c l ih =>
    refine ih ?_
    by_cases hc : seqKey (seqOf st c) = seqKey (seqOf st k)
    · right
      rw [State.seq, seqAt_modSeq, if_pos hc]
      exact ⟨rfl, rfl⟩
    · rw [State.seq, seqAt_modSeq, if_neg hc]
      refine hk.imp_left fun hm => (List.mem_cons.mp hm).resolve_left ?_
      rintro rfl
      exact hc rfl

/-- The sequencers of a strand that stops at rest, its frame written and its engines empty. -/
def State.emptied (s : State) (st : StrandRef) (i : StopInfo) : State :=
  let u := allCls.foldl (fun a c => a.modSeq (seqOf st c) Seq.keptCmds) s
  allCls.foldl (fun a c => a.modSeq (seqOf st c) Seq.emptied) (u.writeMem (u.frameArea st) (u.frame st i.cause))

def Strand.stops (i : StopInfo) (now : Nat) (t : Strand) : Strand :=
  { t with stop := .stopped { i with at_ := now }, preempt := t.preempt && i.cause != .preempt }

/-- A strand stopped, with what is kept beside its frame. -/
def State.stopped (s : State) (st : StrandRef) (i : StopInfo) (now : Nat) (b : Beside) : State :=
  { s.modStrand st (Strand.stops i now) with beside := b :: s.beside.filter fun x => !x.of b.wid b.launchId }

theorem stop_stopped {now : Nat} {b : Beside} : ((s.stopped st i now b).strand st).stop = .stopped { i with at_ := now } := by
  show ((s.modStrand st (Strand.stops i now)).strand st).stop = _
  rw [strand_modStrand, if_pos rfl]
  rfl

theorem seqAt_stopped {now : Nat} {b : Beside} (j : Nat) : (s.stopped st i now b).seqAt j = s.seqAt j := rfl

theorem die_stopped {now : Nat} {b : Beside} (d : Nat) : (s.stopped st i now b).die d = s.die d := rfl

theorem frameArea_stopped {now : Nat} {b : Beside} : (s.stopped st i now b).frameArea st = s.frameArea st := rfl

theorem Rests.frameArea (h : Rests st s u) : u.frameArea st = s.frameArea st := by
  rw [State.frameArea, State.frameArea, h.frameBase]

/-- A free hub takes up the first stopped strand of its queue (R326, R327). -/
theorem loadTrap_takes {die : Nat} {rest : List StrandRef} (hh : (s.die die).hub.held = none)
    (hq : (s.die die).hub.trapQ = st :: rest) (hs : (s.strand st).stop = .stopped i) :
    s.loadTrap die = s.setDie die { s.die die with hub := { (s.die die).hub with
      held := some st, trapQ := rest, regs := { (s.die die).hub.regs with
        tcause := i.tcause st, tepc := i.tepc.setWidth 64, tframe := BitVec.ofNat 64 (s.frameArea st + 1) } } } := by
  simp only [State.loadTrap, hh, hq, hs]

/-- A strand put into the queue of its hub, which takes one up where it is free (R326, R327). -/
def State.handed (s : State) (st : StrandRef) : State :=
  (s.modDie st.die fun d => { d with hub := { d.hub with trapQ := s.insertTrap st d.hub.trapQ } }).loadTrap st.die

/-- A free hub with nothing in its queue takes it up. -/
theorem handed_takes (hh : (s.die st.die).hub.held = none) (hq : (s.die st.die).hub.trapQ = [])
    (hs : (s.strand st).stop = .stopped i) : ∃ v, s.handed st = { s with dies := v }
      ∧ ((s.handed st).die st.die).hub.held = some st ∧ ((s.handed st).die st.die).hub.regs.tepc = i.tepc.setWidth 64
      ∧ ((s.handed st).die st.die).hub.regs.tcause = i.tcause st
      ∧ ((s.handed st).die st.die).hub.regs.tframe = BitVec.ofNat 64 (s.frameArea st + 1) := by
  have hload := loadTrap_takes (s := s.modDie st.die fun d => { d with hub := { d.hub with trapQ := s.insertTrap st d.hub.trapQ } })
    (die := st.die) (st := st) (i := i) (rest := []) (by simp [hh]) (by simp [hq, State.insertTrap]) hs
  have hhand : s.handed st = _ := hload
  refine ⟨_, hhand.trans rfl, ?_⟩
  rw [hhand, die_setDie, if_pos rfl]
  exact ⟨rfl, rfl, rfl, rfl⟩

/-- What is kept beside the frame of a strand at rest. -/
def State.besideFrame (s : State) (st : StrandRef) : Beside :=
  (allCls.foldl (fun a c => a.modSeq (seqOf st c) Seq.keptCmds) s).besideOf st

theorem finishStop_eq (hs : ((s.seqsStopped st).strand st).stop = .stopping i) : s.finishStop st =
    (((s.seqsStopped st).emptied st i).stopped st i (s.tsc st.die) ((s.seqsStopped st).besideFrame st)).handed st := by
  unfold State.finishStop
  extract_lets s1
  simp only [show (s1.strand st).stop = .stopping i from hs]
  rfl

theorem Rests.toEmptied : Rests st s (s.emptied st i) := by
  unfold State.emptied
  extract_lets u
  have hu : Rests st s u := .foldl (fun t c _ => .keptCmds _) s
  have hm : Rests st u (u.writeMem (u.frameArea st) (u.frame st i.cause)) :=
    ⟨rfl, fun _ => rfl, rfl, fun _ h => h, fun _ h => h⟩
  exact (hu.trans hm).trans (.foldl (fun t c _ => .emptied _) _)

theorem seq_emptied (k : Cls) : ((s.emptied st i).seq (seqOf st k)).flights = []
    ∧ ((s.emptied st i).seq (seqOf st k)).cmds = [] :=
  emptied_foldl (.inl (mem_allCls k))

/-- R326, R327: a strand with nothing under way stops, and its free hub takes it up. -/
theorem finishStop_taken (hs : (s.strand st).stop = .stopping i) (hidle : s.idleAt st) (hheld : (s.die st.die).hub.held = none)
    (hq : (s.die st.die).hub.trapQ = []) : ((s.finishStop st).strand st).stop = .stopped { i with at_ := s.tsc st.die }
      ∧ ((s.finishStop st).die st.die).hub.held = some st
      ∧ ((s.finishStop st).die st.die).hub.regs.tepc = i.tepc.setWidth 64
      ∧ ((s.finishStop st).die st.die).hub.regs.tcause = i.tcause st
      ∧ ((s.finishStop st).die st.die).hub.regs.tframe = BitVec.ofNat 64 (s.frameArea st + 1)
      ∧ ∀ k, ((s.finishStop st).seq (seqOf st k)).flights = [] ∧ ((s.finishStop st).seq (seqOf st k)).cmds = []
        ∧ ((s.finishStop st).seq (seqOf st k)).wait = none := by
  have hall : Rests st s (s.seqsStopped st) ∧ ∀ k ∈ allCls, ((s.seqsStopped st).seq (seqOf st k)).wait = none := stopSeqs_rest hidle
  obtain ⟨hrest, hwait⟩ := hall
  rw [finishStop_eq (hrest.stop.trans hs)]
  generalize s.seqsStopped st = s1 at hrest hwait ⊢
  have hempty : Rests st s (s1.emptied st i) := hrest.trans .toEmptied
  have hsame := hempty.hub st.die
  generalize hu : (s1.emptied st i).stopped st i (s.tsc st.die) (s1.besideFrame st) = u
  have hstop : (u.strand st).stop = .stopped { i with at_ := s.tsc st.die } := by rw [← hu]; exact stop_stopped
  have hseq (k : Cls) : u.seq (seqOf st k) = (s1.emptied st i).seq (seqOf st k) := by rw [← hu]; exact seqAt_stopped _
  have hdie : u.die st.die = (s1.emptied st i).die st.die := by rw [← hu]; exact die_stopped _
  have hframe : u.frameArea st = s.frameArea st := by rw [← hu, frameArea_stopped, hempty.frameArea]
  obtain ⟨v, hv, hheld', htepc, htcause, htframe⟩ := handed_takes (by rw [hdie, hsame, hheld]) (by rw [hdie, hsame, hq]) hstop
  refine ⟨by rw [hv]; exact hstop, hheld', htepc, htcause, by rw [htframe, hframe], fun k => ?_⟩
  have hk : (u.handed st).seq (seqOf st k) = (s1.emptied st i).seq (seqOf st k) := by
    rw [hv, ← hseq k]
    rfl
  obtain ⟨hflights, hcmds⟩ := seq_emptied (s := s1) (st := st) (i := i) k
  rw [hk]
  exact ⟨hflights, hcmds, Rests.toEmptied.wait _ (hwait k (mem_allCls k))⟩

end stop

/-- Settles O35: a cause makes its strand begin to stop; a strand with nothing unsettled and nothing under way comes to rest, and its
free hub takes it up. -/
theorem trapEntry : Obligations.TrapEntry := by
  refine ⟨trap_issuesOnSeq, fun s r c pt pc pix w hr h => raise_stopsFor hr h pt pc pix w, fun s st c i hs hu => ?asks,
    fun s st c i hs hu hidle hheld hq => ?stops⟩
  case asks => rw [exec_strandStop_of_stopping hs, settleStop_asks hs hu]
  case stops =>
    rw [exec_strandStop_of_stopping hs, settleStop_finishes hs hu hidle]
    exact ⟨_, rfl, finishStop_taken hs hidle hheld hq⟩

end Sys2Proof.Machine
end

section
/-! PROOFS. LNCH (O37; R306, R321): its checks come to a header or to a cause, then what an LNCH with its header does, on a sequencer
and on a hub. -/

namespace Sys2Proof.Machine

section lnch
variable {s u : State} {r : SeqRef} {die : Nat} {h : Hdr} {nb : Bool} {d a : Reg} {lq : BitVec 6} {hdr : List Byte} {c : Cmd}
  {n : Nat} {v : Word}

/-! ### With a header that passes its checks -/

theorem lnchHold_appends_seq (hc : s.cur = .seq r) (hn : (s.queue n).ids.length < 64) :
    lnchHold nb d n s c = .ends ((s.append (s.ctxOf (strandOf r)) n c.data).1.endHold c d
      (zext32 (s.append (s.ctxOf (strandOf r)) n c.data).2 <<< 32)) := by
  have hroom : (s.queue n).full = false := decide_eq_false (Nat.not_le.mpr hn)
  simp only [lnchHold, hroom, hc]
  rfl

theorem lnchHold_appends_hub (hc : s.cur = .hub die) (hn : (s.queue n).ids.length < 64) :
    lnchHold nb d n s c = .ends ((s.append (s.queue n).ctx n c.data).1.endHold c d
      (zext32 (s.append (s.queue n).ctx n c.data).2 <<< 32)) := by
  have hroom : (s.queue n).full = false := decide_eq_false (Nat.not_le.mpr hn)
  simp only [lnchHold, hroom, hc]
  rfl

theorem lnchHold_full (hn : 64 ≤ (s.queue n).ids.length) : lnchHold true d n s c = .ends (s.endHold c d 6) := by
  have hfull : (s.queue n).full = true := decide_eq_true hn
  simp only [lnchHold, hfull]
  rfl

theorem lnchHold_waits (hn : 64 ≤ (s.queue n).ids.length) : lnchHold false d n s c = .stays s := by
  have hfull : (s.queue n).full = true := decide_eq_true hn
  simp only [lnchHold, hfull]
  rfl

/-- The instruction that an LNCH holds its agent with. -/
def State.launching (s : State) (g : Agent) (i : Instr) (va : Word) (hdr : List Byte) : Cmd :=
  { s.heldOf g i va 0 none with data := hdr }

/-- The end of an LNCH of a sequencer: its register, then its token. -/
theorem endHold_lnch_seq (hu : u.cur = .seq r) (va : Word) :
    u.endHold (s.launching (.seq r) (.lnch h nb d a lq) va hdr) d v
      = (u.putOn r d v ((s.seq r).no + 1)).finishAt h (s.seq r).pc := by
  have hput : (u.putOn r d v ((s.seq r).no + 1)).cur = .seq r := hu
  rw [finishAt_of_seq hput]
  exact endHold_seq hu d v

theorem endHold_lnch_hub (hu : u.cur = .hub die) (va : Word) :
    u.endHold (s.launching (.hub die) (.lnch h nb d a lq) va hdr) d v
      = u.modSeqAt (hubKey die) fun q => q.putX d v ((s.seqAt (hubKey die)).no + 1) u.cycles := by
  have hput : (u.modMe fun q => q.putX d v ((s.seqAt (hubKey die)).no + 1) u.cycles).cur = .hub die := hu
  rw [← modMe_of_hub hu]
  exact finishAt_of_hub hput _

theorem queue_issued (k : Option Permit) (n : Nat) : (s.issued r h k).queue n = s.queue n := by
  rw [State.queue, State.queue, issued_sched]

/-! ### On a sequencer -/

/-- What a sequencer's LNCH reads: a valid queue of its context, and 192 bytes that its team may read. -/
def State.launchReads (s : State) (r : SeqRef) (va : Word) (n : Nat) (hdr : List Byte) : Prop :=
  ((s.queue n).valid = true ∧ (s.queue n).ctx = s.ctxOf (strandOf r)) ∧ va.toNat % 64 = 0
    ∧ (∃ pa, s.translate (strandOf r) va 1 .read = .ok pa)
    ∧ ∃ runs, s.slabRuns r.die (s.ctxOf (strandOf r)) va.toNat 192 .read = .ok runs ∧ hdr = runs.flatMap fun p => s.readMem p.1 p.2

/-- The header that a sequencer's LNCH reads, or the check that fails first. -/
def State.launchHeader (s : State) (r : SeqRef) (va : Word) (n : Nat) : Except Cause (List Byte) :=
  if !(s.queue n).valid || (s.queue n).ctx != s.ctxOf (strandOf r) then .error .xlatePerm
  else if va.toNat % 64 ≠ 0 then .error .align
  else (s.translate (strandOf r) va 1 .read).bind fun _ =>
    (s.slabRuns r.die (s.ctxOf (strandOf r)) va.toNat 192 .read).map fun rs => rs.flatMap fun (pa, m) => s.readMem pa m

theorem lnchSeq_eq {i : Instr} : s.lnchSeq r i h nb d a n = s.issue i h
    { miss := if (tmLookup (s.die r.die).goodTm (s.ctxOf (strandOf r)) ((s.X a).toNat / 0x200000)).isSome
        then (s.X a).toNat / 0x200000 + 1 else (s.X a).toNat / 0x200000
      early := fun _ => errorOf (s.launchHeader r (s.X a) n)
      late := fun _ => if headerBad ((s.launchHeader r (s.X a) n).toOption.getD []) then some .launchHeader else none } fun t =>
    t.launchWith i h nb d n (s.X a) ((s.launchHeader r (s.X a) n).toOption.getD []) := rfl

theorem not_foreign {q : LQueue} {x : BitVec 4} (hv : q.valid = true) (hx : q.ctx = x) : ¬ (!q.valid || q.ctx != x) = true := by
  simp [hv, hx]

theorem launchHeader_reads {va : Word} (hr : s.launchReads r va n hdr) : s.launchHeader r va n = .ok hdr := by
  obtain ⟨⟨hv, hx⟩, ha, ⟨pa, hpa⟩, runs, hruns, rfl⟩ := hr
  rw [State.launchHeader, if_neg (not_foreign hv hx), if_neg (not_not.mpr ha), hpa, hruns]
  rfl

theorem launchHeader_foreign {va : Word} (hf : ¬ ((s.queue n).valid = true ∧ (s.queue n).ctx = s.ctxOf (strandOf r))) :
    s.launchHeader r va n = .error .xlatePerm := by
  refine if_pos ?_
  rw [Bool.or_eq_true, Bool.not_eq_true', bne_iff_ne]
  by_cases hv : (s.queue n).valid = true
  · exact .inr fun hx => hf ⟨hv, hx⟩
  · exact .inl (Bool.eq_false_iff.mpr hv)

theorem launchHeader_misaligned {va : Word} (hv : (s.queue n).valid = true) (hx : (s.queue n).ctx = s.ctxOf (strandOf r))
    (ha : va.toNat % 64 ≠ 0) : s.launchHeader r va n = .error .align := by
  rw [State.launchHeader, if_neg (not_foreign hv hx), if_pos ha]

theorem launchHeader_untranslated {va : Word} {e : Cause} (hv : (s.queue n).valid = true)
    (hx : (s.queue n).ctx = s.ctxOf (strandOf r)) (ha : va.toNat % 64 = 0)
    (he : s.translate (strandOf r) va 1 .read = .error e) : s.launchHeader r va n = .error e := by
  rw [State.launchHeader, if_neg (not_foreign hv hx), if_neg (not_not.mpr ha), he]
  rfl

/-- A sequencer's LNCH whose header passes its checks issues with it. -/
theorem exec_lnch_seq (m : s.mayIssue r (.lnch h nb d a lq) h none = true) (hr : s.launchReads r (s.X a) lq.toNat hdr)
    (hb : headerBad hdr = false) : exec (.lnch h nb d a lq) s = (s.issued r h none).holdIn
      (s.launching (.seq r) (.lnch h nb d a lq) (s.X a) hdr) .launch (lnchHold nb d lq.toNat) := by
  have hhdr := launchHeader_reads hr
  have hkept := heldCmd_issued (h := h) (k := none) (cur_of_mayIssue m) (.lnch h nb d a lq) (s.X a) 0 none
  show execLnch h nb d a lq s = _
  simp only [execLnch, cur_of_mayIssue m]
  rw [lnchSeq_eq]
  refine (issue_eq m (by nofun) (by rw [hhdr]; rfl) rfl rfl (by rw [hhdr]; exact if_neg (by simp [Except.toOption, hb])) rfl).trans ?_
  simp only [hhdr, State.launchWith, hkept]
  rfl

theorem lnch_trapsOnSeq_early {e : Cause} {ok : State → SeqRef → Prop} (he : e ≠ .xlateMiss)
    (hok : ∀ s r, ok s r → s.launchHeader r (s.X a) lq.toNat = .error e) : TrapsOnSeq (.lnch h nb d a lq) h none e ok := by
  intro s r m hf hs
  show execLnch h nb d a lq s = _
  simp only [execLnch, cur_of_mayIssue m]
  rw [lnchSeq_eq]
  exact issue_trap_early m hf (by rw [hok s r hs]; rfl) (.inl he)

theorem lnch_trapsOnSeq_header {ok : State → SeqRef → Prop} (hb : headerBad hdr = true)
    (hok : ∀ s r, ok s r → s.launchReads r (s.X a) lq.toNat hdr) : TrapsOnSeq (.lnch h nb d a lq) h none .launchHeader ok := by
  intro s r m hf hs
  have hhdr := launchHeader_reads (hok s r hs)
  show execLnch h nb d a lq s = _
  simp only [execLnch, cur_of_mayIssue m]
  rw [lnchSeq_eq]
  exact issue_trap_late m hf (by rw [hhdr]; rfl) rfl rfl (by rw [hhdr]; exact if_pos hb)

/-! ### On a hub -/

/-- The check of a hub's LNCH that fails first. -/
def State.hubLaunchCause (s : State) (va : Word) (n : Nat) : Option Cause :=
  if !(s.queue n).valid then some .xlatePerm
  else if va.toNat % 64 ≠ 0 then some .align
  else if slabSize < va.toNat + 192 then some .addrRange
  else if headerBad (s.readMem va.toNat 192) then some .launchHeader
  else none

theorem exec_lnch_hub (m : s.hubMay die (.lnch h nb d a lq) h = true) (hn : s.hubLaunchCause (s.X a) lq.toNat = none) :
    exec (.lnch h nb d a lq) s = (s.advance h).holdIn
      (s.launching (.hub die) (.lnch h nb d a lq) (s.X a) (s.readMem (s.X a).toNat 192)) .launch (lnchHold nb d lq.toNat) := by
  have hc := cur_of_hubMay m
  have hkept := heldCmd_advance (h := h) hc (.lnch h nb d a lq) (s.X a) 0 none
  rw [State.hubLaunchCause] at hn
  show execLnch h nb d a lq s = _
  simp only [execLnch, hc, State.lnchHub, hn]
  rw [issue_hub_eq m rfl, State.launchWith, hkept]
  rfl

theorem exec_lnch_hub_fails {e : Cause} (m : s.hubMay die (.lnch h nb d a lq) h = true)
    (hn : s.hubLaunchCause (s.X a) lq.toNat = some e) : exec (.lnch h nb d a lq) s = .next
      (((s.advance h).post die { cause := e }).modSeqAt (hubKey die) fun q =>
        q.setX d (BitVec.ofNat 64 (2 ^ 63 + e.code.toNat))) := by
  have hc := cur_of_hubMay m
  rw [State.hubLaunchCause] at hn
  show execLnch h nb d a lq s = _
  simp only [execLnch, hc, State.lnchHub, hn]
  rw [issue_hub_eq m rfl, modMe_of_hub (d := die) (by rw [State.post_cur]; exact cur_advance hc)]

theorem hubLaunchCause_none (hv : (s.queue n).valid = true) (ha : v.toNat % 64 = 0) (hs : v.toNat + 192 ≤ slabSize)
    (hb : headerBad (s.readMem v.toNat 192) = false) : s.hubLaunchCause v n = none := by
  rw [State.hubLaunchCause, if_neg (by simp [hv]), if_neg (not_not.mpr ha), if_neg (Nat.not_lt.mpr hs), if_neg (by simp [hb])]

/-- The cause of a failing LNCH of a hub, as the statement names it. -/
theorem hubLaunchCause_some {e : Cause} (he : e ≠ .noCause)
    (hcause : e = (if (s.queue n).valid = false then .xlatePerm else if v.toNat % 64 ≠ 0 then .align
      else if slabSize < v.toNat + 192 then .addrRange
      else if headerBad (s.readMem v.toNat 192) = true then .launchHeader else .noCause)) :
    s.hubLaunchCause v n = some e := by
  subst hcause
  unfold State.hubLaunchCause
  simp only [Bool.not_eq_true']
  split_ifs at he ⊢
  · rfl
  · rfl
  · rfl
  · rfl
  · exact absurd rfl he

theorem queue_advance (hc : s.cur = .hub die) (n : Nat) : (s.advance h).queue n = s.queue n := by
  obtain ⟨q, e⟩ := advance_of_hub (h := h) hc
  rw [e]
  rfl

theorem append_cur (x : BitVec 4) (n : Nat) (hdr : List Byte) : (s.append x n hdr).1.cur = s.cur := rfl

end lnch

/-- Settles O37: an LNCH issues with the header that it reads, and its launch is appended, answered or held as its queue has room; a
check that fails is its cause. -/
theorem launchResult : Obligations.LaunchResult := by
  intro h nb d a lq hdr runs pa mine reads hubReads
  have hreads {s : State} {r : SeqRef} (hr : reads s r) : s.launchReads r (s.X a) lq.toNat hdr := by
    obtain ⟨hm, ha, hpa, hruns, e⟩ := hr
    exact ⟨hm, ha, ⟨pa, hpa⟩, runs, hruns, e⟩
  have hhub {s : State} (hr : hubReads s) : s.hubLaunchCause (s.X a) lq.toNat = none ∧ hdr = s.readMem (s.X a).toNat 192 := by
    obtain ⟨hv, ha, hs, e, hb⟩ := hr
    rw [← readMem_eq_slabBytes] at e
    exact ⟨hubLaunchCause_none hv ha hs (e ▸ hb), e⟩
  refine ⟨?appends, ?full, ?waits, ?header, ?foreign, ?misaligned, ?untranslated, ?hubAppends, ?hubWaits, ?hubFails⟩
  case appends =>
    rintro s r m ⟨hr, hb, hn⟩
    have hc := cur_of_mayIssue m
    rw [exec_lnch_seq m (hreads hr) hb, holdIn_ends (lnchHold_appends_seq (cur_issued hc) (by rw [queue_issued]; exact hn)),
      endHold_lnch_seq (by rw [append_cur]; exact cur_issued hc), ctxOf_issued]
    rfl
  case full =>
    rintro rfl s r m ⟨hr, hb, hn⟩
    have hc := cur_of_mayIssue m
    rw [exec_lnch_seq m (hreads hr) hb, holdIn_ends (lnchHold_full (by rw [queue_issued]; exact hn)),
      endHold_lnch_seq (cur_issued hc)]
  case waits =>
    rintro rfl s r m hr hb hn
    rw [exec_lnch_seq m (hreads hr) hb, holdIn_stays (lnchHold_waits (by rw [queue_issued]; exact hn)),
      modMe_of_seq (cur_issued (cur_of_mayIssue m))]
    rfl
  case header =>
    intro s r m hf hok
    exact lnch_trapsOnSeq_header hok.2 (ok := reads) (fun s r hr => hreads hr) s r m hf hok.1
  case foreign => exact lnch_trapsOnSeq_early nofun fun s r hok => launchHeader_foreign hok
  case misaligned => exact lnch_trapsOnSeq_early nofun fun s r ⟨⟨hv, hx⟩, ha⟩ => launchHeader_misaligned hv hx ha
  case untranslated => exact lnch_trapsOnSeq_early nofun fun s r ⟨⟨hv, hx⟩, ha, he⟩ => launchHeader_untranslated hv hx ha he
  case hubAppends =>
    rintro s die m ⟨hr, hn⟩
    have hc := cur_of_hubMay m
    have hq := queue_advance (h := h) hc lq.toNat
    obtain ⟨hnone, rfl⟩ := hhub hr
    rw [exec_lnch_hub m hnone, holdIn_ends (lnchHold_appends_hub (cur_advance hc) (by rw [hq]; exact hn)),
      endHold_lnch_hub (by rw [append_cur]; exact cur_advance hc), hq]
    obtain ⟨q, e⟩ := advance_of_hub (h := h) hc
    rw [e]
    rfl
  case hubWaits =>
    rintro rfl s die m ⟨hr, hn⟩
    have hc := cur_of_hubMay m
    obtain ⟨hnone, rfl⟩ := hhub hr
    rw [exec_lnch_hub m hnone, holdIn_stays (lnchHold_waits (by rw [queue_advance hc]; exact hn)),
      modMe_of_hub (cur_advance hc)]
    rfl
  case hubFails =>
    rintro e s die m ⟨he, hne⟩
    exact exec_lnch_hub_fails m (hubLaunchCause_some hne he)

end Sys2Proof.Machine
end

section
/-! PROOFS. Events of the lanes and of data flits (O41; R264 to R269): what a change of lanes leaves, then each event as its case of
the model's event says. -/

namespace Sys2Proof.Machine

section lanes
variable {s u : State} {die n src mid : Nat} {l : Lane} {q : BitVec 32} {fl : DataFlit} {k : Link}

/-! ### What a change of lanes leaves -/

@[simp] theorem lane_modLane (f : Lane → Lane) : (s.modLane die n f).lane die n = f (s.lane die n) := by
  simp [State.modLane, State.lane]

@[simp] theorem lane_post (e : EvRec) : (s.post die e).lane die n = s.lane die n := by
  obtain ⟨b, q, h⟩ := post_die s die e die
  rw [State.lane, State.lane, h]

theorem peer_of_chain (h : u.chain = s.chain) (ch : BitVec 5) : u.peer ch = s.peer ch := by
  rw [State.peer, State.peer, h]

@[simp] theorem State.putFlit_chain (f : SentFlit) : (s.putFlit mid die n f).chain = s.chain := by
  unfold State.putFlit
  extract_lets
  split <;> rfl

@[simp] theorem State.emitFlit_chain (p : Machine.Path) (f : SentFlit) : (s.emitFlit p mid f).chain = s.chain := by
  unfold State.emitFlit
  extract_lets
  split
  · exact State.putFlit_chain f
  · rfl

theorem moveTo_chain (path : SentFlit → Option Machine.Path) (fs : List SentFlit) :
    (s.moveTo path mid fs).chain = s.chain := by
  unfold State.moveTo
  refine List.foldrRecOn fs _ (motive := fun t : State => t.chain = s.chain) ?_ fun t ht f _ => ?_
  · refine foldl_chain (fun t f => ?_) fs s
    split
    · split
      · rfl
      · exact State.emitFlit_chain _ f
    · rfl
  · split
    · split
      · exact ht
      · exact ht
    · exact ht

theorem moveAll_chain (old : Lane) : (s.moveAll die n old).chain = s.chain := moveTo_chain ..

/-! ### ACK (R266, R268) -/

/-- The flits of a direction that are not the one acknowledged. -/
def keepsFlit (src : Nat) (q : BitVec 32) (f : SentFlit) : Bool := f.src != src || f.seq != q

/-- A lane of data flits to a peer, without the flit acknowledged. -/
def Lane.acked (peer : BitVec 5 → Nat) (src mid : Nat) (q : BitVec 32) (x : Lane) : Lane :=
  if x.use == 3 && peer x.ch == mid then { x with unacked := x.unacked.filter (keepsFlit src q) } else x

/-- All the lanes of a die. -/
def Die.acked (peer : BitVec 5 → Nat) (src mid : Nat) (q : BitVec 32) (v : Die) : Die :=
  { v with lanes := v.lanes.map fun p => (p.1, p.2.acked peer src mid q) }

/-- The flit leaves every lane of every die. -/
def State.ackedLanes (s : State) (src mid : Nat) (q : BitVec 32) : State :=
  (List.range 8).foldl (fun a d => a.modDie d (Die.acked a.peer src mid q)) s

theorem ackedLanes_eq : s.ackedLanes src mid q = (List.range 8).foldl (fun a d => a.modDie d (Die.acked s.peer src mid q)) s := by
  have go : ∀ (ds : List Nat) (a : State), a.chain = s.chain → ds.foldl (fun a d => a.modDie d (Die.acked a.peer src mid q)) a
      = ds.foldl (fun a d => a.modDie d (Die.acked s.peer src mid q)) a := by
    intro ds
    induction ds with
    | nil => exact fun a _ => rfl
    | cons d ds ih =>
      intro a ha
      have hpeer : a.peer = s.peer := funext (peer_of_chain ha)
      rw [List.foldl_cons, List.foldl_cons, hpeer]
      exact ih _ ha
  exact go _ s rfl

theorem lane_ackedLanes (hd : die < 8) : (s.ackedLanes src mid q).lane die n = (s.lane die n).acked s.peer src mid q := by
  rw [State.lane, ackedLanes_eq, die_foldl_modDie _ List.nodup_range, if_pos (List.mem_range.mpr hd)]
  exact get_mapValues rfl _ n

theorem link_ackedLanes (p : Machine.Path) : (s.ackedLanes src mid q).link p mid = s.link p mid := by
  rw [State.link, State.link, ackedLanes_eq, die_foldl_modDie (fun _ => Die.acked s.peer src mid q) List.nodup_range]
  split <;> rfl

theorem exec_ack_data (hl : l = s.lane die n) (hu : l.use = 3) : exec (.ack die n ⟨src, q⟩) s = .next
    ((s.ackedLanes src (s.peer l.ch) q).modLink (.data src) (s.peer l.ch) fun k =>
      { k with pending := k.pending.filter (keepsFlit src q) }) := by
  have hpath : (s.lane die n).path die src = some (.data src) := by simp [Lane.path, ← hl, hu]
  show execAck die n ⟨src, q⟩ s = _
  simp only [execAck, hpath, hl]
  rfl

theorem ack_data (hl : l = s.lane die n) (hd : die < 8) (hu : l.use = 3) : ∃ t, exec (.ack die n ⟨src, q⟩) s = .next t
    ∧ (t.lane die n).unacked = l.unacked.filter (keepsFlit src q)
    ∧ (t.link (.data src) (s.peer l.ch)).pending = (s.link (.data src) (s.peer l.ch)).pending.filter (keepsFlit src q)
    ∧ SameMem s t ∧ t.outbox = s.outbox := by
  refine ⟨_, exec_ack_data hl hu, ?_, ?_, sameMem_of_mem_eq ?_, ?_⟩
  · have hlanes (f : Link → Link) : ((s.ackedLanes src (s.peer l.ch) q).modLink (.data src) (s.peer l.ch) f).lane die n
        = (s.ackedLanes src (s.peer l.ch) q).lane die n := by
      rw [State.lane, State.lane, State.modLink, die_modDie]
      split
      · next e => rw [← e]
      · rfl
    rw [hlanes, lane_ackedLanes hd, ← hl, Lane.acked, if_pos (by simp [hu])]
  · rw [link_modLink, link_ackedLanes]
  · rw [State.modLink_mem, ackedLanes_eq, foldl_modDie_frame]
  · show (s.ackedLanes src (s.peer l.ch) q).outbox = s.outbox
    rw [ackedLanes_eq, foldl_modDie_frame]

/-! ### NAK, training, light (R267 to R269) -/

theorem exec_nak_again {f : SentFlit} (hl : l = s.lane die n)
    (hf : l.unacked.find? (fun g => g.src == src && g.seq == q) = some f) (ht : l.retune = false) (h : f.fails < 3) :
    exec (.nak die n ⟨src, q⟩) s = .next ((s.modLane die n fun l => { l with unacked := l.unacked.map fun g =>
      if g.src = src ∧ g.seq = q then { g with fails := g.fails + 1 } else g }).send (.data (s.peer l.ch) die n f.bytes)) := by
  subst hl
  show execNak die n ⟨src, q⟩ s = _
  simp only [execNak, hf, h, ht, if_true, Bool.false_eq_true, if_false]

theorem exec_nak_retrains {f : SentFlit} (hl : l = s.lane die n)
    (hf : l.unacked.find? (fun g => g.src == src && g.seq == q) = some f) (h : 3 ≤ f.fails) :
    exec (.nak die n ⟨src, q⟩) s = .next
      (((s.modLane die n fun l => { l with trn := true }).moveAll die n l).retrain die n l.unacked.length) := by
  subst hl
  show execNak die n ⟨src, q⟩ s = _
  simp only [execNak, hf, if_neg (Nat.not_lt.mpr h)]

/-- A data lane that fails leaves nothing more behind: it is neither a control lane nor a chain lane. -/
theorem laneFailed_data (h : (s.lane die n).use = 3) : s.laneFailed die n = s := by
  simp [State.laneFailed, h]

/-- The lanes left to the peer of a data lane. -/
theorem lanesLeft_data (hu : l.use = 3) : s.lanesLeft die l = (s.laneSet (.data 0) (s.peer l.ch)).length := by
  have hpath : l.path die 0 = some (.data 0) := by simp [Lane.path, hu]
  simp only [State.lanesLeft, hpath]

theorem retrain_trains (hl : l = s.lane die n) (hb : l.bkt ≠ 8) (x : Nat) : s.retrain die n x = (s.modLane die n fun l =>
    { l with trn := true, bkt := l.bkt + 1, bktAt := if l.bkt = 0 then s.tsc die else l.bktAt
             busy := s.tsc die + 12000 }).send (.train die n) := by
  subst hl
  exact if_neg hb

theorem retrain_retires (hl : l = s.lane die n) (hb : l.bkt = 8) (hu : l.use = 3) (x : Nat)
    (he : u = s.modLane die n fun l => { l with ret := true, trn := false }) : s.retrain die n x =
      u.post die (eventOf .linkRetired (x * 2 ^ 32 + (u.laneSet (.data 0) (s.peer l.ch)).length * 2 ^ 16
        + s.peer l.ch * 2 ^ 8 + n)) := by
  have hlane : (u.lane die n).use = 3 := by rw [he, lane_modLane, ← hl]; exact hu
  have hleft : u.lanesLeft die l = (u.laneSet (.data 0) (s.peer l.ch)).length := by rw [lanesLeft_data hu, he]; rfl
  rw [State.retrain]
  simp only [← hl, if_pos hb, ← he, hleft]
  exact laneFailed_data (by rw [lane_post]; exact hlane)

theorem exec_laneLos_leaves (hl : l = s.lane die n) (hlos : l.los = false) (hu : l.use = 3)
    (he : u = (s.modLane die n fun l => { l with los := true, trn := false }).moveAll die n l) (hlane : (u.lane die n).use = 3) :
    exec (.laneLos die ⟨n, false⟩) s = .next (u.post die (eventOf .laneLos (l.unacked.length * 2 ^ 32
      + (u.laneSet (.data 0) (s.peer l.ch)).length * 2 ^ 16 + s.peer l.ch * 2 ^ 8 + n))) := by
  have hpeer : u.peer l.ch = s.peer l.ch := peer_of_chain (by rw [he, moveAll_chain]; rfl) _
  have hleft : u.lanesLeft die l = (u.laneSet (.data 0) (s.peer l.ch)).length := by rw [lanesLeft_data hu, hpeer]
  show execLaneLos die ⟨n, false⟩ s = _
  simp only [execLaneLos, ← hl, hlos, Bool.false_eq_true, if_false, ← he, hleft]
  exact congrArg Host.Outcome.next (laneFailed_data (by rw [lane_post]; exact hlane))

theorem exec_lightReturn_trains (hl : l = s.lane die n) (hlos : l.los = true) (hret : l.ret = false) :
    exec (.lightReturn die n) s = .next ((s.modLane die n fun l => { l with los := false }).retrain die n 0) := by
  show execLightReturn die n s = _
  simp only [execLightReturn, ← hl, hlos, hret, Bool.not_true, Bool.false_eq_true, if_false]

/-! ### Data flits (R265, R266) -/

theorem modLink_congr {p : Machine.Path} {f g : Link → Link} (h : f (s.link p mid) = g (s.link p mid)) :
    s.modLink p mid f = s.modLink p mid g := by
  show s.setDie p.die { s.die p.die with links := Tbl.put (s.die p.die).links (p.key mid) (f (s.link p mid)) } = _
  rw [h]
  rfl

theorem setDie_setDie (d : Nat) (v w : Die) : (s.setDie d v).setDie d w = s.setDie d w := by
  simp [State.setDie, Tbl.put_put]

theorem modLink_modLink (p : Machine.Path) (f g : Link → Link) :
    (s.modLink p mid f).modLink p mid g = s.modLink p mid fun k => g (f k) := by
  simp [State.modLink, State.modDie, setDie_setDie, Tbl.put_put]

/-- A flit on a data lane: what its receipt releases comes to its die. -/
theorem exec_dataFlit_data (hu : (s.lane die n).use = 3) {ps : List (List Byte)} (he : s.receive (.data fl.src) die n fl = (u, ps)) :
    exec (.dataFlit die n fl) s = .next ((u.modLink (.data fl.src) fl.mid fun k =>
      { k with inbox := k.inbox ++ ps.flatten }).consumeAll fl.src fl.mid) := by
  have hpath : (s.lane die n).path die fl.src = some (.data fl.src) := by simp [Lane.path, hu]
  show execDataFlit die n fl s = _
  simp only [execDataFlit, hpath, he]

/-- Nothing released leaves the bytes that have come as they are. -/
theorem modLink_releases_none (p : Machine.Path) :
    (u.modLink p mid fun k => { k with inbox := k.inbox ++ ([] : List (List Byte)).flatten }) = u.modLink p mid fun k => k :=
  modLink_congr (by simp)

theorem receive_bad {p : Machine.Path} (hb : flitGood fl = false) : s.receive p die n fl =
    ((s.modLane die n fun l => { l with failed := l.failed + 1 }).send (.nak die n fl.src (flitSeq fl)), []) := by
  simp only [State.receive, hb, Bool.not_false, if_true]

theorem receive_known {p : Machine.Path} (hg : flitGood fl = true) (hk : k = s.link p fl.mid)
    (h : 2 ^ 31 ≤ (flitSeq fl - k.next).toNat ∨ ∃ e ∈ k.early, e.1 = flitSeq fl) :
    s.receive p die n fl = (s.send (.ack die n fl.src (flitSeq fl)), []) := by
  have hlink : (s.send (.ack die n fl.src (flitSeq fl))).link p fl.mid = k := hk.symm
  have hknown : (2 ^ 31 ≤ (flitSeq fl - k.next).toNat || k.early.any fun e => e.1 == flitSeq fl) = true := by
    rcases h with h | ⟨e, he, hq⟩
    · simp only [h, decide_true, Bool.true_or]
    · have hany : (k.early.any fun e => e.1 == flitSeq fl) = true := List.any_eq_true.mpr ⟨e, he, beq_iff_eq.mpr hq⟩
      rw [hany, Bool.or_true]
  simp only [State.receive, hg, Bool.not_true, Bool.false_eq_true, if_false, hlink, hknown, if_true]

/-- A flit that has not come before is kept, and the payloads whose turn has come are released. -/
theorem receive_new {p : Machine.Path} (hg : flitGood fl = true) (hk : k = s.link p fl.mid)
    (hlow : (flitSeq fl - k.next).toNat < 2 ^ 31) (hnew : ∀ e ∈ k.early, e.1 ≠ flitSeq fl) {k' : Link} {ps : List (List Byte)}
    (hd : Link.deliver { k with early := (flitSeq fl, flitPayload fl) :: k.early } (k.early.length + 1) = (k', ps)) :
    s.receive p die n fl = ((s.send (.ack die n fl.src (flitSeq fl))).modLink p fl.mid fun _ => k', ps) := by
  have hlink : (s.send (.ack die n fl.src (flitSeq fl))).link p fl.mid = k := hk.symm
  have hfresh : (2 ^ 31 ≤ (flitSeq fl - k.next).toNat || k.early.any fun e => e.1 == flitSeq fl) = false := by
    rw [Bool.or_eq_false_iff, decide_eq_false_iff_not, List.any_eq_false]
    exact ⟨Nat.not_le.mpr hlow, fun e he => by simpa using hnew e he⟩
  simp only [State.receive, hg, Bool.not_true, Bool.false_eq_true, if_false, hlink, hfresh, hd]

/-- While the flit whose turn it is has not come, none is released. -/
theorem deliver_waits (h : ∀ e ∈ k.early, e.1 ≠ k.next) (m : Nat) : k.deliver m = (k, []) := by
  cases m with
  | zero => rfl
  | succ m =>
    have hnone : (k.early.find? fun e => e.1 == k.next) = none := List.find?_eq_none.mpr fun e he => by simpa using h e he
    simp only [Link.deliver, hnone]

/-- The flit whose turn it is, alone. -/
theorem deliver_next {ps : List Byte} (h : k.early = [(k.next, ps)]) :
    k.deliver 1 = ({ k with next := k.next + 1, early := [] }, [ps]) := by
  simp [Link.deliver, h]

end lanes

/-- Settles O41: each event is its own case of what the lanes or the links do. -/
theorem laneEvents : Obligations.LaneEvents := by
  intro s die n src l hl
  refine ⟨fun q hd hu => ack_data hl hd hu, fun q f hf ht => ⟨exec_nak_again hl hf ht, exec_nak_retrains hl hf⟩,
    fun k hb => retrain_trains hl hb k, fun k u hb hu he => retrain_retires hl hb hu k he, rfl, fun ht hb => ?trained,
    fun ht hb => ?retuned, fun h0 hd => ?decays, rfl, fun hlos hu u he hlane => exec_laneLos_leaves hl hlos hu he hlane,
    fun hlos hret => exec_lightReturn_trains hl hlos hret, fun b hb => ?unlisted, fun fl hu hb => ?refused,
    fun fl k hu hg hk u he => ⟨fun h => ?known, fun hpos hlow hnew hwait => ?kept, fun hq h0 => ?next⟩⟩
  case trained =>
    subst hl
    exact if_pos ⟨ht, hb⟩
  case retuned =>
    subst hl
    exact if_pos ⟨ht, hb⟩
  case decays =>
    subst hl
    exact if_pos ⟨h0, hd⟩
  case unlisted => exact congrArg Host.Outcome.next (if_neg (by simp [hb]))
  case refused =>
    rw [exec_dataFlit_data (hl ▸ hu) (receive_bad hb), modLink_releases_none]
  case known =>
    rw [exec_dataFlit_data (hl ▸ hu) (receive_known hg hk h), modLink_releases_none, he]
  case kept =>
    have hne : flitSeq fl ≠ k.next := by
      intro e
      rw [e, BitVec.sub_self] at hpos
      exact absurd hpos (by decide)
    have hall : ∀ e ∈ (flitSeq fl, flitPayload fl) :: k.early, e.1 ≠ k.next := List.forall_mem_cons.mpr ⟨hne, hwait⟩
    rw [exec_dataFlit_data (hl ▸ hu) (receive_new hg hk hlow hnew
      (deliver_waits (k := { k with early := (flitSeq fl, flitPayload fl) :: k.early }) hall _)), modLink_modLink, ← he]
    have hlink : u.link (.data fl.src) fl.mid = k := by rw [he, hk]; rfl
    congr 2
    exact modLink_congr (by simp [hlink, flitPayload])
  case next =>
    have hlow : (flitSeq fl - k.next).toNat < 2 ^ 31 := by rw [hq, BitVec.sub_self]; decide
    have hd : Link.deliver { k with early := (flitSeq fl, flitPayload fl) :: k.early } (k.early.length + 1)
        = ({ k with next := k.next + 1, early := [] }, [flitPayload fl]) := by
      rw [h0, hq]
      exact deliver_next rfl
    rw [exec_dataFlit_data (hl ▸ hu) (receive_new hg hk hlow (by rw [h0]; exact nofun) hd), modLink_modLink, ← he]
    have hlink : u.link (.data fl.src) fl.mid = k := by rw [he, hk]; rfl
    congr 2
    exact modLink_congr (by simp [hlink, h0, flitPayload])

end Sys2Proof.Machine
end

section
/-! PROOFS. Ageing, passes, the start and the retirement of a team (O50; R309, R310, R316, R318, R319). -/

namespace Sys2Proof.Machine

/-! ### Optional entries of a table -/

theorem get?_of_no_key {α : Type} {t : Tbl α} {k : Nat} (h : ∀ p ∈ t, p.1 ≠ k) : Tbl.get? t k = none := by
  induction t with
  | nil => rfl
  | cons p t ih =>
    obtain ⟨hp, ht⟩ := List.forall_mem_cons.mp h
    exact (if_neg hp).trans (ih ht)

theorem get?_erase_self {α : Type} (t : Tbl α) (k : Nat) : Tbl.get? (Tbl.erase t k) k = none :=
  get?_of_no_key (Tbl.erase_no_key t k)

theorem get?_insert_self {α : Type} {t : Tbl α} {k : Nat} (v : α) (h : ∀ p ∈ t, p.1 ≠ k) :
    Tbl.get? (Tbl.insert k v t) k = some v := by
  induction t with
  | nil => exact if_pos rfl
  | cons p t ih =>
    obtain ⟨hp, ht⟩ := List.forall_mem_cons.mp h
    obtain ⟨j, w⟩ := p
    by_cases hk : k < j
    · simp only [Tbl.insert, if_pos hk]
      exact if_pos rfl
    · simp only [Tbl.insert, if_neg hk]
      exact (if_neg hp).trans (ih ht)

theorem get?_put_self {α : Type} (t : Tbl α) (k : Nat) (v : α) : Tbl.get? (Tbl.put t k v) k = some v :=
  get?_insert_self v (Tbl.erase_no_key t k)

section launches
variable {s u : State} {t : Team} {l : Launch} {k n : Nat} {st : StrandRef} {r : SeqRef}

/-! ### Ageing (R309) -/

theorem exec_queueAgeing_ages {q past since : Nat} (hr : (s.queue q).readySince = some since)
    (hp : past = (s.queue q).aged + (s.tsc 0 - since)) (h0 : 0 < field (s.queue q).cfg 48 16)
    (hle : field (s.queue q).cfg 48 16 * 600 ≤ past) : exec (.queueAgeing q) s = .next (s.modQueue q fun x => { x with
      level := min 7 (x.level + 1), aged := past - field (s.queue q).cfg 48 16 * 600, readySince := some (s.tsc 0) }) := by
  subst hp
  have hage : ¬ (field (s.queue q).cfg 48 16 * 600 = 0
      ∨ (s.queue q).aged + (s.tsc 0 - since) < field (s.queue q).cfg 48 16 * 600) := by omega
  show execQueueAgeing q s = _
  simp only [execQueueAgeing, hr, if_neg hage]

/-! ### The start of a team (R52, R316) -/

/-- A strand as its team starts it in slot `i` of the team. -/
def startStrand (k i now : Nat) (t : Team) (l : Launch) : Strand :=
  { team := k, idx := i, launchId := t.launch, wid := BitVec.ofNat 64 (t.index * 2 ^ hdrS l.hdr + i)
    cmask := BitVec.ofNat 64 (nat l.hdr 24 8) &&& maskable, fid := BitVec.ofNat 2 (hdrFid l.hdr), lastStep := now }

/-- A sequencer as its team starts it. -/
def startSeq (now : Nat) (l : Launch) (c : Cls) : Seq :=
  { pc := BitVec.ofNat 48 (hdrEntry l.hdr c), live := true, ended := hdrEntry l.hdr c == 0, phase := now }

/-- A strand of a team started, with its sequencers. -/
def State.startSlot (s : State) (st : StrandRef) (v : Strand) (f : Cls → Seq) : State :=
  allCls.foldl (fun b c => b.setSeqAt (seqKey (seqOf st c)) (f c)) (s.setStrandAt (stKey st) v)

theorem exec_teamStart (ht : Tbl.get? s.sched.teams k = some t) (hl : s.launch? t.launch = some l) (hs : t.started = false)
    (hn : t.slots = [n]) : exec (.teamStart k) s = .next
      (((s.modCluster t.die t.cl fun c => c.begin t l).modSched fun c =>
        { c with teams := Tbl.put c.teams k { t with started := true } }).startSlot ⟨t.die, t.cl, n⟩
          (startStrand k 0 (s.tsc t.die) t l) (startSeq (s.tsc t.die) l)) := by
  show execTeamStart k s = _
  simp only [execTeamStart, ht, hl, hs, hn, Bool.false_eq_true, if_false]
  rfl

theorem ofCode_code (c : Cls) : Cls.ofCode c.code = c := by cases c <;> rfl

theorem seqKey_seqOf_inj {c d : Cls} (h : seqKey (seqOf st c) = seqKey (seqOf st d)) : c = d := by
  have hcode : c.code = d.code := Nat.add_left_cancel h
  rw [← ofCode_code c, hcode, ofCode_code]

/-- Sequencers of a strand written one after another: each reads as written. -/
theorem seqAt_foldl_setSeqAt {f : Cls → Seq} {cs : List Cls} {c : Cls} (hc : c ∈ cs ∨ s.seqAt (seqKey (seqOf st c)) = f c) :
    (cs.foldl (fun b c => b.setSeqAt (seqKey (seqOf st c)) (f c)) s).seqAt (seqKey (seqOf st c)) = f c := by
  induction cs generalizing s with
  | nil => exact hc.resolve_left List.not_mem_nil
  | cons d cs ih =>
    refine ih ?_
    rw [seqAt_setSeqAt]
    by_cases hk : seqKey (seqOf st d) = seqKey (seqOf st c)
    · have hd : d = c := seqKey_seqOf_inj hk
      subst hd
      exact .inr (if_pos rfl)
    · rw [if_neg hk]
      refine hc.imp_left fun hm => (List.mem_cons.mp hm).resolve_left ?_
      rintro rfl
      exact hk rfl

theorem seq_startSlot {v : Strand} {f : Cls → Seq} (c : Cls) : (s.startSlot st v f).seq (seqOf st c) = f c :=
  seqAt_foldl_setSeqAt (.inl (mem_allCls c))

theorem strand_startSlot {v : Strand} {f : Cls → Seq} : (s.startSlot st v f).strand st = v :=
  (strandAt_setStrandAt s (stKey st) (stKey st) v).trans (if_pos rfl)

/-! ### Retirement (R318, R319) -/

/-- States that agree but for the layout of the table of sequencers. -/
structure SameSeqs (s u : State) : Prop where
  rest : ∃ q, u = { s with seqs := q }
  seqAt : ∀ j, u.seqAt j = s.seqAt j

theorem SameSeqs.refl (s : State) : SameSeqs s s := ⟨⟨s.seqs, rfl⟩, fun _ => rfl⟩

theorem withoutUndone_of_none {q : Seq} (h : q.tup = []) : { q with tup := q.tup.filter (·.done.isSome) } = q := by
  cases q
  cases h
  rfl

/-- A sequencer with no tuple request has none to cancel. -/
theorem dropParked_sameSeqs (h : SameSeqs s u) (ht : (s.seq r).tup = []) : SameSeqs s (u.dropParked r) := by
  obtain ⟨⟨q, hq⟩, hseq⟩ := h
  have hu : (u.seq r).tup = [] := (congrArg Seq.tup (hseq (seqKey r))).trans ht
  have hdrop : u.dropParked r = u.modSeq r fun q => { q with tup := q.tup.filter (·.done.isSome) } := by
    rw [State.dropParked, hu]
    rfl
  refine ⟨⟨(u.dropParked r).seqs, by rw [hdrop, hq]; rfl⟩, fun j => ?_⟩
  rw [hdrop, seqAt_modSeq, withoutUndone_of_none hu, ← hseq j]
  split
  · next e => rw [← e]; rfl
  · rfl

theorem dropParked_foldl {l : List SeqRef} (h : ∀ r ∈ l, (s.seq r).tup = []) : SameSeqs s (l.foldl State.dropParked s) :=
  List.foldlRecOn l State.dropParked (motive := SameSeqs s) (.refl s) fun _ hu r hr => dropParked_sameSeqs hu (h r hr)

/-- A strand that holds no token has none to report. -/
theorem tokenCheck_none (h : ∀ n, (s.strand st).count n = 0) : s.tokenCheck st = s := by
  have hall : (((List.range 8).map fun n => (s.strand st).count (BitVec.ofNat 3 n)).all (· == 0)) = true :=
    List.all_eq_true.mpr fun x hx => by
      obtain ⟨n, -, rfl⟩ := List.mem_map.mp hx
      exact beq_iff_eq.mpr (h _)
  exact if_pos hall

theorem tup_of_quiet {q : Seq} (h : q.quiet = true) : q.tup = [] := by
  simp only [Seq.quiet, Bool.and_eq_true, List.isEmpty_iff] at h
  exact h.2

/-- The team freed, its cluster's RAISED lowered. -/
def State.teamFreed (s : State) (k : Nat) (t : Team) : State := (s.freeTeam k t).lowerRaised t.die t.cl

/-- The registers of a strand and of its sequencers freed. -/
def State.withoutStrand (s : State) (st : StrandRef) : State :=
  let a := allCls.foldl (fun b c => { b with seqs := Tbl.erase b.seqs (seqKey (seqOf st c)) }) s
  { a with strands := Tbl.erase a.strands (stKey st) }

theorem withoutStrand_foldl (sts : List StrandRef) :
    ∃ q v, sts.foldl State.withoutStrand s = { s with seqs := q, strands := v } := by
  induction sts generalizing s with
  | nil => exact ⟨_, _, rfl⟩
  | cons st sts ih =>
    obtain ⟨q, v, e⟩ := ih (s := s.withoutStrand st)
    exact ⟨q, v, e.trans rfl⟩

theorem freeTeam_eq : s.freeTeam k t = (t.strands.foldl State.withoutStrand s).modSched fun c =>
    { c with teams := Tbl.erase c.teams k } := rfl

theorem freeTeam_frame : ∃ q v, s.freeTeam k t =
    { s with seqs := q, strands := v, sched := { s.sched with teams := Tbl.erase s.sched.teams k } } := by
  obtain ⟨q, v, e⟩ := withoutStrand_foldl (s := s) t.strands
  exact ⟨q, v, by rw [freeTeam_eq, e]; rfl⟩

theorem teamFreed_frame : (s.teamFreed k t).sched = { s.sched with teams := Tbl.erase s.sched.teams k }
    ∧ (s.teamFreed k t).mem = s.mem := by
  obtain ⟨q, v, e⟩ := freeTeam_frame (s := s) (k := k) (t := t)
  rw [State.teamFreed, e, State.lowerRaised]
  split
  · exact ⟨rfl, rfl⟩
  · exact ⟨rfl, rfl⟩

/-- A team that has ended with nothing outstanding is freed, and counts as retired of its launch. -/
theorem exec_teamRetire (ht : Tbl.get? s.sched.teams k = some t) (hl : s.launch? t.launch = some l) (he : s.teamEnded t = true)
    (hq : ∀ st ∈ t.strands, ∀ c, (s.seq (seqOf st c)).quiet = true) (hc : ∀ st ∈ t.strands, ∀ n, (s.strand st).count n = 0) :
    ∃ v, SameSeqs s v ∧ exec (.teamRetire k) s = .next
      (if l.retired + 1 = l.nteams ∧ l.ending.isNone then
        ((v.teamFreed k t).setLaunch t.launch { l with retired := l.retired + 1 }).retireLaunch t.launch
          { l with retired := l.retired + 1 } .noCause
      else (v.teamFreed k t).setLaunch t.launch { l with retired := l.retired + 1 }) := by
  have hmem : ∀ r ∈ t.strands.flatMap (fun st => allCls.map fun c => seqOf st c), (s.seq r).quiet = true := by
    intro r hr
    obtain ⟨st, hst, hr⟩ := List.mem_flatMap.mp hr
    obtain ⟨c, -, rfl⟩ := List.mem_map.mp hr
    exact hq st hst c
  have hsame := dropParked_foldl fun r hr => tup_of_quiet (hmem r hr)
  refine ⟨_, hsame, ?_⟩
  show execTeamRetire k s = _
  generalize hv : (t.strands.flatMap fun st => allCls.map fun c => seqOf st c).foldl State.dropParked s = v at hsame ⊢
  have hquiet : ((t.strands.flatMap fun st => allCls.map fun c => seqOf st c).all fun r => (v.seq r).quiet) = true :=
    List.all_eq_true.mpr fun r hr => (congrArg Seq.quiet (hsame.seqAt (seqKey r))).trans (hmem r hr)
  obtain ⟨q, hvq⟩ := hsame.rest
  have htokens : t.strands.foldl State.tokenCheck v = v :=
    foldl_stays fun st hst => tokenCheck_none fun n => by rw [hvq]; exact hc st hst n
  have hlaunch : (v.teamFreed k t).launch? t.launch = some l := by
    rw [State.launch?, teamFreed_frame.1, hvq]
    exact hl
  rw [State.teamFreed] at hlaunch
  simp only [execTeamRetire, ht, he, hv, hquiet, htokens, hlaunch, Bool.not_true, Bool.false_eq_true, if_false]
  rfl

theorem launch?_setLaunch (id : BitVec 32) (l : Launch) : (s.setLaunch id l).launch? id = some l := get?_put_self ..

@[simp] theorem State.post_sched (die : Nat) (e : EvRec) : (s.post die e).sched = s.sched := by
  unfold State.post
  extract_lets
  split <;> rfl

@[simp] theorem State.counterAdd_sched (die n add : Nat) : (s.counterAdd die n add).sched = s.sched := by
  unfold State.counterAdd
  extract_lets
  split
  · rfl
  · rw [State.post_sched]
    rfl

@[simp] theorem State.bump_sched (die : Nat) (x : BitVec 4) (h : Word) (add : BitVec 32) :
    (s.bump die x h add).sched = s.sched := by
  unfold State.bump
  extract_lets
  split
  · rfl
  · split
    · exact State.counterAdd_sched ..
    · rfl

/-- A launch that retires leaves the launches, and no team with it. -/
theorem retireLaunch_sched (id : BitVec 32) (c : Cause) : (s.retireLaunch id l c).sched.teams = s.sched.teams
    ∧ (s.retireLaunch id l c).launch? id = none := by
  have hsched : (s.retireLaunch id l c).sched = (s.dropLaunch id l).sched := by
    rw [State.retireLaunch, State.completion, State.post_sched, State.bump_sched]
  have hteams : (s.dropLaunch id l).sched.teams = s.sched.teams := by
    unfold State.dropLaunch
    extract_lets v m s1 s2
    have h1 : s1.sched = s.sched := by
      show (if _ then _ else _ : State).sched = _
      split <;> rfl
    show s1.sched.teams = _
    rw [h1]
  have hnone : (s.dropLaunch id l).launch? id = none := get?_erase_self ..
  refine ⟨by rw [hsched, hteams], ?_⟩
  rw [State.launch?, hsched]
  exact hnone

end launches

/-- Settles O50: a team starts in the slot that it has; one that has ended is freed, and its launch with the last one. -/
theorem launchEvents : Obligations.LaunchEvents := by
  refine ⟨fun s q t past hr hp h0 hle => exec_queueAgeing_ages hr hp h0 hle, fun s => rfl,
    fun s k n t l ht hl hs hn _ _ _ => ?starts, fun s k t l ht hl he hq hc => ⟨fun hmore => ?retires, fun hlast hend => ?last⟩⟩
  case starts =>
    refine ⟨_, exec_teamStart ht hl hs hn, fun c => ⟨seq_startSlot (st := ⟨t.die, t.cl, n⟩) c, ?_⟩⟩
    rw [strand_startSlot (st := ⟨t.die, t.cl, n⟩)]
    exact ⟨rfl, rfl, rfl, rfl, rfl, rfl⟩
  case retires =>
    obtain ⟨v, ⟨⟨q, hv⟩, -⟩, hexec⟩ := exec_teamRetire ht hl he hq hc
    obtain ⟨hsched, hmem⟩ := teamFreed_frame (s := v) (k := k) (t := t)
    rw [if_neg (by omega)] at hexec
    refine ⟨_, hexec, ?_, ?_, sameMem_of_mem_eq ?_⟩
    · show Tbl.get? (v.teamFreed k t).sched.teams k = none
      rw [hsched]
      exact get?_erase_self ..
    · rw [launch?_setLaunch]
      rfl
    · show (v.teamFreed k t).mem = s.mem
      rw [hmem, hv]
  case last =>
    obtain ⟨v, ⟨⟨q, hv⟩, -⟩, hexec⟩ := exec_teamRetire ht hl he hq hc
    obtain ⟨hsched, hmem⟩ := teamFreed_frame (s := v) (k := k) (t := t)
    rw [if_pos ⟨hlast, by rw [hend]; rfl⟩] at hexec
    obtain ⟨hteams, hgone⟩ := retireLaunch_sched (s := (v.teamFreed k t).setLaunch t.launch { l with retired := l.retired + 1 })
      (l := { l with retired := l.retired + 1 }) t.launch .noCause
    refine ⟨_, hexec, ?_, hgone⟩
    rw [hteams]
    show Tbl.get? (v.teamFreed k t).sched.teams k = none
    rw [hsched]
    exact get?_erase_self ..

end Sys2Proof.Machine
end

section
/-! PROOFS. Events of work entries (O44; R276, R278 to R281): arming and firing, then what each operation does once it has fired,
the only entry of its queue pair. -/

namespace Sys2Proof.Machine

section entries
variable {s u : State} {die qp : Nat} {w : WorkEntry} {e : Entry} {src : Src}

/-! ### Arming and firing (R276, R278) -/

/-- The oldest unfired entry is armed where its counter has come to its threshold. -/
theorem arm_entries {cs : Tbl Counter} {q : QPair} {rest : List WorkEntry} (hq : q.entries = w :: rest) (hf : w.fired = false) :
    (q.arm cs).entries = { w with armed := w.armed || decide ((Entry.of w.image).thresh
      ≤ (Tbl.get {} cs (Entry.of w.image).armc : Counter).value.toNat) } :: rest := by
  rw [QPair.arm, hq]
  exact if_neg (by simp [hf])

/-- An entry that fires; the next one may be armed. -/
def State.fires (s : State) (die qp : Nat) (w : WorkEntry) : State :=
  (s.modEntry die qp w.pos fun w => { w with fired := true }).modQpair die qp fun q => q.arm (s.die die).counters

/-- A fired entry whose translation failed. -/
def State.fireFault (s : State) (die qp : Nat) (w : WorkEntry) (c : Cause) : State :=
  (s.post die { cause := c }).modEntry die qp w.pos fun w => { w with outcome := some 5 }

/-- The outcome of a WRITE as it fires, of a range whose round has timed out. -/
def lateOutcome (e : Entry) (g : Option Range) : Option (BitVec 64) :=
  if e.op == 1 && g.any (·.tmd) then g.map fun x => statusWord 3 0 x.miss.toNat else none

/-- The source of an entry that fires translated, where it moves data. -/
def State.fireSource (s : State) (die qp : Nat) (w : WorkEntry) : State :=
  if !(Entry.of w.image).moves s.chain.self then s
  else match s.sourceOf die w.ctx (Entry.of w.image).src (Entry.of w.image).bytes with
    | .error c => s.fireFault die qp w c
    | .ok src => s.modEntry die qp w.pos fun x =>
      { x with source := some src, outcome := lateOutcome (Entry.of w.image) (s.sourceRange src) }

theorem exec_fire_unarmed (hw : (s.qpair die qp).entries.find? (fun w => !w.fired) = some w) (ha : w.armed = false) :
    exec (.workEntryFire die qp) s = .next s := by
  show execWorkEntryFire die qp s = _
  simp only [execWorkEntryFire, hw, ha, Bool.not_false, if_true]

theorem exec_fire_plain (hw : (s.qpair die qp).entries.find? (fun w => !w.fired) = some w) (ha : w.armed = true)
    (h0 : (Entry.of w.image).stat = 0) : exec (.workEntryFire die qp) s = .next ((s.fires die qp w).fireSource die qp w) := by
  show execWorkEntryFire die qp s = _
  simp only [execWorkEntryFire, hw, ha, h0, Bool.not_true, Bool.false_eq_true, if_false, if_true]
  rfl

theorem exec_fire_status {pa : Nat} (hw : (s.qpair die qp).entries.find? (fun w => !w.fired) = some w) (ha : w.armed = true)
    (h0 : (Entry.of w.image).stat ≠ 0)
    (hp : (s.place die w.ctx none (Entry.of w.image).stat 8).bind (checkPlace .write) = .ok pa) :
    exec (.workEntryFire die qp) s = .next (((s.fires die qp w).modEntry die qp w.pos fun w =>
      { w with stat := some pa }).fireSource die qp w) := by
  show execWorkEntryFire die qp s = _
  simp only [execWorkEntryFire, hw, ha, h0, hp, Bool.not_true, Bool.false_eq_true, if_false]
  rfl

theorem exec_fire_fault {c : Cause} (hw : (s.qpair die qp).entries.find? (fun w => !w.fired) = some w) (ha : w.armed = true)
    (h0 : (Entry.of w.image).stat ≠ 0)
    (hp : (s.place die w.ctx none (Entry.of w.image).stat 8).bind (checkPlace .write) = .error c) :
    exec (.workEntryFire die qp) s = .next ((s.fires die qp w).fireFault die qp w c) := by
  show execWorkEntryFire die qp s = _
  simp only [execWorkEntryFire, hw, ha, h0, hp, Bool.not_true, Bool.false_eq_true, if_false]
  rfl

theorem fireSource_still (hm : (Entry.of w.image).moves s.chain.self = false) : s.fireSource die qp w = s :=
  if_pos (by simp [hm])

theorem fireSource_ok (hm : (Entry.of w.image).moves s.chain.self = true)
    (hs : s.sourceOf die w.ctx (Entry.of w.image).src (Entry.of w.image).bytes = .ok src) :
    s.fireSource die qp w = s.modEntry die qp w.pos fun x =>
      { x with source := some src, outcome := lateOutcome (Entry.of w.image) (s.sourceRange src) } := by
  simp only [State.fireSource, hm, hs, Bool.not_true, Bool.false_eq_true, if_false]

theorem fireSource_fault {c : Cause} (hm : (Entry.of w.image).moves s.chain.self = true)
    (hs : s.sourceOf die w.ctx (Entry.of w.image).src (Entry.of w.image).bytes = .error c) :
    s.fireSource die qp w = s.fireFault die qp w c := by
  simp only [State.fireSource, hm, hs, Bool.not_true, Bool.false_eq_true, if_false]

theorem lateOutcome_none {g : Option Range} (h : e.op = 2 ∨ ∀ x, g = some x → x.tmd = false) : lateOutcome e g = none := by
  refine if_neg ?_
  rw [Bool.and_eq_true, beq_iff_eq, Option.any_eq_true]
  rintro ⟨h1, x, hx, ht⟩
  rcases h with h | h
  · exact absurd (h1.symm.trans h) (by decide)
  · rw [h x hx] at ht
    exact nomatch ht

theorem lateOutcome_some {g : Range} (h1 : e.op = 1) (ht : g.tmd = true) :
    lateOutcome e (some g) = some (statusWord 3 0 g.miss.toNat) :=
  if_pos (by simp [h1, ht])

/-! ### The only entry of its queue pair, fired -/

theorem exec_complete (hw : (s.qpair die qp).entries = [w]) (hf : w.fired = true) :
    exec (.workEntryComplete die qp) s = .next (s.entryServe die qp w) := by
  have hfirst : s.entryBehind die qp w = false := by
    unfold State.entryBehind
    extract_lets mid earlier
    have hnone : earlier = [] := by simp [earlier, hw]
    simp [hnone]
  show execWorkEntryComplete die qp s = _
  simp [execWorkEntryComplete, hw, hf, hfirst]

theorem entryServe_outcome {st : BitVec 64} (ho : w.outcome = some st) :
    s.entryServe die qp w = s.entryEnd die qp w st ((Entry.of w.image).op == 1) := by
  simp only [State.entryServe, ho]

theorem entryServe_group (ho : w.outcome = none) (hg : (Entry.of w.image).groupOk s.chain.self = false) :
    s.entryServe die qp w = s.entryEnd die qp w (statusWord 5 0 0) false := by
  simp only [State.entryServe, ho, hg, Bool.not_false, if_true]

/-- An entry with no outcome and a GROUP that R280 allows does its operation. -/
structure Serves (s : State) (w : WorkEntry) (op : Nat) : Prop where
  outcome : w.outcome = none
  group : (Entry.of w.image).groupOk s.chain.self = true
  op : (Entry.of w.image).op = op

theorem entryServe_nop (h : Serves s w 0) : s.entryServe die qp w = s.entryEnd die qp w 0 true := by
  simp only [State.entryServe, h.outcome, h.group, h.op, Bool.not_true, Bool.false_eq_true, if_false]

theorem entryServe_clear (h : Serves s w 4) : s.entryServe die qp w = s.entryClear die qp w (Entry.of w.image) := by
  simp only [State.entryServe, h.outcome, h.group, h.op, Bool.not_true, Bool.false_eq_true, if_false]

theorem entryServe_write_still (h : Serves s w 1) (hs : (Entry.of w.image).still s.chain.self = true) :
    s.entryServe die qp w = s.entryEnd die qp w 0 true := by
  simp only [State.entryServe, h.outcome, h.group, h.op, hs, Bool.not_true, Bool.false_eq_true, if_false, if_true]

theorem entryServe_red_still (h : Serves s w 2) (hs : (Entry.of w.image).still s.chain.self = true)
    (hf : s.ptrFar (Entry.of w.image).dst = false) :
    s.entryServe die qp w = s.entryRed die qp w (Entry.of w.image) 0 [] := by
  simp [State.entryServe, h.outcome, h.group, h.op, hs, hf]

/-- A WRITE or WRITE_RED that moves data, from the source translated as it fired. -/
theorem entryServe_moves {op : Nat} {far : Bool} (h : Serves s w op) (hop : op = 1 ∨ op = 2)
    (hs : (Entry.of w.image).still s.chain.self = false) (hsrc : w.source = some src)
    (hf : s.ptrFar (Entry.of w.image).dst = far) :
    s.entryServe die qp w = s.entryMove die qp w (Entry.of w.image) src far := by
  rcases hop with rfl | rfl <;> simp [State.entryServe, h.outcome, h.group, h.op, hs, hsrc, hf]

/-! ### Data (R278, R287) -/

/-- With no weak word, reading a source corrects nothing. -/
theorem foldl_corrected (hw : s.weak = []) (runs : List (Nat × Nat)) :
    runs.foldl (fun (a : State) (p : Nat × Nat) => a.corrected p.1 p.2) s = s :=
  foldl_stays fun _ _ => corrected_of_no_weak hw

/-- The members of a source's round that were lost, for a WRITE. -/
def State.lostNow (s : State) (e : Entry) (src : Src) : BitVec 32 := if e.op = 1 then s.lostOf e (s.sourceRange src) else 0

/-- A source that can be read, and of whose members none was lost. -/
structure Sound (s : State) (e : Entry) (src : Src) : Prop where
  soft : s.sourceSoft src = none
  weak : s.weak = []
  lost : (if e.op = 1 then s.lostOf e (s.sourceRange src) else 0) = 0

/-- A WRITE ends with what its last unit answered. -/
def State.writeEnd (t : State) (die qp : Nat) (w : WorkEntry) : UnitAns → State
  | .done => t.entryEnd die qp w 0 true
  | .status x => t.entryEnd die qp w x false

theorem entryMove_write {t : State} {a : UnitAns} (h : Sound s e src) (hop : e.op = 1)
    (hw : s.writeLocal die w.ctx e (s.sourceBytes src 0 e.bytes) = (t, a)) :
    s.entryMove die qp w e src false = t.writeEnd die qp w a := by
  have hne : ¬ e.op = 2 := by rw [hop]; decide
  have hlost := h.lost
  cases src with
  | slab runs =>
    simp only [State.entryMove, hlost, h.soft, foldl_corrected h.weak, Bool.not_false, if_true, if_neg hne, hw]
    cases a <;> rfl
  | stg runs =>
    simp only [State.entryMove, hlost, h.soft, Bool.not_false, if_true, if_neg hne, hw]
    cases a <;> rfl

theorem entryMove_red (h : Sound s e src) (hop : e.op = 2) :
    s.entryMove die qp w e src false = s.entryRed die qp w e e.count (s.sourceBytes src 0 e.bytes) := by
  have hlost := h.lost
  cases src with
  | slab runs => simp only [State.entryMove, h.soft, foldl_corrected h.weak, Bool.not_false, if_true, if_pos hop]
  | stg runs => simp only [State.entryMove, h.soft, Bool.not_false, if_true, if_pos hop]

theorem entryMove_far (h : Sound s e src) (hk : s.chain.skipped (ptrMid e.dst) = false) :
    s.entryMove die qp w e src true = s.entrySend die qp w e e.count src 0 := by
  have hlost := h.lost
  cases src with
  | slab runs =>
    simp only [State.entryMove, hlost, h.soft, foldl_corrected h.weak, hk, Bool.not_true, Bool.false_eq_true, if_false,
      bne_self_eq_false, Bool.false_and, Bool.or_false, if_true]
  | stg runs =>
    simp only [State.entryMove, hlost, h.soft, hk, Bool.not_true, Bool.false_eq_true, if_false, bne_self_eq_false,
      Bool.false_and, Bool.or_false, if_true]

/-! ### To another member (R271, R278) -/

/-- The units of `n` bytes of a WRITE. -/
theorem units_le_iff {n u : Nat} : (n + 4095) / 4096 ≤ u ↔ n ≤ 4096 * u := by omega

/-- A WRITE's elements are bytes. -/
theorem write_bytes (hop : e.op = 1) : e.bytes = e.count ∧ e.fmt = .i8 ∧ e.rem = ⟨e.count, 1, .i8, false, false, e.acc, e.rm⟩ := by
  have hfmt : e.fmt = .i8 := if_neg (by rw [hop]; decide)
  have hbytes : e.bytes = e.count := by rw [Entry.bytes, hfmt]; exact Nat.mul_one _
  refine ⟨hbytes, hfmt, ?_⟩
  rw [Entry.rem, hbytes, hfmt, hop]
  rfl

/-- A WRITE to another member sends its next unit. -/
theorem entrySend_write {wu : WrUnit} (hop : e.op = 1) (hreq : w.req ≠ 0) (hrem : w.remote = .idle) (hu : 4096 * w.unit < e.count)
    (hwu : wu = ⟨w.req, w.unit, windowOf (s.tsc die), w.ctx, e.rem.at_ e.dst w.unit, min 4096 (e.count - 4096 * w.unit), none,
      e.acc, false, e.rm, decide (e.count ≤ 4096 * (w.unit + 1)), if e.rcnt.getLsbD 63 then e.rcnt else 0⟩) :
    s.entrySend die qp w e e.count src 0 = ((s.modEntry die qp w.pos fun w =>
      { w with remote := .sent w.unit (windowOf (s.tsc die)) }).send (.wr (ptrMid e.dst) wu)).sendBytes (.data die)
        (ptrMid e.dst) (windowOf (s.tsc die)) (s.sourceBytes src (4096 * w.unit) wu.len) := by
  obtain ⟨-, hfmt, hk⟩ := write_bytes hop
  have hleft : ¬ (e.count + 4095) / 4096 ≤ w.unit := by rw [units_le_iff]; omega
  have hlast : decide ((e.count + 4095) / 4096 ≤ w.unit + 1) = decide (e.count ≤ 4096 * (w.unit + 1)) :=
    decide_eq_decide.mpr units_le_iff
  have hsize : e.count * Fmt.i8.size = e.count := Nat.mul_one _
  have hi8 : (Fmt.i8 == Fmt.bf16) = false := rfl
  subst hwu
  simp only [State.entrySend, if_pos hreq, hrem, hk, hsize, hfmt, hi8, RemCmd.units, RemCmd.len, if_neg hleft, hlast,
    Bool.false_eq_true, if_false]
  rfl

/-- A WRITE_RED to another member asks for its slot. -/
theorem entrySend_red (hop : e.op = 2) (hreq : w.req ≠ 0) (hrem : w.remote = .idle) (n : Nat) :
    s.entrySend die qp w e n src 0 = (s.modEntry die qp w.pos fun w => { w with remote := .askedGo }).send
      (.redhdr (ptrMid e.dst) ⟨w.req, e.rqid, w.ctx, e.dst, e.acc, BitVec.ofNat 32 n⟩) := by
  have hred : e.rem.red = true := by rw [Entry.rem, hop]; rfl
  simp only [State.entrySend, if_pos hreq, hrem, hred, if_true]

/-! ### A contribution here (R163, R278) -/

theorem entryRed_fills {m : RMem} {at_ n : Nat} {rr : RangeRef} {k : Contrib} {bs : List Byte}
    (ht : s.redTarget die w.ctx e.dst e.acc = .ok (m, at_)) (hf : s.findRange m at_ n = some rr) (hd : (s.range rr).tmd = false)
    (ha : (s.range rr).admits e.rqid = true) (hk : s.contrib? rr (.entry die qp w.pos) = some k)
    (hr : (s.range rr).ready k = true) (hs : s.softWords m at_ n = none) : s.entryRed die qp w e n bs =
      ((s.addWords m at_ (redValues e.fmt bs) (redAdd e.rm)).fillSlot rr (.entry die qp w.pos)).entryEnd die qp w 0 true := by
  simp [State.entryRed, ht, hf, hd, ha, hk, hr, hs]

/-! ### CADD and SCLR (R278) -/

theorem nat_lt (bs : List Byte) (o n : Nat) : nat bs o n < 2 ^ (8 * n) :=
  (bytesNat_lt _).trans_le (Nat.pow_le_pow_right Nat.two_pos (Nat.mul_le_mul_left 8 (List.length_take_le ..)))

theorem entryServe_cadd_nothing (h : Serves s w 3)
    (hn : (Entry.of w.image).still s.chain.self = true ∨ (Entry.of w.image).dst.getLsbD 62 = false) :
    s.entryServe die qp w = s.entryEnd die qp w 0 true := by
  have hnot : ((Entry.of w.image).still s.chain.self || !(Handle.of (Entry.of w.image).dst).v) = true := by
    rcases hn with hn | hn
    · rw [hn, Bool.true_or]
    · have hv : (Handle.of (Entry.of w.image).dst).v = false := hn
      rw [hv, Bool.not_false, Bool.or_true]
  simp only [State.entryServe, h.outcome, h.group, h.op, hnot, Bool.not_true, Bool.false_eq_true, if_false, if_true]

/-- A CADD of a counter of this package adds to it. -/
theorem entryServe_cadd_near {d n : Nat} (h : Serves s w 3) (hs : (Entry.of w.image).still s.chain.self = false)
    (hn : s.namesCounter (Entry.of w.image).dst d n) : s.entryServe die qp w =
      (s.counterAdd d n (Entry.of w.image).count).entryEnd die qp w 0 true := by
  have hnear := near_of_namesCounter hn
  obtain ⟨hdie, hnum⟩ := counter_of_namesCounter hn
  have hv : (Handle.of (Entry.of w.image).dst).v = true := hn.1
  have hfar : ((Handle.of (Entry.of w.image).dst).rmt && (Handle.of (Entry.of w.image).dst).mid != s.chain.self) = false := by
    rw [← Bool.not_not (_ && _), Bool.not_and, bne, Bool.not_not, hnear]
    rfl
  have hcount : (BitVec.ofNat 32 (Entry.of w.image).count).toNat = (Entry.of w.image).count :=
    (BitVec.toNat_ofNat ..).trans (Nat.mod_eq_of_lt (nat_lt w.image 8 4))
  have hbump : s.bump die w.ctx (Entry.of w.image).dst (BitVec.ofNat 32 (Entry.of w.image).count)
      = s.counterAdd d n (Entry.of w.image).count := by
    simp only [State.bump, hv, hnear, hdie, hnum, hcount, Bool.not_true, Bool.false_eq_true, if_false, if_true]
  simp only [State.entryServe, h.outcome, h.group, h.op, hs, hv, hfar, hbump, Bool.not_true, Bool.not_false, Bool.or_false,
    Bool.false_eq_true, if_false, if_true]

/-- A CADD of another member that is bypassed ends as unreached; else its addend is sent. -/
theorem entryServe_cadd_far {m : Nat} (h : Serves s w 3) (hs : (Entry.of w.image).still s.chain.self = false)
    (h62 : (Entry.of w.image).dst.getLsbD 62 = true) (hf : s.farName (Entry.of w.image).dst m) :
    (s.chain.skipped m = true → s.entryServe die qp w = s.entryEnd die qp w (statusWord 2 0 0) false)
    ∧ (s.chain.skipped m = false → w.remote = .idle → s.entryServe die qp w =
      ({ s with nextReq := s.nextReq + 1 }.modEntry die qp w.pos fun w =>
        { w with req := s.nextReq, remote := .sent 0 (windowOf (s.tsc die)) }).send
          (.cntadd m ⟨s.nextReq, windowOf (s.tsc die), w.ctx, (Entry.of w.image).dst, BitVec.ofNat 32 (Entry.of w.image).count⟩)) := by
  have hmid : (Handle.of (Entry.of w.image).dst).mid = m := hf.2.1
  have hv : (Handle.of (Entry.of w.image).dst).v = true := h62
  have hnot := far_of_farName hf
  have hfar : ((Handle.of (Entry.of w.image).dst).rmt && (Handle.of (Entry.of w.image).dst).mid != s.chain.self) = true := by
    rw [← Bool.not_not (_ && _), Bool.not_and, bne, Bool.not_not, hnot]
    rfl
  rw [hmid] at hfar
  refine ⟨fun hk => ?_, fun hk hrem => ?_⟩
  · simp only [State.entryServe, h.outcome, h.group, h.op, hs, hv, hmid, hfar, hk, Bool.not_true, Bool.or_false,
      Bool.false_eq_true, if_false, if_true]
  · simp only [State.entryServe, h.outcome, h.group, h.op, hs, hv, hmid, hfar, hk, hrem, Bool.not_true, Bool.or_false,
      Bool.false_eq_true, if_false, if_true]

theorem entryClear_clears {at_ : Nat} {p : Nat × Range} (hd : e.dst.toNat < 2 ^ 48)
    (ht : s.redTarget die w.ctx e.dst false .clear = .ok (.stg die, at_))
    (hp : ((s.die die).ranges.find? fun p => p.2.v && p.2.base.toNat == at_) = some p) :
    s.entryClear die qp w e = (s.clearWords (.stg die) at_ p.2.len.toNat).entryEnd die qp w 0 true := by
  have hp' : ((s.ranges (.stg die)).find? fun p => p.2.v && p.2.base.toNat == at_) = some p := hp
  simp only [State.entryClear, if_neg (Nat.not_le.mpr hd), ht, hp', if_true]

theorem entryClear_outside (hd : 2 ^ 48 ≤ e.dst.toNat) : s.entryClear die qp w e =
    (s.post die { cause := .addrRange }).entryEnd die qp w (statusWord 5 0 0) false := by
  simp only [State.entryClear, if_pos hd]

/-! ### The end of an entry, and a WRITE of one unit here (R278, R281, R289) -/

theorem entryEnd_writes {st : BitVec 64} {pa : Nat} (hst : w.stat = some pa) (h : st.toNat % 8 < 4) (rc : Bool) :
    s.entryEnd die qp w st rc =
      ((if rc then (s.writeSlab die pa (bytes64 ((Entry.of w.image).status st))).bump die w.ctx (Entry.of w.image).rcnt 1
        else s.writeSlab die pa (bytes64 ((Entry.of w.image).status st))).bump die w.ctx (Entry.of w.image).lcnt 1).modQpair
          die qp fun q => { q with entries := q.entries.filter fun x => x.pos != w.pos } := by
  have h5 : ¬ st.toNat % 8 = 5 := by omega
  have h4 : ¬ st.toNat % 8 = 4 := by omega
  simp only [State.entryEnd, hst, if_neg h5, if_neg h4]

theorem writeLocal_one {bs : List Byte} {runs : List (Nat × Nat)} (h0 : 0 < e.count) (h1 : e.count ≤ 4096) (hop : e.op = 1)
    (hacc : e.acc = false) (hlen : bs.length = e.count)
    (hr : s.slabRuns die w.ctx (field e.dst 0 48) e.count .remote = .ok runs) :
    s.writeLocal die w.ctx e bs = ((runs.foldl (fun (a : State × List Byte) p =>
      (a.1.writeSlab die p.1 (a.2.take p.2), a.2.drop p.2)) (s, bs)).1, .done) := by
  obtain ⟨-, -, hk⟩ := write_bytes hop
  have hunits : e.rem.units = 1 := by
    rw [hk]
    show (e.count + 4095) / 4096 = 1
    omega
  have hat : e.rem.at_ e.dst 0 = e.dst := by
    rw [hk, RemCmd.at_, hacc]
    exact BitVec.add_zero _
  have htake : (bs.drop (4096 * 0)).take 4096 = bs := List.take_of_length_le (by rw [List.length_drop]; omega)
  have hunit : s.writeUnit die w.ctx e.dst e.acc 0 bs = ((runs.foldl (fun (a : State × List Byte) p =>
      (a.1.writeSlab die p.1 (a.2.take p.2), a.2.drop p.2)) (s, bs)).1, .done) := by
    simp only [State.writeUnit, hacc, hlen, hr, Bool.false_eq_true, if_false]
  rw [State.writeLocal, hunits]
  simp only [List.range_one, List.foldl_cons, List.foldl_nil, hat, htake, hunit]

end entries

/-- Settles O44: an entry fires with what its translations come to, and, the only one of its queue pair, does its operation. -/
theorem workEntryEvents : Obligations.WorkEntryEvents := by
  refine ⟨fun cs q w rest hq hf => arm_entries hq hf, fun s die qp w e u he => ⟨fun hw => ⟨fun ha => exec_fire_unarmed hw ha,
    fun ha hu => ?fires⟩, fun hw hf => ⟨fun st ho => ?outcome, fun ho hg => ?group, fun ho hg => ?serves⟩,
    fun st pa rc hst h => ?ends, fun bs runs h0 h1 hop hacc hlen hr => writeLocal_one h0 h1 hop hacc hlen hr⟩⟩
  case fires =>
    subst he
    have hu' : s.fires die qp w = u := hu.symm
    have hchain : u.chain = s.chain := by rw [hu]; rfl
    refine ⟨fun h0 hm => ?plain, fun pa h0 hm hp => ?status, fun c h0 hp => ?fault, fun src h0 hm hsrc hg => ?moves,
      fun src g h0 hop hm hsrc hg ht => ?late, fun c h0 hm hsrc => ?sourceFault⟩
    case plain => rw [exec_fire_plain hw ha h0, hu', fireSource_still (by rw [hchain]; exact hm)]
    case status =>
      rw [exec_fire_status hw ha h0 hp, hu', fireSource_still]
      rw [← hm, ← hchain]
      rfl
    case fault =>
      rw [exec_fire_fault hw ha h0 hp, hu']
      rfl
    case moves => rw [exec_fire_plain hw ha h0, hu', fireSource_ok (by rw [hchain]; exact hm) hsrc, lateOutcome_none hg]
    case late => rw [exec_fire_plain hw ha h0, hu', fireSource_ok (by rw [hchain]; exact hm) hsrc, hg, lateOutcome_some hop ht]
    case sourceFault =>
      rw [exec_fire_plain hw ha h0, hu', fireSource_fault (by rw [hchain]; exact hm) hsrc]
      rfl
  case outcome => rw [exec_complete hw hf, entryServe_outcome ho, he]
  case group => rw [exec_complete hw hf, entryServe_group ho (he ▸ hg)]
  case ends =>
    subst he
    exact entryEnd_writes hst h rc
  case serves =>
    subst he
    rw [exec_complete hw hf]
    have hserves {op : Nat} (hop : (Entry.of w.image).op = op) : Serves s w op := ⟨ho, hg, hop⟩
    have hsound {src : Src} (hsoft : s.sourceSoft src = none) (hweak : s.weak = [])
        (hl : (Entry.of w.image).op = 1 → s.lostOf (Entry.of w.image) (s.sourceRange src) = 0) : Sound s (Entry.of w.image) src :=
      ⟨hsoft, hweak, by split_ifs with hop; exacts [hl hop, rfl]⟩
    refine ⟨fun hop => ?nop, fun hop hs => ?still, fun src t a hop hs hn hsrc hsoft hweak hl hwr => ?write,
      fun src wu hop hs hn hk hsrc hsoft hweak hl hreq hrem hlen h1 h2 h3 h4 h5 h6 h7 h8 h9 h10 h11 h12 => ?send,
      fun src m at_ rr k hop hs hn hsrc hsoft hweak ht hfind htmd had hcon hready hwords => ?red,
      fun src hop hs hn hk hsrc hsoft hweak hreq hrem => ?ask, fun hop hs hn => ?redStill, fun hop hn => ?caddNothing,
      fun d n hop hs hn => ?cadd, fun m hop hs h62 hm => ?caddFar, fun at_ p hop hd ht hp => ?clear, fun hop hd => ?clearOutside⟩
    case nop => rw [entryServe_nop (hserves hop)]
    case still => rw [entryServe_write_still (hserves hop) hs]
    case write =>
      rw [entryServe_moves (hserves hop) (.inl rfl) hs hsrc hn, entryMove_write (hsound hsoft hweak fun _ => hl) hop hwr]
      cases a <;> rfl
    case send =>
      have hwu : wu = ⟨w.req, w.unit, windowOf (s.tsc die), w.ctx, (Entry.of w.image).rem.at_ (Entry.of w.image).dst w.unit,
          min 4096 ((Entry.of w.image).count - 4096 * w.unit), none, (Entry.of w.image).acc, false, (Entry.of w.image).rm,
          decide ((Entry.of w.image).count ≤ 4096 * (w.unit + 1)),
          if (Entry.of w.image).rcnt.getLsbD 63 then (Entry.of w.image).rcnt else 0⟩ := by
        cases wu
        simp only at h1 h2 h3 h4 h5 h6 h7 h8 h9 h10 h11 h12
        simp only [h1, h2, h3, h4, h5, h6, h7, h8, h9, h10, h11, h12]
      rw [entryServe_moves (hserves hop) (.inl rfl) hs hsrc hn, entryMove_far (hsound hsoft hweak fun _ => hl) hk,
        entrySend_write hop hreq hrem hlen hwu]
    case red =>
      rw [entryServe_moves (hserves hop) (.inr rfl) hs hsrc hn,
        entryMove_red (hsound hsoft hweak fun h1 => absurd (hop.symm.trans h1) (by decide)) hop,
        entryRed_fills ht hfind htmd had hcon hready hwords]
    case ask =>
      rw [entryServe_moves (hserves hop) (.inr rfl) hs hsrc hn,
        entryMove_far (hsound hsoft hweak fun h1 => absurd (hop.symm.trans h1) (by decide)) hk, entrySend_red hop hreq hrem]
    case redStill => rw [entryServe_red_still (hserves hop) hs hn]
    case caddNothing => rw [entryServe_cadd_nothing (hserves hop) hn]
    case cadd => rw [entryServe_cadd_near (hserves hop) hs hn]
    case caddFar =>
      obtain ⟨hskipped, hsent⟩ := entryServe_cadd_far (die := die) (qp := qp) (hserves hop) hs h62 hm
      exact ⟨fun hk => congrArg Host.Outcome.next (hskipped hk), fun hk hrem => congrArg Host.Outcome.next (hsent hk hrem)⟩
    case clear => rw [entryServe_clear (hserves hop), entryClear_clears hd ht hp]
    case clearOutside => rw [entryServe_clear (hserves hop), entryClear_outside hd]

end Sys2Proof.Machine
end

section
/-! PROOFS. Mailbox commands (O49; R355, R356, R358 to R360): what a command that is served comes to, then the work of each. -/

namespace Sys2Proof.Machine

section mailbox
variable {s u : State} {i : Instr} {cmd : Nat} {listed : List (Nat × Nat)} {f : State → Served} {hdr : List Byte} {st : MailStatus}

/-! ### Serving (R355) -/

theorem serve1_served (h : s.serving cmd = true) (hl : s.onlyListed listed = true) {n : Nat} (hf : f s = (u, st, n)) :
    s.serve1 cmd listed f = .next (u.finishMail st n) := by
  simp only [State.serve1, h, hl, hf, Bool.not_true, Bool.false_eq_true, if_false, if_true]

theorem serve1_unlisted (h : s.serving cmd = true) (hl : s.onlyListed listed = false) :
    s.serve1 cmd listed f = .next (s.finishMail .badCmd 0) := by
  simp only [State.serve1, h, hl, Bool.not_true, Bool.false_eq_true, if_false]
  rfl

theorem serve1_idle (h : s.serving cmd = false) : s.serve1 cmd listed f = .next s := by
  simp only [State.serve1, h, Bool.not_false, if_true]

/-- What the work of a command comes to is what the command does. -/
theorem mailDoes_of_serve1 {ok : State → Prop} {act : State → State} {result : State → Nat}
    (e : ∀ s, exec i s = s.serve1 cmd listed f) (hf : ∀ s, ok s → f s = (act s, st, result s)) :
    MailDoes i cmd listed st ok act result :=
  fun s h hl hok => (e s).trans (serve1_served h hl (hf s hok))

/-- A command whose request has an unlisted byte, and one that is not served. -/
theorem exec_mail_otherwise : ∀ x ∈ mailBytes, ∀ s : State,
    (s.serving x.2.1 = true → s.onlyListed x.2.2 = false → exec x.1 s = .next (s.finishMail .badCmd 0))
    ∧ (s.serving x.2.1 = false → exec x.1 s = .next s) := by
  simp only [mailBytes, List.forall_mem_cons]
  refine ⟨fun s => ?submit, fun s => ?abort, fun s => ?region, fun s => ?pubkey, fun s => ?model, fun s => ?attest,
    fun s => ?create, fun s => ?destroy, fun s => ?pages, fun s => ?posmap, fun s => ?lqcfg, fun s => ?assign, fun s => ?release,
    List.forall_mem_nil _⟩
  case abort =>
    refine ⟨fun h hl => ?_, fun h => ?_⟩
    · show execAbort s = _
      simp only [execAbort, h, hl, Bool.not_true, Bool.not_false, Bool.false_eq_true, if_false, if_true]
    · show execAbort s = _
      simp only [execAbort, h, Bool.not_false, if_true]
  case destroy =>
    refine ⟨fun h hl => ?_, fun h => ?_⟩
    · show execContextDestroy s = _
      simp only [execContextDestroy, h, hl, Bool.not_true, Bool.not_false, Bool.false_eq_true, true_or, if_false, if_true]
    · show execContextDestroy s = _
      simp only [execContextDestroy, h, Bool.not_false, if_true]
  all_goals exact ⟨fun h hl => serve1_unlisted h hl, fun h => serve1_idle h⟩

/-! ### SUBMIT (R322) -/

/-- A request of SUBMIT that names a queue, a context and an aligned address. -/
def State.submitGood (s : State) : Prop := s.request 0 1 < 64 ∧ s.request 1 1 < 16 ∧ s.request 8 8 % 64 = 0

/-- One that names a live context and a valid queue of it. -/
def State.submitNamed (s : State) : Prop := s.submitGood ∧ (s.context (s.request 1 1)).live = true
  ∧ (s.queue (s.request 0 1)).valid = true ∧ (s.queue (s.request 0 1)).ctx.toNat = s.request 1 1

/-- The header that SUBMIT reads. -/
def State.submitRead (s : State) : Except Cause (List Byte) :=
  s.listedRead (s.queue (s.request 0 1)).ctx (s.request 8 8) 192

theorem submit_bad (h : ¬ s.submitGood) : s.submit = (s, .badCmd, 0) := by
  refine if_pos ?_
  by_contra hn
  simp only [not_or, Nat.not_le, not_not] at hn
  exact h ⟨hn.1, hn.2.1, hn.2.2⟩

theorem submit_in_range (h : s.submitGood) :
    ¬ (64 ≤ s.request 0 1 ∨ 16 ≤ s.request 1 1 ∨ s.request 8 8 % 64 ≠ 0) := by
  obtain ⟨h1, h2, h3⟩ := h
  omega

theorem submit_notFound (h : s.submitGood)
    (hn : (s.context (s.request 1 1)).live = false ∨ (s.queue (s.request 0 1)).valid = false) : s.submit = (s, .notFound, 0) := by
  have hmissing : (!(s.context (s.request 1 1)).live || !(s.queue (s.request 0 1)).valid) = true := by
    rcases hn with hn | hn <;> simp [hn]
  simp only [State.submit, if_neg (submit_in_range h), hmissing, if_true]
  rfl

theorem submit_error {c : Cause} (h : s.submitNamed) (hr : s.submitRead = .error c) :
    s.submit = (s.post 0 { cause := c }, .launchHeader, 0) := by
  obtain ⟨hg, hlive, hvalid, hctx⟩ := h
  rw [State.submitRead] at hr
  simp only [State.submit, if_neg (submit_in_range hg), hlive, hvalid, hctx, hr, Bool.not_true, Bool.or_false,
    Bool.false_eq_true, ne_eq, not_true_eq_false, if_false]
  rfl

theorem submit_read (h : s.submitNamed) (hr : s.submitRead = .ok hdr) : s.submit =
    if headerBad hdr then (s.post 0 { cause := .launchHeader }, .launchHeader, 0)
    else if (s.queue (s.request 0 1)).full then (s, .full, 0)
    else ((s.append (s.queue (s.request 0 1)).ctx (s.request 0 1) hdr).1, .ok,
      (s.append (s.queue (s.request 0 1)).ctx (s.request 0 1) hdr).2.toNat) := by
  obtain ⟨hg, hlive, hvalid, hctx⟩ := h
  rw [State.submitRead] at hr
  simp only [State.submit, if_neg (submit_in_range hg), hlive, hvalid, hctx, hr, Bool.not_true, Bool.or_false,
    Bool.false_eq_true, ne_eq, not_true_eq_false, if_false]
  rfl

/-- The next launch id, where no launch has it. -/
theorem append_fresh {ctx : BitVec 4} {queue : Nat} (h : s.sched.nextId.toNat ∉ s.sched.launches.map (·.1)) :
    s.append ctx queue hdr = ((s.modSched fun c => { c with
      launches := Tbl.put c.launches s.sched.nextId.toNat { ctx := ctx, queue := queue, hdr := hdr }
      nextId := BitVec.ofNat 32 (s.sched.nextId.toNat % 0xFFFFFFFE + 1) }).modQueue queue fun q =>
        { q with ids := q.ids ++ [s.sched.nextId] }, s.sched.nextId) := by
  have hid (n : Nat) : nextLaunchId (s.sched.launches.map (·.1)) s.sched.nextId.toNat (n + 1) = s.sched.nextId.toNat :=
    if_neg (by simpa using h)
  have hof : BitVec.ofNat 32 s.sched.nextId.toNat = s.sched.nextId := BitVec.ofNat_toNat ..
  simp only [State.append, hid, hof]

/-! ### ABORT (R329) -/

theorem exec_abort_new {id : BitVec 32} {l : Launch} {n : Nat} (h : s.serving 0x02 = true) (hl : s.onlyListed [(0, 4)] = true)
    (h0 : s.mailbox.stopped = 0) (hid : id = BitVec.ofNat 32 (s.request 0 4)) (hlaunch : s.launch? id = some l)
    (hend : l.ending = none) (hn : n = s.runningTeams id)
    (hu : u = (((s.post 0 { cause := .hostAbort, launch := id }).terminate id .hostAbort).modMail fun m =>
      { m with stopped := n + 1 })) :
    exec .abort s = .next (if (u.launch? id).isNone then u.finishMail .ok n else u) := by
  have hrun : (s.launch? id).any (·.ending.isNone) = true := by rw [hlaunch]; simp [hend]
  have habort : s.abortLaunch id = (s.post 0 { cause := .hostAbort, launch := id }).terminate id .hostAbort := if_pos hrun
  subst hu hn
  rw [← habort]
  show execAbort s = _
  simp only [execAbort, h, hl, h0, ← hid, hlaunch, Bool.not_true, Bool.false_eq_true, if_false]

theorem exec_abort_gone (h : s.serving 0x02 = true) (hl : s.onlyListed [(0, 4)] = true)
    (hlaunch : s.launch? (BitVec.ofNat 32 (s.request 0 4)) = none) : exec .abort s = match s.mailbox.stopped with
      | 0 => .next (s.finishMail .notFound 0)
      | n + 1 => .next (s.finishMail .ok n) := by
  show execAbort s = _
  simp only [execAbort, h, hl, hlaunch, Bool.not_true, Bool.false_eq_true, if_false]
  cases s.mailbox.stopped <;> rfl

/-! ### REGION (R120) -/

/-- The word of a request of REGION that holds a region's page, length, context and validity. -/
def State.regionWord (s : State) : Word := BitVec.ofNat 64 (s.request 16 8)

/-- A request of REGION for a live context, with a die and a region number. -/
def State.regionLive (s : State) : Prop := s.request 0 1 < 8 ∧ s.request 1 1 < 64
  ∧ (s.context (s.regionWord.extractLsb' 48 4).toNat).live = true

/-- The region that a request creates. -/
def State.newRegion (s : State) : Region :=
  ⟨s.regionWord.getLsbD 0, BitVec.ofNat 32 (s.request 24 4), s.regionWord.extractLsb' 48 4, s.regionWord.extractLsb' 21 27,
    s.regionWord.extractLsb' 12 9, 0⟩

/-- Whether a region can stand: it is invalid, or has pages and no more tuples than they hold. -/
def Region.good (g : Region) : Bool := !g.v || (g.npg != 0 && g.cap != 0 && decide (g.cap.toNat ≤ 26214 * g.npg.toNat))

theorem setRegion_bad (h : 8 ≤ s.request 0 1 ∨ 64 ≤ s.request 1 1 ∨ (!s.newRegion.good) = true) :
    s.setRegion = (s, .badCmd, 0) := if_pos h

theorem setRegion_good (h : s.regionLive) (hg : s.newRegion.good = true) :
    s.setRegion = (if s.newRegion.v then (s.removeRegion (s.request 0 1) (s.request 1 1)).modDie (s.request 0 1) fun d =>
      { d with regions := Tbl.put d.regions (s.request 1 1) s.newRegion
               badRegions := d.badRegions.filter (· != s.request 1 1) }
      else s.removeRegion (s.request 0 1) (s.request 1 1), .ok, 0) := by
  obtain ⟨hdie, hrid, hlive⟩ := h
  have hin : ¬ (8 ≤ s.request 0 1 ∨ 64 ≤ s.request 1 1 ∨ (!s.newRegion.good) = true) := by
    rw [hg]
    simp only [Bool.not_true, Bool.false_eq_true, or_false]
    omega
  have hlive' : ¬ (!(s.context (s.regionWord.extractLsb' 48 4).toNat).live) = true := by
    rw [hlive]
    nofun
  exact (if_neg hin).trans (if_neg hlive')

theorem setRegion_create (h : s.regionLive) (hv : s.regionWord.getLsbD 0 = true) (hnpg : s.regionWord.extractLsb' 12 9 ≠ 0)
    (h0 : 0 < s.request 24 4) (h32 : s.request 24 4 < 2 ^ 32)
    (hcap : s.request 24 4 ≤ 26214 * (s.regionWord.extractLsb' 12 9).toNat) :
    s.setRegion = ((s.removeRegion (s.request 0 1) (s.request 1 1)).modDie (s.request 0 1) fun d =>
      { d with
        regions := Tbl.put d.regions (s.request 1 1)
          ⟨true, BitVec.ofNat 32 (s.request 24 4), s.regionWord.extractLsb' 48 4, s.regionWord.extractLsb' 21 27,
            s.regionWord.extractLsb' 12 9, 0⟩
        badRegions := d.badRegions.filter (· != s.request 1 1) }, .ok, 0) := by
  have hnat : (BitVec.ofNat 32 (s.request 24 4)).toNat = s.request 24 4 := by
    rw [BitVec.toNat_ofNat, Nat.mod_eq_of_lt h32]
  have hne : BitVec.ofNat 32 (s.request 24 4) ≠ 0 := fun he => by
    rw [he] at hnat
    exact absurd hnat.symm (Nat.ne_of_gt h0)
  have hgood : s.newRegion.good = true := by
    simp only [Region.good, State.newRegion, hnat, bne_iff_ne.mpr hnpg, bne_iff_ne.mpr hne, decide_eq_true hcap, Bool.and_self,
      Bool.or_true]
  rw [setRegion_good h hgood]
  simp only [State.newRegion, hv, if_true]

theorem setRegion_remove (h : s.regionLive) (hv : s.regionWord.getLsbD 0 = false) :
    s.setRegion = (s.removeRegion (s.request 0 1) (s.request 1 1), .ok, 0) := by
  have hgood : s.newRegion.good = true := by
    simp only [Region.good, State.newRegion, hv, Bool.not_false, Bool.true_or]
  rw [setRegion_good h hgood]
  simp only [State.newRegion, hv, Bool.false_eq_true, if_false]

theorem newRegion_bad (hv : s.regionWord.getLsbD 0 = true) (hnpg : s.regionWord.extractLsb' 12 9 = 0) :
    (!s.newRegion.good) = true := by
  have hb : ((0 : BitVec 9) != 0) = false := rfl
  simp only [Region.good, State.newRegion, hv, hnpg, hb, Bool.false_and, Bool.not_true, Bool.false_or, Bool.not_false]

/-- A table's read of a key that it lists. -/
theorem get_of_get? {α : Type} {d v : α} {t : Tbl α} {k : Nat} (h : Tbl.get? t k = some v) : Tbl.get d t k = v := by
  induction t with
  | nil => exact absurd h (by nofun)
  | cons p t ih =>
    obtain ⟨j, w⟩ := p
    by_cases hj : j = k
    · exact (if_pos hj).trans (Option.some.inj ((if_pos hj).symm.trans h))
    · exact (if_neg hj).trans (ih ((if_neg hj).symm.trans h))

/-- A region on which no request waits is removed with its tuples. -/
theorem removeRegion_idle {die rid : Nat} {g : Region} (hg : Tbl.get? (s.die die).regions rid = some g) (hv : g.v = true)
    (hp : ∀ x ∈ (s.die die).slices, ∀ p ∈ x.2.parked, ¬ (p.base.toNat = g.vpn.toNat * 0x200000 ∧ p.ctx = g.ctx)) :
    s.removeRegion die rid = s.modDie die fun d =>
      { d with
        regions := Tbl.put d.regions rid {}
        slices := d.slices.map fun x => (x.1, { x.2 with stored := x.2.stored.filter fun t => t.rid != rid }) } := by
  have hget : Tbl.get ({} : Region) (s.die die).regions rid = g := get_of_get? hg
  have hmiss : ∀ x ∈ (s.die die).slices, ∀ p ∈ x.2.parked,
      (p.base.toNat == g.vpn.toNat * 0x200000 && p.ctx == g.ctx) = false := by
    intro x hx p hpx
    simpa only [Bool.and_eq_false_iff, beq_eq_false_iff_ne, not_and_or] using hp x hx p hpx
  have hnone : ((s.die die).slices.flatMap fun x => x.2.parked.filter fun p =>
      p.base.toNat == g.vpn.toNat * 0x200000 && p.ctx == g.ctx) = [] := by
    refine List.flatMap_eq_nil_iff.mpr fun x hx => List.filter_eq_nil_iff.mpr fun p hpx => ?_
    rw [hmiss x hx p hpx]
    nofun
  have hkept : ((s.die die).slices.map fun x => (x.1, { x.2 with
      stored := x.2.stored.filter fun t => t.rid != rid
      parked := x.2.parked.filter fun p => !(p.base.toNat == g.vpn.toNat * 0x200000 && p.ctx == g.ctx) }))
      = (s.die die).slices.map fun x => (x.1, { x.2 with stored := x.2.stored.filter fun t => t.rid != rid }) := by
    refine List.map_congr_left fun x hx => ?_
    have hall : (x.2.parked.filter fun p => !(p.base.toNat == g.vpn.toNat * 0x200000 && p.ctx == g.ctx)) = x.2.parked :=
      List.filter_eq_self.mpr fun p hpx => by rw [hmiss x hx p hpx]; rfl
    rw [hall]
  simp only [State.removeRegion, hget, hv, hnone, Bool.not_true, Bool.false_eq_true, if_false, List.foldl_nil]
  exact congrArg (s.setDie die) (congrArg (fun l => { s.die die with
    regions := Tbl.put (s.die die).regions rid {}, slices := l }) hkept)

/-! ### MODEL (R98, R360) -/

/-- What the manifest of a request of MODEL says. -/
def State.modelOf (s : State) : Model :=
  ⟨nat (s.readMem (s.request 8 8) 64) 1 1, nat (s.readMem (s.request 8 8) 64) 4 4, s.request 16 8, s.request 8 8⟩

/-- Whether a key's signature of the manifest holds. -/
def State.modelVerified (s : State) (key : List Byte) : Bool :=
  Config.mldsaVerify key (s.readMem (s.request 8 8) (64 + 64 * s.modelOf.count))
    (s.readMem (s.request 8 8 + (64 + 64 * s.modelOf.count)) 4627)

/-- Whether the slot is one and the slab holds the manifest and the image. -/
def State.modelFits (s : State) : Prop := s.request 1 1 < 8 ∧ s.request 16 8 % 65536 = 0
  ∧ s.request 8 8 + (64 + 64 * s.modelOf.count) + 4627 ≤ slabSize
  ∧ s.request 16 8 + s.modelOf.count * s.modelOf.size * 0x100000 ≤ slabSize

/-- Whether the manifest is that of the model named, of a form that R360 allows, at the origin. -/
def State.modelForm (s : State) : Prop := nat (s.readMem (s.request 8 8) 64) 0 1 = s.request 0 1
  ∧ nat (s.readMem (s.request 8 8) 64) 2 2 = 0 ∧ nat (s.readMem (s.request 8 8) 64) 8 56 = 0
  ∧ 1 ≤ s.modelOf.size ∧ s.modelOf.size ≤ 64 ∧ s.chain.isOrigin = true

theorem modelFits_iff : s.modelFits ↔ ¬ (8 ≤ s.request 1 1 ∨ slabSize < s.request 8 8 + (64 + 64 * s.modelOf.count) + sigBytes
    ∨ slabSize < s.request 16 8 + s.modelOf.count * s.modelOf.size * 0x100000 ∨ s.request 16 8 % 65536 ≠ 0) := by
  simp only [State.modelFits, sigBytes, not_or, Nat.not_le, Nat.not_lt, not_not]
  exact ⟨fun ⟨a, b, c, d⟩ => ⟨a, c, d, b⟩, fun ⟨a, c, d, b⟩ => ⟨a, b, c, d⟩⟩

theorem injectModel_unfit (h : ¬ s.modelFits) : s.injectModel = (s, .badCmd, 0) :=
  if_pos (not_not.mp (mt modelFits_iff.mpr h))

theorem injectModel_noKey (h : s.modelFits) (hk : Tbl.get? s.mailbox.keys (s.request 1 1) = none) :
    s.injectModel = (s, .auth, 0) := by
  refine (if_neg (modelFits_iff.mp h)).trans ?_
  rw [hk]
  rfl

theorem injectModel_forged {key : List Byte} (h : s.modelFits) (hk : Tbl.get? s.mailbox.keys (s.request 1 1) = some key)
    (hv : s.modelVerified key = false) : s.injectModel = (s, .auth, 0) := by
  refine (if_neg (modelFits_iff.mp h)).trans ?_
  rw [hk]
  refine if_pos (?_ : (!s.modelVerified key) = true)
  rw [hv, Bool.not_false]

theorem injectModel_holds {key : List Byte} (h : s.modelFits) (hk : Tbl.get? s.mailbox.keys (s.request 1 1) = some key)
    (hv : s.modelVerified key = true) (hf : s.modelForm) : s.injectModel =
      (((s.modMail fun b => { b with models := Tbl.put b.models (s.request 0 1) s.modelOf }).injectAll (s.request 0 1) s.modelOf).1,
        .ok, ((s.modMail fun b => { b with models := Tbl.put b.models (s.request 0 1) s.modelOf }).injectAll
          (s.request 0 1) s.modelOf).2) := by
  obtain ⟨hmodel, hz, hz', hlo, hhi, horigin⟩ := hf
  refine (if_neg (modelFits_iff.mp h)).trans ?_
  rw [hk]
  refine (if_neg (?_ : ¬ (!s.modelVerified key) = true)).trans (if_neg ?_)
  · rw [hv]
    nofun
  · have hlo' : 1 ≤ nat (s.readMem (s.request 8 8) 64) 1 1 := hlo
    have hhi' : nat (s.readMem (s.request 8 8) 64) 1 1 ≤ 64 := hhi
    simp only [hmodel, hz, hz', hlo', hhi', horigin, beq_self_eq_true, decide_true, Bool.and_self, Bool.not_true, Bool.or_self,
      Bool.false_eq_true, not_false_eq_true]

theorem injectAll_one {n : Nat} {m : Model} (h : m.count = 1) :
    s.injectAll n m = s.injectOne m (BitVec.ofNat 32 (n * 2 ^ 24)) 0 := by
  have hone : (List.range m.count).foldr (s.insertDue n) [] = [0] := by
    rw [h]
    rfl
  simp only [State.injectAll, hone, List.foldl_cons, List.foldl_nil, Nat.zero_add, Nat.add_zero]

section segment
variable {m : Model} {tag : BitVec 32} {flags : BitVec 8} {k pa : Nat}

theorem injectOne_verified (hk : k = tag.toNat % 2 ^ 24) (hpa : pa = m.image + k * m.size * 0x100000)
    (h : padTo 64 (Config.sha3 (s.readMem pa (m.size * 0x100000))) = s.readMem (m.manifest + 64 + 64 * k) 64) :
    s.injectOne m tag flags = ((List.range 8).foldl (fun a d => a.modDie d fun v =>
      { v with fwd := v.fwd ++ [⟨pa + d * (m.size * 131072), tag, s.nextRot tag, m.size, flags, 0, none, true⟩] }) s, 1) := by
  subst hk hpa
  exact if_pos h

theorem injectOne_forged (hk : k = tag.toNat % 2 ^ 24) (hpa : pa = m.image + k * m.size * 0x100000)
    (h : padTo 64 (Config.sha3 (s.readMem pa (m.size * 0x100000))) ≠ s.readMem (m.manifest + 64 + 64 * k) 64) :
    s.injectOne m tag flags = ((s.modCadence tag fun e => { e with lost := true }).post 0
      { cause := .segmentAuth, detail := zext32 tag }, 0) := by
  subst hk hpa
  exact if_neg h

end segment

/-! ### CONTEXT (R356) -/

theorem createContext_fresh (h : s.request 0 1 < 16) (h1 : s.request 1 1 = 0) (hl : (s.context (s.request 0 1)).live = false) :
    s.createContext = (s.modContext (s.request 0 1) fun _ => { live := true }, .ok, 0) := by
  refine if_neg ?_
  simp only [h1, hl, ne_eq, not_true_eq_false, Bool.false_eq_true, or_false, Nat.not_le]
  exact h

theorem createContext_bad (h : 16 ≤ s.request 0 1 ∨ s.request 1 1 ≠ 0 ∨ (s.context (s.request 0 1)).live = true) :
    s.createContext = (s, .badCmd, 0) := if_pos h

theorem exec_contextDestroy_bad (h : s.serving 0x07 = true) (hb : 16 ≤ s.request 0 1 ∨ s.request 1 1 ≠ 1) :
    exec .contextDestroy s = .next (s.finishMail .badCmd 0) := by
  refine (if_neg ?_).trans (if_pos (Or.inr hb))
  rw [h]
  nofun

/-- A request that destroys a context: of one that lives, and of one that does not. -/
theorem exec_contextDestroy_named (h : s.serving 0x07 = true) (hl : s.onlyListed [(0, 2)] = true) (hc : s.request 0 1 < 16)
    (h1 : s.request 1 1 = 1) : exec .contextDestroy s =
      if !(s.context (s.request 0 1)).live then .next (s.finishMail .notFound 0)
      else .next (if (((s.launchesOf (s.request 0 1)).foldl (fun a id => a.abortLaunch id) s).launchesOf (s.request 0 1)).isEmpty
        then (((s.launchesOf (s.request 0 1)).foldl (fun a id => a.abortLaunch id) s).dropContext (s.request 0 1)).finishMail .ok 0
        else (s.launchesOf (s.request 0 1)).foldl (fun a id => a.abortLaunch id) s) := by
  have hin : ¬ ((!s.onlyListed [(0, 2)]) = true ∨ 16 ≤ s.request 0 1 ∨ s.request 1 1 ≠ 1) := by
    rw [hl]
    simp only [Bool.not_true, Bool.false_eq_true, false_or]
    omega
  refine (if_neg ?_).trans (if_neg hin)
  rw [h]
  nofun

theorem exec_contextDestroy_gone (h : s.serving 0x07 = true) (hl : s.onlyListed [(0, 2)] = true) (hc : s.request 0 1 < 16)
    (h1 : s.request 1 1 = 1) (hlive : (s.context (s.request 0 1)).live = false) :
    exec .contextDestroy s = .next (s.finishMail .notFound 0) := by
  rw [exec_contextDestroy_named h hl hc h1, hlive, Bool.not_false, if_pos rfl]

theorem exec_contextDestroy_idle (h : s.serving 0x07 = true) (hl : s.onlyListed [(0, 2)] = true) (hc : s.request 0 1 < 16)
    (h1 : s.request 1 1 = 1) (hlive : (s.context (s.request 0 1)).live = true) (hn : s.launchesOf (s.request 0 1) = []) :
    exec .contextDestroy s = .next ((s.dropContext (s.request 0 1)).finishMail .ok 0) := by
  rw [exec_contextDestroy_named h hl hc h1, hlive, Bool.not_true, if_neg nofun, hn, List.foldl_nil, hn, List.isEmpty_nil,
    if_pos rfl]

theorem exec_contextDestroy_aborting (h : s.serving 0x07 = true) (hl : s.onlyListed [(0, 2)] = true) (hc : s.request 0 1 < 16)
    (h1 : s.request 1 1 = 1) (hlive : (s.context (s.request 0 1)).live = true)
    (hu : u = (s.launchesOf (s.request 0 1)).foldl (fun a id => a.abortLaunch id) s) (hn : u.launchesOf (s.request 0 1) ≠ []) :
    exec .contextDestroy s = .next u := by
  rw [exec_contextDestroy_named h hl hc h1, hlive, Bool.not_true, if_neg nofun, ← hu, if_neg (mt List.isEmpty_iff.mp hn)]

/-- The regions of a context removed. -/
def State.dropRegions (s : State) (c : Nat) : State :=
  (List.range 8).foldl (fun a d =>
    (((a.die d).regions.filter fun p => p.2.v && p.2.ctx.toNat == c).map (·.1)).foldl (fun b rid => b.removeRegion d rid) a) s

/-- A launch queue of a context that is destroyed is no longer valid. -/
def LQueue.shut (q : LQueue) (c : Nat) : LQueue := if q.ctx.toNat = c then { q with cfg := q.cfg &&& ~~~0x8000000000#64 } else q

theorem dropContext_eq {c : Nat} : s.dropContext c =
    ((((List.range 8).foldl (fun a d => a.modDie d fun v => v.forget c) (s.dropRegions c)).modSched fun x =>
      { x with queues := x.queues.map fun p => (p.1, p.2.shut c) }).modContext c fun _ => {}) := rfl

theorem context_modContext (c : Nat) (f : Context → Context) : (s.modContext c f).context c = f (s.context c) :=
  (Tbl.get_put ..).trans (if_pos rfl)

theorem die_modSched_modContext (c d : Nat) (f : Sched → Sched) (g : Context → Context) :
    ((s.modSched f).modContext c g).die d = s.die d := rfl

theorem dropContext_context {c : Nat} : (s.dropContext c).context c = {} := by
  rw [dropContext_eq, context_modContext]

theorem dropContext_die {c d : Nat} (h : d < 8) : (s.dropContext c).die d = ((s.dropRegions c).die d).forget c := by
  rw [dropContext_eq, die_modSched_modContext, die_foldl_modDie (fun _ v => v.forget c) List.nodup_range,
    if_pos (List.mem_range.mpr h)]

/-- What is left of a holder's context is another one. -/
theorem forget_ctx_ne {c : Nat} (h : c < 16) (k : Option (BitVec 4)) :
    (if k.any (fun k => k.toNat == c) then none else k) ≠ some (BitVec.ofNat 4 c) := by
  split
  · nofun
  · rename_i hk
    intro he
    refine hk ?_
    rw [he, Option.any_some, BitVec.toNat_ofNat, Nat.mod_eq_of_lt h, beq_self_eq_true]

theorem forget_counter_ne {c : Nat} (h : c < 16) (v : Die) (n : Nat) :
    (Tbl.get ({} : Counter) (v.forget c).counters n).ctx ≠ some (BitVec.ofNat 4 c) := by
  have he := get_mapValues (d := ({} : Counter))
    (f := fun k => { k with ctx := if k.ctx.any (fun k => k.toNat == c) then none else k.ctx }) rfl v.counters n
  rw [show Tbl.get ({} : Counter) (v.forget c).counters n = _ from he]
  exact forget_ctx_ne h _

theorem forget_qpair_ne {c : Nat} (h : c < 16) (v : Die) (n : Nat) :
    (Tbl.get ({} : QPair) (v.forget c).qps n).ctx ≠ some (BitVec.ofNat 4 c) := by
  have he := get_mapValues (d := ({} : QPair)) (f := fun q => { q with
    entries := q.entries.filter fun w => w.ctx.toNat != c
    ctx := if q.ctx.any (fun k => k.toNat == c) then none else q.ctx }) rfl v.qps n
  rw [show Tbl.get ({} : QPair) (v.forget c).qps n = _ from he]
  exact forget_ctx_ne h _

theorem forget_tm {c : Nat} {v : Die} : ∀ p ∈ (v.forget c).tm, p.2.getLsbD 12 = true → field p.2 33 4 ≠ c := by
  intro p hp hv he
  have hkeep := (List.mem_filter.mp hp).2
  rw [hv, he, beq_self_eq_true] at hkeep
  exact absurd hkeep nofun

theorem dropRegions_none {c : Nat} (h : ∀ k < 8, ∀ p ∈ (s.die k).regions, ¬ (p.2.v = true ∧ p.2.ctx.toNat = c)) :
    s.dropRegions c = s := by
  refine foldl_stays fun k hk => ?_
  have hnone : (s.die k).regions.filter (fun p => p.2.v && p.2.ctx.toNat == c) = [] :=
    List.filter_eq_nil_iff.mpr fun p hp he =>
      h k (List.mem_range.mp hk) p hp ((Bool.and_eq_true ..).mp he |>.imp_right beq_iff_eq.mp)
  rw [hnone]
  rfl

theorem shut_valid {q : LQueue} {c : Nat} (h : q.ctx.toNat = c) : (q.shut c).valid = false := by
  have hbit : (~~~0x8000000000#64).getLsbD 39 = false := by decide
  rw [LQueue.shut, if_pos h]
  show (q.cfg &&& ~~~0x8000000000#64).getLsbD 39 = false
  rw [BitVec.getLsbD_and, hbit, Bool.and_false]

theorem shut_default {c : Nat} : ({} : LQueue).shut c = {} := by
  unfold LQueue.shut
  split <;> rfl

theorem dropContext_queue {c n : Nat} (h : ∀ k < 8, ∀ p ∈ (s.die k).regions, ¬ (p.2.v = true ∧ p.2.ctx.toNat = c)) :
    (s.dropContext c).queue n = (s.queue n).shut c := by
  rw [dropContext_eq, dropRegions_none h, foldl_modDie_frame fun _ v => v.forget c]
  exact get_mapValues (d := ({} : LQueue)) (f := fun q => q.shut c) shut_default s.sched.queues n

/-! ### PAGES and POSMAP (R356) -/

/-- A list that lies in the slab. -/
def inSlab (pa n : Nat) : Prop := n ≤ 65536 ∧ pa % 8 = 0 ∧ (n = 0 ∨ pa + 8 * n ≤ slabSize)

/-- An entry of a page list that its context may have. -/
def pageOk (ctx : Nat) (e : Word) : Prop := e.getLsbD 12 = true ∧ field e 0 12 = 0 ∧ entryClass e < 4 ∧ field e 33 4 = ctx

/-- A request of PAGES with a list of a live context. -/
def State.pageList (s : State) : Prop := s.request 0 1 < 16 ∧ s.request 1 1 ≤ 1 ∧ inSlab (s.request 8 8) (s.request 4 4)
  ∧ (s.context (s.request 0 1)).live = true

/-- The words of the list of a request of PAGES. -/
def State.pageWords (s : State) : List Word := s.words (s.request 8 8) (s.request 4 4)

/-- The list of a request of PAGES taken. -/
def State.takePages (s : State) : State := s.modContext (s.request 0 1) fun c =>
  { c with pages := if s.request 4 4 = 0 then none else some (s.request 8 8, s.request 4 4) }

theorem inSlab_iff {pa n : Nat} : inSlab pa n ↔ ¬ (65536 < n ∨ pa % 8 ≠ 0 ∨ (0 < n ∧ slabSize < pa + 8 * n)) := by
  unfold inSlab
  omega

theorem pageOk_iff {ctx : Nat} {e : Word} : pageOk ctx e ↔
    (!e.getLsbD 12 || field e 0 12 != 0 || decide (4 ≤ entryClass e) || field e 33 4 != ctx) = false := by
  simp only [pageOk, Bool.or_eq_false_iff, Bool.not_eq_false', bne_eq_false_iff_eq, decide_eq_false_iff_not, Nat.not_le,
    and_assoc]

theorem setPages_list (h : s.pageList) : s.setPages =
    if s.pageWords.any (fun e => !e.getLsbD 12 || field e 0 12 != 0 || decide (4 ≤ entryClass e) || field e 33 4 != s.request 0 1)
      then (s, .badCmd, 0)
    else if s.request 1 1 = 0 then (s.takePages, .ok, s.request 4 4)
    else match s.takePages.loadEverywhere (s.pageWords.filter (·.getLsbD 13)) (List.range 8) with
      | some u => (u, .ok, s.request 4 4)
      | none => (s.takePages, .full, 0) := by
  obtain ⟨hc, hload, hslab, hlive⟩ := h
  have hin : ¬ (16 ≤ s.request 0 1 ∨ 1 < s.request 1 1 ∨ 65536 < s.request 4 4 ∨ s.request 8 8 % 8 ≠ 0
      ∨ (0 < s.request 4 4 ∧ slabSize < s.request 8 8 + 8 * s.request 4 4)) := by
    have hlist := inSlab_iff.mp hslab
    omega
  simp only [State.setPages, if_neg hin, hlive, Bool.not_true, Bool.false_eq_true, if_false]
  rfl

theorem setPages_bad (h : s.pageList) (hb : ∃ e ∈ s.pageWords, ¬ pageOk (s.request 0 1) e) : s.setPages = (s, .badCmd, 0) := by
  obtain ⟨e, he, hbad⟩ := hb
  rw [setPages_list h]
  exact if_pos (List.any_eq_true.mpr ⟨e, he, Bool.of_not_eq_false (mt pageOk_iff.mpr hbad)⟩)

theorem setPages_good (h : s.pageList) (hg : ∀ e ∈ s.pageWords, pageOk (s.request 0 1) e) : s.setPages =
    if s.request 1 1 = 0 then (s.takePages, .ok, s.request 4 4)
    else match s.takePages.loadEverywhere (s.pageWords.filter (·.getLsbD 13)) (List.range 8) with
      | some u => (u, .ok, s.request 4 4)
      | none => (s.takePages, .full, 0) := by
  rw [setPages_list h]
  exact if_neg (Bool.eq_false_iff.mp (List.any_eq_false.mpr fun e he => Bool.eq_false_iff.mp (pageOk_iff.mp (hg e he))))

theorem setPages_noLoad (h : s.pageList) (hg : ∀ e ∈ s.pageWords, pageOk (s.request 0 1) e) (h1 : s.request 1 1 = 0) :
    s.setPages = (s.takePages, .ok, s.request 4 4) := by
  rw [setPages_good h hg, if_pos h1]

theorem setPages_loaded (h : s.pageList) (hg : ∀ e ∈ s.pageWords, pageOk (s.request 0 1) e) (h1 : s.request 1 1 = 1)
    (hu : s.takePages.loadEverywhere (s.pageWords.filter (·.getLsbD 13)) (List.range 8) = some u) :
    s.setPages = (u, .ok, s.request 4 4) := by
  rw [setPages_good h hg, if_neg (by rw [h1]; nofun), hu]

theorem setPages_full (h : s.pageList) (hg : ∀ e ∈ s.pageWords, pageOk (s.request 0 1) e) (h1 : s.request 1 1 = 1)
    (hu : s.takePages.loadEverywhere (s.pageWords.filter (·.getLsbD 13)) (List.range 8) = none) :
    s.setPages = (s.takePages, .full, 0) := by
  rw [setPages_good h hg, if_neg (by rw [h1]; nofun), hu]

/-- A request of POSMAP with a list of a live context. -/
def State.posList (s : State) : Prop := s.request 0 1 < 16 ∧ s.request 4 4 ≤ 0xFFFFF ∧ inSlab (s.request 16 8) (s.request 8 4)
  ∧ (s.context (s.request 0 1)).live = true

/-- The list of a request of POSMAP is taken away, with what the dies hold of it. -/
def State.forgetTokens (s : State) : State :=
  (List.range 8).foldl (fun a d => a.modDie d fun v => { v with pm := v.pm.filter fun p =>
    !(p.2.getLsbD 59 && (p.2.extractLsb' 88 4).toNat == s.request 0 1 && (p.2.extractLsb' 108 20).toNat == s.request 4 4) })
    (s.modContext (s.request 0 1) fun c => { c with tokens := Tbl.erase c.tokens (s.request 4 4) })

theorem setPosmap_list (h : s.posList) : s.setPosmap =
    if s.request 8 4 = 0 then (s.forgetTokens, .ok, 0)
    else if (s.words (s.request 16 8) (s.request 8 4)).any (fun a =>
      a != 0 && (a.toNat % 64 != 0 || !s.inPlainPage (s.request 0 1) a.toNat)) then (s, .badCmd, 0)
    else (s.modContext (s.request 0 1) fun c =>
      { c with tokens := Tbl.put c.tokens (s.request 4 4) (s.request 16 8, s.request 8 4) }, .ok, s.request 8 4) := by
  obtain ⟨hc, hreq, hslab, hlive⟩ := h
  have hin : ¬ (16 ≤ s.request 0 1 ∨ 0xFFFFF < s.request 4 4 ∨ 65536 < s.request 8 4 ∨ s.request 16 8 % 8 ≠ 0
      ∨ (0 < s.request 8 4 ∧ slabSize < s.request 16 8 + 8 * s.request 8 4)) := by
    have hlist := inSlab_iff.mp hslab
    omega
  refine (if_neg hin).trans (if_neg ?_)
  rw [hlive]
  nofun

theorem setPosmap_empty (h : s.posList) (h0 : s.request 8 4 = 0) : s.setPosmap = (s.forgetTokens, .ok, 0) := by
  rw [setPosmap_list h, if_pos h0]

theorem setPosmap_taken (h : s.posList) (h0 : 0 < s.request 8 4) (ha : ∀ a ∈ s.words (s.request 16 8) (s.request 8 4),
      a = 0 ∨ (a.toNat % 64 = 0 ∧ s.inPlainPage (s.request 0 1) a.toNat = true)) : s.setPosmap =
    (s.modContext (s.request 0 1) fun c => { c with tokens := Tbl.put c.tokens (s.request 4 4) (s.request 16 8, s.request 8 4) },
      .ok, s.request 8 4) := by
  have hnone : (s.words (s.request 16 8) (s.request 8 4)).any (fun a =>
      a != 0 && (a.toNat % 64 != 0 || !s.inPlainPage (s.request 0 1) a.toNat)) = false := by
    refine List.any_eq_false.mpr fun a hmem he => ?_
    simp only [Bool.and_eq_true, Bool.or_eq_true, bne_iff_ne, Bool.not_eq_true'] at he
    obtain ⟨hne, hbad⟩ := he
    rcases ha a hmem with hz | ⟨h64, hplain⟩
    · exact hne hz
    · rcases hbad with hbad | hbad
      · exact hbad h64
      · exact absurd (hplain.symm.trans hbad) nofun
  rw [setPosmap_list h, if_neg (Nat.ne_of_gt h0), hnone, if_neg nofun]

/-! ### LQCFG (R308) -/

/-- The configuration that a request of LQCFG writes: its read-only fields are 0. -/
def State.queueCfg (s : State) : Word := BitVec.ofNat 64 (s.request 8 8) &&& 0xFFFF0FF0FFFFF000

theorem setQueue_written (h : s.request 0 1 < 64) (hl : (s.context (field s.queueCfg 40 4)).live = true)
    (hq : (s.queue (s.request 0 1)).ids = [] ∨ (s.queue (s.request 0 1)).ctx.toNat = field s.queueCfg 40 4) :
    s.setQueue = (s.modQueue (s.request 0 1) fun q =>
      { q with cfg := s.queueCfg, level := if q.readySince.isSome then q.level else field s.queueCfg 36 3 }, .ok, 0) := by
  refine (if_neg (Nat.not_le.mpr h)).trans ((if_neg ?_).trans (if_neg ?_))
  · show ¬ (!(s.context (field s.queueCfg 40 4)).live) = true
    rw [hl]
    nofun
  · rintro ⟨hids, hctx⟩
    rcases hq with hq | hq
    · rw [hq] at hids
      exact absurd hids nofun
    · exact hctx hq

theorem setQueue_notFound (h : s.request 0 1 < 64) (hl : (s.context (field s.queueCfg 40 4)).live = false) :
    s.setQueue = (s, .notFound, 0) := by
  refine (if_neg (Nat.not_le.mpr h)).trans (if_pos ?_)
  show (!(s.context (field s.queueCfg 40 4)).live) = true
  rw [hl, Bool.not_false]

theorem setQueue_noQueue (h : 64 ≤ s.request 0 1) : s.setQueue = (s, .badCmd, 0) := if_pos h

/-- A queue that holds launches keeps its context. -/
theorem setQueue_taken (hl : (s.context (field s.queueCfg 40 4)).live = true) (hids : (s.queue (s.request 0 1)).ids ≠ [])
    (hctx : (s.queue (s.request 0 1)).ctx.toNat ≠ field s.queueCfg 40 4) : s.setQueue = (s, .badCmd, 0) := by
  by_cases h : 64 ≤ s.request 0 1
  · exact setQueue_noQueue h
  · refine (if_neg h).trans ((if_neg ?_).trans (if_pos ⟨?_, hctx⟩))
    · show ¬ (!(s.context (field s.queueCfg 40 4)).live) = true
      rw [hl]
      nofun
    · rw [Bool.not_eq_true', Bool.eq_false_iff]
      exact mt List.isEmpty_iff.mp hids

/-! ### ASSIGN (R356) -/

/-- A request of ASSIGN that names a resource of a kind, an operation and a live context. -/
def State.assignNames (s : State) (kind op : Nat) : Prop := s.request 0 1 = kind ∧ s.request 1 1 < 8 ∧ s.request 3 1 < 16
  ∧ s.request 4 1 = op ∧ (s.context (s.request 3 1)).live = true

theorem resource_named {kind op : Nat} (h : s.assignNames kind op) (hkind : kind = 0 ∨ (kind = 1 ∧ s.request 2 1 < 64))
    (hop : op ≤ 1) : s.resource = some (kind == 1, s.request 1 1, s.request 2 1, s.request 3 1) := by
  obtain ⟨h0, h1, h3, h4, -⟩ := h
  refine (if_neg ?_).trans (by rw [h0])
  omega

theorem State.assignNames.ctx_lt {kind op : Nat} (h : s.assignNames kind op) : s.request 3 1 < 16 := by
  obtain ⟨-, -, hctx, -, -⟩ := h
  exact hctx

theorem State.assignNames.live {kind op : Nat} (h : s.assignNames kind op) :
    ¬ (!(s.context (s.request 3 1)).live) = true := by
  obtain ⟨-, -, -, -, hlive⟩ := h
  rw [hlive]
  nofun

theorem assignTo_free {kind op : Nat} (h : s.assignNames kind op) (hkind : kind = 0 ∨ (kind = 1 ∧ s.request 2 1 < 64))
    (hop : op ≤ 1) (hh : s.holder (kind == 1) (s.request 1 1) (s.request 2 1) = none) : s.assignTo =
    (if kind == 1 then s.modQpair (s.request 1 1) (s.request 2 1) fun q =>
        { q with ctx := some (BitVec.ofNat 4 (s.request 3 1)), posted := 0 }
      else s.modCounter (s.request 1 1) (s.request 2 1) fun k => { k with ctx := some (BitVec.ofNat 4 (s.request 3 1)) }, .ok, 0) := by
  simp only [State.assignTo, resource_named h hkind hop, if_neg h.live, hh]

theorem assignTo_held {kind op : Nat} {c : BitVec 4} (h : s.assignNames kind op)
    (hkind : kind = 0 ∨ (kind = 1 ∧ s.request 2 1 < 64)) (hop : op ≤ 1)
    (hh : s.holder (kind == 1) (s.request 1 1) (s.request 2 1) = some c) :
    s.assignTo = if c.toNat = s.request 3 1 then (s, .ok, 0) else (s, .badCmd, 0) := by
  simp only [State.assignTo, resource_named h hkind hop, if_neg h.live, hh]
  rfl

/-- The context of a request of ASSIGN, as a holder. -/
theorem ofNat_ctx_eq {c : BitVec 4} {n : Nat} (h : n < 16) : c = BitVec.ofNat 4 n ↔ c.toNat = n := by
  rw [← BitVec.toNat_inj, BitVec.toNat_ofNat, Nat.mod_eq_of_lt h]

theorem releaseFrom_named {kind op : Nat} (h : s.assignNames kind op) (hkind : kind = 0 ∨ (kind = 1 ∧ s.request 2 1 < 64))
    (hop : op ≤ 1) : s.releaseFrom =
    if (s.holder (kind == 1) (s.request 1 1) (s.request 2 1)).map (·.toNat) ≠ some (s.request 3 1)
        ∨ (if kind == 1 then !(s.qpair (s.request 1 1) (s.request 2 1)).entries.isEmpty
          else s.counterUsed (s.request 1 1) (s.request 2 1)) = true then (s, .badCmd, 0)
    else (if kind == 1 then s.modQpair (s.request 1 1) (s.request 2 1) fun q => { q with ctx := none }
      else s.modCounter (s.request 1 1) (s.request 2 1) fun k => { k with ctx := none }, .ok, 0) := by
  simp only [State.releaseFrom, resource_named h hkind hop, if_neg h.live]
  rfl

theorem holder_map_eq {k : Option (BitVec 4)} {n : Nat} (h : n < 16) :
    k.map (·.toNat) = some n ↔ k = some (BitVec.ofNat 4 n) := by
  cases k with
  | none => exact ⟨nofun, nofun⟩
  | some c =>
    rw [Option.map_some, Option.some_inj, Option.some_inj]
    exact (ofNat_ctx_eq h).symm

end mailbox

/-! ### What each command does -/

theorem mailDoes_submit (hdr : List Byte) :
    MailDoes .submit 0x01 [(0, 2), (8, 8)] .ok
      (fun s => (s.submitNamed ∧ s.submitRead = .ok hdr) ∧ headerBad hdr = false ∧ (s.queue (s.request 0 1)).ids.length < 64
        ∧ s.sched.nextId.toNat ∉ s.sched.launches.map (·.1))
      (fun s => (s.modSched fun c =>
        { c with
          launches := Tbl.put c.launches s.sched.nextId.toNat
            { ctx := (s.queue (s.request 0 1)).ctx, queue := s.request 0 1, hdr := hdr }
          nextId := BitVec.ofNat 32 (s.sched.nextId.toNat % 0xFFFFFFFE + 1) }).modQueue (s.request 0 1) fun q =>
            { q with ids := q.ids ++ [s.sched.nextId] })
      (fun s => s.sched.nextId.toNat)
    ∧ MailDoes .submit 0x01 [(0, 2), (8, 8)] .full
      (fun s => (s.submitNamed ∧ s.submitRead = .ok hdr) ∧ headerBad hdr = false ∧ 64 ≤ (s.queue (s.request 0 1)).ids.length)
    ∧ MailDoes .submit 0x01 [(0, 2), (8, 8)] .launchHeader
      (fun s => (s.submitNamed ∧ s.submitRead = .ok hdr) ∧ headerBad hdr = true) (fun s => s.post 0 { cause := .launchHeader }) := by
  refine ⟨mailDoes_of_serve1 (fun _ => rfl) ?_, mailDoes_of_serve1 (fun _ => rfl) ?_, mailDoes_of_serve1 (fun _ => rfl) ?_⟩
  · rintro s ⟨⟨hn, hr⟩, hok, hroom, hfresh⟩
    have hfull : (s.queue (s.request 0 1)).full = false := decide_eq_false (Nat.not_le.mpr hroom)
    rw [submit_read hn hr, hok, hfull, append_fresh hfresh]
    rfl
  · rintro s ⟨⟨hn, hr⟩, hok, hroom⟩
    have hfull : (s.queue (s.request 0 1)).full = true := decide_eq_true hroom
    rw [submit_read hn hr, hok, hfull]
    rfl
  · rintro s ⟨⟨hn, hr⟩, hbad⟩
    rw [submit_read hn hr, hbad]
    rfl

theorem mailDoes_abort :
    MailDoes .abort 0x02 [(0, 4)] .notFound
      (fun s => s.mailbox.stopped = 0 ∧ s.launch? (BitVec.ofNat 32 (s.request 0 4)) = none)
    ∧ ∀ n, MailDoes .abort 0x02 [(0, 4)] .ok
      (fun s => s.mailbox.stopped = n + 1 ∧ s.launch? (BitVec.ofNat 32 (s.request 0 4)) = none) id (fun _ => n) := by
  constructor
  · rintro s h hl ⟨h0, hgone⟩
    rw [exec_abort_gone h hl hgone, h0]
    rfl
  · rintro n s h hl ⟨hn, hgone⟩
    rw [exec_abort_gone h hl hgone, hn]
    rfl

/-- What destroying a context leaves of it. -/
theorem dropContext_clears (s : State) {c d : Nat} (n : Nat) (hc : c < 16) (hd : d < 8) :
    (s.dropContext c).context c = {} ∧ ((s.dropContext c).counter d n).ctx ≠ some (BitVec.ofNat 4 c)
    ∧ ((s.dropContext c).qpair d n).ctx ≠ some (BitVec.ofNat 4 c)
    ∧ (∀ p ∈ ((s.dropContext c).die d).tm, p.2.getLsbD 12 = true → field p.2 33 4 ≠ c)
    ∧ ((∀ k < 8, ∀ p ∈ (s.die k).regions, ¬ (p.2.v = true ∧ p.2.ctx.toNat = c)) → (s.queue n).ctx.toNat = c →
      ((s.dropContext c).queue n).valid = false) := by
  refine ⟨dropContext_context, ?counter, ?qpair, ?tm, fun hr hq => ?queue⟩
  case counter =>
    rw [State.counter, dropContext_die hd]
    exact forget_counter_ne hc _ n
  case qpair =>
    rw [State.qpair, dropContext_die hd]
    exact forget_qpair_ne hc _ n
  case tm =>
    rw [dropContext_die hd]
    exact forget_tm
  case queue =>
    rw [dropContext_queue hr]
    exact shut_valid hq

theorem mailDoes_assign :
    MailDoes .assign 0x0B [(0, 5)] .ok (fun s => s.assignNames 0 0 ∧ (s.counter (s.request 1 1) (s.request 2 1)).ctx = none)
      (fun s => s.putCounter (s.request 1 1) (s.request 2 1) fun k => { k with ctx := some (BitVec.ofNat 4 (s.request 3 1)) })
    ∧ MailDoes .assign 0x0B [(0, 5)] .ok (fun s => s.assignNames 1 0 ∧ s.request 2 1 < 64
        ∧ (s.qpair (s.request 1 1) (s.request 2 1)).ctx = none)
      (fun s => s.modQpair (s.request 1 1) (s.request 2 1) fun q =>
        { q with ctx := some (BitVec.ofNat 4 (s.request 3 1)), posted := 0 })
    ∧ MailDoes .assign 0x0B [(0, 5)] .ok (fun s => s.assignNames 0 0
        ∧ (s.counter (s.request 1 1) (s.request 2 1)).ctx = some (BitVec.ofNat 4 (s.request 3 1)))
    ∧ ∀ c : BitVec 4, MailDoes .assign 0x0B [(0, 5)] .badCmd (fun s => s.assignNames 0 0
        ∧ (s.counter (s.request 1 1) (s.request 2 1)).ctx = some c ∧ some c ≠ some (BitVec.ofNat 4 (s.request 3 1))) := by
  refine ⟨mailDoes_of_serve1 (fun _ => rfl) ?_, mailDoes_of_serve1 (fun _ => rfl) ?_, mailDoes_of_serve1 (fun _ => rfl) ?_,
    fun c => mailDoes_of_serve1 (fun _ => rfl) ?_⟩
  · rintro s ⟨hn, hfree⟩
    exact assignTo_free hn (Or.inl rfl) (Nat.zero_le 1) hfree
  · rintro s ⟨hn, hqp, hfree⟩
    exact assignTo_free hn (Or.inr ⟨rfl, hqp⟩) (Nat.zero_le 1) hfree
  · rintro s ⟨hn, hheld⟩
    rw [assignTo_held hn (Or.inl rfl) (Nat.zero_le 1) hheld, if_pos ((ofNat_ctx_eq hn.ctx_lt).mp rfl)]
    rfl
  · rintro s ⟨hn, hheld, hother⟩
    rw [assignTo_held hn (Or.inl rfl) (Nat.zero_le 1) hheld,
      if_neg fun he => hother (congrArg some ((ofNat_ctx_eq hn.ctx_lt).mpr he))]
    rfl

theorem mailDoes_assignRelease :
    MailDoes .assignRelease 0x0B [(0, 5)] .ok (fun s => s.assignNames 0 1
        ∧ (s.counter (s.request 1 1) (s.request 2 1)).ctx = some (BitVec.ofNat 4 (s.request 3 1))
        ∧ s.counterUsed (s.request 1 1) (s.request 2 1) = false)
      (fun s => s.putCounter (s.request 1 1) (s.request 2 1) fun k => { k with ctx := none })
    ∧ MailDoes .assignRelease 0x0B [(0, 5)] .ok (fun s => s.assignNames 1 1 ∧ s.request 2 1 < 64
        ∧ (s.qpair (s.request 1 1) (s.request 2 1)).ctx = some (BitVec.ofNat 4 (s.request 3 1))
        ∧ (s.qpair (s.request 1 1) (s.request 2 1)).entries = [])
      (fun s => s.modQpair (s.request 1 1) (s.request 2 1) fun q => { q with ctx := none })
    ∧ MailDoes .assignRelease 0x0B [(0, 5)] .badCmd (fun s => s.assignNames 0 1
        ∧ ((s.counter (s.request 1 1) (s.request 2 1)).ctx ≠ some (BitVec.ofNat 4 (s.request 3 1))
          ∨ s.counterUsed (s.request 1 1) (s.request 2 1) = true)) := by
  refine ⟨mailDoes_of_serve1 (fun _ => rfl) ?_, mailDoes_of_serve1 (fun _ => rfl) ?_, mailDoes_of_serve1 (fun _ => rfl) ?_⟩
  · rintro s ⟨hn, hheld, hunused⟩
    refine (releaseFrom_named hn (Or.inl rfl) (Nat.le_refl 1)).trans (if_neg ?_)
    rintro (hne | hused)
    · exact hne ((holder_map_eq hn.ctx_lt).mpr hheld)
    · exact absurd (hunused.symm.trans hused) nofun
  · rintro s ⟨hn, hqp, hheld, hempty⟩
    refine (releaseFrom_named hn (Or.inr ⟨rfl, hqp⟩) (Nat.le_refl 1)).trans (if_neg ?_)
    rintro (hne | hused)
    · exact hne ((holder_map_eq hn.ctx_lt).mpr hheld)
    · rw [hempty] at hused
      exact absurd hused nofun
  · rintro s ⟨hn, hbad⟩
    refine (releaseFrom_named hn (Or.inl rfl) (Nat.le_refl 1)).trans (if_pos ?_)
    exact hbad.imp_left (mt (holder_map_eq hn.ctx_lt).mp)

/-- Settles O49: a command that is served ends with what its work comes to; then the work of each command, by the checks of its
request. -/
theorem mailboxEvents : Obligations.MailboxEvents := by
  refine ⟨fun s cmd h => congrArg Host.Outcome.next (if_pos h), fun _ _ _ => rfl, exec_mail_otherwise, ?submit, ?abort, ?region,
    fun s die rid g hg hv hp => removeRegion_idle hg hv hp, ?pubkey, ?model, fun _ _ _ h => injectAll_one h, ?segment, ?attest,
    ?context, ?pages, ?lqcfg, ?assign⟩
  case submit =>
    exact ⟨fun hdr => (mailDoes_submit hdr).1, fun hdr => (mailDoes_submit hdr).2.1, fun hdr => (mailDoes_submit hdr).2.2,
      fun c => mailDoes_of_serve1 (fun _ => rfl) fun s ⟨hn, hr⟩ => submit_error hn hr,
      mailDoes_of_serve1 (fun _ => rfl) fun s ⟨hg, hn⟩ => submit_notFound hg hn,
      mailDoes_of_serve1 (fun _ => rfl) fun s h => submit_bad h⟩
  case abort =>
    exact ⟨mailDoes_abort.1, mailDoes_abort.2,
      fun s u id l n h hl h0 hid hlaunch hend hn hu => exec_abort_new h hl h0 hid hlaunch hend hn hu⟩
  case region =>
    refine ⟨mailDoes_of_serve1 (fun _ => rfl) fun s ⟨hl, hv, hnpg, h0, h32, hcap⟩ => setRegion_create hl hv hnpg h0 h32 hcap,
      mailDoes_of_serve1 (fun _ => rfl) fun s ⟨hl, hv⟩ => setRegion_remove hl hv,
      mailDoes_of_serve1 (fun _ => rfl) fun s h => setRegion_bad ?_⟩
    exact h.imp_right (Or.imp_right fun ⟨hv, hnpg⟩ => newRegion_bad hv hnpg)
  case pubkey =>
    exact ⟨mailDoes_of_serve1 (fun _ => rfl) fun s h => if_neg (Nat.not_le.mpr h),
      mailDoes_of_serve1 (fun _ => rfl) fun s h => if_pos h⟩
  case model =>
    exact ⟨mailDoes_of_serve1 (fun _ => rfl) fun s ⟨hf, hk⟩ => injectModel_noKey hf hk,
      fun key => mailDoes_of_serve1 (fun _ => rfl) fun s ⟨hf, hk, hv⟩ => injectModel_forged hf hk hv,
      fun key => mailDoes_of_serve1 (fun _ => rfl) fun s ⟨hf, hk, hv, hform⟩ => injectModel_holds hf hk hv hform,
      mailDoes_of_serve1 (fun _ => rfl) fun s h => injectModel_unfit h⟩
  case segment =>
    exact fun s m tag flags k pa hk hpa => ⟨fun h => injectOne_verified hk hpa h, fun h => injectOne_forged hk hpa h⟩
  case attest => exact mailDoes_of_serve1 (fun _ => rfl) fun _ _ => rfl
  case context =>
    exact ⟨mailDoes_of_serve1 (fun _ => rfl) fun s ⟨hc, h1, hl⟩ => createContext_fresh hc h1 hl,
      mailDoes_of_serve1 (fun _ => rfl) fun s h => createContext_bad h,
      fun s h hl ⟨hc, h1, hlive, hn⟩ => exec_contextDestroy_idle h hl hc h1 hlive hn,
      fun s h hl ⟨hc, h1, hlive⟩ => exec_contextDestroy_gone h hl hc h1 hlive,
      fun s h _ hb => exec_contextDestroy_bad h hb,
      fun s u h hl hc h1 hlive hu hn => exec_contextDestroy_aborting h hl hc h1 hlive hu hn,
      fun s c d n hc hd => dropContext_clears s n hc hd⟩
  case pages =>
    exact ⟨mailDoes_of_serve1 (fun _ => rfl) fun s ⟨hp, h1, hg⟩ => setPages_noLoad hp hg h1,
      fun u => mailDoes_of_serve1 (fun _ => rfl) fun s ⟨hp, h1, hg, hu⟩ => setPages_loaded hp hg h1 hu,
      mailDoes_of_serve1 (fun _ => rfl) fun s ⟨hp, h1, hg, hu⟩ => setPages_full hp hg h1 hu,
      mailDoes_of_serve1 (fun _ => rfl) fun s ⟨hp, hb⟩ => setPages_bad hp hb,
      mailDoes_of_serve1 (fun _ => rfl) fun s ⟨hp, h0, ha⟩ => setPosmap_taken hp h0 ha,
      mailDoes_of_serve1 (fun _ => rfl) fun s ⟨hp, h0⟩ => setPosmap_empty hp h0⟩
  case lqcfg =>
    exact ⟨mailDoes_of_serve1 (fun _ => rfl) fun s ⟨h, hl, hq⟩ => setQueue_written h hl hq,
      mailDoes_of_serve1 (fun _ => rfl) fun s ⟨h, hl⟩ => setQueue_notFound h hl,
      mailDoes_of_serve1 (fun _ => rfl) fun s h => h.elim setQueue_noQueue fun ⟨hl, hids, hctx⟩ => setQueue_taken hl hids hctx⟩
  case assign =>
    obtain ⟨hcounter, hqpair, hsame, hother⟩ := mailDoes_assign
    obtain ⟨hrelease, hreleaseQp, hrefused⟩ := mailDoes_assignRelease
    exact ⟨hcounter, hqpair, hsame, hother, hrelease, hreleaseQp, hrefused⟩

end Sys2Proof.Machine
end
